-- ==== Sys2Proof/Word.lean ====
section
/-! DEFINITION. The word types of the core: bytes, register words, times, tables keyed by a number. -/
namespace Sys2Proof

/-- One byte of memory, of a register file or of a message. -/
abbrev Byte := BitVec 8
/-- One register of the register port (R8). -/
abbrev W32 := BitVec 32
/-- A 64-bit value in a _LO and a _HI register (R8). -/
abbrev W64 := BitVec 64
/-- A string of bytes, the byte at the lowest address first. -/
abbrev Bytes := List Byte
/-- A sparse table: entries in ascending key order, at most one a key; an absent key has the table's default. -/
abbrev Tbl (α : Type) := List (Nat × α)
/-- A byte-addressed memory in canonical form (ascending addresses, no entry equal to the unlisted value). -/
abbrev Mem := List (Nat × BitVec 8)

end Sys2Proof
end

