-- ==== Sys2Proof/Syntax.lean ====
section
/-! DEFINITION. The commands the block takes: one constructor of `Instr` for each row of spec/opcode_table.json, with
what the outside world supplies in that step. Data that the core reads from host memory inside an indivisible step
comes with the command, because host memory lies outside the block (log entry 5). -/
namespace Sys2Proof

/-- Engine kinds, in the order of the codes 1 to 8 of R125. -/
inductive Engine where
  | pepper | saffron | hash | bignum | lattice | stateful | keyStore | entropy
  deriving DecidableEq, Repr

/-- The two paths to the registers (R576): the register port and the management pair. -/
inductive Path where
  | regPort | pair
  deriving DecidableEq, Repr

/-- A register as one of the two paths reaches it (R576). -/
structure RegPlace where
  path : Path
  offset : Nat
  deriving DecidableEq, Repr

/-- A value that one of the two paths writes (R240, R473). -/
structure PathWord where
  path : Path
  value : W32
  deriving DecidableEq, Repr

/-- What is wrong with a register-port access (R49). -/
inductive AccessShape where
  | subWord | unaligned | burst | unmapped
  deriving DecidableEq, Repr

/-- The four supply rails (R65). -/
inductive Rail where
  | vdd | vddm | vaon | vbat
  deriving DecidableEq, Repr

/-- Where an SRAM parity error lies: causes 0x20 and 0x21 of R533. -/
inductive ParityPlace where
  | scratch | keySlot
  deriving DecidableEq, Repr

/-- The core-wide parts of R547; the boundary fault names the fabric port whose datapath failed, or none for the
register port's. -/
inductive CorePart where
  | keyStore | ledger | entropy | management | boundary (port : Option Nat)
  deriving DecidableEq, Repr

/-- How a read of host memory made inside a step ended (R45, R46): data, a bad response code or a fault event. -/
inductive ReadOutcome where
  | ok (data : Bytes) | bad (code : BitVec 3) | event
  deriving DecidableEq, Repr

/-- How a write of host memory made inside a step ended. -/
inductive WriteOutcome where
  | ok | bad (code : BitVec 3) | event
  deriving DecidableEq, Repr

/-- Host memory as a mailbox command meets it (R595): its input read and its output write. -/
structure MbxIo where
  read : ReadOutcome
  write : WriteOutcome
  deriving DecidableEq, Repr

/-- The descriptor slots and completion slots that the walk of RING_RESUME reads (R597), by slot number; `failed`
when some read had a bad response or a fault event. -/
structure WalkIo where
  descriptors : Tbl Bytes
  completions : Tbl Bytes
  failed : Option ReadOutcome
  deriving DecidableEq, Repr

/-- The fields of a fault event (R46). -/
structure FaultEv where
  addr : W64
  write : Bool
  master : BitVec 16
  region : BitVec 8
  expected : BitVec 8
  found : BitVec 8
  tag : BitVec 6
  deriving DecidableEq, Repr

/-- One sample of the sensor hub (R492, R493): rails in mV, sixteen junction temperatures in units of 0.125 degrees
and sixteen port clocks in kHz. -/
structure Sample where
  vdd : Nat
  vddm : Nat
  vaon : Nat
  vbat : Nat
  temps : List (BitVec 16)
  clocks : List Nat
  deriving DecidableEq, Repr

/-- What the die and its memories show during a start after step 4 begins (R497, R502, R496, R427, R497 step 10). -/
structure StartIo where
  testFail : Option Nat
  parityError : Bool
  unreadable2 : List Nat
  unreadable3 : List Nat
  sourcesPass : List Bool
  katPass : Bool
  drbgKatPass : Bool
  deriving DecidableEq, Repr

/-- The commands, in the order of spec/opcode_table.json. -/
inductive Instr where
  /-- FABRIC_READ_RESPONSE (R45). A read data response arrives on a port's RD channel; its data is consumed or, for a bad code, the job outcome of R45 applies. -/
  | fabricReadResponse (port tag : Nat) (code : BitVec 3) (data : Bytes)
  /-- FABRIC_WRITE_RESPONSE (R45). A write response arrives on a port's WS channel, releasing the next ordered access or, for a bad code, leaving the strobed bytes undefined (R592). -/
  | fabricWriteResponse (port tag : Nat) (code : BitVec 3)
  /-- FAULT_EVENT (R46). A fault event arrives on FE and is attributed through its tag to the issuing slice. -/
  | faultEvent (port : Nat) (ev : FaultEv)
  /-- SNOOP_NOTIFICATION (R47). A snoop notification for a watched line arrives; the core answers on SA and re-reads the doorbell with WATCH set. -/
  | snoopNotification (port line : Nat)
  /-- POLL_INTERVAL_EXPIRY (R134). A polled ring's POLL_INTERVAL expires and the core reads its doorbell word. -/
  | pollIntervalExpiry (ring : Nat)
  /-- POOL_POLL_EXPIRY (R594). While a submission waits for a return-buffer pool, the core re-reads the pool producer index once per shortest POLL_INTERVAL. -/
  | poolPollExpiry (ring : Nat)
  /-- ADMISSION (R11). A waiting descriptor obtains its scratch, key slot, engine share, sequencer entry, buffer or reserve block and is accepted by writing its taken stamp. -/
  | admission (job : Nat)
  /-- JOB_DISPATCH (R163). A part of the job's kind is free and the dispatcher chooses the job or segment by class and virtual time. -/
  | jobDispatch (kind : Engine) (part : Nat)
  /-- SEGMENT_END (R167). A lane finishes a 64 KiB segment, saves the job state to its segment context and may change job. -/
  | segmentEnd (kind : Engine) (part : Nat)
  /-- ENGINE_FINISH (R185). An engine ends its computation; a grid-timed job waits for its release point. `second` names the
  second part of a job that runs on two (R289, R310). -/
  | engineFinish (job : Nat) (second : Bool)
  /-- GRID_RELEASE (R185). The Anise grid point s + m·G is reached and the job's result writes start. -/
  | gridRelease (job : Nat)
  /-- COALESCE_TIMEOUT (R144). COAL_TIME passes since the first pending NOTIFY completion and the message is sent. -/
  | coalesceTimeout (ring : Nat)
  /-- CONTEXT_WRITEBACK_TIMER (R110). The per-millisecond ring context write-back, or its retry after a failed write-back, falls due. -/
  | contextWritebackTimer (ring : Nat)
  /-- AGENT_DOORBELL (R54). An agent offers a doorbell on its link and the core accepts or refuses it. -/
  | agentDoorbell (link ring : Nat) (pidx : W32)
  /-- COMPLETION_NOTICE_TAKEN (R55). The agent raises CN_READY and takes the offered completion notice. -/
  | completionNoticeTaken (link : Nat)
  /-- QUIESCE_REQUEST (R60). FPk_QREQ rises; the core stops issuing on the port, answers notifications and re-arms watches elsewhere. -/
  | quiesceRequest (port : Nat)
  /-- QUIESCE_RELEASE (R60). FPk_QREQ falls; the core lowers FPk_QACK and resumes using the port. -/
  | quiesceRelease (port : Nat)
  /-- CLOCK_WINDOW_END (R63). A 10 µs TREF window ends and the port's edge count is judged. -/
  | clockWindowEnd (port edges : Nat)
  /-- UNFENCE (R63). A write of FPn_CTRL.UNFENCE returns a fenced port to service, or sets UNFENCE_EARLY. -/
  | unfence (port : Nat) (value : W32)
  /-- REGISTER_WRITE (R8). A register-port write to a register without its own row takes effect per its access code. -/
  | registerWrite (place : RegPlace) (value : W32)
  /-- BAD_REGISTER_ACCESS (R49). A sub-word, unaligned, burst or unmapped register access gets a bus error and has no effect. -/
  | badRegisterAccess (offset : Nat) (shape : AccessShape)
  /-- LO_REGISTER_READ (R576). A read of an RO _LO register latches its _HI half for the same path. -/
  | loRegisterRead (path : Path) (offset : Nat)
  /-- FE_ADDR_LO_READ (R583). A read of FPn_FE_ADDR_LO latches the other registers of that fault event. -/
  | feAddrLoRead (port : Nat)
  /-- S0_BIND_WRITE (R79). The first write of GLB_S0_BIND binds slice 0's PASID and colour and lets pending vectors be sent. -/
  | s0BindWrite (value : W32)
  /-- PWR_VDD_MIN_WRITE (R540). Any write to PWR_VDD_MIN sets it to the present VDD. -/
  | pwrVddMinWrite (value : W32)
  /-- VDD_HIGH (R65). VDD above 0.90 V for 10 µs sets VDD_HIGH and logs the episode once. -/
  | vddHigh (mv : Nat)
  /-- PWR_GOOD_FALL (R68). PWR_GOOD falls and the core enters shedding level Secure at once. -/
  | pwrGoodFall
  /-- RST_N_ASSERT (R69). RST_N is asserted long enough to reset the main domain, after any MRAM row write in progress. -/
  | rstNAssert (ns : Nat)
  /-- RST_N_RELEASE (R497). RST_N is released with PWR_GOOD high and the start sequence begins. -/
  | rstNRelease
  /-- LONG_RESET (R70). RST_N stays asserted beyond 60 s and the always-on domain records a long-reset event. -/
  | longReset
  /-- MACE_ASSERT (R71). MACE_N counts as asserted after 328 low AON samples and Mace is carried out once. -/
  | maceAssert
  /-- MACE_RELEASE (R71). MACE_N counts as released after 328 high samples; the core stays SAFE until the next start. -/
  | maceRelease
  /-- MACE_HELD_EPISODE (R537). MACE_N stays asserted beyond 60 s and a held episode is latched. -/
  | maceHeldEpisode
  /-- VAON_CHANGEOVER (R67). VAON crosses 0.82 V and the always-on domain changes supply between VAON and VBAT. -/
  | vaonChangeover (mv : Nat)
  /-- SLICE_CREATE (R104). Mailbox command that allots resources and puts a free slice into CREATING. -/
  | sliceCreate (io : MbxIo)
  /-- SLICE_MODIFY (R104). Mailbox command that stages new allotments and windows for the next commit. -/
  | sliceModify (io : MbxIo)
  /-- SLICE_RESET (R100). Mailbox command that aborts a slice's uncommitted work and restarts its rings at the next epoch. -/
  | sliceReset
  /-- SLICE_RESET_DONE (R101). The write responses of a slice reset's completions arrive; the slice becomes ACTIVE and the reply is placed. -/
  | sliceResetDone (slice : Nat)
  /-- SLICE_DESTROY (R104). Mailbox command that resets a slice and releases its allotments. -/
  | sliceDestroy
  /-- SLICE_RELEASE_DONE (R94). A destroying slice finishes its release and becomes FREE. -/
  | sliceReleaseDone (slice : Nat)
  /-- SLICE_QUERY (R104). Mailbox command that writes the slice's state, allotments, use and fault record. -/
  | sliceQuery (io : MbxIo)
  /-- RING_ENABLE (R111). Mailbox command that checks a ring context, advances its epoch and arms the ring. -/
  | ringEnable (io : MbxIo)
  /-- RING_DISABLE (R111). Mailbox command that stops fetching and sets the ring draining. -/
  | ringDisable
  /-- RING_DRAIN_DONE (R111). Every accepted job of a draining ring has its completion written; STATE 0 is written back. -/
  | ringDrainDone (ring : Nat)
  /-- RING_RESUME (R511). Mailbox command that walks a ring after a cold start and recovers or re-fetches its submissions. -/
  | ringResume (io : MbxIo) (walk : WalkIo)
  /-- CADENCE_START (R178). A TB_CAD_CMD START sets a ring's origin t0. -/
  | cadenceStart (ring : Nat)
  /-- CADENCE_STOP (R180). A TB_CAD_CMD STOP ends a ring's cadence and stops the period in progress. -/
  | cadenceStop (ring : Nat)
  /-- CADENCE_ORIGIN (R172). TREF reaches a waiting ring's t0 and its first period opens. -/
  | cadenceOrigin (ring : Nat)
  /-- PERIOD_END (R172). A period's scheduled end e is reached; the next period opens or the ring waits for late work. -/
  | periodEnd (ring : Nat)
  /-- CADENCE_LOST (R174). Debt plus lateness exceeds 4·T; cadence lost is reported and the grid is re-joined. -/
  | cadenceLost (ring : Nat)
  /-- TREF_STOP (R175). TREF stops; TREF_LOST is set, grid jobs hold and every cadenced ring reports cadence lost. -/
  | trefStop
  /-- TREF_RETURN (R175). TREF returns; each cadenced ring clears its debt and reopens on the grid. -/
  | trefReturn
  /-- CFG_COMMIT (R191). A write to CFG_COMMIT validates the staged configuration and snapshots the next generation. -/
  | cfgCommit (value : W32) (contexts : Tbl Bytes)
  /-- COMMIT_TAKES_EFFECT (R194). The older generation drains and the validated commit is applied, incrementing CFG_GEN and raising vector 5. -/
  | commitTakesEffect (table : ReadOutcome)
  /-- TB_GRID_DEFAULT (R189). A write of TB_GRID_DEFAULT stages the built-in default grid table. -/
  | tbGridDefault (value : W32)
  /-- NOP (R118). Control opcode that uses no engine and completes with DONE. -/
  | nop (job : Nat)
  /-- FENCE (R118). Control opcode that behaves as NOP with BARRIER and FENCE set. -/
  | fence (job : Nat)
  /-- CBC_ENC (R206). AES-CBC encryption opcode. -/
  | cbcEnc (job : Nat)
  /-- CBC_DEC (R206). AES-CBC decryption opcode. -/
  | cbcDec (job : Nat)
  /-- CFB_ENC (R206). AES-CFB128 encryption opcode. -/
  | cfbEnc (job : Nat)
  /-- CFB_DEC (R206). AES-CFB128 decryption opcode. -/
  | cfbDec (job : Nat)
  /-- OFB_ENC (R206). AES-OFB encryption opcode. -/
  | ofbEnc (job : Nat)
  /-- OFB_DEC (R206). AES-OFB decryption opcode. -/
  | ofbDec (job : Nat)
  /-- CTR_ENC (R215). AES-CTR encryption opcode. -/
  | ctrEnc (job : Nat)
  /-- CTR_DEC (R215). AES-CTR decryption opcode. -/
  | ctrDec (job : Nat)
  /-- GCM_ENC (R206). AES-GCM encryption opcode writing ciphertext and tag. -/
  | gcmEnc (job : Nat)
  /-- GCM_DEC (R220). AES-GCM decryption opcode that reports DONE_UNVERIFIED on tag mismatch. -/
  | gcmDec (job : Nat)
  /-- CCM_ENC (R216). AES-CCM encryption opcode. -/
  | ccmEnc (job : Nat)
  /-- CCM_DEC (R220). AES-CCM decryption opcode. -/
  | ccmDec (job : Nat)
  /-- XTS_ENC (R217). AES-XTS encryption opcode. -/
  | xtsEnc (job : Nat)
  /-- XTS_DEC (R217). AES-XTS decryption opcode. -/
  | xtsDec (job : Nat)
  /-- KW_WRAP (R218). AES key wrap of host data. -/
  | kwWrap (job : Nat)
  /-- KW_UNWRAP (R219). AES key unwrap that writes nothing unless its integrity check passes. -/
  | kwUnwrap (job : Nat)
  /-- KWP_WRAP (R218). AES key wrap with padding of host data. -/
  | kwpWrap (job : Nat)
  /-- KWP_UNWRAP (R219). AES key unwrap with padding, returning the recovered length. -/
  | kwpUnwrap (job : Nat)
  /-- SHA224 (R227). SHA-224 digest opcode. -/
  | sha224 (job : Nat)
  /-- SHA256 (R227). SHA-256 digest opcode. -/
  | sha256 (job : Nat)
  /-- SHA384 (R227). SHA-384 digest opcode. -/
  | sha384 (job : Nat)
  /-- SHA512 (R227). SHA-512 digest opcode. -/
  | sha512 (job : Nat)
  /-- SHA512_256 (R227). SHA-512/256 digest opcode. -/
  | sha512_256 (job : Nat)
  /-- SHA3_224 (R227). SHA3-224 digest opcode. -/
  | sha3_224 (job : Nat)
  /-- SHA3_256 (R227). SHA3-256 digest opcode. -/
  | sha3_256 (job : Nat)
  /-- SHA3_384 (R227). SHA3-384 digest opcode. -/
  | sha3_384 (job : Nat)
  /-- SHA3_512 (R227). SHA3-512 digest opcode. -/
  | sha3_512 (job : Nat)
  /-- SHAKE128 (R227). SHAKE128 extendable output opcode. -/
  | shake128 (job : Nat)
  /-- SHAKE256 (R227). SHAKE256 extendable output opcode. -/
  | shake256 (job : Nat)
  /-- CSHAKE128 (R231). cSHAKE128 opcode with N and S strings. -/
  | cshake128 (job : Nat)
  /-- CSHAKE256 (R231). cSHAKE256 opcode with N and S strings. -/
  | cshake256 (job : Nat)
  /-- KMAC128 (R227). KMAC128 MAC opcode. -/
  | kmac128 (job : Nat)
  /-- KMAC256 (R227). KMAC256 MAC opcode. -/
  | kmac256 (job : Nat)
  /-- KMAC128_VERIFY (R232). KMAC128 verification opcode. -/
  | kmac128Verify (job : Nat)
  /-- KMAC256_VERIFY (R232). KMAC256 verification opcode. -/
  | kmac256Verify (job : Nat)
  /-- HMAC_SHA224 (R235). HMAC-SHA-224 opcode using the HMAC state cache. -/
  | hmacSha224 (job : Nat)
  /-- HMAC_SHA256 (R235). HMAC-SHA-256 opcode using the HMAC state cache. -/
  | hmacSha256 (job : Nat)
  /-- HMAC_SHA384 (R235). HMAC-SHA-384 opcode using the HMAC state cache. -/
  | hmacSha384 (job : Nat)
  /-- HMAC_SHA512 (R235). HMAC-SHA-512 opcode using the HMAC state cache. -/
  | hmacSha512 (job : Nat)
  /-- HMAC_SHA512_256 (R235). HMAC-SHA-512/256 opcode using the HMAC state cache. -/
  | hmacSha512_256 (job : Nat)
  /-- HMAC_SHA224_VERIFY (R232). HMAC-SHA-224 verification opcode. -/
  | hmacSha224Verify (job : Nat)
  /-- HMAC_SHA256_VERIFY (R232). HMAC-SHA-256 verification opcode. -/
  | hmacSha256Verify (job : Nat)
  /-- HMAC_SHA384_VERIFY (R232). HMAC-SHA-384 verification opcode. -/
  | hmacSha384Verify (job : Nat)
  /-- HMAC_SHA512_VERIFY (R232). HMAC-SHA-512 verification opcode. -/
  | hmacSha512Verify (job : Nat)
  /-- HMAC_SHA512_256_VERIFY (R232). HMAC-SHA-512/256 verification opcode. -/
  | hmacSha512_256Verify (job : Nat)
  /-- MULACC (R259). Big-number primitive computing A·B + C. -/
  | mulacc (job : Nat)
  /-- MULACC_VEC (R261). Vector of up to 64 MULACC elements on one unit. -/
  | mulaccVec (job : Nat)
  /-- RSA_PSS_SIGN (R264). RSA-PSS signing of a digest. -/
  | rsaPssSign (job : Nat)
  /-- RSA_V15_SIGN (R270). RSA PKCS #1 v1.5 signing of a digest. -/
  | rsaV15Sign (job : Nat)
  /-- RSA_PSS_VERIFY (R264). RSA-PSS verification. -/
  | rsaPssVerify (job : Nat)
  /-- RSA_V15_VERIFY (R270). RSA PKCS #1 v1.5 verification. -/
  | rsaV15Verify (job : Nat)
  /-- RSA_OAEP_ENCRYPT (R264). RSA-OAEP encryption. -/
  | rsaOaepEncrypt (job : Nat)
  /-- RSA_OAEP_DECRYPT (R278). RSA-OAEP decryption reporting any decoding failure only as DONE_VERIFY_FALSE. -/
  | rsaOaepDecrypt (job : Nat)
  /-- ECDSA_SIGN (R264). ECDSA signing of a digest. -/
  | ecdsaSign (job : Nat)
  /-- ECDSA_VERIFY (R264). ECDSA verification. -/
  | ecdsaVerify (job : Nat)
  /-- EC_KEYGEN (R271). EC key generation creating a volatile key. -/
  | ecKeygen (job : Nat)
  /-- ECDH (R277). ECDH agreement with peer checks, optionally into a key. -/
  | ecdh (job : Nat)
  /-- EDDSA_SIGN (R264). EdDSA signing. -/
  | eddsaSign (job : Nat)
  /-- EDDSA_VERIFY (R281). EdDSA verification under the cofactored equation. -/
  | eddsaVerify (job : Nat)
  /-- EDDSA_BATCH_VERIFY (R283). Batch EdDSA verification returning a validity bitmap. -/
  | eddsaBatchVerify (job : Nat)
  /-- EDDSA_KEYGEN (R271). EdDSA key generation creating a volatile key. -/
  | eddsaKeygen (job : Nat)
  /-- XDH (R264). X25519 or X448 agreement. -/
  | xdh (job : Nat)
  /-- XDH_KEYGEN (R271). X25519 or X448 key generation. -/
  | xdhKeygen (job : Nat)
  /-- CURVE_LOAD (R286). Checks and loads a short Weierstrass curve as a curve record. -/
  | curveLoad (job : Nat)
  /-- CURVE_UNLOAD (R287). Removes a loaded curve record not in use. -/
  | curveUnload (job : Nat)
  /-- HYBRID_SIGN (R288). ECDSA P-384 plus ML-DSA-87 hybrid signing. -/
  | hybridSign (job : Nat)
  /-- HYBRID_VERIFY (R290). Hybrid signature verification of both parts. -/
  | hybridVerify (job : Nat)
  /-- HYBRID_KEYGEN (R289). Hybrid signature key generation. -/
  | hybridKeygen (job : Nat)
  /-- MLKEM_KEYGEN (R304). ML-KEM key generation creating a volatile key. -/
  | mlkemKeygen (job : Nat)
  /-- MLKEM_ENCAPS (R305). ML-KEM encapsulation with input key check. -/
  | mlkemEncaps (job : Nat)
  /-- MLKEM_DECAPS (R305). ML-KEM decapsulation with implicit rejection. -/
  | mlkemDecaps (job : Nat)
  /-- MLDSA_KEYGEN (R304). ML-DSA key generation. -/
  | mldsaKeygen (job : Nat)
  /-- MLDSA_SIGN (R306). Hedged ML-DSA signing in blocks of attempt slots. -/
  | mldsaSign (job : Nat)
  /-- MLDSA_VERIFY (R298). ML-DSA verification. -/
  | mldsaVerify (job : Nat)
  /-- SLHDSA_KEYGEN (R308). SLH-DSA key generation. -/
  | slhdsaKeygen (job : Nat)
  /-- SLHDSA_SIGN (R308). SLH-DSA signing on a lattice unit with four hash lanes. -/
  | slhdsaSign (job : Nat)
  /-- SLHDSA_VERIFY (R308). SLH-DSA verification. -/
  | slhdsaVerify (job : Nat)
  /-- HYKEM_KEYGEN (R309). Hybrid KEM key generation. -/
  | hykemKeygen (job : Nat)
  /-- HYKEM_ENCAPS (R310). Hybrid KEM encapsulation with the KMAC combiner. -/
  | hykemEncaps (job : Nat)
  /-- HYKEM_DECAPS (R310). Hybrid KEM decapsulation with the KMAC combiner. -/
  | hykemDecaps (job : Nat)
  /-- HBS_SIGN (R319). Stateful hash-based signing under an index from a committed reserve block. -/
  | hbsSign (job : Nat)
  /-- HBS_VERIFY (R316). Stateful hash-based signature verification. -/
  | hbsVerify (job : Nat)
  /-- HBS_STATUS (R315). Reports a stateful key's index state. -/
  | hbsStatus (job : Nat)
  /-- TREE_BUILD_DONE (R314). Background building of a lower-layer tree ends and its root signature is stored, releasing waiting signers. -/
  | treeBuildDone (handle layer : Nat)
  /-- ORD_SIGN (R325). Builds and signs an ordinal record under the next ordinal of the pair. -/
  | ordSign (job : Nat)
  /-- ORD_QUERY (R323). Returns the next ordinal of a pair. -/
  | ordQuery (job : Nat)
  /-- ORD_TARGET_CONFIG (R329). Sets a pair's block size through the next store batch. -/
  | ordTargetConfig (job : Nat)
  /-- ORD_CHECK (R330). Checks an ordinal record and raises a monotonic counter to its ordinal. -/
  | ordCheck (job : Nat)
  /-- RANDOM (R357). Generates bytes from the slice DRBG instance. -/
  | random (job : Nat)
  /-- RANDOM_PR (R357). Reseeds then generates bytes with prediction resistance. -/
  | randomPr (job : Nat)
  /-- RESEED (R357). Reseeds the slice DRBG instance. -/
  | reseed (job : Nat)
  /-- KEY_WRAP (R390). Exports an exportable key wrapped under a WRAP_ONLY key. -/
  | keyWrap (job : Nat)
  /-- KEY_UNWRAP (R591). Imports a wrapped blob as a new volatile key after integrity and header checks. -/
  | keyUnwrap (job : Nat)
  /-- KEY_DERIVE (R590). Derives a new volatile key by KMAC under a DERIVE_ONLY key. -/
  | keyDerive (job : Nat)
  /-- KEY_DESTROY (R391). Overwrites and frees a volatile key's slots and ends its jobs. -/
  | keyDestroy (job : Nat)
  /-- KEY_INFO (R389). Writes a key's header and public encoding. -/
  | keyInfo (job : Nat)
  /-- KEY_GENERATE (R389). Generates a new volatile symmetric or generic key. -/
  | keyGenerate (job : Nat)
  /-- TRANSPORT_OFFER (R398). Writes a signed transport offer for the next key-admin counter value. -/
  | transportOffer (job : Nat)
  /-- ATTEST (R411). Writes a MAK-signed attestation record. -/
  | attest (job : Nat)
  /-- ENROL (R408). KUM operation installing the first roster and generating the store master keys. -/
  | enrol (job : Nat)
  /-- COMMISSION (R400). KUM operation moving the lifecycle to SERVICE. -/
  | commission (job : Nat)
  /-- ROSTER (R400). KUM operation installing a new roster as PENDING and re-wrapping the store master keys. -/
  | roster (job : Nat)
  /-- LOAD (R400). KUM operation writing supplied material into an empty persistent record. -/
  | load (job : Nat)
  /-- GENERATE (R400). KUM operation generating a persistent key into an empty record. -/
  | generate (job : Nat)
  /-- REPLACE (R400). KUM operation replacing the material of a persistent record. -/
  | replace (job : Nat)
  /-- DESTROY (R403). KUM operation erasing a persistent key in cache, both banks and the store. -/
  | destroy (job : Nat)
  /-- ACK_LOG (R444). KUM operation acknowledging a degraded log. -/
  | ackLog (job : Nat)
  /-- POLICY (R442). KUM operation setting the full-log policy. -/
  | policy (job : Nat)
  /-- RECOVER (R410). KUM operation rebuilding the root from recovery shares. -/
  | recover (job : Nat)
  /-- MDP_START (R242). MDP_CMD START claims the measurement digest port for an owner. -/
  | mdpStart (path : Path) (cmd : W32)
  /-- MDP_DATA (R244). A write to MDP_DATA appends 4 bytes and may start a block compression. -/
  | mdpData (path : Path) (word : W32)
  /-- MDP_FINAL (R247). MDP_CMD FINAL pads and compresses the last blocks. -/
  | mdpFinal (path : Path) (cmd : W32)
  /-- MDP_ABORT (R246). MDP_CMD ABORT clears the port for its owner. -/
  | mdpAbort (path : Path) (cmd : W32)
  /-- MDP_BUSY_END (R244). A block compression, HMAC start or final ends and the port returns to OPEN or reaches DONE. -/
  | mdpBusyEnd
  /-- MDP_IDLE_LIMIT (R249). The owner writes nothing for MDP_IDLE_LIMIT µs and the port aborts. -/
  | mdpIdleLimit
  /-- MDP_EXT_LOCK_WRITE (R251). The first write of MDP_EXT_LOCK locks slots M4 to M7. -/
  | mdpExtLockWrite (word : PathWord)
  /-- MDP_RESULT_READ (R248). A read of MDP_RESULT in OPEN or BUSY returns zero and sets EARLY_READ. -/
  | mdpResultRead (path : Path) (index : Nat)
  /-- ENTROPY_STARTUP_TEST_END (R338). A source's 1,024 start-up bits are judged and the source becomes HEALTHY or fails. -/
  | entropyStartupTestEnd (source : Nat) (pass : Bool)
  /-- REPETITION_COUNT_FAILURE (R340). 41 equal raw bits fail the source's repetition count test and it restarts testing. -/
  | repetitionCountFailure (source : Nat)
  /-- ADAPTIVE_PROPORTION_FAILURE (R340). A window count reaches 800 and the source restarts testing. -/
  | adaptiveProportionFailure (source : Nat)
  /-- CONDITIONED_BLOCK (R342). The conditioner finishes a 384-bit block from 2,048 raw bits. -/
  | conditionedBlock (katPass drbgKatPass : Bool)
  /-- INTERNAL_RESEED (R355). The internal DRBG's 100 µs or 2^16-request reseed interval falls due. -/
  | internalReseed
  /-- ENT_SRC_MASK_WRITE (R361). The first write of ENT_SRC_MASK sets masked sources OFF. -/
  | entSrcMaskWrite (value : W32)
  /-- LEDGER_COMMIT_DONE (R417). A ledger record's body and markers are written and verified, releasing the effect it announces. -/
  | ledgerCommitDone (bank2 bank3 : Bool)
  /-- MRAM_REFRESH (R432). The 30-day powered-time refresh of banks 2, 3 and the idle image bank falls due. -/
  | mramRefresh
  /-- POWERED_TIME_MOVE (R424). The hourly move of counter 13 falls due. -/
  | poweredTimeMove
  /-- ARCHIVE_RETRY (R441). The one-second retry of an audit archive to an unanswering store falls due. -/
  | archiveRetry
  /-- LOG_RATE_SECOND (R443). The per-second rate limit window ends and SUPPRESSED records are written. -/
  | logRateSecond
  /-- PERSIST_STATUS (R440). Mailbox command writing the persistence status block. -/
  | persistStatus (io : MbxIo)
  /-- LOG_EXPORT (R439). Mailbox command writing audit records with a signed batch statement. -/
  | logExport (io : MbxIo)
  /-- STORE_ATTACH (R457). Mailbox command attaching the store ring pair. -/
  | storeAttach (io : MbxIo)
  /-- STORE_DETACH (R468). Mailbox command detaching the store and aborting the open batch. -/
  | storeDetach
  /-- STORE_STATUS (R468). Mailbox command writing store status. -/
  | storeStatus (io : MbxIo)
  /-- STORE_FORMAT (R469). Mailbox command committing an empty root and trimming every physical block. -/
  | storeFormat
  /-- STORE_SNAPSHOT (R468). Mailbox command copying a ledger snapshot out in clear. -/
  | storeSnapshot (io : MbxIo) (content : Bytes)
  /-- BATCH_START (R328). A store batch starts at 4,096 requests or 1 ms after its first request, sealing and writing objects. -/
  | batchStart
  /-- STORE_RESPONSE (R459). A store response entry is taken from the response ring. -/
  | storeResponse (rid : Nat) (status : Byte) (data : Bytes)
  /-- STORE_TIMEOUT (R465). A store request has no response after TIMEOUT_MS and its dependent work ends. -/
  | storeTimeout (rid : Nat)
  /-- MBX_REQ_SUBMIT (R482). A write to MBX_REQ_SUBMIT queues the staged request. -/
  | mbxReqSubmit (value : W32)
  /-- MBX_RPL_POP (R482). A write to MBX_RPL_POP removes the oldest reply. -/
  | mbxRplPop (value : W32)
  /-- UNKNOWN_COMMAND (R483). A command code with no command is answered UNKNOWN_COMMAND. -/
  | unknownCommand
  /-- PING (R484). Mailbox command returning MBX_HEARTBEAT. -/
  | ping
  /-- UPDATE_WRITE (R489). Mailbox command writing part of a package into the idle image bank. -/
  | updateWrite (io : MbxIo)
  /-- UPDATE_CHECK (R490). Mailbox command checking the staged package. -/
  | updateCheck
  /-- UPDATE_ACTIVATE (R491). Mailbox command activating a checked package under a ledger intent. -/
  | updateActivate
  /-- UPDATE_ABANDON (R484). Mailbox command clearing the bank header and update state. -/
  | updateAbandon
  /-- SENSOR_READ (R493). Mailbox command writing the sensor block. -/
  | sensorRead (io : MbxIo)
  /-- SENSOR_SAMPLE (R492). The firmware's per-millisecond sensor hub sample falls due. -/
  | sensorSample (sample : Sample)
  /-- MBX_MGMT_RESTART (R477). A write to MBX_MGMT_RESTART restarts the management pair. -/
  | mbxMgmtRestart (value : W32)
  /-- WATCHDOG_EXPIRY (R477). The watchdog limit passes without a kick and the pair restarts. -/
  | watchdogExpiry
  /-- PAIR_HALT (R476). The pair halts on a nested or impossible double fault and is restarted at once. -/
  | pairHalt (pc sp : W64) (cause : Byte)
  /-- DOUBLE_FAULT (R475). A stacked trap entry check fails and the pair enters the double-fault handler on the fault stack. -/
  | doubleFault (pc sp : W64) (cause : Byte)
  /-- LOCKSTEP_MISMATCH (R471). The comparator finds a mismatch; a Class B alarm follows with KEYPATH set, then a restart. -/
  | lockstepMismatch (pc sp : W64)
  /-- RESTART_COMPLETE (R478). The pair's image copy and check end, the pair is released and interrupted commands run again. -/
  | restartComplete (digestsMatch : Bool)
  /-- SELF_TEST_PRECONDITION_MET (R501). VDD and junction temperature enter range and the start continues from its self-test to DONE. -/
  | selfTestPreconditionMet (start : StartIo)
  /-- SELF_TEST_TIMEOUT (R501). The precondition is not met within 10 s and the core enters SAFE with fail code 0x01. -/
  | selfTestTimeout
  /-- ROOT_DRAW (R407). With the root absent, entropy becomes AVAILABLE and a new root secret is drawn. -/
  | rootDraw
  /-- PART_TEST_START (R503). The in-service self-test rotation fences the next part for testing. -/
  | partTestStart (kind : Engine) (part : Nat)
  /-- PART_TEST_END (R503). A part's self-test ends; it returns to service or stays fenced. -/
  | partTestEnd (kind : Engine) (part : Nat) (pass : Bool)
  /-- SHEDDING_LEVEL_DOWN (R516). A falling supply condition holds for its dwell and the shedding level drops. -/
  | sheddingLevelDown (vdd vddm : Nat)
  /-- SHEDDING_LEVEL_UP (R515). VDD stays above threshold plus hysteresis for the dwell and the level rises. -/
  | sheddingLevelUp (vdd vddm : Nat)
  /-- MONITOR_SELF_TEST (R519). A supply monitor's 10 s self-test falls due. -/
  | monitorSelfTest (rail : Rail) (pass : Bool)
  /-- LIGHT_EVENT (R525). A light sensor reports light under main power. -/
  | lightEvent (sensor : Nat)
  /-- LIGHT_SAMPLE_WINDOW (R524). On battery the 250 ms light sampling window runs and judges the sensors. -/
  | lightSampleWindow (sensors : List Nat)
  /-- LIGHT_SENSOR_SELF_TEST (R526). A light sensor's 10 s self-test falls due. -/
  | lightSensorSelfTest (sensor : Nat) (pass : Bool)
  /-- VBAT_LOW (R527). VBAT stays below 2.0 V for 1 s while VAON is present. -/
  | vbatLow
  /-- AON_GAP (R529). The AON clock stops for more than 1 ms and a gap is latched. -/
  | aonGap
  /-- SRAM_PARITY_ERROR (R533). A parity error is found in a slice's scratch or key cache slot. -/
  | sramParityError (slice : Nat) (place : ParityPlace)
  /-- CODEWORD_FAULT (R543). A part consumes a dual-rail codeword with both rails high and is fenced. -/
  | codewordFault (kind : Engine) (part : Nat)
  /-- STALL_FAULT (R542). A part's handshake makes no progress for 1 ms and it reports a stall fault. -/
  | stallFault (kind : Engine) (part : Nat)
  /-- CORE_WIDE_PART_FAULT (R547). A first fault of a core-wide part is recovered in place. -/
  | coreWidePartFault (part : CorePart)
  /-- MIRROR_JOIN (R556). Mailbox command joining a mirror group by charter and sending JOIN_OFFERs. -/
  | mirrorJoin (io : MbxIo)
  /-- MIRROR_LEAVE (R571). Mailbox command sending LEAVE and leaving the group. -/
  | mirrorLeave
  /-- MIRROR_TAKE (R561). Mailbox command writing waiting outbound mirror messages. -/
  | mirrorTake (io : MbxIo)
  /-- MIRROR_JOURNAL (R567). Mailbox command queueing a JOURNAL_ENTRY on the leader for a behind member. -/
  | mirrorJournal (io : MbxIo)
  /-- MIRROR_STATUS (R561). Mailbox command writing mirror status. -/
  | mirrorStatus (io : MbxIo)
  /-- JOIN_OFFER (R556). Received join offer is checked and answered with JOIN_ACCEPT or JOIN_REFUSED. -/
  | joinOffer (io : MbxIo)
  /-- JOIN_ACCEPT (R557). Received join acceptance yields the pair key. -/
  | joinAccept (io : MbxIo)
  /-- JOIN_REFUSED (R569). Received refusal of a join offer. -/
  | joinRefused (io : MbxIo)
  /-- LEASE_REQUEST (R562). Received leadership lease request is granted or refused. -/
  | leaseRequest (io : MbxIo)
  /-- LEASE_GRANT (R562). Received lease grant counts toward a majority. -/
  | leaseGrant (io : MbxIo)
  /-- HEARTBEAT (R562). Received leader heartbeat with counter 0 and time. -/
  | heartbeat (io : MbxIo)
  /-- BLOCK_REQUEST (R564). The leader receives a reserve block request and sends BLOCK_RECORDs. -/
  | blockRequest (io : MbxIo)
  /-- BLOCK_RECORD (R564). A member commits the new end in its store batch and answers BLOCK_ACK. -/
  | blockRecord (io : MbxIo)
  /-- BLOCK_ACK (R564). The leader counts an acknowledgement and grants once a majority has committed. -/
  | blockAck (io : MbxIo)
  /-- BLOCK_GRANT (R564). The requester receives a granted block and may issue from it. -/
  | blockGrant (io : MbxIo)
  /-- END_LOOKUP (R565). A member receives a lookup and replies with its committed end. -/
  | endLookup (io : MbxIo)
  /-- END_REPLY (R565). A new leader receives a committed end for its first grant in a term. -/
  | endReply (io : MbxIo)
  /-- JOURNAL_REQUEST (R567). The leader receives a behind member's counter 0. -/
  | journalRequest (io : MbxIo)
  /-- JOURNAL_ENTRY (R567). A behind member applies a KUM with the carried record state. -/
  | journalEntry (io : MbxIo)
  /-- TIME (R560). A TIME request is answered or a reply yields the offset to the leader's TREF. -/
  | time (io : MbxIo)
  /-- LEAVE (R571). Received notice that a member left the group. -/
  | leave (io : MbxIo)
  /-- HEARTBEAT_TIMEOUT (R562). No HEARTBEAT for LEASE_MS plus the index delay and the member becomes a candidate. -/
  | heartbeatTimeout
  /-- LEASE_RENEWAL (R562). The leader's LEASE_MS/4 renewal falls due. -/
  | leaseRenewal
  /-- MESSAGE_REPEAT (R558). An unanswered mirror request is repeated after LEASE_MS/4 with a new PAIR_CTR. -/
  | messageRepeat (peer : Nat)
  /-- TIME_REQUEST_TIMER (R560). The once-per-second TIME request to the leader falls due. -/
  | timeRequestTimer
  /-- BLOCK_GRANT_TIMEOUT (R565). A descriptor waiting for a block gets no grant within 1 s and ends with NO_RIGHT. -/
  | blockGrantTimeout (job : Nat)
  /-- BEHIND_HOLD_TIMEOUT (R568). A descriptor held while BEHIND is still held after 1 s and ends with NO_RIGHT. -/
  | behindHoldTimeout (job : Nat)
  /-- BATTERY_REMOVAL (R528). VAON and VBAT are both absent, so battery-backed memory loses the root secret, canary, latches and emergency log and the main domain is held in reset. -/
  | batteryRemoval
  /-- LEDGER_CREDIT_GAIN (R422). The ledger credit gains records with TREF time, which clears THROTTLED and lets operations that wait for a commit be accepted again. -/
  | ledgerCreditGain
  /-- CMD_INVALID (R241). A write of MDP_CMD with an undefined CMD value has no effect except setting CMD_INVALID. -/
  | cmdInvalid (word : PathWord)
  /-- LEASE_EXPIRY (R562). A leader's lease reaches 0.999 × LEASE_MS after its request without a renewed majority, and the core stops acting as leader. -/
  | leaseExpiry
  /-- GRANT_EXPIRY (R562). A member's grant reaches LEASE_MS after it was sent and lapses, so the member may grant a lease for a later term. -/
  | grantExpiry
  /-- STORE_INTERRUPT_WINDOW (R458). The 10 µs window after a store-ring interrupt message ends, and a deferred message for requests written meanwhile is sent. -/
  | storeInterruptWindow
  /-- MIRROR_VECTOR_WINDOW (R561). The 10 µs window after a manager vector 14 ends while mirror messages still wait, and the vector is raised again. -/
  | mirrorVectorWindow
  /-- MBX_HEARTBEAT_INCREMENT (R481). Once per millisecond of TREF time the firmware increments MBX_HEARTBEAT. -/
  | mbxHeartbeatIncrement
  deriving DecidableEq, Repr

end Sys2Proof
end

