-- ==== Sys2Proof/Config.lean ====
section
/-! DEFINITION. What one die or one environment fixes, and the free values: constants with no body, so that no proof
can see what they are (log entries 2, 3, 4). -/
namespace Sys2Proof.Config

/-- A choice the spec leaves to the core (which port, which tag, which key slot run): the n-th choice made. FREE. -/
opaque freeNat : Nat → Nat
/-- A byte the spec calls undefined or does not give: byte i of the n-th such value. FREE. -/
opaque freeByte : Nat → Nat → BitVec 8
/-- Byte i of the raw noise of source n (R335 to R342), from which every random value follows through the conditioner and a
DRBG instance. FREE. -/
opaque rawByte : Nat → Nat → BitVec 8
/-- Byte i of the fuse unique secret of this die (R25, OTP bits [255:0]). FREE, fixed for the die. -/
opaque fuseSecretByte : Nat → BitVec 8
/-- Byte i of the SHA-384 digest of the 128 KiB boot ROM of this die (R497 step 5). FREE, fixed for the die. -/
opaque bootRomDigestByte : Nat → BitVec 8
/-- Byte i of the vendor key digest in the boot ROM (R487). FREE, fixed for the die. -/
opaque vendorDigestByte : Nat → BitVec 8

/-- Level of the SN_CAPABLE strap of port k (R48). FREE, fixed for the chip. -/
opaque snCapable : Nat → Bool

/-! ## Private stateful keys

R379 gives the material of a stateful private key as 80 bytes of seed and identifier; the spec states neither how the secrets of
each tree follow from those bytes nor how the randomiser of a parent's signature follows from the parent's seed and index (log
entry 4). The output of each is cut or extended to the length it needs where the function is used. -/

/-- A secret of a tree: algorithm, parameter, material, which secret, layer, tree. FREE. -/
opaque treeSecret : Nat → Nat → Bytes → Nat → Nat → Nat → Bytes
/-- The randomiser of a parent's signature of a new root (R314): the parent's seed and index. FREE. -/
opaque rootRandomiser : Bytes → Nat → Bytes

/-- How many blocks of R306 a signature takes beyond 257 when its first 256 all fail, by draw. FREE. -/
opaque mldsaExtraBlocks : Nat → Nat
/-- Byte i of that signature, by draw. FREE. -/
opaque mldsaLateByte : Nat → Nat → BitVec 8
/-- Whether a private-key result check of R275 fails on one run: draw number. FREE. -/
opaque resultCheckFails : Nat → Bool

/-- Whether the read-back of a destroyed record does not match in some bank (R404): number of the destroy. FREE. -/
opaque destroyFails : Nat → Bool

/-- Byte i of DATA of an audit record (R435): code, the facts that the event has to tell. FREE. -/
opaque auditByte : Nat → Bytes → Nat → BitVec 8

/-- Byte i of the output block of SLICE_QUERY (R104), whose layout the spec does not give: the facts that the block tells. FREE. -/
opaque queryByte : Bytes → Nat → BitVec 8

/-- CODE of the log record of a VDD_HIGH episode (R65), which the table of R437 does not give. FREE. -/
opaque vddHighCode : BitVec 16

/-- CODE of the log record of a TREF offset above 1 ms (R569), which R437 does not list. FREE. -/
opaque skewCode : BitVec 16

/-- Whether the MAK certificate that a JOIN_OFFER carries verifies under the DIK behind a DID (R556, R569): the offer carries no
DIK public key, so the check is left open. FREE. -/
opaque makCertOk : Bytes → Bytes → Bool

end Sys2Proof.Config
end

