-- ==== Sys2Proof/Machine/Bits.lean ====
section
/-! DEFINITION. Byte strings, bit fields and sparse tables: the helpers every meaning uses. Integers are little-endian
in host memory (R7) unless a format says big-endian. -/
namespace Sys2Proof.Machine

/-- Value of a table at a key, `d` where it has no entry. -/
def look {α : Type} (t : Tbl α) (k : Nat) (d : α) : α :=
  match t with
  | [] => d
  | (k', v) :: r => if k' = k then v else look r k d

/-- Value of a table at a key, none where it has no entry. -/
def look? {α : Type} (t : Tbl α) (k : Nat) : Option α :=
  match t with
  | [] => none
  | (k', v) :: r => if k' = k then some v else look? r k

/-- Sets the entry of a key, keeping the keys ascending. -/
def put {α : Type} (t : Tbl α) (k : Nat) (v : α) : Tbl α :=
  match t with
  | [] => [(k, v)]
  | (k', v') :: r =>
    if k < k' then (k, v) :: (k', v') :: r
    else if k' = k then (k, v) :: r
    else (k', v') :: put r k v

/-- Removes the entry of a key. -/
def del {α : Type} (t : Tbl α) (k : Nat) : Tbl α := t.filter (fun e => e.1 != k)

/-- Adds one to a count of a table, saturating at `m`. -/
def bump (t : Tbl Nat) (k m : Nat) : Tbl Nat := put t k (min m (look t k 0 + 1))

/-- Saturating increment of a counter of `bits` bits. -/
def satInc (bits n : Nat) : Nat := min (2 ^ bits - 1) (n + 1)

/-- `n` bytes of `v`, least significant first. -/
def leBytes : Nat → Nat → Bytes
  | 0, _ => []
  | n + 1, v => BitVec.ofNat 8 v :: leBytes n (v / 256)

/-- `n` bytes of `v`, most significant first. -/
def beBytes (n v : Nat) : Bytes := (leBytes n v).reverse

/-- The number a byte string spells, least significant byte first. -/
def leNat : Bytes → Nat
  | [] => 0
  | b :: r => b.toNat + 256 * leNat r

/-- The number a byte string spells, most significant byte first. -/
def beNat (bs : Bytes) : Nat := bs.foldl (fun a b => 256 * a + b.toNat) 0

/-- `len` bytes from offset `off`. -/
def subBytes (bs : Bytes) (off len : Nat) : Bytes := (bs.drop off).take len

/-- The little-endian field of `len` bytes at offset `off`; absent bytes read as zero. -/
def field (bs : Bytes) (off len : Nat) : Nat := leNat (subBytes bs off len)

/-- `n` zero bytes. -/
def zeros (n : Nat) : Bytes := List.replicate n 0

/-- Exactly `n` bytes: cut, or extended by zero bytes. -/
def fit (n : Nat) (bs : Bytes) : Bytes := (bs ++ zeros (n - bs.length)).take n

/-- Zero padding of a string to a multiple of `n`. -/
def padMul (n : Nat) (bs : Bytes) : Bytes := bs ++ zeros ((n - bs.length % n) % n)

/-- Whether every byte of a range is zero. -/
def allZero (bs : Bytes) : Bool := bs.all (fun b => b == 0)

/-- Bitwise exclusive or of two strings, as long as the shorter. -/
def xorBytes : Bytes → Bytes → Bytes
  | a :: as, b :: bs => (a ^^^ b) :: xorBytes as bs
  | _, _ => []

/-- Bit `i` of a number. -/
def bit (n i : Nat) : Bool := n.testBit i

/-- Bits `hi` to `lo` of a number. -/
def bits (n hi lo : Nat) : Nat := (n / 2 ^ lo) % 2 ^ (hi + 1 - lo)

/-- One for true. -/
def b2n (b : Bool) : Nat := if b then 1 else 0

/-- Quotient rounded up. -/
def ceilDiv (a b : Nat) : Nat := (a + b - 1) / b

/-- Number of set bits among the low `n`. -/
def popCount (n v : Nat) : Nat := (List.range n).countP (fun i => v.testBit i)

/-- Replaces the bytes of `bs` from `off` on by `new`, extending it with zeros. -/
def overlay (bs : Bytes) (off : Nat) (new : Bytes) : Bytes :=
  fit off bs ++ new ++ bs.drop (off + new.length)

/-- Cuts a string into pieces of `n` bytes (the last may be shorter); `k` bounds the number of pieces. -/
def piecesFuel (n : Nat) : Nat → Bytes → List Bytes
  | 0, _ => []
  | _ + 1, [] => []
  | k + 1, b :: bs => (b :: bs).take n :: piecesFuel n k ((b :: bs).drop n)

/-- Cuts a string into pieces of `n` bytes, the last possibly shorter. -/
def pieces (n : Nat) (bs : Bytes) : List Bytes := piecesFuel n (bs.length / n + 1) bs

/-- ASCII bytes of a text. -/
def ascii (t : String) : Bytes := t.toList.map (fun c => BitVec.ofNat 8 c.toNat)

/-- Byte of a sparse memory; an unlisted address reads as zero (log entry 8). -/
def memRead (m : Mem) (a : Nat) : BitVec 8 := look m a 0

/-- Write of one byte that keeps the memory's canonical form. -/
def memWrite (m : Mem) (a : Nat) (b : BitVec 8) : Mem := if b = 0 then del m a else put m a b

/-- Write of a string of bytes from an address upwards. -/
def memWriteBytes : Mem → Nat → Bytes → Mem
  | m, _, [] => m
  | m, a, b :: r => memWriteBytes (memWrite m a b) (a + 1) r

/-- `n` bytes from an address upwards. -/
def memReadBytes (m : Mem) (a n : Nat) : Bytes := (List.range n).map (fun i => memRead m (a + i))

/-- Whether a sparse memory is in canonical form: addresses strictly ascending, no listed zero. -/
def memWf : Mem → Bool
  | [] => true
  | [(_, b)] => b != 0
  | (a, b) :: (a', b') :: r => b != 0 && decide (a < a') && memWf ((a', b') :: r)

end Sys2Proof.Machine
end

