-- ==== Sys2Proof/Machine/State.lean ====
section
/-! DEFINITION. The state of the block: every register, table, queue, memory and pin the spec gives the core, as plain
data. The value after `:=` is the field's value in `State.reset`: the main domain held in reset by RST_N after its
first power-up, a factory-fresh die, PWR_GOOD high (log entry 6). Widths of register fields are those of the cited
rule; counts are numbers with the stated saturation. -/
namespace Sys2Proof.Machine

/-! ## Fabric ports (02_boundary, 18_register_reference) -/

/-- One recorded fault event with the slice it was attributed to (R46, R582). -/
structure FeRec where
  ev : FaultEv := { addr := 0, write := false, master := 0, region := 0, expected := 0, found := 0, tag := 0 }
  slice : BitVec 8 := 0
  deriving DecidableEq, Repr

/-- One fabric port FPk (R38, R60, R63, R64, R582). -/
structure Port where
  /-- Level of FPk_QREQ; 1 bit; R60. -/
  qreq : Bool := false
  /-- Level of FPk_QACK; 1 bit; R60. -/
  qack : Bool := false
  /-- The port is fenced; 1 bit; R63, R64, R541. -/
  fenced : Bool := false
  /-- FPn_STATUS.LATE_EVENT; 1 bit; R582. -/
  lateEvent : Bool := false
  /-- FPn_STATUS.DATAPATH_FAULT; 1 bit; R582. -/
  datapathFault : Bool := false
  /-- FPn_STATUS.UNFENCE_EARLY; 1 bit; R63. -/
  unfenceEarly : Bool := false
  /-- FPn_STATUS.CLOCK_LOST; 1 bit; R64. -/
  clockLost : Bool := false
  /-- FPn_STATUS.OVERFREQ; 1 bit; R63. -/
  overFreq : Bool := false
  /-- FPn_FMAX, MHz; 11 bits; R582. -/
  fmax : Nat := 1600
  /-- The lock of FPn_FMAX; 1 bit; R575. -/
  fmaxLocked : Bool := false
  /-- The limit in force for the present 10 us window (R583); 11 bits. -/
  fmaxInForce : Nat := 1600
  /-- FPn_CLK_COUNT; 32 bits; R582. -/
  clkCount : Nat := 0
  /-- Consecutive windows in limit since the fence, at most 3; R63. -/
  okWindows : Nat := 0
  /-- FPn_ERR_COUNT[31:16], bad RD responses; 16 bits saturating; R582. -/
  errRead : Nat := 0
  /-- FPn_ERR_COUNT[15:0], bad WS responses; 16 bits saturating; R582. -/
  errWrite : Nat := 0
  /-- FPn_FE_COUNT; 32 bits saturating; R582. -/
  feCount : Nat := 0
  /-- The latest fault event; R582. -/
  fe : FeRec := {}
  /-- The fault event latched by the last read of FPn_FE_ADDR_LO; R583. -/
  feLatch : FeRec := {}
  deriving DecidableEq, Repr

/-- Operand ranges of a job, in the order in which the core reads them (R116, R269). -/
inductive Range where
  | param | context | src | pubkey | label | message (entry : Nat) | verifySig | dest
  deriving DecidableEq, Repr

/-- What a fabric transaction is for; decides what its response does (R121, R126, R133, R194, R457 to R460). -/
inductive Purpose where
  | doorbell (ring : Nat) (drain : Bool)
  | rearm (ring fromPort : Nat)
  | poolHeader (slice base : Nat)
  | poolIndex (slice base : Nat)
  | poolEntry (ring : Nat)
  | fetch (ring : Nat) (index : Nat)
  | operand (job : Nat) (range : Range) (offset : Nat)
  | stamp (job : Nat) (step : Nat)
  | result (job : Nat)
  | phase (job : Nat)
  | taken (job : Nat) (step : Nat)
  | body (job : Nat)
  | head (job : Nat)
  | interrupt (vector : Nat)
  | writeback (ring : Nat)
  | poolWrite (slice base : Nat)
  | storeBuffer (rid : Nat)
  | storeBody (rid : Nat)
  | storeHead (rid : Nat)
  | storeIndex (rid : Nat)
  deriving DecidableEq, Repr

/-- One request of the core on a fabric port with its header (R41), outstanding until its response. -/
structure Txn where
  port : Nat := 0
  tag : Nat := 0
  isWrite : Bool := false
  addr : Nat := 0
  len : Nat := 0
  pasid : BitVec 20 := 0
  colour : BitVec 8 := 0
  slice : Nat := 0
  watch : Bool := false
  ordered : Bool := false
  kind : BitVec 2 := 0
  data : Bytes := []
  purpose : Purpose := .storeIndex 0
  /-- A fault event for this transaction has arrived (R46). -/
  eventSeen : Bool := false
  /-- The read is re-run elsewhere; its late data is sunk (R64). -/
  sunk : Bool := false
  deriving DecidableEq, Repr

/-- One armed watch (R47): the 64-byte line, the port it was armed through, the ring that wants it. -/
structure Watch where
  port : Nat
  line : Nat
  ring : Nat
  deriving DecidableEq, Repr

/-- A register-port access that the chip holds while FP0 is quiesced (R51): the row it makes, with its operands. -/
inductive Held where
  | cadenceStart (ring : Nat)
  | cadenceStop (ring : Nat)
  | cfgCommit (value : W32) (contexts : Tbl Bytes)
  | tbGridDefault (value : W32)
  | entSrcMaskWrite (value : W32)
  | mbxReqSubmit (value : W32)
  | mbxRplPop (value : W32)
  | mdpStart (path : Path) (cmd : W32)
  | mdpData (path : Path) (word : W32)
  | mdpFinal (path : Path) (cmd : W32)
  | mdpAbort (path : Path) (cmd : W32)
  | cmdInvalid (value : W32)
  | mdpExtLockWrite (value : W32)
  | mdpResultRead (path : Path) (index : Nat)
  | mbxMgmtRestart (value : W32)
  | unfence (port : Nat) (value : W32)
  | registerWrite (offset : Nat) (value : W32)
  | badRegisterAccess (offset : Nat) (shape : AccessShape)
  | loRegisterRead (path : Path) (offset : Nat)
  | feAddrLoRead (port : Nat)
  | s0BindWrite (value : W32)
  | pwrVddMinWrite (value : W32)
  deriving DecidableEq, Repr

/-- The last transaction of a tag: its slice and what it was for (R46). -/
structure LastUse where
  slice : Nat
  purpose : Purpose
  deriving DecidableEq, Repr

/-- The fabric side of the core. -/
structure Fabric where
  /-- FP0 to FP15, absent entries at their reset values; R37, R582. -/
  ports : Tbl Port := []
  /-- Outstanding requests, at most 32 reads and 64 writes a port; R44. -/
  txns : List Txn := []
  /-- Requests the core wants to make and no port can take yet; R44, R62. -/
  unissued : List Txn := []
  /-- Armed watches; R47. -/
  watches : List Watch := []
  /-- Last user of each (port, write, tag), key port*128 + write*64 + tag; R46. -/
  lastTag : Tbl LastUse := []
  /-- Doorbell words to re-read as soon as any port returns to service (rings); R61. -/
  rereads : List Nat := []
  /-- Register-port accesses that the chip holds while FP0 is quiesced, oldest first; R51, R60. -/
  heldAccess : List Held := []
  deriving DecidableEq, Repr

/-! ## Interrupt vectors and agent links (02_boundary) -/

/-- One vector table entry (R56). -/
structure VecEntry where
  addr : Nat
  data : W32
  mask : Bool
  deriving DecidableEq, Repr

/-- Interrupt state (R56 to R58, R579). -/
structure Interrupts where
  /-- The cached vector table, none until a commit loads one; 1,024 entries; R56, R58. -/
  table : Option (List VecEntry) := none
  /-- Vectors with a pending event; R58. -/
  pendingVectors : List Nat := []
  /-- GLB_VEC_ERR_COUNT; 32 bits saturating; R58. -/
  errCount : Nat := 0
  /-- GLB_MGR_EVENT; 15 bits; R579. -/
  mgrEvent : BitVec 15 := 0
  deriving DecidableEq, Repr

/-- One agent link (R52 to R55, R584). -/
structure Link where
  /-- The completion notice offered on CN, ring and index; R55. -/
  offered : Option (Nat × W32) := none
  /-- Notices waiting behind it, at most one a ring; R55. -/
  waiting : Tbl W32 := []
  /-- A doorbell held while the port quiesces; R53. -/
  held : Option (Nat × W32) := none
  /-- AL_k_STATUS.REFUSED_DISABLED; 8 bits saturating; R584. -/
  refusedDisabled : Nat := 0
  /-- AL_k_STATUS.REFUSED_RING; 8 bits saturating; R584. -/
  refusedRing : Nat := 0
  deriving DecidableEq, Repr

/-- Answer of DB_RESULT (R52). -/
inductive DbResult where
  | accepted | refusedRing | refusedAbsent | refusedDisabled
  deriving DecidableEq, Repr

/-- What has crossed the boundary outwards at once, oldest last; the model's own trace of the core's outputs that are
no fabric transaction (log entry 7). -/
inductive Out where
  /-- An answer on SA (R47). -/
  | snoopAnswer (port line : Nat)
  /-- The DB_ACK pulse with its result (R53). -/
  | dbAck (link : Nat) (result : DbResult)
  /-- A response of the register port to a read or write: value, bus error or ABSENT (R49, R73). -/
  | regValue (value : W32)
  | regOk
  | regBusError
  /-- The guard's answer ABSENT with its data, all ones (R73). -/
  | regAbsent (data : W32)
  /-- Host memory read or written inside a step by a mailbox command, a ring walk or a commit, with the slice, PASID and colour
  that the requests carry (R42, R56, R104, R439, R468, R493, R561, R597). -/
  | hostRead (addr len slice : Nat) (pasid : BitVec 20) (colour : BitVec 8)
  | hostWrite (addr : Nat) (data : Bytes) (slice : Nat) (pasid : BitVec 20) (colour : BitVec 8)
  deriving DecidableEq, Repr

/-! ## Slices (03_slices) -/

/-- One DMA window: base address, size in 4 KiB pages, permissions (R89, R107). -/
structure Window where
  base : Nat := 0
  pages : Nat := 0
  read : Bool := false
  write : Bool := false
  deriving DecidableEq, Repr

/-- The allotments of a slice (R85, R107); weights and caps in the order Pepper, Saffron, hash, big-number, lattice. -/
structure Allot where
  firstRing : Nat := 0
  ringCount : Nat := 0
  firstVector : Nat := 0
  vectorCount : Nat := 0
  firstCounter : Nat := 0
  counterCount : Nat := 0
  watchCount : Nat := 0
  keySlots : Nat := 0
  ordinalEntries : Nat := 0
  scratchGuarantee : Nat := 0
  scratchLimit : Nat := 0
  weights : List Nat := []
  caps : List Nat := []
  deriving DecidableEq, Repr

/-- Slice states (R94). -/
inductive SliceSt where
  | free | creating | active | faulted | resetting | destroying
  deriving DecidableEq, Repr

/-- Completion that could not be written, kept in SLC_n_FAULT (R97, R586). -/
structure FaultRecord where
  status : Nat
  ring : Nat
  seq : Nat
  epoch : Nat
  deriving DecidableEq, Repr

/-- One slice (R77, R94, R586). -/
structure Slice where
  /-- SLC_n_STATE.STATE; 3 bits; R94. -/
  st : SliceSt := .free
  /-- PASID; 20 bits; R77. -/
  pasid : BitVec 20 := 0
  /-- Memory colour; 8 bits; R77. -/
  colour : BitVec 8 := 0
  /-- Class: true for Saffron; 1 bit; R77. -/
  saffron : Bool := false
  /-- Privilege flag; 1 bit; R77. -/
  privileged : Bool := false
  /-- The allotments held from the pools; R85. -/
  held : Allot := {}
  /-- SLC_n_ERR_COUNT.LOST; 8 bits saturating; R587. -/
  errLost : Nat := 0
  /-- SLC_n_ERR_COUNT.NOTICE; 8 bits saturating; R144. -/
  errNotice : Nat := 0
  /-- SLC_n_ERR_COUNT.DOORBELL; 8 bits saturating; R131. -/
  errDoorbell : Nat := 0
  /-- SLC_n_ERR_COUNT.WINDOW; 8 bits saturating; R91. -/
  errWindow : Nat := 0
  /-- SLC_n_FAULT.CAUSE; 4 bits; R586. -/
  faultCause : Nat := 0
  /-- The record of SLC_n_FAULT and SLC_n_FAULT_SEQ; R97. -/
  record : Option FaultRecord := none
  /-- Cause of a slice fault whose completions are still being written, before the slice is FAULTED; R96. -/
  faulting : Option Nat := none
  deriving DecidableEq, Repr

/-! ## Rings, descriptors and jobs (04_rings, 05_chains_and_scheduling) -/

/-- The fields the manager writes in a ring context (R109). -/
structure RingCtx where
  sqBase : Nat := 0
  cqBase : Nat := 0
  dbAddr : Nat := 0
  sizeLog2 : Nat := 0
  extSlots : Bool := false
  agentDb : Bool := false
  cnEnable : Bool := false
  watch : Bool := false
  slice : Nat := 0
  vector : Nat := 0
  cnLink : Nat := 0
  coalCount : Nat := 0
  coalTime : Nat := 0
  pollInterval : Nat := 0
  rbpBufKib : Nat := 0
  rbpBase : Nat := 0
  rbpLog2 : Nat := 0
  periodUs : Nat := 0
  budget : Nat := 0
  catchup : Nat := 0
  deriving DecidableEq, Repr

/-- TB_CAD_STATUS.STATE (R182). -/
inductive CadSt where
  | stopped | waiting | running | late
  deriving DecidableEq, Repr

/-- The cadence of a ring (R170 to R181). Times in TREF units. -/
structure Cadence where
  /-- State; 2 bits; R182. -/
  st : CadSt := .stopped
  /-- Origin t0; 64 bits; R178. -/
  t0 : Nat := 0
  /-- Phase debt d; R172. -/
  debt : Nat := 0
  /-- Scheduled end e of the period in progress; R172. -/
  scheduledEnd : Nat := 0
  /-- Descriptors the period may still accept; R171. -/
  budgetLeft : Nat := 0
  /-- Number of the period in progress, counted from the START; R173. -/
  period : Nat := 0
  /-- TB_CAD_PERIODS; 32 bits saturating; R182. -/
  periods : Nat := 0
  /-- TB_CAD_LOST; 32 bits saturating; R182. -/
  lost : Nat := 0
  /-- TB_CAD_STATUS.CMD_IGNORED; 1 bit; R179. -/
  cmdIgnored : Bool := false
  /-- TB_CAD_STATUS.START_REPEATED; 1 bit; R179. -/
  startRepeated : Bool := false
  /-- TB_CAD_STATUS.STOP_WITHOUT_START; 1 bit; R181. -/
  stopWithoutStart : Bool := false
  /-- TB_CAD_STATUS.CADENCE_LOST; 1 bit; R174. -/
  cadenceLost : Bool := false
  /-- The period in progress accepts; R172, R175, R180. -/
  accepting : Bool := false
  /-- The next period opens on the grid, after a loss or the return of TREF; R174, R175. -/
  rejoin : Bool := false
  /-- TREF has returned while accepted work was unfinished: the log record is written, the next period opens after its end; R175. -/
  regain : Bool := false
  /-- TREF time at which the next period opens when it does not follow the last one at once; R174, R175, R178. -/
  openAt : Nat := 0
  /-- A period is open or its work unfinished. -/
  inPeriod : Bool := false
  /-- Period parameters staged by a commit, taken at the next opening (PERIOD_US, BUDGET, CATCHUP); R176. -/
  staged : Option (Nat × Nat × Nat) := none
  deriving DecidableEq, Repr

/-- Ring states of the context's STATE field (R109). -/
inductive RingSt where
  | disabled | enabled | draining
  deriving DecidableEq, Repr

/-- One ring with the working copy of its context (R108 to R115, R131, R144). -/
structure Ring where
  ctx : RingCtx := {}
  /-- STATE; R109. -/
  st : RingSt := .disabled
  /-- EPOCH; 15 bits; R109. -/
  epoch : Nat := 0
  /-- CIDX; 32 bits; R112. -/
  cidx : W32 := 0
  /-- NEXT_SEQ; 48 bits; R113. -/
  nextSeq : BitVec 48 := 0
  /-- CQIDX; 32 bits; R112. -/
  cqidx : W32 := 0
  /-- DB_ERR; 32 bits saturating; R131. -/
  dbErr : Nat := 0
  /-- The last valid producer index; 32 bits; R131. -/
  prod : W32 := 0
  /-- The completion index the next submission takes; 32 bits; R114. -/
  nextCpl : W32 := 0
  /-- The ring holds a watch entry; R88. -/
  watchEntry : Bool := false
  /-- Descriptors of a chain fetched so far, oldest first, with the index of the first; R149. -/
  chain : List Bytes := []
  /-- A descriptor fetch is outstanding. -/
  fetching : Bool := false
  /-- The return buffer reserved for the submission being fetched; R139. -/
  reserved : Option Nat := none
  /-- A pool failure that ends the submission being fetched, status and cause; R594. -/
  poolFail : Option Nat := none
  /-- The slice fault cause that follows it, zero for none; R594. -/
  poolCause : Nat := 0
  /-- The submission waits for its pool; R139. -/
  poolWait : Bool := false
  /-- Pending NOTIFY completions; R144. -/
  coalPending : Nat := 0
  /-- TREF time of the first pending one; R144. -/
  coalSince : Nat := 0
  /-- A write-back is due again after a failed one; R110. -/
  wbDue : Bool := false
  /-- TREF time of the last write-back issued; R110. -/
  wbAt : Nat := 0
  /-- A message and a notice wait for the write-back's response; R110, R144. -/
  msgDue : Bool := false
  /-- A doorbell read failed: it is read again after POLL_INTERVAL (log entry 20). -/
  dbRetry : Bool := false
  /-- The drain re-read of R133 is wanted. -/
  drainDue : Bool := false
  /-- TREF time of the last polling read; R134. -/
  polledAt : Nat := 0
  /-- TREF time of the last poll of the ring's pool; R594. -/
  poolPolledAt : Nat := 0
  cad : Cadence := {}
  deriving DecidableEq, Repr

/-- A submission descriptor (R116). -/
structure Desc where
  opcode : Nat := 0
  flags : BitVec 16 := 0
  key : Nat := 0
  src : Nat := 0
  dst : Nat := 0
  param : Nat := 0
  length : Nat := 0
  aux : Nat := 0
  inline : Nat := 0
  userTag : Nat := 0
  deriving DecidableEq, Repr

/-- Where a submission stands between its fetch and its HEAD (R9 to R13, R121, R126, R129, R157). -/
inductive Phase where
  /-- Fetched, not accepted (R11). -/
  | waiting
  /-- Accepted: stamp writes outstanding (R121). -/
  | stamping
  /-- The current step waits for a part (R162). -/
  | ready
  /-- Dispatched: operand reads outstanding (R253). -/
  | fetching
  /-- Operands present: the engine computes (R185). -/
  | operands
  /-- The engine waits for a ledger commit or a store batch (R29, R328). -/
  | committing
  /-- Computed: waits for the engine's end or its grid point (R185). -/
  | computed
  /-- The engine has ended (ENGINE_FINISH); waits for its grid point (R185). -/
  | finished
  /-- Result writes outstanding (R129). -/
  | writing
  /-- Results acknowledged: the sequencer holds the completion (R129). -/
  | ended
  /-- The slot's PHASE is being read (R27). -/
  | phaseRead
  /-- The completion body is being written (R126). -/
  | bodyWrite
  /-- HEAD is being written (R126). -/
  | headWrite
  /-- After a restart: its stamps, then its slot's PHASE, are being read (R552). -/
  | recheck
  deriving DecidableEq, Repr

/-- One descriptor's worth of data read: range, offset, bytes. -/
structure Chunk where
  range : Range
  offset : Nat
  data : Bytes
  deriving DecidableEq, Repr

/-- How a step ended: status code and subcode of R145. -/
structure Ending where
  status : Nat
  sub : Nat := 0
  deriving DecidableEq, Repr

/-- A key in the key cache, the slot header of R374 with its material. -/
structure Key where
  handle : Nat := 0
  alg : Nat := 0
  use : Nat := 0
  saffronReq : Bool := false
  stateful : Bool := false
  exportable : Bool := false
  persistent : Bool := false
  bad : Bool := false
  span : Nat := 1
  owner : Nat := 0
  param : Nat := 0
  useLimit : Nat := 0
  useCount : Nat := 0
  generation : Nat := 0
  block : Nat := 0
  slot : Nat := 0
  tag : Bytes := []
  material : Bytes := []
  /-- Committed end of the use-count block of a persistent key; R381. -/
  useEnd : Nat := 0
  deriving DecidableEq, Repr

/-- One part's share of a grid-timed job (R185, R283, R289, R306): the classes of the checks still to be released, the one
in progress first; when that one began, when its engine ended; the blocks of attempt slots it takes. -/
structure Timed where
  classes : List Nat := []
  start : Nat := 0
  ended : Option Nat := none
  blocks : Nat := 1
  deriving DecidableEq, Repr

/-- What a computed step still does after its release and before its results are written (R29, R328, R330). -/
inductive After where
  /-- Nothing: its results are written at once. -/
  | nothing
  /-- Creates `newKey` under a ledger intent. -/
  | createKey
  /-- Frees a volatile key under a ledger intent. -/
  | destroyKey
  /-- Applies a KUM. -/
  | kum
  /-- Raises a counter. -/
  | raise
  /-- Waits for a store batch. -/
  | batch
  deriving DecidableEq, Repr

/-- Lifecycle states, in the order of the LIFECYCLE codes of R411. -/
inductive Lifecycle where
  | blank | enrolled | service | safe | retired
  deriving DecidableEq, Repr

/-- What KUMs change of an attestation (R411): lifecycle, ROSTER_PENDING, RECOVERY_ENABLED, RECOVERED, counters 0 and 1. -/
structure AttestView where
  lifecycle : Lifecycle := .blank
  pending : Bool := false
  recovery : Bool := false
  recovered : Nat := 0
  keyAdmin : Nat := 0
  rosterGen : Nat := 0
  deriving DecidableEq, Repr

/-- One submission, from its fetch until its HEAD is acknowledged. -/
structure Job where
  id : Nat := 0
  ring : Nat := 0
  slice : Nat := 0
  /-- Epoch and sequence of the first descriptor; R113, R115. -/
  epoch : Nat := 0
  seq : Nat := 0
  /-- Index of the first descriptor and the completion index; R112, R114. -/
  idx : W32 := 0
  cpl : W32 := 0
  descs : List Desc := []
  /-- The stamp of each descriptor; R120. -/
  stamps : List Nat := []
  /-- Configuration generation at acceptance; R193. -/
  gen : W32 := 0
  phase : Phase := .waiting
  /-- The step in progress, and whether later descriptors remain; R157. -/
  step : Nat := 0
  /-- Acceptance order; R166. -/
  acceptNo : Nat := 0
  /-- Period in which it was accepted and that period's end; R173. -/
  period : Option Nat := none
  periodEnd : Nat := 0
  /-- Reserved return buffer and whether it was used; R139, R593. -/
  buf : Option Nat := none
  bufUsed : Bool := false
  /-- Outcome fixed at the pool; R594. -/
  poolFail : Option Nat := none
  poolCause : Nat := 0
  /-- The part the step runs on, and further parts it holds; R162, R289, R308. -/
  part : Option (Engine × Nat) := none
  more : List (Engine × Nat) := []
  /-- Operand data read so far and requested so far. -/
  data : List Chunk := []
  asked : List Range := []
  /-- Bad end found by a read or write of the step; R45. -/
  bad : Option Ending := none
  /-- Output of the step still to be written: address and bytes. -/
  out : List (Nat × Bytes) := []
  /-- Ending of the step, result word, bytes written. -/
  ending : Ending := { status := 0 }
  result : Nat := 0
  resultLen : Nat := 0
  unverified : Bool := false
  retried : Bool := false
  late : Bool := false
  gridOverrun : Bool := false
  batchPartial : Bool := false
  /-- The status of the completion is decided (an abort, a failed check or the chain's end). -/
  decided : Bool := false
  /-- Segments done of the current step, and output bytes issued; R167. -/
  segDone : Nat := 0
  written : Nat := 0
  /-- Content of scratch handles; R152. -/
  handles : Tbl Bytes := []
  /-- Granted scratch, KiB; R86. -/
  scratch : Nat := 0
  /-- TREF times of dispatch and release; R125. -/
  dispatchTime : Nat := 0
  releaseTime : Nat := 0
  /-- Grid timing of its part and of its second part; R185, R289. -/
  t1 : Timed := {}
  t2 : Timed := {}
  /-- What follows the release. -/
  after : After := .nothing
  /-- The volatile key it will create; R271. -/
  newKey : Option Key := none
  /-- Index or ordinal assigned at acceptance; R319, R326. -/
  value : Option Nat := none
  /-- One more than the number of the random draw of this run, zero before it; R255. -/
  draw : Nat := 0
  /-- Random draws of its encapsulation steps, by step, which a re-run uses again; R28. -/
  encaps : Tbl Nat := []
  /-- What ATTEST saw at its dispatch; R411. -/
  view : AttestView := {}
  /-- Ledger intent of the job; R29. -/
  opid : Option Nat := none
  /-- Parts on which it faulted; R545. -/
  faultedOn : List (Engine × Nat) := []
  /-- The key loaded into its part at dispatch; R376. -/
  loaded : Option Key := none
  /-- A private-key check of this step has failed once; R276. -/
  checkFailed : Bool := false
  /-- TREF times since when it is held while BEHIND, and since when it waits for a block of its group; R565, R568. -/
  heldSince : Option Nat := none
  blockSince : Option Nat := none
  /-- Whether the completion counts as recovered; R553. -/
  recovered : Bool := false
  /-- Steps whose stamps host memory holds already; R511. -/
  stamped : List Nat := []
  /-- A restart came before the responses to its stamp writes: only its stamps tell whether it was accepted; R123. -/
  unsure : Bool := false
  /-- What the dispatch of its step has charged for the first and for the second part; R163. -/
  charged : Nat × Nat := (0, 0)
  /-- Its step's turning dispatchable has been noted; R163. -/
  noted : Bool := false
  /-- The DONE record of its last step gives this result: it ends with it once the earlier steps have run again; R159. -/
  finish : Option Nat := none
  /-- Kind code and number of the part on which its last step ran, for the extended completion; R125. -/
  lastPart : Option (Nat × Nat) := none
  /-- It still waits for the return buffer that its recovery reserves; R139, R511. -/
  bufDue : Bool := false
  /-- ATTEMPT under which its KUM is repeated; R429. -/
  repeats : Option Nat := none
  /-- The job is to end with this once its running segment or its writes end; R96, R101, R32. -/
  abort : Option Ending := none
  /-- The status is CHAIN_STEP_FAILED over `ending`; R158. -/
  chainFail : Bool := false
  /-- The completion body as last written; R126. -/
  body : Bytes := []
  deriving DecidableEq, Repr

/-- A serial arbiter over ring numbers (R161): its rotating pointer, 12 bits, and the ring whose request it serves. -/
structure Arb where
  ptr : Nat := 0
  serving : Option Nat := none
  deriving DecidableEq, Repr

/-- A return-buffer pool (R138, R139, R593, R594). -/
structure Pool where
  slice : Nat := 0
  base : Nat := 0
  bufKib : Nat := 0
  log2 : Nat := 0
  /-- Core's consumer index; 32 bits; R138. -/
  cons : W32 := 0
  /-- Last valid host producer index; 32 bits; R594. -/
  prod : W32 := 0
  /-- The header has been read since a ring first named the pool; R594. -/
  ready : Bool := false
  /-- Free list of buffers that submissions did not use; R593. -/
  freeList : List Nat := []
  /-- Entries consumed since the last write-back of the header; R138. -/
  dirty : Bool := false
  /-- The arbiter of the pool's entries; R161. -/
  arb : Arb := {}
  deriving DecidableEq, Repr

/-! ## Parts, dispatch and grid (05, 15, 17) -/

/-- GLB_PART_FAULT.STATE (R554). -/
inductive FenceSt where
  | inService | codeword | stall | failed
  deriving DecidableEq, Repr

/-- BST_PART_STATUS (R504). -/
inductive TestSt where
  | untested | passed | failed | underTest
  deriving DecidableEq, Repr

/-- One lane, hash lane or unit (R543, R544, R503). -/
structure Part where
  fence : FenceSt := .inService
  /-- GLB_PART_FAULT.FAULTS; 8 bits saturating; R554. -/
  faults : Nat := 0
  test : TestSt := .untested
  /-- The job that holds the part, by its id; R162. -/
  busy : Option Nat := none
  /-- The core holds the lane for the seal of a store block; R204, R205. -/
  own : Bool := false
  /-- The part is being tested ahead of the rotation and may return to service; R545. -/
  mayReturn : Bool := false
  deriving DecidableEq, Repr

/-- What is held under a lease: engine parts, scratch grants of a job, key cache slots, a ring's sequencer entries, return buffers of a
ring, the measurement digest port and the ledger write lock (R549). -/
inductive Leased where
  | part (kind : Engine) (n : Nat)
  | scratch (job : Nat)
  | keySlot (n : Nat)
  | sequencer (ring : Nat)
  | buffer (ring index : Nat)
  | digestPort
  | writeLock
  deriving DecidableEq, Repr

/-- Dispatch state. -/
structure Sched where
  /-- Lease epochs of resources; 16 bits each, zero until the first revocation; R549. -/
  epochs : List (Leased × BitVec 16) := []
  /-- Parts by kind code * 1024 + number; R197, R225, R252, R295. -/
  parts : Tbl Part := []
  /-- Virtual time vt[k][s] by kind code * 256 + slice, in 1/256 units of cost; R163. -/
  vt : Tbl Nat := []
  /-- The arbiter of the shared sequencer entries; R161. -/
  arbSequencer : Arb := {}
  /-- The arbiter of scratch above the guarantees; R161. -/
  arbScratch : Arb := {}
  /-- Ring from which the next turn within a slice, kind and class is sought, by 2 * (kind code * 256 + slice) + 1 for class P; R166. -/
  lastRing : Tbl Nat := []
  /-- Next acceptance number. -/
  nextAccept : Nat := 0
  /-- TB_GRID_OVR by class; 32 bits saturating; R186. -/
  gridOvr : Tbl Nat := []
  /-- GLB_LEASE_REVOKED; 32 bits saturating; R554. -/
  leaseRevoked : Nat := 0
  /-- GLB_RECOVERED; 32 bits saturating; R553. -/
  recovered : Nat := 0
  deriving DecidableEq, Repr

/-! ## Configuration generations (05) -/

/-- One configuration: what a commit switches (R191, R193, R195). -/
structure CfgImage where
  /-- Generation number, CFG_GEN; 32 bits. -/
  gen : W32 := 1
  /-- Allotments, weights and caps of each slice. -/
  allots : Tbl Allot := []
  /-- DMA windows of each slice, slice 0's being the GLB_S0_WINk registers; R581. -/
  windows : Tbl (List Window) := []
  /-- Grid entries that differ from the built-in default table, by class; R189. -/
  grid : Tbl Nat := []
  /-- GLB_VEC_BASE; 64 bits; R56. -/
  vecBase : Nat := 0
  /-- AL_k_CFG registers by link; 32 bits; R584. -/
  alCfg : Tbl W32 := []
  /-- ENT_RESEED_INTERVAL; 5 bits; R361. -/
  reseedLog2 : Nat := 20
  deriving DecidableEq, Repr

/-- Configuration state (R191 to R195). -/
structure Cfg where
  /-- The generation in force; R193. -/
  cur : CfgImage := {}
  /-- The older generation whose jobs drain; R194. -/
  old : Option CfgImage := none
  /-- The staged values; R191. -/
  staged : CfgImage := {}
  /-- The validated snapshot that waits or is being applied; R194. -/
  pendingCommit : Option CfgImage := none
  /-- Cadence parameters of rings read at the pending commit; R176. -/
  pendingRings : Tbl (Nat × Nat × Nat) := []
  /-- CFG_STATUS.COMMIT_ERROR; 1 bit; R192. -/
  commitError : Bool := false
  /-- CFG_STATUS.COMMIT_REFUSED; 1 bit; R194. -/
  commitRefused : Bool := false
  /-- CFG_ERR_OFFSET; 32 bits; R192. -/
  errOffset : W32 := 0
  deriving DecidableEq, Repr

/-! ## Keys (11) -/

/-- A persistent key record as MRAM or the store holds it (R383, R384). -/
structure KeyRec where
  handle : Nat := 0
  alg : Nat := 0
  use : Nat := 0
  flags : Nat := 0
  owner : Nat := 0
  param : Nat := 0
  useLimit : Nat := 0
  generation : Nat := 0
  block : Nat := 0
  matLen : Nat := 0
  gcmTag : Bytes := []
  sealed : Bytes := []
  deriving DecidableEq, Repr

/-- A loaded curve record: handle, owner, the 440-byte block (R271, R285). It occupies one key cache slot. -/
structure Curve where
  handle : Nat
  owner : Nat
  slot : Nat
  block : Bytes
  deriving DecidableEq, Repr

/-- One entry of the HMAC state cache (R234). -/
structure HmacEntry where
  slot : Nat
  generation : Nat
  hash : Nat
  inner : Bytes
  outer : Bytes
  tag : Bytes
  deriving DecidableEq, Repr

/-- STATUS of a roster area (R394). -/
inductive RosterSt where
  | empty | active | pendingSt
  deriving DecidableEq, Repr

/-- A roster area (R393, R394). -/
structure Roster where
  st : RosterSt := .empty
  image : Bytes := []
  floors : Tbl Nat := []
  ownerDid : Bytes := []
  /-- The 32-byte tag under ROSTER-TAG. -/
  tag : Bytes := []
  deriving DecidableEq, Repr

/-- One entry of the sealing record (R385). -/
structure SealEntry where
  mdigest : Bytes := []
  wrap : Bytes := []
  deriving DecidableEq, Repr

/-- The recovery record (R409). -/
structure RecoveryRec where
  did : Bytes := []
  threshold : Nat := 0
  shares : Nat := 0
  recovered : Nat := 0
  /-- The tag under RECOVERY-TAG. -/
  tag : Bytes := []
  deriving DecidableEq, Repr

/-- A KUM being applied from a JOURNAL_ENTRY with the carried state of its record (R567): present or absent, GENERATION and
material; its open intent; batches committed so far. -/
structure Journal where
  kum : Bytes := []
  present : Bool := false
  generation : Nat := 0
  material : Bytes := []
  opid : Nat := 0
  stage : Nat := 0
  deriving DecidableEq, Repr

/-- Key store and identity. -/
structure Keys where
  /-- Key cache by first slot; 16,384 slots of 256 bytes; R21, R374. -/
  slots : Tbl Key := []
  /-- Least recently used order of cached keys, by first slot, oldest first; R377. -/
  lru : List Nat := []
  /-- 64-bit count of cache creations; R374. -/
  created : Nat := 0
  /-- Loaded curves; R271. -/
  curves : List Curve := []
  /-- HMAC state cache, least recently used first; 4,096 entries; R234. -/
  hmac : List HmacEntry := []
  /-- Persistent key records of bank 2, mirrored in bank 3, by position 1 to 3,839; R382. -/
  records : Tbl KeyRec := []
  /-- Owner of each key record that the store holds, by handle; R105 (log entry 32). -/
  storeOwners : Tbl Nat := []
  /-- Retired positions; R404. -/
  retiredPos : List Nat := []
  /-- Sealing record, entries A and B; R385. -/
  sealA : SealEntry := {}
  sealB : SealEntry := {}
  /-- Roster areas A and B; R394. -/
  rosterA : Roster := {}
  rosterB : Roster := {}
  /-- Recovery record; R409. -/
  recovery : Option RecoveryRec := none
  /-- Root key register RK, 32 bytes while held; R363, R368. -/
  rk : Option Bytes := none
  /-- Slot integrity key register; R366. -/
  slotKey : Option Bytes := none
  /-- STORE-SEAL key; R366. -/
  storeSeal : Option Bytes := none
  /-- MAK private seeds (ECDSA scalar, ML-DSA seed); R366. -/
  mak : Option (Bytes × Bytes) := none
  /-- MAK certificate of this start, 7,547 bytes; R370. -/
  makCert : Bytes := []
  /-- Device identity digest, 48 bytes; R369. -/
  did : Bytes := []
  /-- Store master keys SMK0 and SMK1 while held; R385. -/
  smk : Option (Bytes × Bytes) := none
  /-- GLB_STATUS.SEAL_MISMATCH; 1 bit; R386. -/
  sealMismatch : Bool := false
  /-- Lifecycle; 3 bits; R405. -/
  lifecycle : Lifecycle := .blank
  /-- MDIGEST of this start, 48 bytes; R370. -/
  mdigest : Bytes := []
  /-- The job whose KUM is being applied; R401. -/
  kumJob : Option Nat := none
  /-- What an attestation showed before the KUM being applied; R411. -/
  before : AttestView := {}
  /-- The JOURNAL_ENTRY being applied; R567. -/
  journal : Option Journal := none
  deriving DecidableEq, Repr

/-! ## Measurement digest port (07) -/

/-- MDP_STATUS.STATE (R241). -/
inductive MdpSt where
  | idle | opened | busy | done
  deriving DecidableEq, Repr

/-- Why the port is BUSY (R243, R244, R247). -/
inductive MdpBusy where
  | block | hmacStart | final (valid : Nat)
  /-- An HMAC START by this command whose key is still being loaded. -/
  | keyLoad (cmd : W32)
  deriving DecidableEq, Repr

/-- The port's message as it stands: what an HMAC START that is refused leaves as it was (R243). -/
structure MdpPrior where
  st : MdpSt
  why : MdpBusy
  alg : Nat
  owner : Nat
  path : Path
  extend : Bool
  slot : Nat
  message : Bytes
  hmacKey : Bytes
  count : Nat
  result : Bytes
  lastWrite : Nat
  deriving DecidableEq, Repr

/-- The measurement digest port (R240 to R251). -/
structure Mdp where
  st : MdpSt := .idle
  why : MdpBusy := .block
  /-- ALG of the open message; 4 bits. -/
  alg : Nat := 0
  /-- Owner code, 8 bits, and path; MDP_OWNER. -/
  owner : Nat := 0
  path : Path := .regPort
  /-- EXTEND and SLOT of the open message. -/
  extend : Bool := false
  slot : Nat := 0
  /-- Message bytes taken; the HMAC key material while an HMAC message is open. -/
  message : Bytes := []
  hmacKey : Bytes := []
  /-- MDP_COUNT; 32 bits. -/
  count : Nat := 0
  /-- MDP_RESULT0 to 15, up to 64 bytes. -/
  result : Bytes := []
  idleAbort : Bool := false
  alarmClear : Bool := false
  misuse : Bool := false
  ownerBusy : Bool := false
  ownerInvalid : Bool := false
  earlyRead : Bool := false
  cmdInvalid : Bool := false
  keyFault : Bool := false
  extRefused : Bool := false
  /-- The port as it stood before an HMAC START whose key is still being loaded: what a refusal restores; R243. -/
  prior : Option MdpPrior := none
  /-- MDP_KEY as that START read it. -/
  keyRead : W32 := 0
  /-- MDP_KEY; 32 bits. -/
  key : W32 := 0
  /-- MDP_IDLE_LIMIT; 16 bits. -/
  idleLimit : Nat := 0
  /-- TREF time of the owner's last write; R249. -/
  lastWrite : Nat := 0
  /-- MDP_MEAS_SEL; 3 bits. -/
  measSel : Nat := 0
  /-- LOCK_M7 to LOCK_M4; 4 bits; and the lock of the register itself. -/
  lockBits : BitVec 4 := 0
  extLocked : Bool := false
  /-- CLOSED_M3 to CLOSED_M0; 4 bits. -/
  closed : BitVec 4 := 0
  /-- MDP_ERR_COUNT: refusals and misuses; 16 bits each saturating. -/
  refusals : Nat := 0
  misuses : Nat := 0
  /-- M0 to M7, 48 bytes each, absent entries zero; R250. -/
  meas : Tbl Bytes := []
  /-- MDP_EXT_COUNT0 to 7; 32 bits saturating. -/
  extCount : Tbl Nat := []
  deriving DecidableEq, Repr

/-! ## Entropy (10) -/

/-- States of a noise source (R336). -/
inductive SrcSt where
  | off | testing | healthy | fatal
  deriving DecidableEq, Repr

/-- One noise source (R335 to R341, R361). -/
structure Source where
  st : SrcSt := .off
  restarts : Nat := 0
  rctFails : Nat := 0
  aptFails : Nat := 0
  /-- TREF times of the continuous-test failures in the last second; R341. -/
  failTimes : List Nat := []
  /-- Consecutive failed start-up tests; R341. -/
  startFails : Nat := 0
  /-- Bytes of its noise that have been used or discarded; R336, R338, R340. -/
  taken : Nat := 0
  /-- 64-bit groups of windows that passed the continuous tests, not absorbed yet; R336, R339. -/
  passed : Nat := 0
  deriving DecidableEq, Repr

/-- ENT_STATUS.STATE (R346). -/
inductive EntSt where
  | starting | available | unavailable | failed
  deriving DecidableEq, Repr

/-- States of a DRBG instance (R361). -/
inductive DrbgSt where
  | uninstantiated | ready | reseeding
  deriving DecidableEq, Repr

/-- One DRBG instance (R351 to R356). -/
structure Drbg where
  st : DrbgSt := .uninstantiated
  /-- Key and V of CTR_DRBG with AES-256, 32 and 16 bytes; R351. -/
  key : Bytes := []
  v : Bytes := []
  /-- Generate requests since the last seeding; ENT_DRBG_REQS. -/
  reqs : Nat := 0
  /-- TREF time of the last seeding. -/
  seededAt : Nat := 0
  deriving DecidableEq, Repr

/-- Entropy source and DRBGs (R335 to R361). -/
structure Entropy where
  sources : Tbl Source := []
  st : EntSt := .starting
  stale : Bool := false
  fatalSource : Bool := false
  stateChanged : Bool := false
  /-- ENT_MIN_SOURCES and its lock; 4 bits; R345. -/
  minSources : Nat := 4
  minLocked : Bool := false
  /-- ENT_SRC_MASK and its lock; 8 bits; R361. -/
  srcMask : BitVec 8 := 0xFF
  maskLocked : Bool := false
  /-- ENT_BLOCKS; 64 bits; R342. -/
  blocks : Nat := 0
  /-- Finished blocks in the buffer, 48 bytes each, oldest first, at most 4; R342. -/
  buffer : List Bytes := []
  /-- Groups absorbed into the block in progress, each with its source; R340, R342. -/
  progress : List (Nat × Bytes) := []
  /-- Source number from which the next group is sought; 3 bits; R342. -/
  turn : Nat := 0
  /-- ENT_STALE_COUNT, ENT_UNAVAIL_COUNT; 32 bits saturating. -/
  staleCount : Nat := 0
  unavailCount : Nat := 0
  /-- ENT_UNAVAIL_TIME in TREF units before the present spell, and the spell's start. -/
  unavailTime : Nat := 0
  unavailSince : Option Nat := none
  /-- ENT_DRBG_SEL; 9 bits. -/
  drbgSel : Nat := 0
  /-- ENT_KAT_STATUS; 2 bits. -/
  katConditioner : Bool := false
  katDrbg : Bool := false
  /-- The known-answer tests still to run before the next block and the next instantiation; R344, R353. -/
  katDue : Bool := true
  /-- After a Class B alarm: sources and tests of R350 still to finish. -/
  restarting : Bool := false
  /-- Instances 0 to 256; R351. -/
  drbgs : Tbl Drbg := []
  /-- The internal instance must reseed before it supplies a value; R355. -/
  mustReseed : Bool := true
  /-- Seeding serials: the next and the committed end; 64 bits; R352. -/
  serialNext : Nat := 0
  serialEnd : Nat := 0
  deriving DecidableEq, Repr

/-! ## Persistence (12) -/

/-- Payload of a ledger record (R419). A move is (counter, value). -/
inductive LPayload where
  | intent (kind kumOp slice ring epoch seq object argument attempt : Nat)
  | doneRec (opid result : Nat) (moveA moveB : Option (Nat × Nat))
  | rollback (opid : Nat)
  | counter (moves : List (Nat × Nat))
  | reserve (handle committedEnd : Nat)
  | root (version : Nat) (entry : Bytes)
  | start (epoch : Nat) (mdigest : Bytes)
  | commission (counter : Nat) (did : Bytes)
  | logmark (lseq : Nat) (digest : Bytes)
  deriving DecidableEq, Repr

/-- A ledger record (R416). -/
structure LRec where
  seq : Nat := 0
  carried : Bool := false
  payload : LPayload := .rollback 0
  deriving DecidableEq, Repr

/-- A row of the ledger ring: the record and whether each bank holds it committed (R417). -/
structure LRow where
  record : LRec
  bank2 : Bool
  bank3 : Bool
  deriving DecidableEq, Repr

/-- What the core starts once a record it waits for is committed (R417). -/
inductive Effect where
  | nothing
  /-- A volatile key creation of a job: create it, then commit DONE (R29). -/
  | createKey (job : Nat)
  /-- A KUM of a job: apply it, then commit DONE (R402). -/
  | applyKum (job : Nat)
  /-- The KUM of a JOURNAL_ENTRY: apply it, then its DONE is committed (R567). -/
  | applyJournal
  | journalDone
  /-- The job's DONE is committed: it ends (R29). -/
  | endJob (job : Nat)
  /-- A use-count block of a key (R381). -/
  | useBlock (handle newEnd : Nat)
  /-- A seeding-serial block (R352). -/
  | serialBlock (newEnd : Nat)
  /-- ORD_CHECK's counter raises, one a move of the record (R330, R420). -/
  | raised (jobs : List Nat)
  /-- The batch being committed (R462). -/
  | rootCommitted
  /-- Firmware activation: steps 1 to 4 of R491, then DONE; then the reply. -/
  | activate (bank secVersion : Nat)
  | activateMoved (opid bank : Nat)
  | activated (bank : Nat)
  /-- STORE_FORMAT: the root record, the trims, the reply (R469). -/
  | formatRoot (opid : Nat)
  | formatTrims (opid : Nat)
  | formatDone
  /-- An audit archive's INTENT: its batch is made; then its DONE (R441). -/
  | archive (first : Nat)
  | archived (newEnd : Nat)
  deriving DecidableEq, Repr

/-- A counter's home row (R423): VALUE, SEQ of the record it checkpoints, AUX. -/
structure Home where
  value : Nat := 0
  seq : Nat := 0
  aux : Bytes := []
  deriving DecidableEq, Repr

/-- An audit record (R435). -/
structure AuditRec where
  lseq : Nat := 0
  time : Nat := 0
  code : Nat := 0
  slice : Nat := 0xFFFF
  epoch : Nat := 0
  data : Bytes := []
  /-- First 16 bytes of SHA-384 over the record before. -/
  prev : Bytes := []
  deriving DecidableEq, Repr

/-- One always-on event latch (R530). -/
structure Latch where
  kind : Nat := 0
  counted : Bool := false
  again : Nat := 0
  sensor : Nat := 0
  seconds : Nat := 0
  deriving DecidableEq, Repr

/-- Persistence: MRAM banks 2 and 3, OTP, battery-backed memory (R23 to R25). -/
structure Persist where
  /-- Rows of the ledger, by row number; 16,384 rows; R416. -/
  ledger : Tbl LRow := []
  /-- SEQ of the next record; 48 bits; R418. -/
  nextSeq : Nat := 0
  /-- Records waiting to be committed, in order, each with what it releases; R418. -/
  queue : List (LRec × Effect) := []
  /-- Ledger credit; R422. -/
  credit : Nat := 32768
  /-- TREF time at which credit was last gained; R422. -/
  creditAt : Nat := 0
  throttled : Bool := false
  bank2Fault : Bool := false
  bank3Fault : Bool := false
  /-- Values of the 4,096 counters; 64 bits; R423 to R425. -/
  counters : Tbl Nat := []
  /-- The home rows; R423. -/
  homes : Tbl Home := []
  /-- AUX of the counter rows: 3, 6, 7 and 8; R424. -/
  aux : Tbl Bytes := []
  /-- Broken counters; R426. -/
  broken : List Nat := []
  /-- Committed ends of use-count blocks by handle (latest RESERVE records); R381. -/
  reserves : Tbl Nat := []
  /-- INTENT records without DONE or ROLLBACK, by OPID; R421, R429. -/
  openIntents : Tbl LPayload := []
  /-- The pair holds the ledger write lock: a record of the firmware's own waits to be committed; R478, R549. -/
  writeLock : Bool := false
  /-- The audit log by row; 12,288 rows; R435. -/
  audit : Tbl AuditRec := []
  /-- LSEQ of the next audit record; 64 bits; R435. -/
  nextLseq : Nat := 0
  /-- Records of each code this second and those suppressed in it; R443. -/
  rate : Tbl Nat := []
  suppressedRate : Tbl Nat := []
  /-- Records suppressed for want of space, by code; R442. -/
  suppressedFull : Tbl Nat := []
  /-- Records suppressed since start; R440. -/
  suppressed : Nat := 0
  /-- Records overwritten since counter 11 last moved; R442. -/
  overwritten : Nat := 0
  logFull : Bool := false
  /-- Audit rows that can no longer be written in either bank; R444. -/
  logRowsFail : List Nat := []
  /-- TREF time at which the present second of the rate limit began; R443. -/
  rateAt : Nat := 0
  /-- TREF time of the last move of counter 13, or of the start; R424. -/
  poweredAt : Nat := 0
  /-- Audit archive batch in flight: its first LSEQ; R441. -/
  archiving : Option Nat := none
  /-- Archiving goes on until at most 3,072 records are left; R441. -/
  archiveRun : Bool := false
  /-- TREF time of the last attempt to archive; R441. -/
  archiveAt : Nat := 0
  /-- Emergency log: ENTRIES, ACKED and the last 15 records; R445. -/
  emgEntries : Nat := 0
  emgAcked : Nat := 0
  emergency : List AuditRec := []
  /-- OTP: ENROLLED_EVER, RETIRED, log-degraded bits; R25, R405. -/
  otpEnrolled : Bool := false
  otpRetired : Bool := false
  otpDegraded : Bool := false
  /-- OTP thermometers: tamper counter and security-version floor; 0 to 256; R25. -/
  otpTamper : Nat := 0
  otpFloor : Nat := 0
  /-- Battery-backed root copies, 32 bytes each (copy B held complemented), and the check word, 8 bytes; zeros once zeroised or lost;
  R24, R362. -/
  rootA : Bytes := List.replicate 32 0
  rootB : Bytes := List.replicate 32 0
  rootCheck : Bytes := List.replicate 8 0
  /-- The canary; 32 bytes; R24, R497. -/
  canary : Bytes := List.replicate 32 0
  /-- Event latches by entry 0 to 15; R530. -/
  latches : Tbl Latch := []
  /-- Image banks 0 and 1, 4 MiB each; R23. -/
  image0 : Mem := []
  image1 : Mem := []
  deriving DecidableEq, Repr

/-! ## The Bagrim store (13) -/

/-- A 32-byte tree entry (R453). -/
structure Entry where
  version : Nat := 0
  slot : Nat := 0
  present : Bool := false
  tag : Bytes := []
  deriving DecidableEq, Repr

/-- Request operations of R458. -/
inductive StoreOp where
  | read | write | trim
  deriving DecidableEq, Repr

/-- An outstanding store request (R458 to R460). -/
structure StoreReq where
  rid : Nat := 0
  op : StoreOp := .read
  phys : Nat := 0
  count : Nat := 1
  buf : Nat := 0
  /-- The object a READ or WRITE is for. -/
  obj : Nat := 0
  issuedAt : Nat := 0
  timedOut : Bool := false
  /-- A second attempt after MEDIA_ERROR or a failed tag; R466. -/
  second : Bool := false
  /-- Its first attempt failed its tag; R466. -/
  tagFailed : Bool := false
  /-- A TRIM of STORE_FORMAT; R469. -/
  format : Bool := false
  /-- Content of a WRITE's buffer. -/
  data : Bytes := []
  deriving DecidableEq, Repr

/-- The seal of a store block on a Saffron lane (R204, R454): a WRITE to be issued once sealed, or a READ's block to be opened. -/
structure SealTask where
  req : StoreReq
  /-- The block that a READ brought. -/
  data : Bytes := []
  /-- The lane at work on it. -/
  lane : Option Nat := none
  /-- Its outcome is no longer wanted. -/
  dropped : Bool := false
  deriving DecidableEq, Repr

/-- A batch of store changes (R462). -/
structure Batch where
  /-- Requests gathered, and TREF time of the first. -/
  requests : Nat := 0
  firstAt : Nat := 0
  /-- New content of data objects by index. -/
  changes : Tbl Bytes := []
  /-- Jobs that complete when the batch has committed, and whether the KUM of a JOURNAL_ENTRY does. -/
  jobs : List Nat := []
  journal : Bool := false
  /-- Pairs and keys with a reservation in the batch: (handle, target, new end). -/
  reservations : List (Nat × Nat × Nat) := []
  /-- The batch carries a reservation or the effect of a KUM; R464. -/
  urgent : Bool := false
  /-- New tree nodes and root entry once sealed; objects whose WRITE has no OK yet. -/
  nodes : Tbl (Tbl Entry) := []
  root : Entry := {}
  writes : List Nat := []
  /-- Blocks that become free at the commit. -/
  oldPhys : List Nat := []
  /-- Archive range, when the batch carries one: first LSEQ; R441. -/
  archive : Option Nat := none
  /-- Pairs whose write-back the batch carries, and trees it stores (handle, layer); R327, R314. -/
  evicted : List (Nat × Nat) := []
  trees : List (Nat × Nat) := []
  /-- Slot of a ledger snapshot that the batch carries; R452. -/
  snapshot : Option Nat := none
  /-- Data objects whose new content goes into the next batch if this one aborts: archive blocks, snapshots, trees; R463. -/
  kept : List Nat := []
  deriving DecidableEq, Repr

/-- STORE_ATTACH parameters (R457). -/
structure Attach where
  rqBase : Nat := 0
  rsBase : Nat := 0
  rsDb : Nat := 0
  coreIdx : Nat := 0
  bufBase : Nat := 0
  bufCount : Nat := 0
  rqLog2 : Nat := 0
  watch : Bool := false
  vector : Nat := 0
  timeoutMs : Nat := 0
  pollUs : Nat := 0
  deriving DecidableEq, Repr

/-- Store controller (R447 to R469). -/
structure Store where
  attach : Option Attach := none
  /-- Next RID, response consumer index. -/
  nextRid : Nat := 0
  respCons : W32 := 0
  outstanding : List StoreReq := []
  /-- Buffers in use. -/
  bufsUsed : List Nat := []
  /-- Batch counter n of this start; R454. -/
  batchNo : Nat := 0
  gathering : Option Batch := none
  committing : Option Batch := none
  /-- Root entry of the last committed ROOT record; R455. -/
  root : Entry := {}
  /-- Tree-node cache: node OBJ to its entries, 2,048 nodes; R456. -/
  nodes : Tbl (Tbl Entry) := []
  /-- Nodes of the cache in order of use, oldest first; R456. -/
  nodeLru : List Nat := []
  /-- Requests wanted and not yet issued, oldest first; R460. -/
  unissued : List StoreReq := []
  /-- Blocks to be sealed or opened on Saffron lanes, in order; R204, R205, R454. -/
  sealing : List SealTask := []
  /-- Data objects read and opened (1 MiB scratch reserve); R462. -/
  objects : Tbl Bytes := []
  /-- Objects whose read failed twice, with subcode; R466. -/
  failed : Tbl Nat := []
  /-- TREF time of the last store-ring interrupt message, and a message deferred in its window; R458. -/
  lastMsg : Option Nat := none
  msgDeferred : Bool := false
  /-- Statistics of STORE_STATUS; R468. -/
  committed : Nat := 0
  aborted : Nat := 0
  timeouts : Nat := 0
  tagFails : Nat := 0
  misses : Nat := 0
  /-- STORE_FORMAT in progress: trims still unanswered and its OPID; R469. -/
  formatLeft : Option (Nat × Nat) := none
  /-- Snapshot slots written; R452. -/
  snapshots : List Nat := []
  deriving DecidableEq, Repr

/-- An ordinal-cache entry (R327). -/
structure OrdEntry where
  slice : Nat := 0
  handle : Nat := 0
  target : Nat := 0
  next : Nat := 1
  committedEnd : Nat := 1
  block : Nat := 0
  /-- The block size of the committed table; `block` is the one in force for the next reservation; R329. -/
  storedBlock : Nat := 0
  reserving : Bool := false
  /-- Its write-back waits in a batch; R327, R463. -/
  evicting : Bool := false
  deriving DecidableEq, Repr

/-- Index state of a stateful key (R319, R321). -/
structure HbsState where
  /-- Owner, algorithm and parameter of the key; R379. -/
  owner : Nat := 0
  alg : Nat := 0
  param : Nat := 0
  /-- First page of its tree image; R451. -/
  first : Nat := 0
  total : Nat := 0
  next : Nat := 0
  committedEnd : Nat := 0
  block : Nat := 0
  reserving : Bool := false
  /-- Trees built so far, by layer, the lowest first; R314. -/
  built : List Nat := []
  /-- Its tree-cache window is resident; R313. -/
  resident : Bool := false
  /-- Tree-image pages (data indices) that the tree caches hold for it; R313. -/
  window : List Nat := []
  /-- Pages of the tree caches that its windows have; R313. -/
  room : Nat := 0
  /-- Trees still to build in the background, by layer; R314. -/
  building : List Nat := []
  deriving DecidableEq, Repr

/-- The background building of a layer's next tree: dispatchable, or on a hash lane (R314). -/
structure TreeBuild where
  handle : Nat
  layer : Nat
  /-- The key's owning slice, under whose hash weight it runs. -/
  slice : Nat
  lane : Option Nat := none
  deriving DecidableEq, Repr

/-- Stateful signature and ordinal engine (R312 to R331). -/
structure Reserve where
  /-- Ordinal cache, least recently used first; 262,144 entries; R327. -/
  ordinals : List OrdEntry := []
  /-- Stateful keys by handle. -/
  hbs : Tbl HbsState := []
  /-- Keys whose windows are resident, least recently used first; R313. -/
  windowLru : List Nat := []
  /-- Trees being built, or waiting for a hash lane; R314. -/
  builds : List TreeBuild := []
  /-- The first value that this start may issue, by handle and target; R31, R320. -/
  fresh : List (Nat × Nat × Nat) := []
  deriving DecidableEq, Repr

/-! ## Management and mailbox (14) -/

/-- An entry of the pair's physical memory protection: a range and what it lets through, for machine mode only or for every mode, until
the next reset of the pair when locked (R470, R472). -/
structure PmpEntry where
  first : Nat := 0
  last : Nat := 0
  read : Bool := false
  write : Bool := false
  exec : Bool := false
  machineOnly : Bool := false
  locked : Bool := false
  deriving DecidableEq, Repr

/-- Where a mailbox request stands (R483). -/
inductive ReqSt where
  | queued | parked | replyHeld
  deriving DecidableEq, Repr

/-- A reply (R481, R483). -/
structure Reply where
  tag : Nat := 0
  cmd : Nat := 0
  code : Nat := 0
  repeated : Bool := false
  data : List W32 := []
  deriving DecidableEq, Repr

/-- A mailbox request (R481, R482). -/
structure Req where
  tag : Nat := 0
  cmd : Nat := 0
  target : Nat := 0
  param : Nat := 0
  args : List Nat := []
  st : ReqSt := .queued
  repeated : Bool := false
  /-- The reply it holds while the reply queue is full. -/
  reply : Option Reply := none
  /-- Later SLICE_RESETs merged into it, by TAG; R103. -/
  merged : List Nat := []
  deriving DecidableEq, Repr

/-- MBX_MGMT_STATUS.STATE (R481). -/
inductive PairSt where
  | booting | running | restarting | halted
  deriving DecidableEq, Repr

/-- MBX_UPD_STATUS.STATE (R481). -/
inductive UpdSt where
  | idle | writing | checked | activated
  deriving DecidableEq, Repr

/-- Mailbox and management pair (R470 to R493). -/
structure Mgmt where
  /-- The 4 MiB of management core memory: 22 address bits, by byte, unlisted zero; R21, R472. -/
  mem : Mem := []
  /-- The 16 entries of the pair's physical memory protection; R470, R472. -/
  pmp : List PmpEntry := []
  /-- Staged MBX_REQ registers; 32 bits each; R481. -/
  reqCmd : W32 := 0
  reqTarget : W32 := 0
  reqParamLo : W32 := 0
  reqParamHi : W32 := 0
  reqArgs : List W32 := [0, 0, 0, 0]
  /-- Request queue in arrival order, at most 16; R482. -/
  requests : List Req := []
  /-- Reply queue, at most 16; R482. -/
  replies : List Reply := []
  queueFull : Bool := false
  /-- Pair state, running bank, KEYPATH; R481. -/
  st : PairSt := .booting
  runningBank : Nat := 0
  keypath : Bool := false
  /-- MDFVEC written (non-zero), MDF_ACTIVE; R475. -/
  mdfvec : W64 := 0
  mdfActive : Bool := false
  /-- The stacked trap entry's CSRs MSTACK, MSBOUND, SSTACK, SSBOUND; R474. -/
  mstack : W64 := 0
  msbound : W64 := 0
  sstack : W64 := 0
  ssbound : W64 := 0
  /-- MBX_WDT_TIMEOUT, ms, and its lock; 10 bits; R477. -/
  wdtTimeout : Nat := 10
  wdtLocked : Bool := false
  /-- TREF time of the last kick; R477. -/
  lastKick : Nat := 0
  restartCount : Nat := 0
  /-- TREF times of the restarts of the last 60 s; R479. -/
  restartTimes : List Nat := []
  /-- MBX_TRAP_CAUSE fields, MBX_TRAP_PC, MBX_TRAP_SP; R481. -/
  trapKind : Nat := 0
  trapInterrupt : Bool := false
  trapCause : BitVec 7 := 0
  trapPc : W64 := 0
  trapSp : W64 := 0
  /-- MBX_HEARTBEAT; 32 bits; and the TREF time of its last increment. -/
  heartbeat : W32 := 0
  beatAt : Nat := 0
  /-- MBX_RESTART_TIME; us; and the TREF time of step 1 of the restart in progress. -/
  restartTime : Nat := 0
  restartBegan : Nat := 0
  /-- MBX_UPD_STATUS; R481. -/
  updSt : UpdSt := .idle
  updBank : Nat := 0
  updReason : Nat := 0
  /-- MBX_ERR_COUNT; 16 bits each saturating. -/
  errFull : Nat := 0
  errUnknown : Nat := 0
  dfaultCount : Nat := 0
  lockstepCount : Nat := 0
  /-- IMAGE_DIGEST and CONFIG_DIGEST recorded at this start; R478. -/
  imageDigest : Bytes := []
  configDigest : Bytes := []
  /-- The sensor hub's last sample and its TREF time; R492. -/
  sample : Option Sample := none
  sampleAt : Nat := 0
  deriving DecidableEq, Repr

/-! ## Start, power and tamper (15, 16) -/

/-- What the main domain is doing (R497, R505 to R507, R520). -/
inductive Main where
  /-- Held in reset by RST_N (R538). -/
  | inReset
  /-- In the start sequence, waiting in step 4 for the self-test precondition (R501). -/
  | precondition
  /-- Waiting in step 10 for the entropy source, or with the root absent for its draw (R407, R497). -/
  | rootWait
  /-- DONE reached: in service, or ended in RETIRED (R498). -/
  | up
  /-- SAFE, from a start or from service (R506, R406). -/
  | safe
  /-- Secure hold (R521). -/
  | secureHold
  /-- Reset-hold after a boundary self-test failure (R507). -/
  | resetHold
  deriving DecidableEq, Repr

/-- Shedding level (R516). -/
inductive Level where
  | full | trim | essential | finish | secure
  deriving DecidableEq, Repr

/-- The uses of the SRAM (R21). -/
inductive SramUse where
  | scratch | bignum | lattice | keyCache | hmacCache | ordinalCache | nodeCache | contextCache | sequencers | staging | management
  | saveArea | treeCache
  deriving DecidableEq, Repr

/-- The start sequencer, supplies, reset, tamper and self-test. -/
structure Power where
  main : Main := .inReset
  /-- The SRAM region whose content the self-test save area holds; R21, R502. -/
  saved : Option SramUse := none
  /-- Pins RST_N (asserted low), PWR_GOOD and the debounced MACE_N; R68, R69, R71. -/
  rstAsserted : Bool := true
  pwrGood : Bool := true
  maceAsserted : Bool := false
  /-- Mace episodes longer than 60 s not yet logged; R537. -/
  maceHeldEpisodes : Nat := 0
  /-- The RST_N assertion lasts longer than 60 s; R70. -/
  longReset : Bool := false
  /-- A breach that makes the next start cold; R494. -/
  coldNext : Bool := true
  /-- The canary was found changed and its tamper step is not programmed yet; R497, R528, R532. -/
  canaryLost : Bool := false
  /-- Step 2 of this start programmed that step; R497. -/
  canaryStep : Bool := false
  /-- The step 10 of this start began at this TREF time; R505. -/
  waitSince : Nat := 0
  /-- GLB_START_STATUS fields; R508. -/
  startKind : Nat := 0
  startStep : Nat := 0
  startFail : Nat := 0
  prevFail : Nat := 0
  startLong : Bool := false
  startDone : Bool := false
  /-- GLB_START_TIME, us, and the TREF time of the release. -/
  startTime : Nat := 0
  releasedAt : Nat := 0
  /-- Shedding level; R516. -/
  level : Level := .full
  /-- Acceptance numbers from which on jobs stay off the parts parked at Trim and at Essential; R517. -/
  parkedTrim : Nat := 0
  parkedEssential : Nat := 0
  trimCount : Nat := 0
  essentialCount : Nat := 0
  finishCount : Nat := 0
  vddHigh : Bool := false
  monFail : Bool := false
  levelChanged : Bool := false
  /-- Supplies in mV as the monitors see them; R65, R514. -/
  vdd : Nat := 800
  vddm : Nat := 1800
  vaon : Nat := 900
  vbat : Nat := 3000
  /-- PWR_VDD_MIN; 16 bits; R540. -/
  vddMin : Nat := 0xFFFF
  /-- PWR_MON_TEST bits VDD, VDDM, VAON, VBAT; R519. -/
  monTest : BitVec 4 := 0
  /-- TMP_STATUS bits; R540. -/
  onBattery : Bool := false
  vbatLow : Bool := false
  sensorFail : Bool := false
  alarmFlag : Bool := false
  /-- TMP_ALARM: class (1 A, 2 B, 3 C), cause, slice; R540. -/
  alarmClass : Nat := 0
  alarmCause : Nat := 0
  alarmSlice : Nat := 0
  /-- TMP_ALARM_COUNT; 8 bits each saturating. -/
  countA : Nat := 0
  countB : Nat := 0
  countC : Nat := 0
  /-- Sensors that report light now, and that failed three tests; R540. -/
  lightNow : List Nat := []
  lightFail : List Nat := []
  /-- Consecutive failed tests and last results of the light sensors; R526. -/
  lightTries : Tbl Nat := []
  lightPass : List Nat := []
  /-- TMP_LATCH_SEL; 4 bits. -/
  latchSel : Nat := 0
  /-- TREF times of the last self-test of each light sensor and of each monitor; R519, R526. -/
  lightTestAt : Tbl Nat := []
  monTestAt : Tbl Nat := []
  /-- AON cycle at which the always-on domain last powered up, from which AON seconds count; R530. -/
  aonSince : Nat := 0
  /-- The held episode of the present MACE_N assertion is latched; R537. -/
  maceCounted : Bool := false
  /-- The present episode of VDD above 0.90 V is logged; R65. -/
  vddOver : Bool := false
  /-- BST_CTRL: ENABLE and PERIOD; R504. -/
  bstEnable : Bool := true
  bstPeriod : Nat := 24
  bstState : Nat := 0
  bstPartFailed : Bool := false
  bstDeferred : Bool := false
  bstStartPass : BitVec 6 := 0
  bstFenced : Nat := 0
  bstDefer : Nat := 0
  bstSel : Nat := 0
  /-- Core-wide parts whose first fault is being recovered; R547. -/
  recovering : List CorePart := []
  /-- The register port's datapath is fenced until the next start; R547. -/
  regPortFenced : Bool := false
  deriving DecidableEq, Repr

/-- Registers of the global block that no other field holds (R578, R554). -/
structure Glb where
  /-- GLB_S0_BIND and its lock; 28 bits; R579. -/
  s0Bind : BitVec 28 := 0
  s0Bound : Bool := false
  /-- GLB_RCTX_BASE_LO and _HI with their locks; R580. -/
  rctxLo : W32 := 0
  rctxHi : W32 := 0
  rctxLoLocked : Bool := false
  rctxHiLocked : Bool := false
  /-- GLB_ERR_STATUS fields; R578. -/
  hmacTagFails : Nat := 0
  ridDiscards : Nat := 0
  dupResponse : Bool := false
  unmapped : Bool := false
  lockedWrite : Bool := false
  /-- GLB_PART_SEL; 11 bits; R554. -/
  partSel : Nat := 0
  /-- GLB_STATUS.TREF_LOST; R578. -/
  trefLost : Bool := false
  /-- TB_CAD_T0, TB_CAD_SEL, TB_GRID_SEL; R182. -/
  cadT0 : Nat := 0
  cadSel : Nat := 0
  gridSel : Nat := 0
  /-- Latched _HI halves by the offset of their _LO, for the register port and for the pair; R576. -/
  hiPort : Tbl W32 := []
  hiPair : Tbl W32 := []
  deriving DecidableEq, Repr

/-- Time (R18). -/
structure Clock where
  /-- The TREF counter; 64 bits, 10 ns units. -/
  now : Nat := 0
  /-- TREF runs; R76. -/
  running : Bool := true
  /-- Cycles of the always-on clock of 32.768 kHz, and the part of the next one that has passed, in units of 10^-8 of a cycle;
  R18. -/
  aon : Nat := 0
  aonPhase : Nat := 0
  deriving DecidableEq, Repr

/-! ## Mirror groups (17) -/

/-- Group state of MIRROR_STATUS (R561). -/
inductive MirSt where
  | none | joining | member | leader
  deriving DecidableEq, Repr

/-- A request that its receiver has not answered yet: TYPE, body, TREF time at which it was last sent (R558). -/
structure Ask where
  type : Nat
  body : Bytes
  sentAt : Nat
  deriving DecidableEq, Repr

/-- What is held for one other member (R557, R558). -/
structure Peer where
  /-- Pair key, once formed; R557. -/
  key : Option Bytes := .none
  /-- PAIR_CTR of the last message sent and of the last one accepted. -/
  ctrOut : Nat := 0
  ctrIn : Nat := 0
  /-- The random values of our offered KEM key, and the digests of the JOIN_OFFERs that carried it. -/
  offerKey : Bytes := []
  offerDigests : List Bytes := []
  /-- The KEM key that the peer last offered, and our ciphertext to it. -/
  offerSeen : Bytes := []
  acceptCt : Bytes := []
  /-- The peer's MAK public key, from its JOIN_OFFER. -/
  makPub : Bytes := []
  /-- Requests sent and unanswered, oldest first. -/
  unanswered : List Ask := []
  /-- PAIR_CTR of the first LEASE_REQUEST of the present round. -/
  leaseCtr : Nat := 0
  /-- Counter 0 last heard. -/
  counter0 : Nat := 0
  deriving DecidableEq, Repr

/-- A block being granted by the leader (R564). -/
structure Granting where
  requester : Nat
  requestId : Nat
  kind : Nat
  handle : Nat
  target : Nat
  size : Nat
  first : Nat
  /-- Whether `first` has been settled and the records sent. -/
  sent : Bool
  /-- Members that have committed the end. -/
  acks : List Nat
  /-- Members still to answer END_LOOKUP, and the largest end heard; R565. -/
  lookups : List Nat
  largest : Nat
  lookupId : Nat
  deriving DecidableEq, Repr

/-- Mirror group state (R555 to R571). -/
structure Mirror where
  st : MirSt := .none
  own : Nat := 0
  n : Nat := 0
  leaseMs : Nat := 0
  cadAlign : Bool := false
  rosterGen : Nat := 0
  groupId : Bytes := []
  dids : List Bytes := []
  peers : Tbl Peer := []
  joinedAt : Nat := 0
  /-- Highest term seen, leader index, and the claim or lease of this core. -/
  term : Nat := 0
  leader : Option Nat := .none
  votes : List Nat := []
  /-- Members that granted the lease in force; R565. -/
  granters : List Nat := []
  /-- TREF time of the last TIME request; R560. -/
  timeAskedAt : Nat := 0
  /-- TREF time at which the last lease request was sent, and the lease's end. -/
  requestedAt : Nat := 0
  leaseEnd : Nat := 0
  candidate : Bool := false
  /-- Grant given: term, member and end; R562. -/
  grant : Option (Nat × Nat × Nat) := .none
  grantedTerm : Nat := 0
  noClaimUntil : Nat := 0
  lastHeartbeat : Nat := 0
  leaderCounter0 : Nat := 0
  offset : Int := 0
  skew : Bool := false
  behind : Bool := false
  accepted : Nat := 0
  discarded : Nat := 0
  blocksGranted : Nat := 0
  /-- Outbound messages waiting for MIRROR_TAKE; R561. -/
  outbound : List Bytes := []
  lastVector : Option Nat := .none
  nextRequest : Nat := 1
  nextLookup : Nat := 1
  /-- Requests of this member: (REQUEST_ID, kind, handle, target, B). -/
  asking : List (Nat × Nat × Nat × Nat × Nat) := []
  granting : List Granting := []
  /-- Ends committed on behalf of the group, (kind, handle, target, end). -/
  ends : List (Nat × Nat × Nat × Nat) := []
  /-- Leader's first request for a pair or key in this term already looked up; R565. -/
  looked : List (Nat × Nat) := []
  /-- TREF time at which each asking began. -/
  askedAt : Tbl Nat := []
  /-- BLOCK_RECORDs whose end waits for this core's store batch: (leader, requester, id, handle, target, end). -/
  acksDue : List (Nat × Nat × Nat × Nat × Nat × Nat) := []
  deriving DecidableEq, Repr

/-! ## The whole state -/

/-- The state of the block. -/
structure State where
  /-- Commands that wait, first in, first out. -/
  pending : List Instr := []
  clock : Clock := {}
  glb : Glb := {}
  fabric : Fabric := {}
  irq : Interrupts := {}
  links : Tbl Link := []
  slices : Tbl Slice := []
  rings : Tbl Ring := []
  pools : List Pool := []
  /-- Submissions between fetch and HEAD, oldest first. -/
  jobs : List Job := []
  /-- Number of the next submission. -/
  nextJob : Nat := 0
  sched : Sched := {}
  cfg : Cfg := {}
  keys : Keys := {}
  mdp : Mdp := {}
  ent : Entropy := {}
  per : Persist := {}
  store : Store := {}
  res : Reserve := {}
  mgmt : Mgmt := {}
  pwr : Power := {}
  mir : Mirror := {}
  /-- Outputs at the boundary, newest first; the model's own trace (log entry 7). -/
  outbox : List Out := []
  /-- How many free values have been drawn; the model's own counter (log entry 2). -/
  drawn : Nat := 0
  deriving DecidableEq, Repr

/-- Why the block stops. -/
inductive Fault where
  /-- A supply beyond its absolute maximum (R65: behaviour is not guaranteed); raised by VDD_HIGH, VAON_CHANGEOVER,
  SHEDDING_LEVEL_DOWN, SHEDDING_LEVEL_UP and SENSOR_SAMPLE; safe: the model stops where the spec gives no effect. -/
  | beyondAbsoluteMaximum
  deriving DecidableEq, Repr

/-- Why a command has no meaning in the model. -/
inductive Refusal where
  /-- A row of the table with no meaning yet; raised by no arm once every row is modelled; safe. -/
  | notModelled (mnemonic : String)
  deriving DecidableEq, Repr

/-- The block while RST_N holds the main domain of a factory-fresh die in reset: every register at its reset value, every
queue empty, every memory unwritten. -/
def State.reset : State := {}

end Sys2Proof.Machine
end

