-- ==== Sys2Proof/Machine/Sram.lean ====
section
/-! DEFINITION. The division of the SRAM and of each part of it, which no register changes (R21). -/
namespace Sys2Proof.Machine

/-- Every use of the SRAM. -/
def sramUses : List SramUse :=
  [.scratch, .bignum, .lattice, .keyCache, .hmacCache, .ordinalCache, .nodeCache, .contextCache, .sequencers, .staging, .management,
   .saveArea, .treeCache]

/-- How many units a use holds, and the bytes of one. -/
def sramUnits : SramUse → Nat × Nat
  | .scratch => (5120, 4096)
  | .bignum => (128, 65536)
  | .lattice => (32, 131072)
  | .keyCache => (16384, 256)
  | .hmacCache => (4096, 256)
  | .ordinalCache => (262144, 16)
  | .nodeCache => (2048, 4096)
  | .contextCache => (4096, 256)
  | .sequencers => (65536, 32)
  | .staging => (16, 262144)
  | .management => (1, 4194304)
  | .saveArea => (1, 1048576)
  | .treeCache => (768, 4096)
/-- Bytes of a use. -/
def sramBytes (u : SramUse) : Nat := (sramUnits u).1 * (sramUnits u).2

/-- Bytes of a port's DMA staging that one direction has: one half holds read data, the other write data (R44). -/
def stagingHalf : Nat := (sramUnits .staging).2 / 2

end Sys2Proof.Machine
end

