-- ==== Sys2Proof/Machine/Ops.lean ====
section
/-! DEFINITION. The named operations over the state that every family shares: free values, time, outputs, vectors,
table access. -/
namespace Sys2Proof.Machine

/-- The outcome of every command that completes. -/
abbrev Res := Host.Outcome State Fault Refusal

/-- Takes the number of the next free value (log entry 2). -/
def draw (s : State) : Nat × State := (s.drawn, { s with drawn := s.drawn + 1 })

/-- `n` free bytes under a draw. -/
def freeBytes (k n : Nat) : Bytes := (List.range n).map (Config.freeByte k)

/-- TREF units in a number of microseconds (R18). -/
def us (n : Nat) : Nat := 100 * n

/-- TREF units in a number of milliseconds. -/
def ms (n : Nat) : Nat := 100000 * n

/-- The TREF counter. -/
def now (s : State) : Nat := s.clock.now

/-- What crosses the boundary outwards, newest first. -/
def emit (s : State) (o : Out) : State := { s with outbox := o :: s.outbox }

/-- The main domain is out of reset and not held. -/
def mainOn (s : State) : Bool :=
  match s.pwr.main with
  | .inReset | .secureHold | .resetHold => false
  | .precondition | .rootWait | .up | .safe => true

/-- The core is in service: start-up reached DONE and neither SAFE nor RETIRED (R406, R498, R506). -/
def serving (s : State) : Bool :=
  s.pwr.main == .up && s.keys.lifecycle != .retired && s.keys.lifecycle != .safe

/-- A start has ended: in service, or in SAFE (R497, R506). -/
def pastStart (s : State) : Bool := s.pwr.main == .up || s.pwr.main == .safe
/-- A start waits in step 4 or in step 10 (R501, R505). -/
def inStart (s : State) : Bool := s.pwr.main == .precondition || s.pwr.main == .rootWait

/-- Both supplies of the always-on domain lie below their ranges: the main domain stays in reset and the guard has no supply
(R65, R67, R76). -/
def aonAbsent (s : State) : Bool := decide (s.pwr.vaon < 850) && decide (s.pwr.vbat < 2000)

/-- The guard answers the register port: the main domain is held, or the port's datapath is fenced (R73, R547). -/
def regGuarded (s : State) : Bool := !mainOn s || s.pwr.regPortFenced
/-- The guard's answer to an access: ABSENT with all-ones data, none without a supply (R73, R76). -/
def guardAnswer (s : State) : State := if aonAbsent s then s else emit s (.regAbsent (BitVec.allOnes 32))
/-- A write through the register port, with its response (R49, R50, R73). -/
def regWrite (s : State) (f : State → State) : State :=
  if regGuarded s then guardAnswer s else emit (f s) .regOk

/-- One step of 10 ns on an empty queue (log entry 9): TREF counts while it runs (R175), the always-on clock while it has a supply
(R18, R76). -/
def idleTick (s : State) : State :=
  let p := s.clock.aonPhase + 32768
  { s with clock := { s.clock with
    now := if s.clock.running then s.clock.now + 1 else s.clock.now
    aon := if aonAbsent s then s.clock.aon else s.clock.aon + p / 10 ^ 8
    aonPhase := if aonAbsent s then s.clock.aonPhase else p % 10 ^ 8 } }

/-! ## Tables -/

def portOf (s : State) (k : Nat) : Port := look s.fabric.ports k {}
def setPort (s : State) (k : Nat) (p : Port) : State :=
  { s with fabric := { s.fabric with ports := put s.fabric.ports k p } }
def sliceOf (s : State) (n : Nat) : Slice := look s.slices n {}
def setSlice (s : State) (n : Nat) (x : Slice) : State := { s with slices := put s.slices n x }
def updSlice (s : State) (n : Nat) (f : Slice → Slice) : State := setSlice s n (f (sliceOf s n))
def ringOf (s : State) (r : Nat) : Ring := look s.rings r {}
def setRing (s : State) (r : Nat) (x : Ring) : State := { s with rings := put s.rings r x }
def updRing (s : State) (r : Nat) (f : Ring → Ring) : State := setRing s r (f (ringOf s r))
def linkOf (s : State) (k : Nat) : Link := look s.links k {}
def setLink (s : State) (k : Nat) (x : Link) : State := { s with links := put s.links k x }

/-- FP0 is quiesced: the chip holds register-port accesses (R51, R60). -/
def portHeld (s : State) : Bool := mainOn s && (portOf s 0).qack
/-- An access through the register port, held while FP0 is quiesced. -/
def portAccess (c : Held) (s : State) (r : Res) : Res :=
  if portHeld s then .next { s with fabric := { s.fabric with heldAccess := s.fabric.heldAccess ++ [c] } } else r
/-- An access through one of the two paths; the internal one does not pass FP0 (R473). -/
def pathAccess (p : Path) (c : Held) (s : State) (r : Res) : Res :=
  match p with
  | .regPort => portAccess c s r
  | .pair => r

/-- A write through one of the two paths: the management pair reaches the register file through its device window, without a
response of the port (R473). -/
def pathWrite (p : Path) (s : State) (f : State → State) : State :=
  match p with
  | .regPort => regWrite s f
  | .pair => if mainOn s then f s else s

/-- The job with an id. -/
def jobOf (s : State) (id : Nat) : Option Job := s.jobs.find? (fun j => j.id == id)
/-- Replaces the job with the same id. -/
def setJob (s : State) (j : Job) : State :=
  { s with jobs := s.jobs.map (fun x => if x.id = j.id then j else x) }
def updJob (s : State) (id : Nat) (f : Job → Job) : State :=
  { s with jobs := s.jobs.map (fun x => if x.id = id then f x else x) }
def dropJob (s : State) (id : Nat) : State := { s with jobs := s.jobs.filter (fun x => x.id != id) }

/-- Code of an engine kind (R125). -/
def engCode : Engine → Nat
  | .pepper => 1
  | .saffron => 2
  | .hash => 3
  | .bignum => 4
  | .lattice => 5
  | .stateful => 6
  | .keyStore => 7
  | .entropy => 8

/-- Number of parts of a kind (R197, R225, R252, R295, R312); the key store and the entropy engine are one each. -/
def engCount : Engine → Nat
  | .pepper => 256
  | .saffron => 32
  | .hash => 128
  | .bignum => 128
  | .lattice => 32
  | .stateful | .keyStore | .entropy => 1

def partKey (k : Engine) (n : Nat) : Nat := engCode k * 1024 + n
def partOf (s : State) (k : Engine) (n : Nat) : Part := look s.sched.parts (partKey k n) {}
def setPart (s : State) (k : Engine) (n : Nat) (p : Part) : State :=
  { s with sched := { s.sched with parts := put s.sched.parts (partKey k n) p } }
def updPart (s : State) (k : Engine) (n : Nat) (f : Part → Part) : State := setPart s k n (f (partOf s k n))

/-- Lease epoch of a resource (R549). -/
def leaseEpoch (s : State) (r : Leased) : BitVec 16 := ((s.sched.epochs.find? (fun e => e.1 == r)).map (·.2)).getD 0
/-- The fault handler takes a lease back: the epoch advances, so that what carries the older one is discarded, and the revocation is
counted (R550). -/
def revoke (s : State) (r : Leased) : State :=
  let rest := s.sched.epochs.filter (fun e => e.1 != r)
  { s with sched := { s.sched with epochs := (r, leaseEpoch s r + 1) :: rest, leaseRevoked := satInc 32 s.sched.leaseRevoked } }
/-- The leases of every part a job holds are taken back. -/
def revokeParts (s : State) (j : Job) : State := (j.part.toList ++ j.more).foldl (fun s p => revoke s (.part p.1 p.2)) s

/-- Frees a part if the job holds it. -/
def freePart (id : Nat) (s : State) (p : Engine × Nat) : State :=
  if (partOf s p.1 p.2).busy = some id then updPart s p.1 p.2 (fun x => { x with busy := none }) else s
/-- Frees every part a job holds. -/
def freeParts (s : State) (j : Job) : State := (j.part.toList ++ j.more).foldl (freePart j.id) s

/-- The part is out of service: fenced by a fault, or under test (R503, R543). -/
def partOut (p : Part) : Bool := p.fence != .inService || p.test == .underTest
/-- A free part that may take a job. -/
def partFree (p : Part) : Bool := !partOut p && p.busy.isNone && !p.own
/-- Every part of a kind is fenced (R546). -/
def allFenced (s : State) (k : Engine) : Bool := (List.range (engCount k)).all (fun n => partOut (partOf s k n))
/-- A fenced part of a kind is in a test from which it may return to service (R503, R545). -/
def mayReturn (s : State) (k : Engine) : Bool :=
  (List.range (engCount k)).any (fun n => (partOf s k n).mayReturn || (partOf s k n).test == .underTest)
/-- A kind is unavailable (R546). -/
def kindGone (s : State) (k : Engine) : Bool := allFenced s k && !mayReturn s k

/-- SLC_n_STATE.STATE (R586). -/
def sliceCode : SliceSt → Nat
  | .free => 0
  | .active => 1
  | .faulted => 2
  | .resetting => 3
  | .destroying => 4
  | .creating => 5

/-- A slice takes up work: ACTIVE, and no slice fault of it under way (R94, R96). -/
def sliceServes (x : Slice) : Bool := x.st == .active && x.faulting.isNone

/-! ## Configuration and allotments -/

/-- The configuration a job works under (R193). -/
def cfgOf (s : State) (gen : W32) : CfgImage :=
  if s.cfg.cur.gen = gen then s.cfg.cur
  else match s.cfg.old with
    | some c => if c.gen = gen then c else s.cfg.cur
    | none => s.cfg.cur

/-- Allotment of a slice in a configuration. -/
def allotOf (c : CfgImage) (slice : Nat) : Allot := look c.allots slice {}
/-- Windows of a slice in a configuration. -/
def windowsOf (c : CfgImage) (slice : Nat) : List Window := look c.windows slice []

/-- Place of a kind in weights and caps. -/
def engWeight : Engine → Nat
  | .pepper => 0
  | .saffron => 1
  | .hash | .stateful => 2
  | .bignum => 3
  | .lattice => 4
  | .keyStore | .entropy => 5

def weightOf (c : CfgImage) (slice : Nat) (k : Engine) : Nat := (allotOf c slice).weights.getD (engWeight k) 0
def capOf (c : CfgImage) (slice : Nat) (k : Engine) : Nat := (allotOf c slice).caps.getD (engWeight k) 0

/-- Whether one window entry covers an address with the access wanted. -/
def windowHolds (w : Window) (write : Bool) (a : Nat) : Bool :=
  (if write then w.write else w.read) && decide (w.base ≤ a) && decide (a < w.base + 4096 * w.pages)

/-- Furthest address reached from `a` on through the windows of one access kind; `n` bounds the hops. -/
def windowReach (ws : List Window) (write : Bool) : Nat → Nat → Nat
  | 0, a => a
  | n + 1, a =>
    let b := ws.foldl (fun m w => if windowHolds w write a then max m (w.base + 4096 * w.pages) else m) a
    if b = a then a else windowReach ws write n b

/-- Whether a range of `len` bytes lies wholly in the union of the windows that grant the access (R43, R89). -/
def inWindows (ws : List Window) (write : Bool) (a len : Nat) : Bool :=
  len == 0 || decide (a + len ≤ windowReach ws write 17 a)

/-- Whether a range lies in the windows for reads and writes. -/
def inWindowsRW (ws : List Window) (a len : Nat) : Bool := inWindows ws false a len && inWindows ws true a len

/-- Windows staged for the next commit and validated but waiting ones, beside those in force (R92). -/
def windowSets (s : State) (slice : Nat) : List (List Window) :=
  [windowsOf s.cfg.cur slice, windowsOf s.cfg.staged slice] ++
    (match s.cfg.pendingCommit with
     | some c => [windowsOf c slice]
     | none => [])

/-- Class of a slice's ring range: the slice whose range holds a ring (R85). -/
def ringOwner (s : State) (r : Nat) : Option Nat :=
  (s.cfg.cur.allots.find? (fun e => decide (e.2.firstRing ≤ r) && decide (r < e.2.firstRing + e.2.ringCount))).map (·.1)

/-! ## Vectors (R56 to R58, R579) -/

/-- Records an event of a vector as pending; a message goes out when it can (R58). -/
def pendVector (s : State) (n : Nat) : State :=
  if s.irq.pendingVectors.contains n then s
  else { s with irq := { s.irq with pendingVectors := s.irq.pendingVectors ++ [n] } }

/-- Raises a manager vector: sets its bit of GLB_MGR_EVENT and records the event (R58, R579). -/
def raiseManager (s : State) (n : Nat) : State :=
  pendVector { s with irq := { s.irq with mgrEvent := s.irq.mgrEvent ||| BitVec.ofNat 15 (2 ^ n) } } n

end Sys2Proof.Machine
end

