-- ==== Sys2Proof/Machine/Fabric.lean ====
section
/-! DEFINITION. Fabric ports: which port takes a request, headers, splitting at 4 KiB, watches, interrupt messages and
ring-context write-backs (R38 to R48, R56 to R58, R110, R138). -/
namespace Sys2Proof.Machine

/-- A port on which the core issues requests: neither quiescing, quiesced nor fenced (R60, R63). -/
def portUsable (s : State) (k : Nat) : Bool :=
  let p := portOf s k
  !p.qreq && !p.qack && !p.fenced

/-- Outstanding requests of one channel of a port. -/
def outstanding (s : State) (k : Nat) (write : Bool) : Nat :=
  s.fabric.txns.countP (fun t => t.port == k && t.isWrite == write)

/-- Outstanding requests a channel holds at most (R44). -/
def channelRoom (write : Bool) : Nat := if write then 64 else 32

/-- Tags of a channel that no outstanding request uses (R41). -/
def freeTags (s : State) (k : Nat) (write : Bool) : List Nat :=
  (List.range (channelRoom write)).filter (fun g =>
    !s.fabric.txns.any (fun t => t.port == k && t.isWrite == write && t.tag == g))

/-- Bytes of a port's DMA staging that its outstanding requests of one direction hold (R21, R44). -/
def staged (s : State) (k : Nat) (write : Bool) : Nat :=
  ((s.fabric.txns.filter (fun t => t.port == k && t.isWrite == write)).map (·.len)).sum

/-- Ports that can take a request of `len` bytes now. -/
def openPorts (s : State) (write : Bool) (len : Nat) : List Nat :=
  (List.range 16).filter (fun k => portUsable s k && decide (outstanding s k write < channelRoom write) &&
    decide (staged s k write + len ≤ stagingHalf))

/-- PASID and colour under which the core issues for a slice (R42, R79). -/
def identOf (s : State) (slice : Nat) : BitVec 20 × BitVec 8 :=
  if slice = 0 then (s.glb.s0Bind.extractLsb' 0 20, s.glb.s0Bind.extractLsb' 20 8)
  else ((sliceOf s slice).pasid, (sliceOf s slice).colour)

/-- Key of the last-user table of fault attribution (R46). -/
def tagKey (port : Nat) (write : Bool) (tag : Nat) : Nat := port * 128 + b2n write * 64 + tag

/-- A read or write of host memory that the core makes inside a step for a slice (R42). -/
def readNote (s : State) (slice addr len : Nat) : Out := .hostRead addr len slice (identOf s slice).1 (identOf s slice).2
def writeNote (s : State) (slice addr : Nat) (data : Bytes) : Out :=
  .hostWrite addr data slice (identOf s slice).1 (identOf s slice).2

/-- Traffic of the core's own, which raises no slice fault (R95, log entry 31). -/
def ownTraffic : Purpose → Bool
  | .writeback _ | .storeBuffer _ | .storeBody _ | .storeHead _ | .storeIndex _ => true
  | .interrupt _ | .doorbell .. | .rearm .. | .poolHeader .. | .poolIndex .. | .poolEntry _ | .fetch .. | .operand .. | .stamp ..
  | .result _ | .phase _ | .body _ | .head _ | .poolWrite .. | .taken .. => false

/-- Whether an ORDERED read must still wait for write responses (R41). -/
def orderBlocked (s : State) (t : Txn) : Bool := t.ordered && s.fabric.txns.any (fun x => x.isWrite)

/-- Issues a request on a port with a tag; the choice among those free is a free value (log entry 2). Slice 0 issues
nothing before GLB_S0_BIND is written (R79). -/
def tryIssue (s : State) (t : Txn) : Option State :=
  let ports := openPorts s t.isWrite t.len
  if ports = [] ∨ orderBlocked s t ∨ (t.slice = 0 ∧ !s.glb.s0Bound) then none
  else
    let (n, s) := draw s
    let k := ports.getD (Config.freeNat n % ports.length) 0
    let tags := freeTags s k t.isWrite
    let (m, s) := draw s
    let g := tags.getD (Config.freeNat m % tags.length) 0
    let w := t.watch && Config.snCapable k
    let t := { t with port := k, tag := g, watch := w, pasid := (identOf s t.slice).1, colour := (identOf s t.slice).2 }
    let watches := match t.purpose with
      | .doorbell r _ | .rearm r _ => if w then s.fabric.watches ++ [{ port := k, line := t.addr / 64, ring := r }]
        else s.fabric.watches
      | _ => s.fabric.watches
    some { s with fabric := { s.fabric with
      txns := s.fabric.txns ++ [t]
      watches := watches
      lastTag := put s.fabric.lastTag (tagKey k t.isWrite g) { slice := t.slice, purpose := t.purpose } } }

/-- Offers each waiting request to the ports in turn; what no port takes keeps its place. -/
def pumpList : List Txn → State → State
  | [], s => s
  | t :: r, s =>
    match tryIssue s t with
    | some s' => pumpList r s'
    | none => pumpList r { s with fabric := { s.fabric with unissued := s.fabric.unissued ++ [t] } }

/-- Issues whatever the ports can take (R44, R62). -/
def pump (s : State) : State :=
  pumpList s.fabric.unissued { s with fabric := { s.fabric with unissued := [] } }

/-- Wants requests made. -/
def request (s : State) (ts : List Txn) : State :=
  pump { s with fabric := { s.fabric with unissued := s.fabric.unissued ++ ts } }

/-- Pieces of a range that do not cross a 4 KiB boundary (R44); `n` bounds their number. -/
def splitFuel : Nat → Nat → Nat → List (Nat × Nat)
  | 0, _, _ => []
  | n + 1, a, len =>
    if len = 0 then []
    else
      let c := min len (4096 - a % 4096)
      (a, c) :: splitFuel n (a + c) (len - c)
def splitRange (a len : Nat) : List (Nat × Nat) := splitFuel (len / 4096 + 2) a len

/-- Read requests for a range, each with the purpose at its offset. -/
def readTxns (slice a len : Nat) (p : Nat → Purpose) : List Txn :=
  (splitRange a len).map (fun c => { addr := c.1, len := c.2, slice := slice, purpose := p (c.1 - a) })

/-- Write requests for a range. -/
def writeTxns (slice a : Nat) (data : Bytes) (kind : BitVec 2) (p : Purpose) : List Txn :=
  (splitRange a data.length).map (fun c =>
    { isWrite := true, addr := c.1, len := c.2, slice := slice, kind := kind,
      data := subBytes data (c.1 - a) c.2, purpose := p })

/-- Whether some request, issued or not, has a purpose. -/
def hasTxn (s : State) (f : Purpose → Bool) : Bool :=
  s.fabric.txns.any (fun t => !t.sunk && f t.purpose) || s.fabric.unissued.any (fun t => f t.purpose)

/-- Forgets unissued requests of a purpose. -/
def dropUnissued (s : State) (f : Purpose → Bool) : State :=
  { s with fabric := { s.fabric with unissued := s.fabric.unissued.filter (fun t => !f t.purpose) } }

/-! ## Interrupt messages (R56 to R58) -/

/-- Slice to which a vector is allotted; vectors 0 to 15 and free ones are slice 0's. -/
def vectorSlice (s : State) (n : Nat) : Nat :=
  if n < 16 then 0
  else ((s.cfg.cur.allots.find? (fun e =>
    decide (e.2.firstVector ≤ n) && decide (n < e.2.firstVector + e.2.vectorCount))).map (·.1)).getD 0

/-- Sends one message for each pending vector whose entry is loaded and unmasked; the rest stay pending. -/
def pumpVectors (s : State) : State :=
  match s.irq.table with
  | none => s
  | some tab =>
    if !s.glb.s0Bound then s
    else
      let able := fun n => match tab[n]? with
        | some e => !e.mask
        | none => false
      let go := s.irq.pendingVectors.filter able
      let ts := go.flatMap (fun n => match tab[n]? with
        | some e => writeTxns (vectorSlice s n) e.addr (leBytes 4 e.data.toNat) 3 (.interrupt n)
        | none => [])
      request { s with irq := { s.irq with pendingVectors := s.irq.pendingVectors.filter (fun n => !able n) } } ts

/-- Raises a manager vector and sends what can be sent. -/
def notifyManager (s : State) (n : Nat) : State := pumpVectors (raiseManager s n)

/-! ## Ring contexts and pools -/

/-- Ring context table base (R580). -/
def rctxBase (s : State) : Nat := s.glb.rctxLo.toNat + 2 ^ 32 * s.glb.rctxHi.toNat

/-- Bytes 0x80 to 0xFF of a ring context (R109). -/
def contextBytes (s : State) (r : Nat) : Bytes :=
  let x := ringOf s r
  leBytes 2 x.epoch ++ leBytes 2 (match x.st with | .disabled => 0 | .enabled => 1 | .draining => 2) ++
    leBytes 4 x.cidx.toNat ++ leBytes 8 x.nextSeq.toNat ++
    leBytes 4 x.cqidx.toNat ++ leBytes 4 x.dbErr ++ leBytes 8 (now s) ++ zeros 96

/-- Pool of a slice at a base address. -/
def poolOf (s : State) (slice base : Nat) : Option Pool := s.pools.find? (fun p => p.slice == slice && p.base == base)
def setPool (s : State) (p : Pool) : State :=
  { s with pools := p :: s.pools.filter (fun x => !(x.slice == p.slice && x.base == p.base)) }

/-- Write-back of a pool's consumer index, with the context write-back that follows a consumption (R138). -/
def poolWriteBack (s : State) (r : Nat) : State :=
  let c := (ringOf s r).ctx
  match poolOf s c.slice c.rbpBase with
  | some p =>
    if p.dirty then
      request (setPool s { p with dirty := false })
        (writeTxns p.slice (p.base + 8) (leBytes 4 p.cons.toNat) 0 (.poolWrite p.slice p.base))
    else s
  | none => s

/-- Writes bytes 0x80 to 0xFF of a ring's context back to the table through slice 0 (R109, R110). -/
def writeBack (s : State) (r : Nat) : State :=
  let s := poolWriteBack s r
  let s := updRing s r (fun x => { x with wbDue := false, wbAt := now s })
  request s (writeTxns 0 (rctxBase s + 256 * r + 0x80) (contextBytes s r) 0 (.writeback r))

/-! ## Doorbell reads (R47, R61, R130 to R134) -/

/-- Whether a ring is observed through a watch rather than by polling or an agent link (R88, R132, R135). -/
def watched (s : State) (r : Nat) : Bool :=
  let x := ringOf s r
  x.ctx.watch && x.watchEntry && !x.ctx.agentDb

/-- Reads the doorbell word of a ring, arming its watch if it has an entry. -/
def readDoorbell (s : State) (r : Nat) (drain ordered : Bool) : State :=
  let x := ringOf s r
  if x.ctx.agentDb then s
  else
    let t : Txn :=
      { addr := x.ctx.dbAddr
        len := 8
        slice := x.ctx.slice
        watch := watched s r
        ordered := ordered
        purpose := .doorbell r drain }
    request s [t]

end Sys2Proof.Machine
end

