-- ==== Sys2Proof/Machine/Keccak.lean ====
section
/-! DEFINITION. Keccak, SHA-3, SHAKE, cSHAKE and KMAC, PRESUMED from FIPS 202 and SP 800-185, which R224 and R227 name
(log entry 10). -/
namespace Sys2Proof.Machine

/-- Round constants of Keccak-f[1600]. -/
def keccakRC : List (BitVec 64) :=
  [0x0000000000000001, 0x0000000000008082, 0x800000000000808a, 0x8000000080008000] ++
  [0x000000000000808b, 0x0000000080000001, 0x8000000080008081, 0x8000000000008009] ++
  [0x000000000000008a, 0x0000000000000088, 0x0000000080008009, 0x000000008000000a] ++
  [0x000000008000808b, 0x800000000000008b, 0x8000000000008089, 0x8000000000008003] ++
  [0x8000000000008002, 0x8000000000000080, 0x000000000000800a, 0x800000008000000a] ++
  [0x8000000080008081, 0x8000000000008080, 0x0000000080000001, 0x8000000080008008]

/-- Rotation of lane x + 5y. -/
def keccakRot : List Nat := [0, 1, 62, 28, 27, 36, 44, 6, 55, 20, 3, 10, 43, 25, 39, 41, 45, 15, 21, 8, 18, 2, 61, 56, 14]

/-- One round on the 25 lanes, lane x + 5y at its index. -/
def keccakRound (a : List (BitVec 64)) (rc : BitVec 64) : List (BitVec 64) :=
  let c := (List.range 5).map (fun x =>
    a.getD x 0 ^^^ a.getD (x + 5) 0 ^^^ a.getD (x + 10) 0 ^^^ a.getD (x + 15) 0 ^^^ a.getD (x + 20) 0)
  let d := (List.range 5).map (fun x => c.getD ((x + 4) % 5) 0 ^^^ (c.getD ((x + 1) % 5) 0).rotateLeft 1)
  let e := (List.range 25).map (fun i => (a.getD i 0 ^^^ d.getD (i % 5) 0).rotateLeft (keccakRot.getD i 0))
  let b := (List.range 25).map (fun i =>
    let x := i % 5
    let y := i / 5
    e.getD ((x + 3 * y) % 5 + 5 * x) 0)
  let f := (List.range 25).map (fun i =>
    let x := i % 5
    let y := i / 5
    b.getD i 0 ^^^ (~~~(b.getD ((x + 1) % 5 + 5 * y) 0) &&& b.getD ((x + 2) % 5 + 5 * y) 0))
  match f with
  | [] => []
  | l :: r => (l ^^^ rc) :: r

/-- The permutation. -/
def keccakF (a : List (BitVec 64)) : List (BitVec 64) := keccakRC.foldl keccakRound a

/-- Absorbs one rate block. -/
def keccakAbsorb (a : List (BitVec 64)) (block : Bytes) : List (BitVec 64) :=
  let ws := (pieces 8 block).map (fun p => BitVec.ofNat 64 (leNat p))
  keccakF ((List.range 25).map (fun i => a.getD i 0 ^^^ ws.getD i 0))

/-- The bytes of a state. -/
def keccakBytes (a : List (BitVec 64)) : Bytes := a.flatMap (fun w => leBytes 8 w.toNat)

/-- Squeezes `n` blocks of `rate` bytes. -/
def keccakSqueeze (rate : Nat) : Nat → List (BitVec 64) → Bytes
  | 0, _ => []
  | n + 1, a => (keccakBytes a).take rate ++ keccakSqueeze rate n (keccakF a)

/-- Padding: the domain byte after the message, the top bit of the last byte set. -/
def keccakPad (rate : Nat) (dom : Byte) (msg : Bytes) : Bytes :=
  let r := msg.length % rate
  if r = rate - 1 then msg ++ [dom ||| 0x80]
  else msg ++ [dom] ++ zeros (rate - 2 - r) ++ [0x80]

/-- The sponge: rate, domain byte, message, output length. -/
def keccak (rate : Nat) (dom : Byte) (msg : Bytes) (n : Nat) : Bytes :=
  let a := (pieces rate (keccakPad rate dom msg)).foldl keccakAbsorb (List.replicate 25 0)
  (keccakSqueeze rate (n / rate + 1) a).take n

def sha3 (n : Nat) (msg : Bytes) : Bytes := keccak (200 - 2 * n) 0x06 msg n
def shake128 (msg : Bytes) (n : Nat) : Bytes := keccak 168 0x1F msg n
def shake256 (msg : Bytes) (n : Nat) : Bytes := keccak 136 0x1F msg n

/-- Number of bytes that spell `v`, at least one (SP 800-185). -/
def encLen (v : Nat) : Nat := max 1 (ceilDiv (Nat.log2 v + 1) 8)
def leftEncode (v : Nat) : Bytes := BitVec.ofNat 8 (encLen v) :: beBytes (encLen v) v
def rightEncode (v : Nat) : Bytes := beBytes (encLen v) v ++ [BitVec.ofNat 8 (encLen v)]
def encodeString (s : Bytes) : Bytes := leftEncode (8 * s.length) ++ s
def bytepad (s : Bytes) (w : Nat) : Bytes := padMul w (leftEncode w ++ s)

/-- cSHAKE with rate 168 or 136; with both strings empty it is SHAKE. -/
def cshake (rate : Nat) (fname cust msg : Bytes) (n : Nat) : Bytes :=
  if fname = [] ∧ cust = [] then keccak rate 0x1F msg n
  else keccak rate 0x04 (bytepad (encodeString fname ++ encodeString cust) rate ++ msg) n

/-- KMAC with rate 168 or 136 and an output of `n` bytes. -/
def kmac (rate : Nat) (key msg : Bytes) (n : Nat) (cust : Bytes) : Bytes :=
  cshake rate (ascii "KMAC") cust (bytepad (encodeString key) rate ++ msg ++ rightEncode (8 * n)) n

def kmac128 (key msg : Bytes) (n : Nat) (cust : Bytes) : Bytes := kmac 168 key msg n cust
def kmac256 (key msg : Bytes) (n : Nat) (cust : Bytes) : Bytes := kmac 136 key msg n cust

end Sys2Proof.Machine
end

