-- ==== Sys2Proof/Machine/Sha2.lean ====
section
/-! DEFINITION. SHA-2 and HMAC, PRESUMED from FIPS 180-4 and FIPS 198-1, which R224 and R227 name (log entry 10). -/
namespace Sys2Proof.Machine

/-- Round constants of SHA-224 and SHA-256. -/
def sha256K : List (BitVec 32) :=
  [0x428a2f98, 0x71374491, 0xb5c0fbcf, 0xe9b5dba5, 0x3956c25b, 0x59f111f1, 0x923f82a4, 0xab1c5ed5] ++
  [0xd807aa98, 0x12835b01, 0x243185be, 0x550c7dc3, 0x72be5d74, 0x80deb1fe, 0x9bdc06a7, 0xc19bf174] ++
  [0xe49b69c1, 0xefbe4786, 0x0fc19dc6, 0x240ca1cc, 0x2de92c6f, 0x4a7484aa, 0x5cb0a9dc, 0x76f988da] ++
  [0x983e5152, 0xa831c66d, 0xb00327c8, 0xbf597fc7, 0xc6e00bf3, 0xd5a79147, 0x06ca6351, 0x14292967] ++
  [0x27b70a85, 0x2e1b2138, 0x4d2c6dfc, 0x53380d13, 0x650a7354, 0x766a0abb, 0x81c2c92e, 0x92722c85] ++
  [0xa2bfe8a1, 0xa81a664b, 0xc24b8b70, 0xc76c51a3, 0xd192e819, 0xd6990624, 0xf40e3585, 0x106aa070] ++
  [0x19a4c116, 0x1e376c08, 0x2748774c, 0x34b0bcb5, 0x391c0cb3, 0x4ed8aa4a, 0x5b9cca4f, 0x682e6ff3] ++
  [0x748f82ee, 0x78a5636f, 0x84c87814, 0x8cc70208, 0x90befffa, 0xa4506ceb, 0xbef9a3f7, 0xc67178f2]

/-- Round constants of SHA-384, SHA-512 and SHA-512/256. -/
def sha512K : List (BitVec 64) :=
  [0x428a2f98d728ae22, 0x7137449123ef65cd, 0xb5c0fbcfec4d3b2f, 0xe9b5dba58189dbbc] ++
  [0x3956c25bf348b538, 0x59f111f1b605d019, 0x923f82a4af194f9b, 0xab1c5ed5da6d8118] ++
  [0xd807aa98a3030242, 0x12835b0145706fbe, 0x243185be4ee4b28c, 0x550c7dc3d5ffb4e2] ++
  [0x72be5d74f27b896f, 0x80deb1fe3b1696b1, 0x9bdc06a725c71235, 0xc19bf174cf692694] ++
  [0xe49b69c19ef14ad2, 0xefbe4786384f25e3, 0x0fc19dc68b8cd5b5, 0x240ca1cc77ac9c65] ++
  [0x2de92c6f592b0275, 0x4a7484aa6ea6e483, 0x5cb0a9dcbd41fbd4, 0x76f988da831153b5] ++
  [0x983e5152ee66dfab, 0xa831c66d2db43210, 0xb00327c898fb213f, 0xbf597fc7beef0ee4] ++
  [0xc6e00bf33da88fc2, 0xd5a79147930aa725, 0x06ca6351e003826f, 0x142929670a0e6e70] ++
  [0x27b70a8546d22ffc, 0x2e1b21385c26c926, 0x4d2c6dfc5ac42aed, 0x53380d139d95b3df] ++
  [0x650a73548baf63de, 0x766a0abb3c77b2a8, 0x81c2c92e47edaee6, 0x92722c851482353b] ++
  [0xa2bfe8a14cf10364, 0xa81a664bbc423001, 0xc24b8b70d0f89791, 0xc76c51a30654be30] ++
  [0xd192e819d6ef5218, 0xd69906245565a910, 0xf40e35855771202a, 0x106aa07032bbd1b8] ++
  [0x19a4c116b8d2d0c8, 0x1e376c085141ab53, 0x2748774cdf8eeb99, 0x34b0bcb5e19b48a8] ++
  [0x391c0cb3c5c95a63, 0x4ed8aa4ae3418acb, 0x5b9cca4f7763e373, 0x682e6ff3d6b2b8a3] ++
  [0x748f82ee5defb2fc, 0x78a5636f43172f60, 0x84c87814a1f0ab72, 0x8cc702081a6439ec] ++
  [0x90befffa23631e28, 0xa4506cebde82bde9, 0xbef9a3f7b2c67915, 0xc67178f2e372532b] ++
  [0xca273eceea26619c, 0xd186b8c721c0c207, 0xeada7dd6cde0eb1e, 0xf57d4f7fee6ed178] ++
  [0x06f067aa72176fba, 0x0a637dc5a2c898a6, 0x113f9804bef90dae, 0x1b710b35131c471b] ++
  [0x28db77f523047d84, 0x32caab7b40c72493, 0x3c9ebe0a15c9bebc, 0x431d67c49c100d4c] ++
  [0x4cc5d4becb3e42b6, 0x597f299cfc657e2a, 0x5fcb6fab3ad6faec, 0x6c44198c4a475817]

def sha256Init : List (BitVec 32) := [0x6a09e667, 0xbb67ae85, 0x3c6ef372, 0xa54ff53a, 0x510e527f, 0x9b05688c, 0x1f83d9ab, 0x5be0cd19]
def sha224Init : List (BitVec 32) := [0xc1059ed8, 0x367cd507, 0x3070dd17, 0xf70e5939, 0xffc00b31, 0x68581511, 0x64f98fa7, 0xbefa4fa4]
def sha512Init : List (BitVec 64) :=
  [0x6a09e667f3bcc908, 0xbb67ae8584caa73b, 0x3c6ef372fe94f82b, 0xa54ff53a5f1d36f1] ++
  [0x510e527fade682d1, 0x9b05688c2b3e6c1f, 0x1f83d9abfb41bd6b, 0x5be0cd19137e2179]
def sha384Init : List (BitVec 64) :=
  [0xcbbb9d5dc1059ed8, 0x629a292a367cd507, 0x9159015a3070dd17, 0x152fecd8f70e5939] ++
  [0x67332667ffc00b31, 0x8eb44a8768581511, 0xdb0c2e0d64f98fa7, 0x47b5481dbefa4fa4]
def sha512_256Init : List (BitVec 64) :=
  [0x22312194fc2bf72c, 0x9f555fa3c84c64c2, 0x2393b86b6f53b151, 0x963877195940eabd] ++
  [0x96283ee2a88effe3, 0xbe5e1e2553863992, 0x2b0199fc2c85b8aa, 0x0eb72ddc81c52ca2]

/-- The rotation and shift amounts of one SHA-2 width: Sigma0, Sigma1, sigma0, sigma1. -/
structure ShaShape where
  s0 : List Nat
  s1 : List Nat
  g0 : List Nat
  g1 : List Nat

def sha256Shape : ShaShape := ⟨[2, 13, 22], [6, 11, 25], [7, 18, 3], [17, 19, 10]⟩
def sha512Shape : ShaShape := ⟨[28, 34, 39], [14, 18, 41], [1, 8, 7], [19, 61, 6]⟩

/-- Three rotations combined. -/
def shaBig (w : Nat) (r : List Nat) (x : BitVec w) : BitVec w :=
  x.rotateRight (r.getD 0 0) ^^^ x.rotateRight (r.getD 1 0) ^^^ x.rotateRight (r.getD 2 0)

/-- Two rotations and a shift combined. -/
def shaSmall (w : Nat) (r : List Nat) (x : BitVec w) : BitVec w :=
  x.rotateRight (r.getD 0 0) ^^^ x.rotateRight (r.getD 1 0) ^^^ (x >>> (r.getD 2 0))

/-- The message schedule, newest word first, extended by `n` words. -/
def shaSchedule (w : Nat) (sh : ShaShape) : Nat → List (BitVec w) → List (BitVec w)
  | 0, ws => ws
  | n + 1, ws =>
    shaSchedule w sh n
      ((shaSmall w sh.g1 (ws.getD 1 0) + ws.getD 6 0 + shaSmall w sh.g0 (ws.getD 14 0) + ws.getD 15 0) :: ws)

/-- One round on the eight working variables. -/
def shaRound (w : Nat) (sh : ShaShape) (v : List (BitVec w)) (kw : BitVec w × BitVec w) : List (BitVec w) :=
  match v with
  | [a, b, c, d, e, f, g, h] =>
    let t1 := h + shaBig w sh.s1 e + ((e &&& f) ^^^ (~~~e &&& g)) + kw.1 + kw.2
    let t2 := shaBig w sh.s0 a + ((a &&& b) ^^^ (a &&& c) ^^^ (b &&& c))
    [t1 + t2, a, b, c, d + t1, e, f, g]
  | _ => v

/-- Compression of one block, given as sixteen words. -/
def shaBlock (w : Nat) (sh : ShaShape) (ks : List (BitVec w)) (h : List (BitVec w)) (block : List (BitVec w)) :
    List (BitVec w) :=
  let ws := (shaSchedule w sh (ks.length - 16) block.reverse).reverse
  List.zipWith (· + ·) h ((ks.zip ws).foldl (shaRound w sh) h)

/-- A hash function of the SHA-2 family: word bytes, block bytes, length-field bytes. -/
def shaPad (block lenBytes : Nat) (msg : Bytes) : Bytes :=
  let z := (2 * block - lenBytes - 1 - msg.length % block) % block
  msg ++ [0x80] ++ zeros z ++ beBytes lenBytes (8 * msg.length)

/-- Words of a block, big-endian. -/
def shaWords (w : Nat) (b : Bytes) : List (BitVec w) := (pieces (w / 8) b).map (fun p => BitVec.ofNat w (beNat p))

/-- The compression chain over a padded message. -/
def shaChain (w : Nat) (sh : ShaShape) (ks init : List (BitVec w)) (padded : Bytes) : List (BitVec w) :=
  (pieces (2 * w) padded).foldl (fun h b => shaBlock w sh ks h (shaWords w b)) init

/-- Chaining words as bytes. -/
def shaOut (w : Nat) (h : List (BitVec w)) : Bytes := h.flatMap (fun x => beBytes (w / 8) x.toNat)

def sha256With (init : List (BitVec 32)) (n : Nat) (msg : Bytes) : Bytes :=
  (shaOut 32 (shaChain 32 sha256Shape sha256K init (shaPad 64 8 msg))).take n
def sha512With (init : List (BitVec 64)) (n : Nat) (msg : Bytes) : Bytes :=
  (shaOut 64 (shaChain 64 sha512Shape sha512K init (shaPad 128 16 msg))).take n

/-- The SHA-2 functions, by the HASH codes of R267. -/
inductive ShaAlg where
  | s224 | s256 | s384 | s512 | s512_256
  deriving DecidableEq, Repr

/-- The digest of a message. -/
def sha2 : ShaAlg → Bytes → Bytes
  | .s224, m => sha256With sha224Init 28 m
  | .s256, m => sha256With sha256Init 32 m
  | .s384, m => sha512With sha384Init 48 m
  | .s512, m => sha512With sha512Init 64 m
  | .s512_256, m => sha512With sha512_256Init 32 m

/-- SHA-384, the digest of identities, records and images. -/
def sha384 (m : Bytes) : Bytes := sha2 .s384 m

def ShaAlg.blockLen : ShaAlg → Nat
  | .s224 | .s256 => 64
  | .s384 | .s512 | .s512_256 => 128

def ShaAlg.outLen : ShaAlg → Nat
  | .s224 => 28
  | .s256 | .s512_256 => 32
  | .s384 => 48
  | .s512 => 64

/-- Chaining state after one full block (R234). -/
def shaState (a : ShaAlg) (block : Bytes) : Bytes :=
  match a with
  | .s224 => shaOut 32 (shaChain 32 sha256Shape sha256K sha224Init block)
  | .s256 => shaOut 32 (shaChain 32 sha256Shape sha256K sha256Init block)
  | .s384 => shaOut 64 (shaChain 64 sha512Shape sha512K sha384Init block)
  | .s512 => shaOut 64 (shaChain 64 sha512Shape sha512K sha512Init block)
  | .s512_256 => shaOut 64 (shaChain 64 sha512Shape sha512K sha512_256Init block)

/-- HMAC of FIPS 198-1. -/
def hmac (a : ShaAlg) (key msg : Bytes) : Bytes :=
  let k := fit a.blockLen (if key.length > a.blockLen then sha2 a key else key)
  sha2 a (k.map (· ^^^ 0x5C) ++ sha2 a (k.map (· ^^^ 0x36) ++ msg))

end Sys2Proof.Machine
end

