-- ==== Sys2Proof/Machine/Persist.lean ====
section
/-! DEFINITION. Counters, the ledger's queue and rows, the audit log and the emergency log (R413 to R446). -/
namespace Sys2Proof.Machine

/-- CRC-32C (Castagnoli, reflected) of a byte string, PRESUMED from RFC 3720 (log entry 10). -/
def crcStep : Nat → BitVec 32 → BitVec 32
  | 0, c => c
  | n + 1, c => crcStep n (if c.getLsbD 0 then (c >>> 1) ^^^ 0x82F63B78 else c >>> 1)
def crc32c (m : Bytes) : BitVec 32 :=
  ~~~(m.foldl (fun c b => crcStep 8 (c ^^^ b.setWidth 32)) 0xFFFFFFFF)

/-- The fuse unique secret as 32 bytes (R25, R363). -/
def fuseSecret : Bytes := (List.range 32).map Config.fuseSecretByte

/-- A fuse-based key (R367). -/
def fuseKey (label : String) (n : Nat) : Bytes :=
  kmac256 fuseSecret (fit 16 (ascii label)) n (ascii "PERAND-FUSE-V1")

/-! ## Counters (R423 to R426) -/

/-- Value of a counter. -/
def counterOf (s : State) (c : Nat) : Nat := look s.per.counters c 0
/-- A move never lowers a counter (R425, R34). -/
def moveCounter (s : State) (m : Nat × Nat) : State :=
  { s with per := { s.per with counters := put s.per.counters m.1 (max (counterOf s m.1) m.2) } }
/-- The ledger epoch (R424). -/
def ledgerEpoch (s : State) : Nat := counterOf s 5
/-- The key-admin counter (R424). -/
def keyAdmin (s : State) : Nat := counterOf s 0

/-! ## The ledger (R416 to R422) -/

/-- A record that the firmware commits for itself, under the pair's ledger write lock: an activation, a format, an archive (R441, R469,
R478, R491). -/
def firmwareRecord : Effect → Bool
  | .activate .. | .activateMoved .. | .activated _ | .formatRoot _ | .formatTrims _ | .formatDone | .archive _ | .archived _ => true
  | .nothing | .createKey _ | .applyKum _ | .applyJournal | .journalDone | .endJob _ | .useBlock .. | .serialBlock _ | .raised _
  | .rootCommitted => false

/-- Queues a record; what it announces starts when it is committed (R417, R418). -/
def enqueue (s : State) (p : LPayload) (e : Effect) : State :=
  { s with per := { s.per with queue := s.per.queue ++ [({ payload := p }, e)], writeLock := s.per.writeLock || firmwareRecord e } }
/-- The record at the head leaves the queue, and with the firmware's last the write lock goes. -/
def dequeue (s : State) : State :=
  let q := s.per.queue.tail
  { s with per := { s.per with queue := q, writeLock := s.per.writeLock && q.any (fun x => firmwareRecord x.2) } }

/-- Counter moves of a record. -/
def movesOf : LPayload → List (Nat × Nat)
  | .counter ms => ms
  | .doneRec _ _ a b => a.toList ++ b.toList
  | .root v _ => [(3, v)]
  | .start e _ => [(5, e), (6, e)]
  | .commission c _ => [(7, c)]
  | .logmark l _ => [(8, l)]
  | .intent .. | .rollback _ | .reserve .. => []

/-- AUX bytes that a record gives counters 3, 6, 7 and 8 (R424). -/
def auxOf : LPayload → Option (Nat × Bytes)
  | .root _ e => some (3, e)
  | .start _ m => some (6, m)
  | .commission _ d => some (7, d)
  | .logmark _ d => some (8, d)
  | _ => none

/-- Whether a record is live: the latest for its object, whose home does not yet hold its value (R421). -/
def isLive (s : State) (r : LRec) : Bool :=
  match r.payload with
  | .intent .. => (s.per.openIntents.any (fun e => e.2 == r.payload))
  | .reserve h e => look s.per.reserves h 0 == e
  | .rollback _ => false
  | p => (movesOf p).any (fun m => counterOf s m.1 == m.2 && (look s.per.homes m.1 {}).value != m.2)

/-- Whether a live record has a home (R421). -/
def hasHome : LPayload → Bool
  | .intent .. | .reserve .. | .rollback _ => false
  | _ => true

/-- What a checkpoint of a counter writes in its home row (R423). -/
def homeNow (s : State) (c seq : Nat) : Home := { value := counterOf s c, seq := seq, aux := look s.per.aux c [] }

/-- Keeps the 1,024 rows ahead clear: writes the homes of the live record that reaches the zone, or carries it
forward (R421). -/
def clearZone (s : State) (seq : Nat) : State :=
  let row := (seq + 1024) % 16384
  match look? s.per.ledger row with
  | none => s
  | some x =>
    if x.record.seq = seq ∨ !isLive s x.record then s
    else if hasHome x.record.payload then
      let homes := (movesOf x.record.payload).foldl (fun h m => put h m.1 (homeNow s m.1 x.record.seq)) s.per.homes
      { s with per := { s.per with homes := homes } }
    else
      let c : LRec := { payload := x.record.payload, carried := true }
      { s with per := { s.per with queue := (c, .nothing) :: s.per.queue } }

/-- Effects of a record on counters, reserves and intents once it is committed. -/
def applyRecord (s : State) (seq : Nat) (r : LRec) : State :=
  let s := (movesOf r.payload).foldl moveCounter s
  let s := match auxOf r.payload with
    | some a => { s with per := { s.per with aux := put s.per.aux a.1 (fit 32 a.2) } }
    | none => s
  match r.payload with
  | .intent .. => if r.carried then s
    else { s with per := { s.per with openIntents := put s.per.openIntents seq r.payload } }
  | .doneRec o .. | .rollback o => { s with per := { s.per with openIntents := del s.per.openIntents o } }
  | .reserve h e => { s with per := { s.per with reserves := put s.per.reserves h e } }
  | _ => s

/-- Sets THROTTLED and raises vector 9 when the credit has run out (R422). -/
def throttle (s : State) : State :=
  if s.per.credit = 0 ∧ !s.per.throttled then
    notifyManager { s with per := { s.per with throttled := true } } 9
  else s

/-- Takes one record of credit (R422); a carried record takes none. -/
def spendCredit (s : State) (carried : Bool) : State :=
  if carried then s
  else throttle { s with per := { s.per with credit := s.per.credit - 1 } }

/-- Commits a record at the head of the ring in the banks that took it (R417). -/
def commitRecord (s : State) (r : LRec) (b2 b3 : Bool) : State :=
  let seq := s.per.nextSeq
  let s := { s with per := { s.per with
    ledger := put s.per.ledger (seq % 16384) { record := { r with seq := seq }, bank2 := b2, bank3 := b3 }
    nextSeq := seq + 1 } }
  clearZone (spendCredit (applyRecord s seq r) r.carried) seq

/-- Commits a record at once, without credit: the start-up records of R422. -/
def commitNow (s : State) (p : LPayload) : State :=
  let seq := s.per.nextSeq
  let r : LRec := { seq := seq, payload := p }
  let s := { s with per := { s.per with
    ledger := put s.per.ledger (seq % 16384) { record := r, bank2 := !s.per.bank2Fault, bank3 := !s.per.bank3Fault }
    nextSeq := seq + 1 } }
  clearZone (applyRecord s seq r) seq

/-- Whether an operation that needs a commit may be accepted (R418, R422). -/
def ledgerOpen (s : State) : Bool := s.per.credit != 0 && decide (s.per.nextSeq < 2 ^ 48 - 1)

/-- Live records without a home (R421). -/
def homelessLive (s : State) : Nat := s.per.openIntents.length + s.per.reserves.length
/-- Whether a new INTENT, or a first RESERVE record, has room (R421). -/
def intentRoom (s : State) : Bool := decide (homelessLive s < 8192)

/-! ## The audit log (R435 to R445) -/

/-- Evidence codes (R437). -/
def isEvidence (code : Nat) : Bool :=
  [0x0002, 0x0003, 0x0004, 0x0005, 0x000A, 0x000B, 0x000C, 0x0010, 0x0011, 0x0012, 0x0013].contains code

/-- The 64 bytes of an audit record (R435). -/
def auditBytes (r : AuditRec) : Bytes :=
  let a := leBytes 8 r.lseq ++ leBytes 8 r.time ++ leBytes 2 r.code ++ leBytes 2 r.slice ++ leBytes 2 r.epoch ++
    fit 22 r.data
  let p := fit 16 r.prev
  a ++ leBytes 4 (crc32c (a ++ p)).toNat ++ p

/-- Audit record by LSEQ while its row still holds it. -/
def auditOf (s : State) (l : Nat) : Option AuditRec :=
  match look? s.per.audit (l % 12288) with
  | some r => if r.lseq = l then some r else none
  | none => none

/-- Unarchived records (R441). -/
def unarchived (s : State) : Nat := s.per.nextLseq - counterOf s 9

/-- An audit record by LSEQ in its row or in the emergency log (R439). -/
def heldRecord (s : State) (l : Nat) : Option AuditRec :=
  match auditOf s l with
  | some r => some r
  | none => s.per.emergency.find? (fun r => r.lseq == l)

/-- Writes a record to the emergency log (R444, R445). -/
def emergencyWrite (s : State) (r : AuditRec) : State :=
  notifyManager { s with per := { s.per with
    emgEntries := s.per.emgEntries + 1
    emergency := (r :: s.per.emergency).take 15
    otpDegraded := true } } 9

/-- DATA of a record: the event sets it (R435), how it lays its facts out is open (log entry 30). -/
def auditData (code : Nat) (facts : Bytes) : Bytes := (List.range 22).map (Config.auditByte code facts)

/-- The next audit record (R435). -/
def nextAudit (s : State) (code sl : Nat) (data : Bytes) : AuditRec :=
  let prev := match heldRecord s (s.per.nextLseq - 1) with
    | some r => if s.per.nextLseq = 0 then zeros 16 else (sha384 (auditBytes r)).take 16
    | none => zeros 16
  { lseq := s.per.nextLseq, time := now s, code := code, slice := sl
    epoch := ledgerEpoch s % 65536, data := auditData code data, prev := prev }

/-- Under the overwrite policy, counter 11 moves after every 256 records written over (R442). -/
def countOver (s : State) : State :=
  if s.per.overwritten + 1 = 256 then
    enqueue { s with per := { s.per with overwritten := 0 } } (.counter [(11, counterOf s 11 + 1)]) .nothing
  else { s with per := { s.per with overwritten := s.per.overwritten + 1 } }

/-- Places a record in its row, with the LOGMARK after every 256th (R436) and LOG_FULL (R442). -/
def placeAudit (s : State) (r : AuditRec) : State :=
  let isOver := decide (unarchived s ≥ 12288)
  let s := { s with per := { s.per with nextLseq := r.lseq + 1, audit := put s.per.audit (r.lseq % 12288) r } }
  let s := if isOver then countOver s else s
  let s := if (r.lseq + 1) % 256 = 0 then enqueue s (.logmark r.lseq ((sha384 (auditBytes r)).take 32)) .nothing else s
  if unarchived s ≥ 12224 ∧ !s.per.logFull then notifyManager { s with per := { s.per with logFull := true } } 9 else s

/-- Appends a record to the log ring; one whose row fails in both banks goes to the emergency log, and a DEGRADED record
follows when its row is available (R444). -/
def appendLog (s : State) (code sl : Nat) (data : Bytes) : State :=
  let r := nextAudit s code sl data
  if s.per.logRowsFail.contains (r.lseq % 12288) then
    let s := emergencyWrite { s with per := { s.per with nextLseq := r.lseq + 1 } } r
    let d := nextAudit s 0x0013 0xFFFF []
    if s.per.logRowsFail.contains (d.lseq % 12288) then s else placeAudit s d
  else placeAudit s r

/-- Writes a log record unless the rate limit (R443) or a full log (R442) suppresses it. -/
def writeLog (s : State) (code sl : Nat) (data : Bytes) : State :=
  let e := isEvidence code
  let policy := counterOf s 10 % 2 = 1
  if !e ∧ look s.per.rate code 0 ≥ 512 then
    { s with per := { s.per with suppressedRate := bump s.per.suppressedRate code (2 ^ 64 - 1)
                                 suppressed := s.per.suppressed + 1 } }
  else if ¬policy ∧ (unarchived s ≥ 12288 ∨ (unarchived s ≥ 12224 ∧ !e)) then
    { s with per := { s.per with suppressedFull := bump s.per.suppressedFull code (2 ^ 64 - 1)
                                 suppressed := s.per.suppressed + 1 } }
  else appendLog { s with per := { s.per with rate := bump s.per.rate code (2 ^ 64 - 1) } } code sl data

/-- ACK_PENDING (R445). -/
def ackPending (s : State) : Bool := decide (s.per.emgEntries > s.per.emgAcked)

/-! ## Evidence latches (R530, R531) -/

/-- The always-on domain latches an event: the first of its kind since the last start takes an empty entry, later
ones raise its REPEAT; with all sixteen full a new kind takes the oldest entry of KIND 0x05, else entry 15 counts it. -/
def latch (s : State) (kind sensor : Nat) : State :=
  let used := s.per.latches
  match used.find? (fun e => e.2.kind == kind && !e.2.counted) with
  | some e => { s with per := { s.per with latches := put used e.1 { e.2 with again := satInc 8 e.2.again } } }
  | none =>
    let n : Latch := { kind := kind, sensor := sensor, seconds := (s.clock.aon - s.pwr.aonSince) / 32768 % 2 ^ 32 }
    match (List.range 16).find? (fun i => (look used i {}).kind == 0) with
    | some i => { s with per := { s.per with latches := put used i n } }
    | none =>
      match used.find? (fun e => e.2.kind == 5) with
      | some e => { s with per := { s.per with latches := put used e.1 n } }
      | none =>
        let l := look used 15 {}
        { s with per := { s.per with latches := put used 15 { l with again := satInc 8 l.again } } }

/-! ## Battery-backed memory (R24, R445, R497, R530) -/

/-- What a start programs into the canary: byte i is 0xA5 XOR i. -/
def canaryBytes : Bytes := (List.range 32).map (fun i => 0xA5 ^^^ BitVec.ofNat 8 i)

/-- The 8 bytes of an event latch. -/
def latchBytes (l : Latch) : Bytes :=
  leBytes 1 l.kind ++ leBytes 1 (b2n l.counted) ++ leBytes 1 l.again ++ leBytes 1 l.sensor ++ leBytes 4 l.seconds

/-- The emergency log: its header and 15 slots, a ring in LSEQ order. -/
def emergencyBytes (p : Persist) : Bytes :=
  let h := ascii "PRDEMLG1" ++ leBytes 8 p.emgEntries ++ leBytes 8 p.emgAcked ++ zeros 36
  let slot := fun (i : Nat) =>
    match p.emergency[(p.emgEntries + 14 - i) % 15]? with
    | some r => auditBytes r
    | none => zeros 64
  h ++ leBytes 4 (crc32c h).toNat ++ (List.range 15).flatMap slot

/-- The 4 KiB of battery-backed memory, zeros in every reserved byte (R24). -/
def batteryBytes (p : Persist) : Bytes :=
  fit 32 p.rootA ++ fit 32 p.rootB ++ fit 8 p.rootCheck ++ zeros 24 ++ fit 32 p.canary ++
    (List.range 16).flatMap (fun i => latchBytes (look p.latches i {})) ++ zeros 2816 ++ emergencyBytes p

end Sys2Proof.Machine
end

