-- ==== Sys2Proof/Machine/Cadence.lean ====
section
/-! DEFINITION. Periods of cadenced rings (R170 to R181). -/
namespace Sys2Proof.Machine

/-- Period T of a ring in TREF units. -/
def periodOf (c : RingCtx) : Nat := us c.periodUs

def updCad (s : State) (r : Nat) (f : Cadence → Cadence) : State := updRing s r (fun x => { x with cad := f x.cad })

/-- Takes the parameters a commit staged for the next opening; that opening is the new origin (R176). -/
def takeStaged (x : Ring) (b : Nat) : Ring :=
  match x.cad.staged with
  | none => x
  | some (p, n, c) =>
    { x with ctx := { x.ctx with periodUs := p, budget := n, catchup := c }
             cad := { x.cad with staged := none, t0 := b, period := 0, inPeriod := false } }

/-- Opens a period at b (R172), c*T rounded down (log entry 164); a period of zero makes the ring uncadenced and stops its cadence (R176). -/
def openRing (x : Ring) (b : Nat) : Ring :=
  let x := takeStaged x b
  if x.ctx.periodUs = 0 then { x with cad := { x.cad with st := .stopped, accepting := false, inPeriod := false } }
  else
    let t := periodOf x.ctx
    let cut := min (x.ctx.catchup * t / 16) x.cad.debt
    { x with cad := { x.cad with
      st := .running, accepting := true, inPeriod := true, rejoin := false, regain := false
      budgetLeft := x.ctx.budget
      debt := x.cad.debt - cut
      scheduledEnd := b + t - cut
      period := x.cad.period + (if x.cad.inPeriod then 1 else 0)
      periods := satInc 32 x.cad.periods } }

def openPeriod (s : State) (r b : Nat) : State := updRing s r (fun x => openRing x b)

/-- Whether work accepted in the period in progress has no completion yet (R172). -/
def periodWork (s : State) (r : Nat) : Bool :=
  s.jobs.any (fun j => j.ring == r && j.phase != .waiting && j.period == some (ringOf s r).cad.period)

/-- First boundary t0 + n T that is not earlier than a moment, and its n (R174, R175). -/
def boundaryFrom (x : Ring) (m : Nat) : Nat × Nat :=
  let t := max 1 (periodOf x.ctx)
  let n := ceilDiv (m - x.cad.t0) t
  (x.cad.t0 + n * t, n)

/-- Writes the cadence-lost record, which counts the periods passed over up to the boundary at or after a moment (R174, R175). -/
def logLost (s : State) (r m : Nat) : State :=
  let x := ringOf s r
  writeLog s 0x0006 x.ctx.slice (leBytes 2 r ++ leBytes 4 ((boundaryFrom x m).2 - (x.cad.period + 1)))

/-- Sets the opening of the next period on the grid, at the boundary at or after a moment; one that has come opens at once. -/
def openOnGrid (s : State) (r m : Nat) : State :=
  let b := boundaryFrom (ringOf s r) m
  let s := updCad s r (fun c =>
    { c with debt := 0, openAt := b.1, period := b.2, inPeriod := false, rejoin := true, regain := false, accepting := false })
  if b.1 ≤ now s then openPeriod s r b.1 else s

/-- The late work of a lost cadence is done: the record, and the opening at the first boundary not earlier (R174). -/
def rejoinGrid (s : State) (r : Nat) : State := openOnGrid (logLost s r (now s)) r (now s)

/-- The last completion of a late period is written: the phase debt grows and the next period opens, on the grid after
a loss (R172, R174), after TREF's return at the first boundary later than this moment (R175). -/
def lateWorkDone (s : State) (r : Nat) : State :=
  let x := ringOf s r
  if x.cad.st != .late || periodWork s r || !x.cad.inPeriod || !s.clock.running then s
  else if x.cad.regain then openOnGrid s r (now s + 1)
  else if x.cad.rejoin then rejoinGrid s r
  else openPeriod (updCad s r (fun c => { c with debt := c.debt + (now s - c.scheduledEnd) })) r (now s)

/-- A STOP: no further period opens, and the one in progress stops accepting (R180). -/
def stopCadence (s : State) (r : Nat) : State :=
  updCad s r (fun c => { c with st := .stopped, accepting := false, rejoin := false, regain := false, inPeriod := false })

/-- Reports cadence lost: the count, the flag, vector 6 (R174 step 1, R175). -/
def reportLost (s : State) (r : Nat) : State :=
  notifyManager (updCad s r (fun c => { c with
    lost := satInc 32 c.lost, cadenceLost := true, accepting := false, rejoin := true })) 6

end Sys2Proof.Machine
end

