-- ==== Sys2Proof/Machine/Completion.lean ====
section
/-! DEFINITION. From the end of a submission's work to its HEAD: the completion sequencer, completion layout, interrupt
coalescing, notices, drains, return-buffer pools and descriptor fetch (R9, R22, R27, R112 to R145, R593, R594). -/
namespace Sys2Proof.Machine

/-- The job has been accepted: its taken stamp has been issued (R121), before a restart for a recovered one. -/
def accepted (j : Job) : Bool := j.phase != .waiting || j.recovered

/-- Accepted jobs of a ring. -/
def ringWork (s : State) (r : Nat) : Bool := s.jobs.any (fun j => j.ring == r && accepted j)
/-- Any submission of a ring, accepted or not. -/
def ringBusy (s : State) (r : Nat) : Bool := s.jobs.any (fun j => j.ring == r)

/-- The first descriptor of a submission. -/
def headDesc (j : Job) : Desc := j.descs.getD 0 {}
/-- The descriptor of the step in progress. -/
def stepDesc (j : Job) : Desc := j.descs.getD j.step {}
/-- Flags of a descriptor (R117). -/
def flagChain (d : Desc) : Bool := d.flags.getLsbD 0
def flagBarrier (d : Desc) : Bool := d.flags.getLsbD 1
def flagFence (d : Desc) : Bool := d.flags.getLsbD 2
def flagNotify (d : Desc) : Bool := d.flags.getLsbD 3
def flagExt (d : Desc) : Bool := d.flags.getLsbD 4
def flagSaffron (d : Desc) : Bool := d.flags.getLsbD 5

/-! ## Status codes (R145) -/

def stDone : Nat := 0x00
def stUnverified : Nat := 0x01
def stVerifyFalse : Nat := 0x02
def stBatchPartial : Nat := 0x03
def stBadOpcode : Nat := 0x10
def stBadLength : Nat := 0x11
def stBadAlign : Nat := 0x12
def stBadParam : Nat := 0x13
def stBadCurve : Nat := 0x14
def stKeyAbsent : Nat := 0x20
def stKeyUse : Nat := 0x21
def stKeyIntegrity : Nat := 0x22
def stKeyClass : Nat := 0x23
def stKeyExhausted : Nat := 0x24
def stDmaRead : Nat := 0x30
def stDmaWrite : Nat := 0x31
def stProtection : Nat := 0x32
def stWindow : Nat := 0x33
def stNoRight : Nat := 0x40
def stEntropy : Nat := 0x41
def stStoreUnavailable : Nat := 0x42
def stStoreIntegrity : Nat := 0x43
def stAbortReset : Nat := 0x50
def stAbortAlarm : Nat := 0x51
def stAbortFault : Nat := 0x52
def stAbortChanged : Nat := 0x53
def stChainFailed : Nat := 0x70

/-- The done range (R145). -/
def isDone (st : Nat) : Bool := decide (st < 0x10)

/-! ## Completion layout (R112, R124 to R127) -/

/-- Bytes of a completion slot. -/
def slotSize (c : RingCtx) : Nat := if c.extSlots then 64 else 32
/-- Address of a completion slot. -/
def slotAddr (c : RingCtx) (idx : W32) : Nat := c.cqBase + slotSize c * (idx.toNat % 2 ^ c.sizeLog2)
/-- PHASE of a completion index: 1 in an even lap (R127). -/
def phaseOf (c : RingCtx) (idx : W32) : Bool := (idx.toNat / 2 ^ c.sizeLog2) % 2 == 0
/-- HEAD of a completion. -/
def headWord (c : RingCtx) (j : Job) : Nat :=
  j.seq % 2 ^ 48 + 2 ^ 48 * (j.epoch % 2 ^ 15) + 2 ^ 63 * b2n (phaseOf c j.cpl)

/-- STATUS of the completion. -/
def finalStatus (j : Job) : Nat := if j.chainFail then stChainFailed else j.ending.status

/-- Completion FLAGS (R124); a chain's failed step leaves UNVERIFIED alone, its failed check or abort none (R158). -/
def completionFlags (j : Job) : Nat :=
  if 2 ≤ j.descs.length ∧ j.chainFail then b2n j.unverified
  else if 2 ≤ j.descs.length ∧ !isDone j.ending.status then 0
  else b2n j.unverified + 2 * b2n j.retried + 4 * b2n j.late + 8 * b2n j.gridOverrun + 16 * b2n j.batchPartial

/-- RESULT: the failed step's status for a failed chain, the subcode for an error, the buffer address where one was used,
else the opcode's result word (R124, R593). -/
def resultWord (j : Job) : Nat :=
  if j.chainFail then j.ending.status + 256 * j.ending.sub
  else if !isDone j.ending.status then j.ending.sub
  else match j.buf with
    | some b => if j.bufUsed ∧ j.resultLen ≠ 0 then b else j.result
    | none => j.result

/-- RESULT_LEN, saturated at 4 GiB (R124). -/
def lenWord (n : Nat) : Nat := if n ≥ 2 ^ 32 then 0xFFFFFFFF else n

/-- Bytes 32 to 63 of an extended completion (R125). -/
def extBytes (j : Job) : Bytes :=
  if flagExt (headDesc j) then
    leBytes 8 j.dispatchTime ++ leBytes 8 j.releaseTime ++
      (match j.lastPart with
       | some (k, n) => leBytes 1 k ++ [0] ++ leBytes 2 n
       | none => zeros 4) ++ zeros 12
  else zeros 32

/-- Bytes 8 onward of a completion. -/
def completionBody (c : RingCtx) (j : Job) : Bytes :=
  [BitVec.ofNat 8 (finalStatus j), BitVec.ofNat 8 j.step] ++ leBytes 2 (completionFlags j) ++
    leBytes 4 (lenWord j.resultLen) ++ leBytes 8 (headDesc j).userTag ++ leBytes 8 (resultWord j) ++
    (if c.extSlots then extBytes j else [])

/-! ## The sequencer (R27, R126, R129) -/

/-- Sets LATE when the period of the submission has ended (R173). -/
def markLate (s : State) (j : Job) : Job :=
  if j.period.isSome ∧ now s > j.periodEnd then { j with late := true } else j

/-- Result writes of a job are under way. -/
def resultsPending (s : State) (id : Nat) : Bool :=
  hasTxn s (fun p => match p with
    | .result i => i == id
    | _ => false)

/-- Starts the PHASE read of a ring's oldest submission once its work has ended and its results are acknowledged (R27,
R129). -/
def sequencer (s : State) (r : Nat) : State :=
  match s.jobs.find? (fun j => j.ring == r) with
  | none => s
  | some j =>
    if j.phase = .ended ∧ !resultsPending s j.id then
      let c := (ringOf s r).ctx
      request (setJob s { j with phase := .phaseRead })
        [{ addr := slotAddr c j.cpl, len := 8, slice := j.slice, purpose := .phase j.id }]
    else s

/-- Writes the body of a completion (R126). -/
def writeBody (s : State) (j : Job) : State :=
  let c := (ringOf s j.ring).ctx
  let j := markLate s j
  let b := completionBody c j
  request (setJob s { j with phase := .bodyWrite, body := b })
    (writeTxns j.slice (slotAddr c j.cpl + 8) b 2 (.body j.id))

/-- Writes HEAD; a body that lacks a LATE flag that is now due is written again first (R126, R173; log entry 21). -/
def writeHead (s : State) (j : Job) : State :=
  let c := (ringOf s j.ring).ctx
  if (markLate s j).late ≠ j.late then writeBody s j
  else
    request (setJob s { j with phase := .headWrite })
      (writeTxns j.slice (slotAddr c j.cpl) (leBytes 8 (headWord c j)) 2 (.head j.id))

/-! ## Return-buffer pools (R138, R139, R593, R594) -/

/-- Whether an enabled ring names a pool. -/
def poolNamed (s : State) (sl base : Nat) : Bool :=
  s.rings.any (fun e => e.2.st == .enabled && e.2.ctx.slice == sl && e.2.ctx.rbpBase == base)

/-- Gives a buffer that a submission did not use back to the pool's free list; to the host once no enabled ring names
the pool (R593). -/
def returnBuffer (s : State) (r : Nat) (b : Option Nat) : State :=
  match b with
  | none => s
  | some a =>
    let c := (ringOf s r).ctx
    match poolOf s c.slice c.rbpBase with
    | some p => if poolNamed s c.slice c.rbpBase then setPool s { p with freeList := p.freeList ++ [a] } else s
    | none => s

/-- Drops a pool that no enabled ring names any more (R593, R594). -/
def dropIdlePools (s : State) : State :=
  { s with pools := s.pools.filter (fun p => poolNamed s p.slice p.base) }

/-! ## Interrupt messages and notices (R144) -/

/-- Offers a completion notice on the ring's link, or drops and counts it (R55, R144). -/
def offerNotice (s : State) (r : Nat) : State :=
  let x := ringOf s r
  let cfg := look s.cfg.cur.alCfg x.ctx.cnLink 0
  if !x.ctx.cnEnable then s
  else if cfg.extractLsb' 0 8 ≠ BitVec.ofNat 8 x.ctx.slice then
    updSlice s x.ctx.slice (fun y => { y with errNotice := satInc 8 y.errNotice })
  else
    let l := linkOf s x.ctx.cnLink
    match l.offered with
    | none => setLink s x.ctx.cnLink { l with offered := some (r, x.cqidx) }
    | some _ => setLink s x.ctx.cnLink { l with waiting := put l.waiting r x.cqidx }

/-- The moment of a message: the context is written back first (R110, R141). -/
def announce (s : State) (r : Nat) : State :=
  let x := ringOf s r
  if x.coalPending = 0 ∨ x.msgDue then s
  else writeBack (updRing s r (fun x => { x with msgDue := true })) r

/-- Sends the message and the notice once the write-back has its response. -/
def sendMessage (s : State) (r : Nat) : State :=
  let x := ringOf s r
  if !x.msgDue then s
  else
    let s := updRing s r (fun x => { x with msgDue := false, coalPending := 0 })
    let s := if x.ctx.vector = 0xFFFF then s
      else if x.ctx.vector < 16 then notifyManager s x.ctx.vector
      else pumpVectors (pendVector s x.ctx.vector)
    offerNotice s r

/-- Sends when the pending count reaches COAL_COUNT or the ring holds no accepted work (R144). -/
def coalesce (s : State) (r : Nat) : State :=
  let x := ringOf s r
  if x.coalPending ≠ 0 ∧ (x.coalPending ≥ x.ctx.coalCount ∨ !ringWork s r) then announce s r else s

/-! ## Descriptor fetch (R9, R22, R139, R160, R161) -/

/-- Sequencer entries a ring holds. -/
def ringEntries (s : State) (r : Nat) : Nat :=
  let x := ringOf s r
  s.jobs.countP (fun j => j.ring == r) + b2n (x.fetching || x.chain != [])

/-- Rings that are enabled. -/
def enabledRings (s : State) : List Nat := (s.rings.filter (fun e => e.2.st == .enabled)).map (·.1)

/-- Sequencer entries that all rings hold, of 65,536 (R22). -/
def heldEntries (s : State) : Nat := (s.rings.map (fun e => ringEntries s e.1)).sum
/-- Shared sequencer entries in use and in existence (R160): an enabled ring has sixteen of its own, a draining one none. -/
def sharedUsed (s : State) : Nat :=
  (s.rings.map (fun e => if e.2.st = .enabled then ringEntries s e.1 - 16 else ringEntries s e.1)).sum
def sharedTotal (s : State) : Nat := 65536 - 16 * (enabledRings s).length

/-- A ring's next descriptor fetch is wanted: a descriptor is pending, and the ring may fetch (R9, R149). -/
def wantsFetch (s : State) (r : Nat) : Bool :=
  let x := ringOf s r
  x.st == .enabled && !x.fetching && x.cidx != x.prod && sliceServes (sliceOf s x.ctx.slice) && serving s

/-- First ring of a list at or after a rotating pointer (R161). -/
def arbiter (ptr : Nat) (rings : List Nat) : Option Nat :=
  match rings.filter (fun r => decide (ptr ≤ r)) with
  | r :: rs => some (rs.foldl min r)
  | [] => match rings with
    | [] => none
    | r :: rs => some (rs.foldl min r)

/-- The request that an arbiter serves among those waiting: the one in service until it is met, else the first at or after the
pointer (R161). -/
def arbServe (a : Arb) (rings : List Nat) : Arb :=
  match a.serving with
  | some r => if rings.contains r then a else { a with serving := arbiter a.ptr rings }
  | none => { a with serving := arbiter a.ptr rings }
/-- The arbiter after a grant to a ring (R161). -/
def arbGrant (r : Nat) : Arb := { ptr := (r + 1) % 4096, serving := none }

/-- Rings whose next submission needs a shared sequencer entry (R160). -/
def entryAskers (s : State) : List Nat :=
  (enabledRings s).filter (fun q => wantsFetch s q && (ringOf s q).chain == [] && decide (16 ≤ ringEntries s q))
/-- The arbiter of the shared entries takes up the next request. -/
def serveEntries (s : State) : State :=
  { s with sched := { s.sched with arbSequencer := arbServe s.sched.arbSequencer (entryAskers s) } }

/-- Whether a ring can take the sequencer entry its next submission needs: its own sixteen, else a shared entry that
the arbiter grants it (R22, R160, R161). A chain in progress already holds its entry. -/
def entryFree (s : State) (r : Nat) : Bool :=
  (ringOf s r).chain != [] || (decide (heldEntries s < 65536) && (decide (ringEntries s r < 16) ||
    (decide (sharedUsed s < sharedTotal s) && s.sched.arbSequencer.serving == some r)))

/-- Fetches the descriptor at CIDX (R9, R112). -/
def fetchNext (s : State) (r : Nat) : State :=
  let x := ringOf s r
  let shared := x.chain == [] && decide (ringEntries s r ≥ 16)
  let s := if shared then { s with sched := { s.sched with arbSequencer := arbGrant r } } else s
  let s := updRing s r (fun x => { x with fetching := true })
  request s [{ addr := x.ctx.sqBase + 64 * (x.cidx.toNat % 2 ^ x.ctx.sizeLog2), len := 64, slice := x.ctx.slice,
               purpose := .fetch r x.cidx.toNat }]

/-- Whether a pool transaction of a ring or pool is under way. -/
def poolAsking (s : State) (r sl base : Nat) : Bool :=
  hasTxn s (fun p => match p with
    | .poolHeader a b => a == sl && b == base
    | .poolIndex a b => a == sl && b == base
    | .poolEntry q => q == r
    | _ => false)

/-- A recovered submission of the ring still waits for its return buffer (R511). -/
def bufOwed (s : State) (r : Nat) : Bool := s.jobs.any (fun j => j.ring == r && j.bufDue)

/-- An entry of its pool is being read for a ring. -/
def entryAsked (s : State) (r : Nat) : Bool := hasTxn s (fun p => p == .poolEntry r)

/-- Rings that wait for a buffer of one pool. -/
def poolWaiters (s : State) (sl base : Nat) : List Nat :=
  (s.rings.map (·.1)).filter (fun q =>
    let x := ringOf s q
    x.ctx.slice == sl && x.ctx.rbpBase == base && x.reserved.isNone && x.poolFail.isNone && !entryAsked s q &&
      (bufOwed s q || (x.chain == [] && wantsFetch s q)))

/-- The arbiter of a pool takes up the next request (R161). -/
def servePool (s : State) (p : Pool) : Pool := { p with arb := arbServe p.arb (poolWaiters s p.slice p.base) }

/-- Gives a reserved buffer, or a pool's failure, to the first recovered submission that waits for one. -/
def giveOwed (s : State) (r : Nat) : State :=
  let x := ringOf s r
  match s.jobs.find? (fun j => j.ring == r && j.bufDue) with
  | none => s
  | some j =>
    if x.reserved.isNone ∧ x.poolFail.isNone then s
    else
      let s := updRing s r (fun x => { x with reserved := none, poolFail := none, poolCause := 0 })
      setJob s { j with bufDue := false, buf := x.reserved, poolFail := x.poolFail, poolCause := x.poolCause }

/-- Works towards the return buffer that a ring's next submission needs: the free list, then a new entry, then a new
read of the producer index (R139, R161, R593, R594). An entry counts as consumed once its read is issued (log entry 163). -/
def seekBuffer (s : State) (r : Nat) : State :=
  let c := (ringOf s r).ctx
  match (poolOf s c.slice c.rbpBase).map (servePool s) with
  | none => s
  | some p =>
    let s := setPool s p
    if poolAsking s r p.slice p.base ∨ p.arb.serving ≠ some r then s
    else if !p.ready then
      request s [{ addr := p.base + 8, len := 4, slice := p.slice, purpose := .poolHeader p.slice p.base }]
    else
      match p.freeList with
      | a :: rest =>
        updRing (setPool s { p with freeList := rest, arb := arbGrant r }) r (fun x => { x with reserved := some a, poolWait := false })
      | [] =>
        if p.prod - p.cons ≠ 0 then
          let s := setPool s { p with cons := p.cons + 1, dirty := true, arb := arbGrant r }
          let s := updRing s r (fun x => { x with poolWait := false })
          request s [{ addr := p.base + 64 + 8 * (p.cons.toNat % 2 ^ p.log2), len := 8, slice := p.slice,
                       purpose := .poolEntry r }]
        else if (ringOf s r).poolWait then s
        else
          request (updRing s r (fun x => { x with poolWait := true, poolPolledAt := now s }))
            [{ addr := p.base, len := 4, slice := p.slice, ordered := true, purpose := .poolIndex p.slice p.base }]

/-- Buffers for the recovered submissions of a ring, oldest first; `n` bounds their number. -/
def serveOwed : Nat → State → Nat → State
  | 0, s, _ => s
  | n + 1, s, r =>
    let s := giveOwed s r
    if bufOwed s r ∧ sliceServes (sliceOf s (ringOf s r).ctx.slice) ∧ serving s then
      let s := seekBuffer s r
      if (ringOf s r).reserved.isNone then s else serveOwed n s r
    else s

/-- One ring's turn: it seeks its buffer, and fetches once it holds all that R9 names; recovered submissions come first. -/
def fetchTurn (s : State) (r : Nat) : State :=
  let s := serveEntries (serveOwed (s.jobs.length + 1) s r)
  let x := ringOf s r
  if bufOwed s r ∨ !wantsFetch s r ∨ !entryFree s r then s
  else if x.ctx.rbpBase ≠ 0 ∧ x.reserved = none ∧ x.poolFail = none ∧ x.chain = [] then
    let s := seekBuffer s r
    if (ringOf s r).reserved ≠ none then fetchNext s r else s
  else fetchNext s r

/-- Offers every ring its turn to fetch. -/
def fetchPump (s : State) : State := ((s.rings.filter (fun e => e.2.st != .disabled)).map (·.1)).foldl fetchTurn s

/-! ## Drains (R133) and the end of a submission -/

/-- Issues the drain re-read when the ring has fetched everything and holds no submission (R133). -/
def drainRead (s : State) (r : Nat) : State :=
  let x := ringOf s r
  if x.drainDue ∧ x.st = .enabled ∧ x.cidx = x.prod ∧ !ringBusy s r then
    readDoorbell (updRing s r (fun x => { x with drainDue := false })) r true true
  else s

/-- Steps 5 and 6 of R96, once every accepted job of a faulted slice has its completion. -/
def settleFault (s : State) (sl : Nat) : State :=
  match (sliceOf s sl).faulting with
  | none => s
  | some c =>
    if s.jobs.any (fun j => j.slice == sl && accepted j) then s
    else
      let s := updSlice s sl (fun x => { x with st := .faulted, faultCause := c, faulting := none })
      notifyManager (writeLog s 0x0008 sl (leBytes 1 c)) 4

/-- A submission's HEAD is acknowledged, or its slot already shows the lap's phase: the entry frees (R27, R129). -/
def release (s : State) (j : Job) : State :=
  let s := dropJob s j.id
  let s := if j.bufUsed ∧ isDone j.ending.status ∧ !j.chainFail ∧ j.resultLen ≠ 0 then s else returnBuffer s j.ring j.buf
  let notify := flagNotify (headDesc j)
  let s := updRing s j.ring (fun x => { x with
    cqidx := x.cqidx + 1
    drainDue := true
    coalSince := if notify ∧ x.coalPending = 0 then now s else x.coalSince
    coalPending := x.coalPending + b2n notify })
  let s := { s with sched := { s.sched with
    recovered := if j.recovered then satInc 32 s.sched.recovered else s.sched.recovered } }
  fetchPump (settleFault (drainRead (lateWorkDone (coalesce (sequencer s j.ring) j.ring) j.ring) j.ring) j.slice)

/-! ## Ending a step or a submission -/

/-- The submission's work has ended: it gives up its parts, and the sequencer takes it (R129). -/
def endJob (s : State) (j : Job) : State :=
  let s := freeParts s j
  let s := setJob s { j with phase := .ended, decided := true, out := [], data := [], asked := [], part := none, more := [], loaded := none }
  sequencer s j.ring

/-- Ends a submission with a status of its own, before or beside any step's run (R12, R96, R150). -/
def endWith (s : State) (j : Job) (e : Ending) : State :=
  endJob s { j with ending := e, chainFail := false, result := 0, resultLen := j.written }

/-- Ends the step in progress at run time: a chain ends with CHAIN_STEP_FAILED (R158). -/
def failStep (s : State) (j : Job) (e : Ending) : State :=
  endJob s { j with ending := e, chainFail := decide (j.descs.length > 1), result := 0, resultLen := j.written }

end Sys2Proof.Machine
end

