-- ==== Sys2Proof/Machine/Aes.lean ====
section
/-! DEFINITION. AES and its modes, PRESUMED from FIPS 197, SP 800-38A, 38C, 38D, 38F and IEEE 1619, which R206 names
(log entry 10). A block is sixteen bytes. -/
namespace Sys2Proof.Machine

def aesSbox : List Byte :=
  [0x63, 0x7c, 0x77, 0x7b, 0xf2, 0x6b, 0x6f, 0xc5, 0x30, 0x01, 0x67, 0x2b, 0xfe, 0xd7, 0xab, 0x76] ++
  [0xca, 0x82, 0xc9, 0x7d, 0xfa, 0x59, 0x47, 0xf0, 0xad, 0xd4, 0xa2, 0xaf, 0x9c, 0xa4, 0x72, 0xc0] ++
  [0xb7, 0xfd, 0x93, 0x26, 0x36, 0x3f, 0xf7, 0xcc, 0x34, 0xa5, 0xe5, 0xf1, 0x71, 0xd8, 0x31, 0x15] ++
  [0x04, 0xc7, 0x23, 0xc3, 0x18, 0x96, 0x05, 0x9a, 0x07, 0x12, 0x80, 0xe2, 0xeb, 0x27, 0xb2, 0x75] ++
  [0x09, 0x83, 0x2c, 0x1a, 0x1b, 0x6e, 0x5a, 0xa0, 0x52, 0x3b, 0xd6, 0xb3, 0x29, 0xe3, 0x2f, 0x84] ++
  [0x53, 0xd1, 0x00, 0xed, 0x20, 0xfc, 0xb1, 0x5b, 0x6a, 0xcb, 0xbe, 0x39, 0x4a, 0x4c, 0x58, 0xcf] ++
  [0xd0, 0xef, 0xaa, 0xfb, 0x43, 0x4d, 0x33, 0x85, 0x45, 0xf9, 0x02, 0x7f, 0x50, 0x3c, 0x9f, 0xa8] ++
  [0x51, 0xa3, 0x40, 0x8f, 0x92, 0x9d, 0x38, 0xf5, 0xbc, 0xb6, 0xda, 0x21, 0x10, 0xff, 0xf3, 0xd2] ++
  [0xcd, 0x0c, 0x13, 0xec, 0x5f, 0x97, 0x44, 0x17, 0xc4, 0xa7, 0x7e, 0x3d, 0x64, 0x5d, 0x19, 0x73] ++
  [0x60, 0x81, 0x4f, 0xdc, 0x22, 0x2a, 0x90, 0x88, 0x46, 0xee, 0xb8, 0x14, 0xde, 0x5e, 0x0b, 0xdb] ++
  [0xe0, 0x32, 0x3a, 0x0a, 0x49, 0x06, 0x24, 0x5c, 0xc2, 0xd3, 0xac, 0x62, 0x91, 0x95, 0xe4, 0x79] ++
  [0xe7, 0xc8, 0x37, 0x6d, 0x8d, 0xd5, 0x4e, 0xa9, 0x6c, 0x56, 0xf4, 0xea, 0x65, 0x7a, 0xae, 0x08] ++
  [0xba, 0x78, 0x25, 0x2e, 0x1c, 0xa6, 0xb4, 0xc6, 0xe8, 0xdd, 0x74, 0x1f, 0x4b, 0xbd, 0x8b, 0x8a] ++
  [0x70, 0x3e, 0xb5, 0x66, 0x48, 0x03, 0xf6, 0x0e, 0x61, 0x35, 0x57, 0xb9, 0x86, 0xc1, 0x1d, 0x9e] ++
  [0xe1, 0xf8, 0x98, 0x11, 0x69, 0xd9, 0x8e, 0x94, 0x9b, 0x1e, 0x87, 0xe9, 0xce, 0x55, 0x28, 0xdf] ++
  [0x8c, 0xa1, 0x89, 0x0d, 0xbf, 0xe6, 0x42, 0x68, 0x41, 0x99, 0x2d, 0x0f, 0xb0, 0x54, 0xbb, 0x16]

def aesInvSbox : List Byte :=
  [0x52, 0x09, 0x6a, 0xd5, 0x30, 0x36, 0xa5, 0x38, 0xbf, 0x40, 0xa3, 0x9e, 0x81, 0xf3, 0xd7, 0xfb] ++
  [0x7c, 0xe3, 0x39, 0x82, 0x9b, 0x2f, 0xff, 0x87, 0x34, 0x8e, 0x43, 0x44, 0xc4, 0xde, 0xe9, 0xcb] ++
  [0x54, 0x7b, 0x94, 0x32, 0xa6, 0xc2, 0x23, 0x3d, 0xee, 0x4c, 0x95, 0x0b, 0x42, 0xfa, 0xc3, 0x4e] ++
  [0x08, 0x2e, 0xa1, 0x66, 0x28, 0xd9, 0x24, 0xb2, 0x76, 0x5b, 0xa2, 0x49, 0x6d, 0x8b, 0xd1, 0x25] ++
  [0x72, 0xf8, 0xf6, 0x64, 0x86, 0x68, 0x98, 0x16, 0xd4, 0xa4, 0x5c, 0xcc, 0x5d, 0x65, 0xb6, 0x92] ++
  [0x6c, 0x70, 0x48, 0x50, 0xfd, 0xed, 0xb9, 0xda, 0x5e, 0x15, 0x46, 0x57, 0xa7, 0x8d, 0x9d, 0x84] ++
  [0x90, 0xd8, 0xab, 0x00, 0x8c, 0xbc, 0xd3, 0x0a, 0xf7, 0xe4, 0x58, 0x05, 0xb8, 0xb3, 0x45, 0x06] ++
  [0xd0, 0x2c, 0x1e, 0x8f, 0xca, 0x3f, 0x0f, 0x02, 0xc1, 0xaf, 0xbd, 0x03, 0x01, 0x13, 0x8a, 0x6b] ++
  [0x3a, 0x91, 0x11, 0x41, 0x4f, 0x67, 0xdc, 0xea, 0x97, 0xf2, 0xcf, 0xce, 0xf0, 0xb4, 0xe6, 0x73] ++
  [0x96, 0xac, 0x74, 0x22, 0xe7, 0xad, 0x35, 0x85, 0xe2, 0xf9, 0x37, 0xe8, 0x1c, 0x75, 0xdf, 0x6e] ++
  [0x47, 0xf1, 0x1a, 0x71, 0x1d, 0x29, 0xc5, 0x89, 0x6f, 0xb7, 0x62, 0x0e, 0xaa, 0x18, 0xbe, 0x1b] ++
  [0xfc, 0x56, 0x3e, 0x4b, 0xc6, 0xd2, 0x79, 0x20, 0x9a, 0xdb, 0xc0, 0xfe, 0x78, 0xcd, 0x5a, 0xf4] ++
  [0x1f, 0xdd, 0xa8, 0x33, 0x88, 0x07, 0xc7, 0x31, 0xb1, 0x12, 0x10, 0x59, 0x27, 0x80, 0xec, 0x5f] ++
  [0x60, 0x51, 0x7f, 0xa9, 0x19, 0xb5, 0x4a, 0x0d, 0x2d, 0xe5, 0x7a, 0x9f, 0x93, 0xc9, 0x9c, 0xef] ++
  [0xa0, 0xe0, 0x3b, 0x4d, 0xae, 0x2a, 0xf5, 0xb0, 0xc8, 0xeb, 0xbb, 0x3c, 0x83, 0x53, 0x99, 0x61] ++
  [0x17, 0x2b, 0x04, 0x7e, 0xba, 0x77, 0xd6, 0x26, 0xe1, 0x69, 0x14, 0x63, 0x55, 0x21, 0x0c, 0x7d]

def aesSub (b : Byte) : Byte := aesSbox.getD b.toNat 0
def aesInvSub (b : Byte) : Byte := aesInvSbox.getD b.toNat 0

/-- Multiplication by x in GF(2^8). -/
def xtime (b : Byte) : Byte := (b <<< 1) ^^^ (if b.msb then 0x1B else 0)

/-- Multiplication in GF(2^8) by a small constant. -/
def gmul (c : Nat) (b : Byte) : Byte :=
  let b2 := xtime b
  let b4 := xtime b2
  let b8 := xtime b4
  (if bit c 0 then b else 0) ^^^ (if bit c 1 then b2 else 0) ^^^ (if bit c 2 then b4 else 0) ^^^
    (if bit c 3 then b8 else 0)

/-- Key schedule words, newest first: `n` more words after the key's `nk`. -/
def aesExpand (nk : Nat) : Nat → Nat → Byte → List Bytes → List Bytes
  | 0, _, _, ws => ws
  | n + 1, i, rcon, ws =>
    let prev := ws.getD 0 []
    let back := ws.getD (nk - 1) []
    let t :=
      if i % nk = 0 then xorBytes ((prev.drop 1 ++ prev.take 1).map aesSub) [rcon, 0, 0, 0]
      else if nk > 6 ∧ i % nk = 4 then prev.map aesSub
      else prev
    aesExpand nk n (i + 1) (if i % nk = 0 then xtime rcon else rcon) (xorBytes back t :: ws)

/-- Round keys of 16 bytes, first round first. -/
def aesKeys (key : Bytes) : List Bytes :=
  let nk := key.length / 4
  let ws := (aesExpand nk (4 * (nk + 7) - nk) nk 1 (pieces 4 key).reverse).reverse
  pieces 16 ws.flatten

def aesShift (s : Bytes) : Bytes := (List.range 16).map (fun i => s.getD ((i + 4 * (i % 4)) % 16) 0)
def aesInvShift (s : Bytes) : Bytes := (List.range 16).map (fun i => s.getD ((i + 12 * (i % 4)) % 16) 0)

/-- One column times the circulant matrix with first row `m`. -/
def aesMix (m : List Nat) (s : Bytes) : Bytes :=
  (List.range 16).map (fun i =>
    let c := 4 * (i / 4)
    let r := i % 4
    (List.range 4).foldl (fun a j => a ^^^ gmul (m.getD ((j + 4 - r) % 4) 0) (s.getD (c + j) 0)) 0)

/-- One block enciphered under round keys. -/
def aesEncWith (rks : List Bytes) (b : Bytes) : Bytes :=
  let n := rks.length - 1
  let s0 := xorBytes b (rks.getD 0 [])
  let s := ((rks.drop 1).take (n - 1)).foldl
    (fun s k => xorBytes (aesMix [2, 3, 1, 1] (aesShift (s.map aesSub))) k) s0
  xorBytes (aesShift (s.map aesSub)) (rks.getD n [])

/-- One block deciphered under round keys. -/
def aesDecWith (rks : List Bytes) (b : Bytes) : Bytes :=
  let n := rks.length - 1
  let s0 := xorBytes b (rks.getD n [])
  let s := ((rks.drop 1).take (n - 1)).reverse.foldl
    (fun s k => aesMix [14, 11, 13, 9] (xorBytes ((aesInvShift s).map aesInvSub) k)) s0
  xorBytes ((aesInvShift s).map aesInvSub) (rks.getD 0 [])

def aesEnc (key b : Bytes) : Bytes := aesEncWith (aesKeys key) (fit 16 b)
def aesDec (key b : Bytes) : Bytes := aesDecWith (aesKeys key) (fit 16 b)

/-! ## Chained modes, over the blocks of a string -/

/-- CBC encryption and decryption of whole blocks. -/
def cbcEncBlocks (rks : List Bytes) : Bytes → List Bytes → Bytes
  | _, [] => []
  | iv, p :: ps => let c := aesEncWith rks (xorBytes iv p); c ++ cbcEncBlocks rks c ps
def cbcDecBlocks (rks : List Bytes) : Bytes → List Bytes → Bytes
  | _, [] => []
  | iv, c :: cs => xorBytes iv (aesDecWith rks c) ++ cbcDecBlocks rks c cs
/-- CFB128; the last block may be short. -/
def cfbEncBlocks (rks : List Bytes) : Bytes → List Bytes → Bytes
  | _, [] => []
  | iv, p :: ps => let c := xorBytes (aesEncWith rks iv) p; c ++ cfbEncBlocks rks c ps
def cfbDecBlocks (rks : List Bytes) : Bytes → List Bytes → Bytes
  | _, [] => []
  | iv, c :: cs => xorBytes (aesEncWith rks iv) c ++ cfbDecBlocks rks c cs
/-- OFB. -/
def ofbBlocks (rks : List Bytes) : Bytes → List Bytes → Bytes
  | _, [] => []
  | iv, p :: ps => let o := aesEncWith rks iv; xorBytes o p ++ ofbBlocks rks o ps

/-- The next counter block: its low `width` bits, big-endian, plus one modulo two to the width (R215). -/
def ctrNext (width : Nat) (b : Bytes) : Bytes :=
  let v := beNat b
  let m := 2 ^ width
  beBytes 16 (v / m * m + (v % m + 1) % m)
/-- CTR with a counter of `width` bits. -/
def ctrBlocks (rks : List Bytes) (width : Nat) : Bytes → List Bytes → Bytes
  | _, [] => []
  | c, p :: ps => xorBytes (aesEncWith rks c) p ++ ctrBlocks rks width (ctrNext width c) ps

def cbcEnc (key iv m : Bytes) : Bytes := cbcEncBlocks (aesKeys key) iv (pieces 16 m)
def cbcDec (key iv m : Bytes) : Bytes := cbcDecBlocks (aesKeys key) iv (pieces 16 m)
def cfbEnc (key iv m : Bytes) : Bytes := cfbEncBlocks (aesKeys key) iv (pieces 16 m)
def cfbDec (key iv m : Bytes) : Bytes := cfbDecBlocks (aesKeys key) iv (pieces 16 m)
def ofb (key iv m : Bytes) : Bytes := ofbBlocks (aesKeys key) iv (pieces 16 m)
def ctr (key : Bytes) (width : Nat) (iv m : Bytes) : Bytes := ctrBlocks (aesKeys key) width iv (pieces 16 m)

/-! ## GCM -/

/-- Product in GF(2^128) of SP 800-38D, blocks as numbers with their first bit most significant. -/
def ghashMulFuel : Nat → Nat → Nat → Nat → Nat
  | 0, _, _, z => z
  | n + 1, x, v, z =>
    ghashMulFuel n x (if v % 2 = 1 then (v / 2) ^^^ (0xE1 * 2 ^ 120) else v / 2)
      (if x.testBit n then z ^^^ v else z)
def ghashMul (x y : Nat) : Nat := ghashMulFuel 128 x y 0

/-- GHASH of whole blocks. -/
def ghash (h : Nat) (m : Bytes) : Nat := (pieces 16 m).foldl (fun y b => ghashMul (y ^^^ beNat b) h) 0

/-- The pre-counter block of an IV. -/
def gcmJ0 (h : Nat) (iv : Bytes) : Bytes :=
  if iv.length = 12 then iv ++ [0, 0, 0, 1]
  else beBytes 16 (ghash h (padMul 16 iv ++ zeros 8 ++ beBytes 8 (8 * iv.length)))

/-- The 16-byte tag over associated data and ciphertext. -/
def gcmTag (key iv aad c : Bytes) : Bytes :=
  let h := beNat (aesEnc key (zeros 16))
  let sv := ghash h (padMul 16 aad ++ padMul 16 c ++ beBytes 8 (8 * aad.length) ++ beBytes 8 (8 * c.length))
  xorBytes (aesEnc key (gcmJ0 h iv)) (beBytes 16 sv)

/-- The counter-mode part of GCM, the same for both directions. -/
def gcmCtr (key iv m : Bytes) : Bytes :=
  let h := beNat (aesEnc key (zeros 16))
  ctr key 32 (ctrNext 32 (gcmJ0 h iv)) m

/-- Ciphertext and full tag of GCM encryption. -/
def gcmEnc (key iv aad m : Bytes) : Bytes × Bytes :=
  let c := gcmCtr key iv m
  (c, gcmTag key iv aad c)

/-! ## CCM -/

/-- The formatted associated-data length of SP 800-38C. -/
def ccmAadLen (n : Nat) : Bytes :=
  if n < 0xFF00 then beBytes 2 n
  else if n < 2 ^ 32 then [0xFF, 0xFE] ++ beBytes 4 n
  else [0xFF, 0xFF] ++ beBytes 8 n

/-- The CBC-MAC input blocks. -/
def ccmFormat (nonce aad m : Bytes) (t : Nat) : Bytes :=
  let q := 15 - nonce.length
  let flags := (if aad.length > 0 then 64 else 0) + 8 * ((t - 2) / 2) + (q - 1)
  let b0 := BitVec.ofNat 8 flags :: (nonce ++ beBytes q m.length)
  b0 ++ (if aad.length > 0 then padMul 16 (ccmAadLen aad.length ++ aad) else []) ++ padMul 16 m

/-- Counter block i. -/
def ccmCtr (nonce : Bytes) (i : Nat) : Bytes :=
  let q := 15 - nonce.length
  BitVec.ofNat 8 (q - 1) :: (nonce ++ beBytes q i)

/-- The `t`-byte tag over a plaintext. -/
def ccmTag (key nonce aad m : Bytes) (t : Nat) : Bytes :=
  let rks := aesKeys key
  let mac := (pieces 16 (ccmFormat nonce aad m t)).foldl (fun y b => aesEncWith rks (xorBytes y b)) (zeros 16)
  (xorBytes (aesEncWith rks (ccmCtr nonce 0)) mac).take t

/-- The counter-mode part of CCM. -/
def ccmCrypt (key nonce m : Bytes) : Bytes := ctr key (8 * (15 - nonce.length)) (ccmCtr nonce 1) m

/-! ## XTS -/

/-- Multiplication of a tweak by alpha. -/
def xtsAlpha (t : Bytes) : Bytes :=
  let v := leNat t
  leBytes 16 (((2 * v) % 2 ^ 128) ^^^ (if v.testBit 127 then 0x87 else 0))

/-- One block under its tweak. -/
def xtsOne (f : Bytes → Bytes) (t b : Bytes) : Bytes := xorBytes t (f (xorBytes t b))

/-- One data unit: full blocks in turn, a short last block by stealing from the one before; `dec` swaps the last two
tweaks. -/
def xtsBlocks (f : Bytes → Bytes) (dec : Bool) : Bytes → List Bytes → Bytes
  | _, [] => []
  | t, [b] => xtsOne f t b
  | t, b :: p :: [] =>
    if p.length = 16 then xtsOne f t b ++ xtsOne f (xtsAlpha t) p
    else
      let t1 := if dec then xtsAlpha t else t
      let t2 := if dec then t else xtsAlpha t
      let c := xtsOne f t1 b
      xtsOne f t2 (p ++ c.drop p.length) ++ c.take p.length
  | t, b :: ps => xtsOne f t b ++ xtsBlocks f dec (xtsAlpha t) ps

/-- XTS of one data unit under the two halves of a key. -/
def xtsUnit (key : Bytes) (dec : Bool) (tweak m : Bytes) : Bytes :=
  let half := key.length / 2
  let r1 := aesKeys (key.take half)
  xtsBlocks (if dec then aesDecWith r1 else aesEncWith r1) dec (aesEnc (key.drop half) tweak) (pieces 16 m)

/-! ## Key wrap -/

/-- The six passes of SP 800-38F over a semiblock string, forwards. -/
def kwSteps (rks : List Bytes) (n : Nat) : Nat → Nat → Bytes → List Bytes → Bytes × List Bytes
  | 0, _, a, rs => (a, rs)
  | k + 1, t, a, rs =>
    match rs with
    | [] => (a, [])
    | r :: rest =>
      let b := aesEncWith rks (a ++ r)
      kwSteps rks n k (t + 1) (beBytes 8 (beNat (b.take 8) ^^^ t)) (rest ++ [b.drop 8])
/-- The inverse, from the last step back. -/
def kwUnsteps (rks : List Bytes) : Nat → Bytes → List Bytes → Bytes × List Bytes
  | 0, a, rs => (a, rs)
  | k + 1, a, rs =>
    match rs.reverse with
    | [] => (a, [])
    | r :: rest =>
      let b := aesDecWith rks (beBytes 8 (beNat a ^^^ (k + 1)) ++ r)
      kwUnsteps rks k (b.take 8) (b.drop 8 :: rest.reverse)

/-- The wrapping function W over an initial value and at least two semiblocks. -/
def kwW (key icv m : Bytes) : Bytes :=
  let rs := pieces 8 m
  let r := kwSteps (aesKeys key) rs.length (6 * rs.length) 1 icv rs
  r.1 ++ r.2.flatten
/-- Its inverse: the initial value and the semiblocks. -/
def kwUnW (key c : Bytes) : Bytes × Bytes :=
  let rs := pieces 8 (c.drop 8)
  let r := kwUnsteps (aesKeys key) (6 * rs.length) (c.take 8) rs
  (r.1, r.2.flatten)

/-- AES-KW. -/
def kwIcv : Bytes := List.replicate 8 0xA6
def kwWrap (key m : Bytes) : Bytes := kwW key kwIcv m
def kwUnwrap (key c : Bytes) : Option Bytes :=
  let r := kwUnW key c
  if r.1 = kwIcv then some r.2 else none
/-- AES-KWP. -/
def kwpWrap (key m : Bytes) : Bytes :=
  let icv := [0xA6, 0x59, 0x59, 0xA6] ++ beBytes 4 m.length
  let p := padMul 8 m
  if p.length = 8 then aesEnc key (icv ++ p) else kwW key icv p
def kwpUnwrap (key c : Bytes) : Option Bytes :=
  let r := if c.length = 16 then (let b := aesDec key c; (b.take 8, b.drop 8)) else kwUnW key c
  let n := beNat (r.1.drop 4)
  if r.1.take 4 = [0xA6, 0x59, 0x59, 0xA6] ∧ n ≤ r.2.length ∧ r.2.length < n + 8 ∧ allZero (r.2.drop n)
  then some (r.2.take n) else none

end Sys2Proof.Machine
end

