-- ==== Sys2Proof/Machine/Drbg.lean ====
section
/-! DEFINITION. The noise sources' bits on their way into conditioned blocks, CTR_DRBG with AES-256, and the 257 instances
(R336 to R343, R348 to R356). -/
namespace Sys2Proof.Machine

/-! ## Noise sources and the conditioner (R336, R340, R342) -/

def sourceOf (s : State) (n : Nat) : Source := look s.ent.sources n {}
def setSource (s : State) (n : Nat) (x : Source) : State :=
  { s with ent := { s.ent with sources := put s.ent.sources n x } }
/-- Sources in one of some states. -/
def countSources (s : State) (f : SrcSt → Bool) : Nat := (List.range 8).countP (fun n => f (sourceOf s n).st)
def healthySources (s : State) : Nat := countSources s (fun x => x == .healthy)

/-- A source uses up the 1,024 bits of a start-up test, whatever its outcome (R338). -/
def testedSource (x : Source) : Source := { x with taken := x.taken + 8 * x.passed + 128, passed := 0 }

/-- The HEALTHY source whose group the conditioner takes next, in ascending number from the turn on (R342). -/
def nextSource (s : State) : Option Nat :=
  ((List.range 8).map (fun i => (s.ent.turn + i) % 8)).find? (fun n => (sourceOf s n).st == .healthy)

/-- The next 64 raw bits of a source. -/
def rawGroup (n taken : Nat) : Bytes := (List.range 8).map (fun i => Config.rawByte n (taken + i))

/-- Absorbs one group into the block in progress, from a window of 1,024 bits that has passed the continuous tests (R336,
R342). -/
def absorbGroup (s : State) : State :=
  match nextSource s with
  | none => s
  | some n =>
    let x := sourceOf s n
    let p := if x.passed = 0 then 16 else x.passed
    let s := setSource s n { x with taken := x.taken + 8, passed := p - 1 }
    { s with ent := { s.ent with progress := s.ent.progress ++ [(n, rawGroup n x.taken)], turn := (n + 1) % 8 } }

/-- Absorbs k groups. -/
def absorbGroups : Nat → State → State
  | 0, s => s
  | k + 1, s => absorbGroups k (absorbGroup s)

/-- The conditioner takes bits: enough sources are HEALTHY, its state is not FAILED and its buffer has room (R342). -/
def conditioning (s : State) : Bool :=
  decide (s.ent.minSources ≤ healthySources s) && s.ent.st != .failed && decide (s.ent.buffer.length < 4)

/-- A conditioned block is finished: SHA-384 over its 2,048 bits, counted, and buffered (R342). -/
def finishBlock (s : State) : State :=
  let s := absorbGroups (32 - s.ent.progress.length) s
  { s with ent := { s.ent with
    buffer := (s.ent.buffer ++ [sha384 (s.ent.progress.flatMap (·.2))]).take 4
    blocks := (s.ent.blocks + 1) % 2 ^ 64, progress := [] } }

/-- How far the block in progress has come when a source fails: a free number of groups (log entry 147). -/
def conditionedSoFar (s : State) : State :=
  if conditioning s then
    let (n, s) := draw s
    absorbGroups (Config.freeNat n % 32 - s.ent.progress.length) s
  else s

/-- The bits of a failing source are discarded: its failing window, what the conditioner has not absorbed, and the block in
progress if any of them are in it (R340). -/
def discardSource (s : State) (n : Nat) : State :=
  let s := conditionedSoFar s
  let s := setSource s n (testedSource (sourceOf s n))
  if s.ent.progress.any (fun g => g.1 == n) then { s with ent := { s.ent with progress := [] } } else s

/-- The buffered blocks and the block in progress are discarded (R342). -/
def dropBlocks (s : State) : State := { s with ent := { s.ent with buffer := [], progress := [] } }

/-! ## CTR_DRBG (R351; SP 800-90A without a derivation function, log entry 10) -/

/-- n bytes of the counter stream after V, from byte `off` on. -/
def ctrStream (key v : Bytes) (off n : Nat) : Bytes :=
  let rks := aesKeys (fit 32 key)
  let one := fun (i : Nat) => aesEncWith rks (beBytes 16 (beNat (fit 16 v) + 1 + off / 16 + i))
  (((List.range (ceilDiv (off % 16 + n) 16)).flatMap one).drop (off % 16)).take n

/-- The update function over 48 bytes of input. -/
def drbgUpdate (p : Bytes) (d : Drbg) : Drbg :=
  let t := xorBytes (ctrStream d.key d.v 0 48) (fit 48 p)
  { d with key := t.take 32, v := t.drop 32 }

/-- Instantiation from 48 bytes of entropy and a personalisation string. -/
def drbgInstantiate (entropy personal : Bytes) : Drbg :=
  drbgUpdate (xorBytes (fit 48 entropy) (fit 48 personal)) { st := .ready, key := zeros 32, v := zeros 16 }

/-- Reseed from 48 bytes of entropy and additional input. -/
def drbgReseed (d : Drbg) (entropy extra : Bytes) : Drbg :=
  { drbgUpdate (xorBytes (fit 48 entropy) (fit 48 extra)) d with st := .ready, reqs := 0 }

/-- An instance before a generate request with additional input, if any. -/
def drbgPrepare (d : Drbg) (extra : Bytes) : Drbg := if extra = [] then d else drbgUpdate extra d
/-- The instance after a generate request of n bytes. -/
def drbgAfter (d : Drbg) (extra : Bytes) (n : Nat) : Drbg :=
  let d := drbgPrepare d extra
  let d := drbgUpdate extra { d with v := beBytes 16 (beNat (fit 16 d.v) + ceilDiv n 16) }
  { d with reqs := d.reqs + 1 }
/-- The n bytes of a generate request. -/
def drbgOutput (d : Drbg) (extra : Bytes) (n : Nat) : Bytes :=
  let d := drbgPrepare d extra
  ctrStream d.key d.v 0 n

/-! ## Values of the internal instance

An internal value is one generate request of 16,384 bytes; its number spells Key and V, from which its bytes follow (log entry
148). -/

/-- The number of the value that an instance gives next. -/
def drbgNumber (d : Drbg) : Nat := beNat (fit 32 d.key ++ fit 16 d.v)
/-- n bytes of a value, from byte `off` on. -/
def randomAt (k off n : Nat) : Bytes :=
  let b := beBytes 48 k
  ctrStream (b.take 32) (b.drop 32) off n
/-- The first n bytes of a value. -/
def randomBytes (k n : Nat) : Bytes := randomAt k 0 n

/-! ## The instances (R348 to R356) -/

def drbgOf (s : State) (n : Nat) : Drbg := look s.ent.drbgs n {}
def setDrbg (s : State) (n : Nat) (d : Drbg) : State := { s with ent := { s.ent with drbgs := put s.ent.drbgs n d } }
/-- Sets an instance to UNINSTANTIATED (R356). -/
def wipeDrbg (s : State) (n : Nat) : State := setDrbg s n {}
def wipeAllDrbgs (s : State) : State := { s with ent := { s.ent with drbgs := [], mustReseed := true } }

/-- A record for a further block of seeding serials is on its way. -/
def serialsAsked (s : State) : Bool := s.per.queue.any (fun q => match q.2 with
  | .serialBlock _ => true
  | _ => false)
/-- Asks for the next block of 1,024 seeding serials (R352). -/
def askSerials (s : State) : State :=
  if serialsAsked s then s
  else
    let e := s.ent.serialEnd + 1024
    enqueue s (.counter [(4, e)]) (.serialBlock e)

/-- The personalisation string of an instance (R354), the serial XORed into bytes 0x26 to 0x2D (R352). -/
def personalString (s : State) (n serial : Nat) : Bytes :=
  let x := if n < 256 then sliceOf s n else {}
  fit 32 s.keys.did ++ leBytes 2 n ++ leBytes 3 x.pasid.toNat ++ leBytes 1 x.colour.toNat ++
    xorBytes (leBytes 8 (now s)) (leBytes 8 serial) ++ zeros 2

/-- The additional input of a reseed, the serial XORed into its first 8 bytes (R352). -/
def reseedString (extra : Bytes) (serial : Nat) : Bytes := xorBytes (fit 48 extra) (leBytes 8 serial ++ zeros 40)

/-- A block and a seeding serial are there. -/
def canSeed (s : State) : Bool := s.ent.buffer != [] && decide (s.ent.serialNext < s.ent.serialEnd)

/-- Instantiates or reseeds an instance from the oldest block and the next serial (R343, R352, R354). -/
def seedFrom (s : State) (n : Nat) (extra : Bytes) : State :=
  let block := s.ent.buffer.headD []
  let serial := s.ent.serialNext
  let d := drbgOf s n
  let d := if d.st = .uninstantiated then drbgInstantiate block (personalString s n serial)
    else drbgReseed d block (reseedString extra serial)
  setDrbg { s with ent := { s.ent with buffer := s.ent.buffer.drop 1, serialNext := serial + 1 } } n { d with seededAt := now s }

/-- The internal instance is to be seeded: not instantiated, due after an outage, after 100 us, or after 2^16 requests
(R355). -/
def internalDue (s : State) : Bool :=
  let d := drbgOf s 256
  d.st == .uninstantiated || s.ent.mustReseed || decide (2 ^ 16 ≤ d.reqs) || decide (d.seededAt + us 100 ≤ now s)

/-- Internal values cannot be had at all (R348): a job that needs one ends. -/
def entropyDown (s : State) : Bool := s.ent.st != .available

/-- The internal instance supplies values: the state is AVAILABLE, and what reseed is due can be made now (R348, R355). -/
def internalReady (s : State) : Bool :=
  s.ent.st == .available && (drbgOf s 256).st != .uninstantiated && (!internalDue s || (canSeed s && !s.ent.katDue))
/-- An internal value is to be had, but only after a reseed that is still to come (R355). -/
def seedPending (s : State) : Bool := !entropyDown s && !internalReady s

/-- The reseed that is due before a request, if it can be made. -/
def reseedIfDue (s : State) : State :=
  if internalDue s ∧ internalReady s then
    let s := seedFrom s 256 []
    { s with ent := { s.ent with mustReseed := false } }
  else s

/-- One generate request of the internal instance: the number of the value drawn. -/
def drawRandom (s : State) : Nat × State :=
  let s := reseedIfDue s
  let d := drbgOf s 256
  (drbgNumber d, setDrbg s 256 (drbgAfter d [] 16384))

/-- An instance after k requests of the size of an internal value. -/
def drbgAfterMany : Nat → Drbg → Drbg
  | 0, d => d
  | k + 1, d => drbgAfterMany k (drbgAfter d [] 16384)
/-- Several values drawn at once: the number of the first. -/
def drawMany (s : State) (k : Nat) : Nat × State :=
  let s := reseedIfDue s
  let d := drbgOf s 256
  (drbgNumber d, setDrbg s 256 (drbgAfterMany k d))
/-- The number of the i-th value after a value, of those drawn at once with it. -/
def laterNumber (n i : Nat) : Nat :=
  let b := beBytes 48 n
  drbgNumber (drbgAfterMany i { key := b.take 32, v := b.drop 32 })

/-- Random data that overwrites a record (R403): from the internal instance, or free bytes while it supplies none. -/
def eraseData (s : State) (n : Nat) : Bytes × State :=
  if internalReady s then
    let (k, s) := drawRandom s
    (randomBytes k n, s)
  else
    let (k, s) := draw s
    (freeBytes k n, s)

end Sys2Proof.Machine
end

