-- ==== Sys2Proof/Machine/Numbers.lean ====
section
/-! DEFINITION. Arithmetic modulo a number, and the prime tests of R286. -/
namespace Sys2Proof.Machine

/-- `b ^ e mod m` by squaring, times `acc`; the first argument bounds the bits of `e`. -/
def powModFuel : Nat → Nat → Nat → Nat → Nat → Nat
  | 0, _, _, _, acc => acc
  | f + 1, b, e, m, acc => if e = 0 then acc else powModFuel f (b * b % m) (e / 2) m (if e % 2 = 1 then acc * b % m else acc)
def powMod (b e m : Nat) : Nat := powModFuel (Nat.log2 e + 1) (b % m) e m (1 % m)

/-- `a - b` modulo `m`. -/
def subMod (a b m : Nat) : Nat := (a + (m - b % m)) % m
/-- Inverse modulo a prime. -/
def invMod (a p : Nat) : Nat := powMod a (p - 2) p

/-- Length of a number in bits. -/
def bitLen (n : Nat) : Nat := if n = 0 then 0 else Nat.log2 n + 1

/-! ## Prime tests (R286) -/

/-- The odd part of a number and the power of two before it, by at most `f` halvings. -/
def oddPart : Nat → Nat → Nat × Nat
  | 0, d => (d, 0)
  | f + 1, d => if d % 2 = 0 ∧ d ≠ 0 then let r := oddPart f (d / 2); (r.1, r.2 + 1) else (d, 0)

/-- Whether -1 appears among `x` and its next squares. -/
def reachesMinusOne (n : Nat) : Nat → Nat → Bool
  | 0, _ => false
  | k + 1, x => x == n - 1 || reachesMinusOne n k (x * x % n)

/-- One Miller-Rabin round to a base from 2 to n - 2. -/
def millerRabin (n base : Nat) : Bool :=
  let o := oddPart (bitLen n) (n - 1)
  let x := powMod base o.1 n
  x == 1 || reachesMinusOne n o.2 x

/-- Jacobi symbol of `a` over an odd `n`: 0, 1 or 2 for -1. -/
def jacobiFuel : Nat → Nat → Nat → Nat → Nat
  | 0, _, _, _ => 0
  | f + 1, a, n, t =>
    let flip := fun (b : Bool) (x : Nat) => if b then 3 - x else x
    if a = 0 then (if n = 1 then t else 0)
    else if a % 2 = 0 then jacobiFuel f (a / 2) n (flip (n % 8 == 3 || n % 8 == 5) t)
    else jacobiFuel f (n % a) a (flip (a % 4 == 3 && n % 4 == 3) t)
def jacobi (a n : Nat) : Nat := jacobiFuel (4 * bitLen n + 4) (a % n) n 1

/-- Selfridge's discriminant modulo n, of 5, -7, 9, -11 and so on the first with symbol -1; none where one shares a factor
with n or none is found. -/
def lucasD (n : Nat) : Nat → Nat → Option Nat
  | 0, _ => none
  | f + 1, k =>
    let m := 2 * k + 5
    let d := if k % 2 = 0 then m % n else (n - m % n) % n
    match jacobi d n with
    | 2 => some d
    | 0 => if m % n = 0 then lucasD n f (k + 1) else none
    | _ => lucasD n f (k + 1)

/-- `x / 2` modulo an odd n. -/
def halfMod (x n : Nat) : Nat := if x % 2 = 0 then x / 2 % n else (x + n) / 2 % n

/-- Lucas sequences with P = 1 at the index that the bits spell, most significant first: U, V and Q^k. -/
def lucasUV (d q n : Nat) : List Bool → Nat × Nat × Nat → Nat × Nat × Nat
  | [], r => r
  | b :: bs, (u, v, qk) =>
    let u2 := u * v % n
    let v2 := subMod (v * v % n) (2 * qk) n
    let q2 := qk * qk % n
    lucasUV d q n bs (if b then (halfMod (u2 + v2) n, halfMod (d * u2 + v2) n, q2 * q % n) else (u2, v2, q2))

/-- Whether V becomes zero at the index or at one of the next doublings. -/
def lucasZero (n : Nat) : Nat → Nat → Nat → Bool
  | 0, _, _ => false
  | k + 1, v, qk => v == 0 || lucasZero n k (subMod (v * v % n) (2 * qk) n) (qk * qk % n)

/-- Bits of a number, most significant first. -/
def bitsDown (n : Nat) : List Bool := ((List.range (bitLen n)).map (fun i => n.testBit i)).reverse

/-- Integer square root, by Newton's method. -/
def sqrtFuel : Nat → Nat → Nat → Nat
  | 0, _, x => x
  | f + 1, n, x => let y := (x + n / x) / 2; if y < x then sqrtFuel f n y else x
def sqrtNat (n : Nat) : Nat := if n = 0 then 0 else sqrtFuel (bitLen n + 2) n (2 ^ (bitLen n / 2 + 1))

/-- Strong Lucas test with Selfridge's parameters. -/
def strongLucas (n : Nat) : Bool :=
  if sqrtNat n * sqrtNat n = n then false
  else match lucasD n 200 0 with
    | none => false
    | some d =>
      let q := halfMod (halfMod (subMod 1 d n) n) n
      let o := oddPart (bitLen n) (n + 1)
      match bitsDown o.1 with
      | [] => false
      | _ :: bs =>
        let r := lucasUV d q n bs (1 % n, 1 % n, q)
        r.1 == 0 || lucasZero n o.2 r.2.1 r.2.2

/-- Whether a number fails 64 Miller-Rabin rounds to the given bases or the strong Lucas test; a number below 4 or an even one
is judged directly. -/
def primeFails (n : Nat) (bases : List Nat) : Bool :=
  if n < 4 then n < 2
  else if n % 2 = 0 then true
  else !(bases.all (fun b => millerRabin n (2 + b % (n - 3)))) || !strongLucas n

end Sys2Proof.Machine
end

