-- ==== Sys2Proof/Machine/Ec.lean ====
section
/-! DEFINITION. Short Weierstrass curves: the built-in ones of R267 and loaded ones (R285), ECDSA of FIPS 186-5, ECDH, key
generation (R265, R270, R273, R277, R286). -/
namespace Sys2Proof.Machine

/-- A curve y^2 = x^3 + ax + b over GF(p) with a base point of order n and cofactor h; f bytes a coordinate, o the order. -/
structure EcCurve where
  p : Nat
  a : Nat
  b : Nat
  gx : Nat
  gy : Nat
  n : Nat
  h : Nat
  f : Nat
  o : Nat
  deriving DecidableEq, Repr

def curveP256 : EcCurve :=
  { p := 0xffffffff00000001000000000000000000000000ffffffffffffffffffffffff
    a := 0xffffffff00000001000000000000000000000000fffffffffffffffffffffffc
    b := 0x5ac635d8aa3a93e7b3ebbd55769886bc651d06b0cc53b0f63bce3c3e27d2604b
    gx := 0x6b17d1f2e12c4247f8bce6e563a440f277037d812deb33a0f4a13945d898c296
    gy := 0x4fe342e2fe1a7f9b8ee7eb4a7c0f9e162bce33576b315ececbb6406837bf51f5
    n := 0xffffffff00000000ffffffffffffffffbce6faada7179e84f3b9cac2fc632551
    h := 1, f := 32, o := 32 }

def curveP384 : EcCurve :=
  { p := 0xfffffffffffffffffffffffffffffffffffffffffffffffffffffffffffffffeffffffff0000000000000000ffffffff
    a := 0xfffffffffffffffffffffffffffffffffffffffffffffffffffffffffffffffeffffffff0000000000000000fffffffc
    b := 0xb3312fa7e23ee7e4988e056be3f82d19181d9c6efe8141120314088f5013875ac656398d8a2ed19d2a85c8edd3ec2aef
    gx := 0xaa87ca22be8b05378eb1c71ef320ad746e1d3b628ba79b9859f741e082542a385502f25dbf55296c3a545e3872760ab7
    gy := 0x3617de4a96262c6f5d9e98bf9292dc29f8f41dbd289a147ce9da3113b5f0b8c00a60b1ce1d7e819d7a431d7c90ea0e5f
    n := 0xffffffffffffffffffffffffffffffffffffffffffffffffc7634d81f4372ddf581a0db248b0a77aecec196accc52973
    h := 1, f := 48, o := 48 }

def curveP521 : EcCurve :=
  { p := 2 ^ 521 - 1
    a := 2 ^ 521 - 4
    b := 0x0051953eb9618e1c9a1f929a21a0b68540eea2da725b99b315f3b8b489918ef109e156193951ec7e937b1652c0bd3bb1bf073573df883d2c34f1ef451fd46b503f00
    gx := 0x00c6858e06b70404e9cd9e3ecb662395b4429c648139053fb521f828af606b4d3dbaa14b5e77efe75928fe1dc127a2ffa8de3348b3c1856a429bf97e7e31c2e5bd66
    gy := 0x011839296a789a3bc0045c8a5fb42c7d1bd998f54449579b446817afbd17273e662c97ee72995ef42640c550b9013fad0761353c7086a272c24088be94769fd16650
    n := 0x01fffffffffffffffffffffffffffffffffffffffffffffffffffffffffffffffffa51868783bf2f966b7fcc0148f709a5d03bb5c9b8899c47aebb6fb71e91386409
    h := 1, f := 66, o := 66 }

def curveBp256 : EcCurve :=
  { p := 0xa9fb57dba1eea9bc3e660a909d838d726e3bf623d52620282013481d1f6e5377
    a := 0x7d5a0975fc2c3057eef67530417affe7fb8055c126dc5c6ce94a4b44f330b5d9
    b := 0x26dc5c6ce94a4b44f330b5d9bbd77cbf958416295cf7e1ce6bccdc18ff8c07b6
    gx := 0x8bd2aeb9cb7e57cb2c4b482ffc81b7afb9de27e1e3bd23c23a4453bd9ace3262
    gy := 0x547ef835c3dac4fd97f8461a14611dc9c27745132ded8e545c1d54c72f046997
    n := 0xa9fb57dba1eea9bc3e660a909d838d718c397aa3b561a6f7901e0e82974856a7
    h := 1, f := 32, o := 32 }

def curveBp384 : EcCurve :=
  { p := 0x8cb91e82a3386d280f5d6f7e50e641df152f7109ed5456b412b1da197fb71123acd3a729901d1a71874700133107ec53
    a := 0x7bc382c63d8c150c3c72080ace05afa0c2bea28e4fb22787139165efba91f90f8aa5814a503ad4eb04a8c7dd22ce2826
    b := 0x04a8c7dd22ce28268b39b55416f0447c2fb77de107dcd2a62e880ea53eeb62d57cb4390295dbc9943ab78696fa504c11
    gx := 0x1d1c64f068cf45ffa2a63a81b7c13f6b8847a3e77ef14fe3db7fcafe0cbd10e8e826e03436d646aaef87b2e247d4af1e
    gy := 0x8abe1d7520f9c2a45cb1eb8e95cfd55262b70b29feec5864e19c054ff99129280e4646217791811142820341263c5315
    n := 0x8cb91e82a3386d280f5d6f7e50e641df152f7109ed5456b31f166e6cac0425a7cf3ab6af6b7fc3103b883202e9046565
    h := 1, f := 48, o := 48 }

def curveBp512 : EcCurve :=
  { p := 0xaadd9db8dbe9c48b3fd4e6ae33c9fc07cb308db3b3c9d20ed6639cca703308717d4d9b009bc66842aecda12ae6a380e62881ff2f2d82c68528aa6056583a48f3
    a := 0x7830a3318b603b89e2327145ac234cc594cbdd8d3df91610a83441caea9863bc2ded5d5aa8253aa10a2ef1c98b9ac8b57f1117a72bf2c7b9e7c1ac4d77fc94ca
    b := 0x3df91610a83441caea9863bc2ded5d5aa8253aa10a2ef1c98b9ac8b57f1117a72bf2c7b9e7c1ac4d77fc94cadc083e67984050b75ebae5dd2809bd638016f723
    gx := 0x81aee4bdd82ed9645a21322e9c4c6a9385ed9f70b5d916c1b43b62eef4d0098eff3b1f78e2d0d48d50d1687b93b97d5f7c6d5047406a5e688b352209bcb9f822
    gy := 0x7dde385d566332ecc0eabfa9cf7822fdf209f70024a57b1aa000c55b881f8111b2dcde494a5f485e5bca4bd88a2763aed1ca2b2fa8f0540678cd1e0f3ad80892
    n := 0xaadd9db8dbe9c48b3fd4e6ae33c9fc07cb308db3b3c9d20ed6639cca70330870553e5c414ca92619418661197fac10471db1d381085ddaddb58796829ca90069
    h := 1, f := 64, o := 64 }

/-- The built-in curve of a CURVE code (R267). -/
def ecBuiltin (code : Nat) : Option EcCurve :=
  match code with
  | 1 => some curveP256
  | 2 => some curveP384
  | 3 => some curveP521
  | 4 => some curveBp256
  | 5 => some curveBp384
  | 6 => some curveBp512
  | _ => none

/-- A loaded curve from its 440-byte block (R285). -/
def ecLoaded (b : Bytes) : EcCurve :=
  let num := fun (off : Nat) => beNat (subBytes b off 72)
  { p := num 0x08, a := num 0x50, b := num 0x98, gx := num 0xE0, gy := num 0x128, n := num 0x170
    h := field b 2 1, f := ceilDiv (field b 0 2) 8, o := ceilDiv (bitLen (num 0x170)) 8 }

/-! ## The group -/

/-- A point, none at infinity. -/
abbrev EcPoint := Option (Nat × Nat)

def ecAdd (c : EcCurve) (x y : EcPoint) : EcPoint :=
  match x, y with
  | none, q => q
  | q, none => q
  | some (x1, y1), some (x2, y2) =>
    if x1 = x2 ∧ (y1 + y2) % c.p = 0 then none
    else
      let l := if x1 = x2 then (3 * x1 * x1 + c.a) * invMod (2 * y1) c.p % c.p
        else subMod y2 y1 c.p * invMod (subMod x2 x1 c.p) c.p % c.p
      let x3 := subMod (l * l) (x1 + x2) c.p
      some (x3, subMod (l * subMod x1 x3 c.p) y1 c.p)

/-- `k` times a point plus `acc`; the first argument bounds the bits of `k`. -/
def ecMulFuel (c : EcCurve) : Nat → Nat → EcPoint → EcPoint → EcPoint
  | 0, _, _, acc => acc
  | f + 1, k, q, acc => if k = 0 then acc else ecMulFuel c f (k / 2) (ecAdd c q q) (if k % 2 = 1 then ecAdd c acc q else acc)
def ecMul (c : EcCurve) (k : Nat) (q : EcPoint) : EcPoint := ecMulFuel c (bitLen k) k q none
def ecBase (c : EcCurve) : EcPoint := some (c.gx, c.gy)

/-- Whether a pair of numbers is a point of the curve. -/
def ecOnCurve (c : EcCurve) (x y : Nat) : Bool :=
  decide (x < c.p) && decide (y < c.p) && y * y % c.p == (x * x * x + c.a * x + c.b) % c.p

/-! ## Encodings (R265) -/

def ecEncode (c : EcCurve) (q : EcPoint) : Bytes :=
  match q with
  | some (x, y) => [4] ++ beBytes c.f x ++ beBytes c.f y
  | none => zeros (1 + 2 * c.f)

/-- The point of an uncompressed encoding, if it lies on the curve and is not of small order (R265, R277). -/
def ecDecode (c : EcCurve) (b : Bytes) : Option (Nat × Nat) :=
  let x := beNat (subBytes b 1 c.f)
  let y := beNat (subBytes b (1 + c.f) c.f)
  if b.length = 1 + 2 * c.f ∧ b.take 1 = [4] ∧ ecOnCurve c x y ∧ ecMul c c.h (some (x, y)) ≠ none then some (x, y) else none

/-! ## Operations -/

/-- A scalar by the extra-random-bits method with 64 extra bits, from o + 8 random bytes (R273). -/
def ecScalar (c : EcCurve) (r : Bytes) : Nat := beNat r % 2 ^ (bitLen c.n + 64) % (c.n - 1) + 1

/-- Scalar and public point of fresh key material (R379). -/
def ecMaterial (c : EcCurve) (d : Nat) : Bytes := beBytes c.o d ++ ecEncode c (ecMul c d (ecBase c))

/-- The leftmost bits of a digest up to the bit length of n (R270). -/
def ecDigest (c : EcCurve) (digest : Bytes) : Nat := beNat digest / 2 ^ (8 * digest.length - bitLen c.n)

/-- ECDSA over a digest with the nonces of a list: the first that gives non-zero r and s. -/
def ecdsaSign (c : EcCurve) (d : Nat) (digest : Bytes) : List Nat → Bytes
  | [] => zeros (2 * c.o)
  | k :: ks =>
    let r := match ecMul c k (ecBase c) with
      | some (x, _) => x % c.n
      | none => 0
    let s := invMod k c.n * (ecDigest c digest + r * d) % c.n
    if r = 0 ∨ s = 0 then ecdsaSign c d digest ks else beBytes c.o r ++ beBytes c.o s

def ecdsaVerify (c : EcCurve) (pub digest sig : Bytes) : Bool :=
  let r := beNat (sig.take c.o)
  let s := beNat (sig.drop c.o)
  match ecDecode c pub with
  | none => false
  | some q =>
    let w := invMod s c.n
    sig.length == 2 * c.o && decide (1 ≤ r) && decide (r < c.n) && decide (1 ≤ s) && decide (s < c.n) &&
      (match ecAdd c (ecMul c (ecDigest c digest * w % c.n) (ecBase c)) (ecMul c (r * w % c.n) (some q)) with
       | some (x, _) => x % c.n == r
       | none => false)

/-- The shared x-coordinate, none where the peer is rejected or the result is the identity (R275, R277). -/
def ecdhAgree (c : EcCurve) (d : Nat) (peer : Bytes) : Option Bytes :=
  match ecDecode c peer with
  | none => none
  | some q => match ecMul c d (some q) with
    | some (x, _) => some (beBytes c.f x)
    | none => none

/-- n times G is not the point at infinity (R286, 0x0407). -/
def ecOrderFails (c : EcCurve) : Bool := (ecMul c c.n (ecBase c)).isSome

end Sys2Proof.Machine
end

