-- ==== Sys2Proof/Machine/MlKem.lean ====
section
/-! DEFINITION. ML-KEM of FIPS 203 (R298, R299, R305), and the transform and packing that ML-DSA shares with it. -/
namespace Sys2Proof.Machine

/-- A polynomial of 256 coefficients, lowest first, each below its modulus. -/
abbrev Poly := List Nat

/-! ## Polynomials -/

/-- `i` with its `n` bits reversed. -/
def bitRev : Nat → Nat → Nat
  | 0, _ => 0
  | n + 1, i => i % 2 * 2 ^ n + bitRev n (i / 2)

/-- Number-theoretic transform of a list of 2^l blocks; node k of the tree multiplies by the root z to the reversed k. -/
def nttGo (q : Nat) (zeta : Nat → Nat) : Nat → Nat → Poly → Poly
  | 0, _, f => f
  | l + 1, k, f =>
    let h := f.length / 2
    let t := (f.drop h).map (fun x => zeta k * x % q)
    nttGo q zeta l (2 * k) (List.zipWith (fun a b => (a + b) % q) (f.take h) t) ++
      nttGo q zeta l (2 * k + 1) (List.zipWith (fun a b => subMod a b q) (f.take h) t)

/-- Its inverse, but for the factor 2^l. -/
def inttGo (q : Nat) (zetaInv : Nat → Nat) : Nat → Nat → Poly → Poly
  | 0, _, f => f
  | l + 1, k, f =>
    let h := f.length / 2
    let a := inttGo q zetaInv l (2 * k) (f.take h)
    let b := inttGo q zetaInv l (2 * k + 1) (f.drop h)
    List.zipWith (fun x y => (x + y) % q) a b ++ List.zipWith (fun x y => zetaInv k * subMod x y q % q) a b

def polyAdd (q : Nat) (a b : Poly) : Poly := List.zipWith (fun x y => (x + y) % q) a b
def polySub (q : Nat) (a b : Poly) : Poly := List.zipWith (fun x y => subMod x y q) a b
def polyZero : Poly := List.replicate 256 0

/-- Numbers below 2^d packed in order, least significant bit first. -/
def packBits (d : Nat) (xs : List Nat) : Bytes :=
  leBytes (xs.length * d / 8) (xs.foldr (fun x a => x + 2 ^ d * a) 0)
/-- `n` numbers below 2^d from a packed string. -/
def unpackGo (d : Nat) : Nat → Nat → List Nat
  | 0, _ => []
  | n + 1, v => v % 2 ^ d :: unpackGo d n (v / 2 ^ d)
def unpackBits (d n : Nat) (b : Bytes) : List Nat := unpackGo d n (leNat b)

/-- Numbers of 12 bits from a string, two from each three bytes. -/
def twelves : Bytes → List Nat
  | a :: b :: c :: r => (a.toNat + 256 * (b.toNat % 16)) :: (b.toNat / 16 + 16 * c.toNat) :: twelves r
  | _ => []

/-! ## ML-KEM -/

def kq : Nat := 3329
def kZeta (k : Nat) : Nat := powMod 17 (bitRev 7 k) kq
def kNtt (f : Poly) : Poly := nttGo kq kZeta 7 1 f
def kIntt (f : Poly) : Poly := (inttGo kq (fun k => invMod (kZeta k) kq) 7 1 f).map (fun x => x * 3303 % kq)

/-- Products of the pairs of coefficients, pair i modulo X^2 - 17^(2 rev(i) + 1). -/
def kMulGo : Nat → Poly → Poly → Poly
  | i, a0 :: a1 :: ar, b0 :: b1 :: br =>
    ((a0 * b0 + a1 * b1 % kq * powMod 17 (2 * bitRev 7 i + 1) kq) % kq) :: ((a0 * b1 + a1 * b0) % kq) :: kMulGo (i + 1) ar br
  | _, _, _ => []
def kMul (a b : Poly) : Poly := kMulGo 0 a b
/-- Inner product of two vectors in the transformed domain. -/
def kDot (a b : List Poly) : Poly := (List.zipWith kMul a b).foldl (polyAdd kq) polyZero

/-- A uniform polynomial of the transformed domain from a stream. -/
def kUniform (seed : Bytes) : Poly := ((twelves (shake128 seed 1008)).filter (· < kq)).take 256

/-- The centred binomial distribution of width eta. -/
def kCbd (eta : Nat) (b : Bytes) : Poly :=
  (unpackBits (2 * eta) 256 b).map (fun v => subMod (popCount eta v) (popCount eta (v / 2 ^ eta)) kq)

def kCompress (d x : Nat) : Nat := (2 ^ (d + 1) * x + kq) / (2 * kq) % 2 ^ d
def kExpand (d y : Nat) : Nat := (2 * kq * y + 2 ^ d) / 2 ^ (d + 1)

/-- Parameters: k, eta1, du, dv; eta2 is 2 (R299). -/
structure KemSet where
  k : Nat
  eta : Nat
  du : Nat
  dv : Nat
  deriving DecidableEq, Repr
def kemSet (code : Nat) : KemSet :=
  match code with
  | 1 => ⟨2, 3, 10, 4⟩
  | 2 => ⟨3, 2, 10, 4⟩
  | _ => ⟨4, 2, 11, 5⟩

def kVec (p : KemSet) (b : Bytes) : List Poly := (List.range p.k).map (fun i => unpackBits 12 256 (subBytes b (384 * i) 384))
def kPrf (eta : Nat) (seed : Bytes) (n : Nat) : Poly := kCbd eta (shake256 (seed ++ [BitVec.ofNat 8 n]) (64 * eta))
def kMatrix (rho : Bytes) (i j : Nat) : Poly := kUniform (rho ++ [BitVec.ofNat 8 j, BitVec.ofNat 8 i])

/-- Encryption key and transformed secret vector of a seed d. -/
def kpkeKeys (p : KemSet) (d : Bytes) : Bytes × List Poly :=
  let g := sha3 64 (d ++ [BitVec.ofNat 8 p.k])
  let rho := g.take 32
  let s := (List.range p.k).map (fun i => kNtt (kPrf p.eta (g.drop 32) i))
  let e := (List.range p.k).map (fun i => kNtt (kPrf p.eta (g.drop 32) (p.k + i)))
  let t := (List.range p.k).map (fun i => polyAdd kq (kDot ((List.range p.k).map (kMatrix rho i)) s) (e.getD i polyZero))
  (t.flatMap (packBits 12) ++ rho, s)

def kpkeEncrypt (p : KemSet) (ek m r : Bytes) : Bytes :=
  let t := (kVec p ek).map (fun f => f.map (· % kq))
  let rho := ek.drop (384 * p.k)
  let y := (List.range p.k).map (fun i => kNtt (kPrf p.eta r i))
  let u := (List.range p.k).map (fun i =>
    polyAdd kq (kIntt (kDot ((List.range p.k).map (fun j => kMatrix rho j i)) y)) (kPrf 2 r (p.k + i)))
  let v := polyAdd kq (polyAdd kq (kIntt (kDot t y)) (kPrf 2 r (2 * p.k))) ((unpackBits 1 256 m).map (kExpand 1))
  u.flatMap (fun f => packBits p.du (f.map (kCompress p.du))) ++ packBits p.dv (v.map (kCompress p.dv))

def kpkeDecrypt (p : KemSet) (s : List Poly) (c : Bytes) : Bytes :=
  let len := 32 * p.du
  let u := (List.range p.k).map (fun i => (unpackBits p.du 256 (subBytes c (len * i) len)).map (kExpand p.du))
  let v := (unpackBits p.dv 256 (c.drop (len * p.k))).map (kExpand p.dv)
  packBits 1 ((polySub kq v (kIntt (kDot s (u.map kNtt)))).map (kCompress 1))

/-- Encapsulation key of a seed d and z (R379). -/
def mlkemPublic (set : Nat) (seed : Bytes) : Bytes := (kpkeKeys (kemSet set) (seed.take 32)).1

/-- The input check of an encapsulation key: every coefficient is below q (R305). -/
def mlkemPublicOk (set : Nat) (ek : Bytes) : Bool :=
  let p := kemSet set
  ek.length == 384 * p.k + 32 && (kVec p ek).all (fun f => f.all (· < kq))

/-- Ciphertext and shared secret for the 32 random bytes m. -/
def mlkemEncaps (set : Nat) (ek m : Bytes) : Bytes × Bytes :=
  let g := sha3 64 (m ++ sha3 32 ek)
  (kpkeEncrypt (kemSet set) ek m (g.drop 32), g.take 32)

/-- Shared secret, with implicit rejection (R305). -/
def mlkemDecaps (set : Nat) (seed c : Bytes) : Bytes :=
  let p := kemSet set
  let keys := kpkeKeys p (seed.take 32)
  let m := kpkeDecrypt p keys.2 c
  let g := sha3 64 (m ++ sha3 32 keys.1)
  if kpkeEncrypt p keys.1 m (g.drop 32) = c then g.take 32 else shake256 (seed.drop 32 ++ c) 32

end Sys2Proof.Machine
end

