-- ==== Sys2Proof/Machine/MlDsa.lean ====
section
/-! DEFINITION. ML-DSA of FIPS 204, hedged, in the attempt blocks of R306 (R298, R299, R306, R307). -/
namespace Sys2Proof.Machine

def dq : Nat := 8380417
def dZeta (k : Nat) : Nat := powMod 1753 (bitRev 8 k) dq
def dNtt (f : Poly) : Poly := nttGo dq dZeta 8 1 f
def dIntt (f : Poly) : Poly := (inttGo dq (fun k => invMod (dZeta k) dq) 8 1 f).map (fun x => x * 8347681 % dq)
def dMul (a b : Poly) : Poly := List.zipWith (fun x y => x * y % dq) a b
def dDot (a b : List Poly) : Poly := (List.zipWith dMul a b).foldl (polyAdd dq) polyZero

/-- Parameters: k, l, eta, tau, beta, gamma1, gamma2, omega, bytes of the challenge, slots of an attempt block (R299, R306). -/
structure DsaSet where
  k : Nat
  l : Nat
  eta : Nat
  tau : Nat
  beta : Nat
  g1 : Nat
  g2 : Nat
  omega : Nat
  lam : Nat
  slots : Nat
  deriving DecidableEq, Repr
def dsaSet (code : Nat) : DsaSet :=
  match code with
  | 0x11 => ⟨4, 4, 2, 39, 78, 2 ^ 17, 95232, 80, 32, 24⟩
  | 0x12 => ⟨6, 5, 4, 49, 196, 2 ^ 19, 261888, 55, 48, 28⟩
  | _ => ⟨8, 7, 2, 60, 120, 2 ^ 19, 261888, 75, 64, 22⟩

/-- A uniform polynomial of the transformed domain: numbers of 23 bits below q from a stream. -/
def threes : Bytes → List Nat
  | a :: b :: c :: r => (a.toNat + 256 * b.toNat + 65536 * (c.toNat % 128)) :: threes r
  | _ => []
def dUniform (seed : Bytes) : Poly := ((threes (shake128 seed 1176)).filter (· < dq)).take 256
def dMatrix (rho : Bytes) (r s : Nat) : Poly := dUniform (rho ++ [BitVec.ofNat 8 s, BitVec.ofNat 8 r])

/-- A polynomial with coefficients from -eta to eta. -/
def dSmall (eta : Nat) (seed : Bytes) : Poly :=
  let halves := (shake256 seed 816).flatMap (fun b => [b.toNat % 16, b.toNat / 16])
  ((halves.filter (fun v => decide (v < (if eta = 2 then 15 else 9)))).map (fun v =>
    if eta = 2 then subMod 2 (v % 5) dq else subMod 4 v dq)).take 256

/-- Distance of a residue from zero. -/
def dAbs (x : Nat) : Nat := min x (dq - x)
def polyBelow (b : Nat) (f : Poly) : Bool := f.all (fun x => decide (dAbs x < b))

/-- High part and low part of a residue: r = r1 * 2 gamma2 + r0, the low one modulo q (Decompose). -/
def dSplit (g2 r : Nat) : Nat × Nat :=
  let m := r % (2 * g2)
  let low := if m ≤ g2 then m else subMod m (2 * g2) dq
  let top := if m ≤ g2 then r - m else r + 2 * g2 - m
  if top = dq - 1 then (0, subMod low 1 dq) else (top / (2 * g2), low)
def dHigh (g2 r : Nat) : Nat := (dSplit g2 r).1

/-- Signed numbers a to -b as b - x in `d` bits, and back. -/
def packSigned (d b : Nat) (f : Poly) : Bytes := packBits d (f.map (fun x => subMod b x dq))
def unpackSigned (d b : Nat) (s : Bytes) : Poly := (unpackBits d 256 s).map (fun v => subMod b v dq)

/-- Bits that a coefficient of the mask, and of w1, takes. -/
def DsaSet.zBits (p : DsaSet) : Nat := if p.g1 = 2 ^ 17 then 18 else 20
def DsaSet.wBits (p : DsaSet) : Nat := if p.g2 = 95232 then 6 else 4

/-- The challenge: tau coefficients 1 or -1. -/
def dBallGo : Nat → List Bool → Bytes → Poly → Poly
  | _, [], _, c => c
  | i, h :: hs, js, c =>
    let r := js.dropWhile (fun b => decide (i < b.toNat))
    let j := (r.headD 0).toNat
    dBallGo (i + 1) hs (r.drop 1) ((c.set i (c.getD j 0)).set j (if h then dq - 1 else 1))
def dBall (p : DsaSet) (seed : Bytes) : Poly :=
  let s := shake256 seed 1088
  dBallGo (256 - p.tau) ((List.range p.tau).map (fun i => (leNat (s.take 8)).testBit i)) (s.drop 8) polyZero

/-- What a key holds: rho, K, tr, the secret vectors, t0 and the public key. -/
structure DsaKey where
  rho : Bytes
  kk : Bytes
  tr : Bytes
  s1 : List Poly
  s2 : List Poly
  t0 : List Poly
  pub : Bytes

/-- Power2Round: the high part of a residue by 13 bits. -/
def dTop (x : Nat) : Nat := (x + 4095) / 8192

/-- Key generation from a 32-byte seed (R366, R379). -/
def mldsaKeys (p : DsaSet) (seed : Bytes) : DsaKey :=
  let h := shake256 (seed.take 32 ++ [BitVec.ofNat 8 p.k, BitVec.ofNat 8 p.l]) 128
  let rho := h.take 32
  let rho' := subBytes h 32 64
  let s1 := (List.range p.l).map (fun r => dSmall p.eta (rho' ++ leBytes 2 r))
  let s2 := (List.range p.k).map (fun r => dSmall p.eta (rho' ++ leBytes 2 (p.l + r)))
  let n1 := s1.map dNtt
  let t := (List.range p.k).map (fun i =>
    polyAdd dq (dIntt (dDot ((List.range p.l).map (dMatrix rho i)) n1)) (s2.getD i polyZero))
  let pub := rho ++ t.flatMap (fun f => packBits 10 (f.map dTop))
  { rho := rho, kk := h.drop 96, tr := shake256 pub 64, s1 := s1, s2 := s2
    t0 := t.map (fun f => f.map (fun x => subMod x (dTop x * 8192) dq)), pub := pub }

/-- The message as it is signed, with its context (R307). -/
def mldsaMessage (ctx m : Bytes) : Bytes := [0, BitVec.ofNat 8 ctx.length] ++ ctx ++ m

/-- Hints: the places of each polynomial, then the running counts. -/
def packHints (p : DsaSet) (hs : List (List Bool)) : Bytes :=
  let places := fun (h : List Bool) => (List.range 256).filter (fun i => h.getD i false)
  let counts := (List.range hs.length).map (fun i => ((hs.take (i + 1)).map (fun h => (places h).length)).sum)
  fit p.omega ((hs.flatMap places).map (BitVec.ofNat 8)) ++ counts.map (BitVec.ofNat 8)

def rising : Bytes → Bool
  | a :: b :: r => decide (a.toNat < b.toNat) && rising (b :: r)
  | _ => true

/-- The hints that a signature packs, none where they are malformed. -/
def unpackHints (p : DsaSet) (b : Bytes) : Option (List (List Bool)) :=
  let counts := (b.drop p.omega).map (·.toNat)
  let from0 := fun (i : Nat) => if i = 0 then 0 else counts.getD (i - 1) 0
  let part := fun (i : Nat) => subBytes b (from0 i) (counts.getD i 0 - from0 i)
  if (List.range p.k).all (fun i => decide (from0 i ≤ counts.getD i 0) && decide (counts.getD i 0 ≤ p.omega) && rising (part i)) &&
      allZero ((b.take p.omega).drop (from0 p.k)) then
    some ((List.range p.k).map (fun i => (List.range 256).map (fun n => (part i).contains (BitVec.ofNat 8 n))))
  else none

/-- One attempt with mask counter kappa: a signature, or none where it is rejected. -/
def mldsaAttempt (p : DsaSet) (key : DsaKey) (a : List (List Poly)) (mu rho2 : Bytes) (kappa : Nat) : Option Bytes :=
  let y := (List.range p.l).map (fun r => unpackSigned p.zBits p.g1 (shake256 (rho2 ++ leBytes 2 (kappa + r)) (32 * p.zBits)))
  let ny := y.map dNtt
  let w := a.map (fun row => dIntt (dDot row ny))
  let ct := shake256 (mu ++ w.flatMap (fun f => packBits p.wBits (f.map (dHigh p.g2)))) p.lam
  let c := dNtt (dBall p ct)
  let times := fun (v : List Poly) => v.map (fun f => dIntt (dMul c (dNtt f)))
  let z := List.zipWith (polyAdd dq) y (times key.s1)
  let r := List.zipWith (polySub dq) w (times key.s2)
  let ct0 := times key.t0
  let hints := List.zipWith (fun f g => List.zipWith (fun x t => dHigh p.g2 x != dHigh p.g2 ((x + t) % dq)) f g) r ct0
  if z.all (polyBelow (p.g1 - p.beta)) && r.all (fun f => polyBelow (p.g2 - p.beta) (f.map (fun x => (dSplit p.g2 x).2))) &&
      ct0.all (polyBelow p.g2) && decide ((hints.map (fun h => h.countP id)).sum ≤ p.omega) then
    some (ct ++ z.flatMap (packSigned p.zBits p.g1) ++ packHints p hints)
  else none

/-- The attempt blocks of R306, each with the randomness of its place in the list: number of blocks and signature. -/
def mldsaBlocks (p : DsaSet) (key : DsaKey) (a : List (List Poly)) (mu : Bytes) : Nat → List Bytes → Option (Nat × Bytes)
  | _, [] => none
  | n, rnd :: r =>
    let rho2 := shake256 (key.kk ++ rnd ++ mu) 64
    match (List.range p.slots).findSome? (fun i => mldsaAttempt p key a mu rho2 (i * p.l)) with
    | some s => some (n, s)
    | none => mldsaBlocks p key a mu (n + 1) r

/-- Signature of a message under a seed, with fresh randomness for each block; with it the number of blocks. -/
def mldsaSign (set : Nat) (seed ctx m : Bytes) (rnds : List Bytes) : Option (Nat × Bytes) :=
  let p := dsaSet set
  let key := mldsaKeys p seed
  let a := (List.range p.k).map (fun i => (List.range p.l).map (dMatrix key.rho i))
  mldsaBlocks p key a (shake256 (key.tr ++ mldsaMessage ctx m) 64) 1 rnds

def mldsaPublic (set : Nat) (seed : Bytes) : Bytes := (mldsaKeys (dsaSet set) seed).pub

def mldsaVerify (set : Nat) (pub ctx m sig : Bytes) : Bool :=
  let p := dsaSet set
  let zLen := 32 * p.zBits
  let ct := sig.take p.lam
  let z := (List.range p.l).map (fun i => unpackSigned p.zBits p.g1 (subBytes sig (p.lam + zLen * i) zLen))
  let rho := pub.take 32
  let t1 := (List.range p.k).map (fun i => unpackBits 10 256 (subBytes pub (32 + 320 * i) 320))
  let mu := shake256 (shake256 pub 64 ++ mldsaMessage ctx m) 64
  let c := dNtt (dBall p ct)
  let nz := z.map dNtt
  let w := (List.range p.k).map (fun i => dIntt (polySub dq (dDot ((List.range p.l).map (dMatrix rho i)) nz)
    (dMul c (dNtt ((t1.getD i polyZero).map (fun x => x * 8192 % dq))))))
  pub.length == 32 + 320 * p.k && sig.length == p.lam + zLen * p.l + p.omega + p.k &&
    (match unpackHints p (sig.drop (p.lam + zLen * p.l)) with
     | none => false
     | some hs =>
       let m2 := (dq - 1) / (2 * p.g2)
       let use := fun (h : Bool) (x : Nat) =>
         let s := dSplit p.g2 x
         if h then (if s.2 ≠ 0 ∧ s.2 ≤ p.g2 then (s.1 + 1) % m2 else (s.1 + m2 - 1) % m2) else s.1
       z.all (polyBelow (p.g1 - p.beta)) &&
         ct == shake256 (mu ++ (List.zipWith (List.zipWith use) hs w).flatMap (packBits p.wBits)) p.lam)

end Sys2Proof.Machine
end

