-- ==== Sys2Proof/Machine/KeyCache.lean ====
section
/-! DEFINITION. Derivation from the root, the key cache and its slots and the HMAC state cache
(R234 to R236, R362 to R378). -/
namespace Sys2Proof.Machine

/-! ## Derivation (R363 to R366) -/

/-- Measurement slot n, 48 bytes (R250). -/
def measOf (s : State) (n : Nat) : Bytes := fit 48 (look s.mdp.meas n [])
/-- M0 to M3 joined. -/
def measAll (s : State) : Bytes := measOf s 0 ++ measOf s 1 ++ measOf s 2 ++ measOf s 3

/-- The root key of a root secret (R363). -/
def rootKey (root : Bytes) : Bytes := kmac256 root fuseSecret 32 (ascii "PERAND-ROOT-V1")

/-- A root-derived value over measurements given by the caller (R364). -/
def deriveWith (rk : Bytes) (label : String) (mix : Bool) (meas : Bytes) (index n : Nat) : Bytes :=
  let input := fit 16 (ascii label) ++ [if mix then 1 else 0, 0] ++ leBytes 2 n ++ zeros 4 ++ leBytes 8 index ++
    fit 192 (if mix then meas else [])
  kmac256 rk input n (ascii "PERAND-KDF-V1")

/-- A root-derived value over the measurements of this start. -/
def derive (s : State) (rk : Bytes) (label : String) (mix : Bool) (index n : Nat) : Bytes :=
  deriveWith rk label mix (measAll s) index n

/-- The root secret the key store would take (R362), when a copy matches the check word. -/
def rootOf (s : State) : Option Bytes :=
  let good := fun (r : Bytes) => s.per.rootCheck == (sha384 r).take 8
  let b := s.per.rootB.map (fun x => ~~~x)
  if good s.per.rootA then some s.per.rootA else if good b then some b else none

/-- Writes both copies and the check word (R24, R407). -/
def writeRoot (s : State) (r : Bytes) : State :=
  { s with per := { s.per with
    rootA := r, rootB := r.map (fun x => ~~~x), rootCheck := (sha384 r).take 8 } }

/-- The P-384 scalar of 56 derived bytes (R366). -/
def p384Order : Nat :=
  0xFFFFFFFFFFFFFFFFFFFFFFFFFFFFFFFFFFFFFFFFFFFFFFFFC7634D81F4372DDF581A0DB248B0A77AECEC196ACCC52973
def p384Scalar (v : Bytes) : Bytes := beBytes 48 (beNat v % (p384Order - 1) + 1)

/-- Algorithm codes of R379 used by the core itself. -/
def algEcdsa : Nat := 0x21
def algEcdh : Nat := 0x22
def algHybridSig : Nat := 0x25
def algMlkem : Nat := 0x30
def algMldsa : Nat := 0x31
def algHybridKem : Nat := 0x33

/-- P-384 key material, scalar then point, from a scalar (R379). -/
def p384Material (scalar : Bytes) : Bytes := scalar ++ ecEncode curveP384 (ecMul curveP384 (beNat scalar) (ecBase curveP384))
/-- ML-DSA-87 public key of a seed. -/
def mldsa87Public (seed : Bytes) : Bytes := mldsaPublic 0x13 seed

/-- Recomputes RK and every key the key store's registers hold from the root (R366, R368). -/
def loadRegisters (s : State) (root : Bytes) : State :=
  let rk := rootKey root
  { s with keys := { s.keys with
    rk := some rk
    slotKey := some (derive s rk "SLOT-INTEGRITY" true 0 32)
    storeSeal := some (derive s rk "STORE-SEAL" true 0 32)
    mak := some (p384Scalar (derive s rk "MAK-ECDSA-P384" true 0 56), derive s rk "MAK-MLDSA87" true 0 32) } }

/-- Zeroises RK and every RK-derived key the key store holds (R368). -/
def wipeRegisters (s : State) : State :=
  { s with keys := { s.keys with rk := none, slotKey := none, storeSeal := none, mak := none } }

/-! ## Key cache (R372 to R378) -/

/-- Bytes 0x00 to 0x2F of a slot header (R374). -/
def keyHeader (k : Key) : Bytes :=
  leBytes 4 k.handle ++ leBytes 1 k.alg ++ leBytes 1 k.use ++
    leBytes 1 (b2n k.saffronReq + 2 * b2n k.stateful + 4 * b2n k.exportable + 8 * b2n k.persistent + 16 * b2n k.bad) ++
    leBytes 1 k.span ++ leBytes 2 k.owner ++ leBytes 2 k.material.length ++ leBytes 4 k.param ++
    leBytes 8 k.useLimit ++ leBytes 8 k.useCount ++ leBytes 8 k.generation ++ leBytes 4 k.block ++ leBytes 4 k.slot

/-- The integrity tag of a key under the slot integrity key (R375). -/
def keyTag (s : State) (k : Key) : Bytes :=
  match s.keys.slotKey with
  | some sk => kmac256 sk (keyHeader k ++ k.material) 16 (ascii "PERAND-SLOT-V1")
  | none => []

/-- The tag of a cached key matches (R376). -/
def keyIntact (s : State) (k : Key) : Bool := k.tag == keyTag s k

/-- Slots that a key of a material length spans (R374). -/
def spanOf (len : Nat) : Nat := 1 + ceilDiv (len - 192) 256

/-- A volatile handle (R372). -/
def isVolatile (h : Nat) : Bool := decide (0xF0000000 ≤ h)
/-- A handle of a record in MRAM. -/
def isMramHandle (h : Nat) : Bool := decide (1 ≤ h) && decide (h ≤ 0xEFF)
/-- A handle of a record in the store. -/
def isStoreHandle (h : Nat) : Bool := decide (0x1000 ≤ h) && decide (h < 0xF0000000)
/-- The handle of a volatile key in a slot of a generation. -/
def volatileHandle (gen slot : Nat) : Nat := 0xF0000000 + 2 ^ 14 * (gen % 2 ^ 14) + slot % 2 ^ 14

/-- The cached key that a handle names. -/
def cachedKey (s : State) (h : Nat) : Option Key := (s.keys.slots.find? (fun e => e.2.handle == h)).map (·.2)
def putKey (s : State) (k : Key) : State := { s with keys := { s.keys with slots := put s.keys.slots k.slot k } }
/-- Stores a key with a fresh tag. -/
def putTagged (s : State) (k : Key) : State := putKey s { k with tag := keyTag s k }

/-- Forgets HMAC states of a slot (R236). -/
def dropHmac (s : State) (slot : Nat) : State :=
  { s with keys := { s.keys with hmac := s.keys.hmac.filter (fun e => e.slot != slot) } }

/-- Removes a key from the cache with its HMAC states. -/
def dropKey (s : State) (slot : Nat) : State :=
  dropHmac { s with keys := { s.keys with slots := del s.keys.slots slot, lru := s.keys.lru.filter (· != slot) } } slot

/-- Whether a slot is taken by a key or a curve record. -/
def slotTaken (s : State) (n : Nat) : Bool :=
  s.keys.slots.any (fun e => decide (e.1 ≤ n) && decide (n < e.1 + e.2.span)) || s.keys.curves.any (fun c => c.slot == n)

/-- Whether a run of slots is free and outside the 512 that the core keeps (R85, R377; log entry 22). -/
def runFree (s : State) (first span : Nat) : Bool :=
  decide (512 ≤ first) && decide (first + span ≤ 16384) && (List.range span).all (fun i => !slotTaken s (first + i))

/-- Search for a free run from a starting point; the start is a free value. -/
def findRunFuel (s : State) (span : Nat) : Nat → Nat → Option Nat
  | 0, _ => none
  | n + 1, a =>
    if runFree s a span then some a
    else findRunFuel s span n (if a + 1 < 16384 then a + 1 else 512)
def findRun (s : State) (span : Nat) : Option Nat :=
  findRunFuel s span 15872 (512 + Config.freeNat s.drawn % 15872)

/-- Slots a slice's keys and curves hold of its quota. -/
def slotsUsed (s : State) (sl : Nat) : Nat :=
  ((s.keys.slots.filter (fun e => e.2.owner == sl)).map (fun e => e.2.span)).sum +
    s.keys.curves.countP (fun c => c.owner == sl)
/-- A slice's key cache quota. -/
def slotQuota (s : State) (sl : Nat) : Nat := (allotOf s.cfg.cur sl).keySlots

/-- Whether some accepted submission works under a key (R377). -/
def keyInUse (s : State) (h : Nat) : Bool :=
  s.jobs.any (fun j => accepted j && !j.decided && j.descs.any (fun d => d.key == h))

/-- Least recently used evictable persistent keys, of one slice or of all, oldest first (R377). -/
def evictable (s : State) (only : Option Nat) : List Nat :=
  s.keys.lru.filter (fun n =>
    match look? s.keys.slots n with
    | some k => k.persistent && !keyInUse s k.handle && (match only with
        | some sl => k.owner == sl
        | none => true)
    | none => false)

/-- Evicts in turn until a condition holds. -/
def evictUntil (ok : State → Bool) : List Nat → State → State
  | [], s => s
  | n :: r, s => if ok s then s else evictUntil ok r (dropKey s n)

/-- Makes room for a key: quota by the slice's own copies, a run by any slice's (R377). None when neither forms. -/
def makeRoom (s : State) (sl span : Nat) : Option (Nat × State) :=
  let q := fun (x : State) => decide (slotsUsed x sl + span ≤ slotQuota x sl)
  let s1 := if q s then s else evictUntil q (evictable s (some sl)) s
  if !q s1 then none
  else
    let f := fun (x : State) => (findRun x span).isSome
    let s2 := if f s1 then s1 else evictUntil f (evictable s1 none) s1
    match findRun s2 span with
    | some n => some (n, { s2 with drawn := s2.drawn + 1 })
    | none => none

/-- Marks a key as the most recently used. -/
def touchKey (s : State) (slot : Nat) : State :=
  { s with keys := { s.keys with lru := s.keys.lru.filter (· != slot) ++ [slot] } }

/-- Creates a volatile key in the cache; its generation is a free value above the count of creations (R372, R374; log
entry 22). None when quota or run is lacking. -/
def createVolatile (s : State) (k : Key) : Option (Key × State) :=
  let span := spanOf k.material.length
  match makeRoom s k.owner span with
  | none => none
  | some (n, s) =>
    let gen := s.keys.created + 1
    let k := { k with slot := n, span := span, generation := gen, handle := volatileHandle gen n, persistent := false,
                      useCount := 0, bad := false }
    let s := { s with keys := { s.keys with created := gen } }
    some (k, touchKey (putTagged s k) n)

/-- Wipes a slice's cached keys, curve records and HMAC states (R96 step 3). -/
def wipeSliceKeys (s : State) (sl : Nat) : State :=
  let gone := (s.keys.slots.filter (fun e => e.2.owner == sl)).map (·.1)
  { s with keys := { s.keys with
    slots := s.keys.slots.filter (fun e => e.2.owner != sl)
    curves := s.keys.curves.filter (fun c => c.owner != sl)
    lru := s.keys.lru.filter (fun n => !gone.contains n)
    hmac := s.keys.hmac.filter (fun e => !gone.contains e.slot) } }

/-- Wipes the whole cache, curves and HMAC states included (R533). -/
def wipeAllKeys (s : State) : State :=
  { s with keys := { s.keys with slots := [], lru := [], curves := [], hmac := [], smk := none } }

end Sys2Proof.Machine
end

