-- ==== Sys2Proof/Machine/MirrorBase.lean ====
section
/-! DEFINITION. Mirror groups: members, messages out, leaving the group (R557, R558, R561, R571). -/
namespace Sys2Proof.Machine

/-- The core is in a group, joining it included. -/
def inGroup (s : State) : Bool := s.mir.st != .none

def peerOf (s : State) (i : Nat) : Peer := look s.mir.peers i {}
def setPeer (s : State) (i : Nat) (p : Peer) : State := { s with mir := { s.mir with peers := put s.mir.peers i p } }
/-- The other members' indices. -/
def others (s : State) : List Nat := (List.range s.mir.n).filter (· != s.mir.own)
/-- Members with a pair key. -/
def joinedPeers (s : State) : List Nat := (others s).filter (fun i => (peerOf s i).key.isSome)
/-- Joined members as a bitmap, this core included. -/
def joinedMap (s : State) : Nat :=
  (List.range 8).foldl (fun a i => a + b2n ((i == s.mir.own && (s.mir.st == .member || s.mir.st == .leader)) || (joinedPeers s).contains i) * 2 ^ i) 0
/-- Members that make a majority (R562). -/
def majority (s : State) : Nat := s.mir.n / 2 + 1

/-- Raises vector 14 for waiting messages, at most once per 10 us (R561). -/
def mirrorVector (s : State) : State :=
  let go := fun (s : State) => notifyManager { s with mir := { s.mir with lastVector := some (now s) } } 14
  match s.mir.lastVector with
  | some t => if now s < t + us 10 then s else go s
  | none => go s

/-- Changes the group state, which raises vector 14 (R561). -/
def setMirror (s : State) (x : MirSt) : State :=
  if s.mir.st = x then s else notifyManager { s with mir := { s.mir with st := x } } 14

/-- TERM of the messages of this core: its own lease's or claim's, else the highest seen. -/
def mirTerm (s : State) : Nat := if s.mir.st = .leader ∨ s.mir.candidate then s.mir.grantedTerm else s.mir.term

/-- The 64-byte header of a message (R558). -/
def mirHeader (s : State) (type dest len ctr : Nat) : Bytes :=
  ascii "PRDMIRR1" ++ leBytes 1 type ++ leBytes 1 s.mir.own ++ leBytes 1 dest ++ [0] ++ leBytes 4 len ++ leBytes 8 ctr ++
    leBytes 8 (mirTerm s) ++ fit 16 s.mir.groupId ++ zeros 16

/-- The tag of a message under a pair key. -/
def mirTag (key m : Bytes) : Bytes := kmac256 key m 32 (ascii "PERAND-MIRMSG-V1")

/-- Queues a message for a peer whose pair key is held. -/
def mirSend (s : State) (dest type : Nat) (body : Bytes) : State :=
  let p := peerOf s dest
  match p.key with
  | none => s
  | some k =>
    let m := mirHeader s type dest body.length (p.ctrOut + 1) ++ body
    let s := setPeer s dest { p with ctrOut := p.ctrOut + 1 }
    mirrorVector { s with mir := { s.mir with outbound := s.mir.outbound ++ [m ++ mirTag k m] } }

/-- The end that this core has committed for a pair or key on behalf of its group, zero for none. -/
def groupEnd (m : Mirror) (kind handle target : Nat) : Nat :=
  ((m.ends.find? (fun e => e.1 == kind && e.2.1 == handle && e.2.2.1 == target)).map (·.2.2.2)).getD 0

/-- A pair or key skips the unused remainder of its block, up to the end committed for the group (R571). -/
def skipOrdinal (m : Mirror) (e : OrdEntry) : OrdEntry :=
  let n := max e.committedEnd (groupEnd m 1 e.handle e.target)
  { e with next := n, committedEnd := n, reserving := false }
def skipIndex (m : Mirror) (e : Nat × HbsState) : Nat × HbsState :=
  let n := min e.2.total (max e.2.committedEnd (groupEnd m 2 e.1 0))
  (e.1, { e.2 with next := n, committedEnd := n, reserving := false })
/-- Every pair and key skips the unused remainder of its block. -/
def skipBlocks (s : State) : State :=
  { s with res := { s.res with ordinals := s.res.ordinals.map (skipOrdinal s.mir), hbs := s.res.hbs.map (skipIndex s.mir) } }

/-- Leaves the group: LEAVE goes out, pair keys go, granted blocks' remainders are skipped (R571). -/
def leaveGroup (s : State) (reason : Nat) : State :=
  if s.mir.st = .none then s
  else
    let s := (joinedPeers s).foldl (fun s i => mirSend s i 0x50 (leBytes 1 reason ++ zeros 7)) s
    let s := skipBlocks s
    let m : Mirror := { outbound := s.mir.outbound, accepted := s.mir.accepted, discarded := s.mir.discarded,
                        blocksGranted := s.mir.blocksGranted, lastVector := s.mir.lastVector }
    let jobs := s.jobs.map (fun (j : Job) => { j with heldSince := none, blockSince := none })
    notifyManager { s with jobs := jobs, mir := m } 14

end Sys2Proof.Machine
end

