-- ==== Sys2Proof/Machine/JobView.lean ====
section
/-! DEFINITION. How a step sees its descriptor: scratch handles, operand data read so far, overlap, keys, and the shape
of the checks and results that every opcode family gives (R116, R119, R152 to R155, R373, R376). -/
namespace Sys2Proof.Machine

/-! ## Scratch handles (R152) -/

def handleBase : Nat := 0xFFFFFFFFFFFFFF00
/-- An address that names a handle or is reserved. -/
def isHandle (a : Nat) : Bool := decide (handleBase ≤ a)
/-- A reserved handle value. -/
def badHandle (a : Nat) : Bool := decide (handleBase + 16 ≤ a)
/-- Content of a handle. -/
def handleData (j : Job) (a : Nat) : Bytes := look j.handles (a - handleBase) []

/-! ## Operand data -/

/-- The bytes read so far of a range, in order of offset. -/
def rangeData (j : Job) (r : Range) : Bytes :=
  (j.data.filter (fun c => c.range == r)).foldl (fun b c => overlay b c.offset c.data) []
/-- A little-endian field of the parameter block. -/
def paramField (j : Job) (off len : Nat) : Nat := field (rangeData j .param) off len
/-- Bytes of the parameter block. -/
def paramBytes (j : Job) (off len : Nat) : Bytes := fit len (subBytes (rangeData j .param) off len)
/-- Whether a range of the parameter block is all zero. -/
def paramZero (j : Job) (off len : Nat) : Bool := allZero (subBytes (rangeData j .param) off len)

/-- A step reads a handle with LENGTH zero: its whole content (R155). -/
def wholeHandle (d : Desc) : Bool := isHandle d.src && d.length == 0

/-- Round up to sixteen bytes. -/
def up16 (n : Nat) : Nat := 16 * ceilDiv n 16
/-- Round up to eight bytes. -/
def up8 (n : Nat) : Nat := 8 * ceilDiv n 8

/-- Two non-empty ranges meet. -/
def overlaps (a la b lb : Nat) : Bool :=
  la != 0 && lb != 0 && decide (a < b + lb) && decide (b < a + la)

/-- Ranges of host memory meet; a handle or an absent address meets nothing. -/
def hostOverlap (a la b lb : Nat) : Bool :=
  a != 0 && b != 0 && !isHandle a && !isHandle b && overlaps a la b lb

/-- Where output of a step goes: its DST, or the reserved return buffer. -/
def dstAddr (j : Job) : Nat := let d := stepDesc j; if d.dst = 0 then j.buf.getD 0 else d.dst

/-! ## Checks -/

/-- The first condition of a list that holds, with its subcode. -/
def firstSub : List (Bool × Nat) → Option Nat
  | [] => none
  | (b, n) :: r => if b then some n else firstSub r

/-- What a family says of a descriptor before acceptance, from the descriptor alone (R119): failing conditions with
their subcodes, and the ranges it will read and write. -/
structure Pre where
  param : List (Bool × Nat) := []
  length : List (Bool × Nat) := []
  align : List (Bool × Nat) := []
  reads : List (Nat × Nat) := []
  writes : List (Nat × Nat) := []
  /-- Largest output in bytes as written at DST (R139). -/
  output : Nat := 0
  /-- DST zero asks for a return buffer. -/
  dstZero : Bool := false
  /-- Whether it does is known only from the parameter block (ECDH, XDH, decapsulation with OUT_KEY). -/
  dstLater : Bool := false
  deriving DecidableEq, Repr

/-- A misaligned host address; handles and zero are exempt. -/
def misaligned (a n : Nat) : Bool := !isHandle a && a % n != 0

/-- The cached key of a slice that a handle names, resolved under R373. -/
def resolveKey (s : State) (sl h : Nat) : Option Key :=
  match cachedKey s h with
  | some k => if k.owner = sl then some k else none
  | none => none

/-! ## What a step's computation gives -/

/-- Result of an opcode's computation: its ending, what is written where, the content for a handle, the exact output
length, the result word, and the completion flags. -/
structure Work where
  ending : Ending := { status := 0 }
  writes : List (Nat × Bytes) := []
  handle : Option Bytes := none
  len : Nat := 0
  result : Nat := 0
  unverified : Bool := false
  batchPartial : Bool := false
  /-- What follows before the results are written, and the key it creates. -/
  after : After := .nothing
  newKey : Option Key := none
  /-- The result depends on a private key and is checked before release (R275). -/
  checked : Bool := false
  /-- That check finds the result wrong (R275). -/
  wrong : Bool := false
  /-- Blocks of attempts that an ML-DSA signature took (R306). -/
  blocks : Nat := 1
  deriving DecidableEq, Repr

/-- A check that ends the step, from conditions with subcodes. -/
def failIf (st : Nat) (cs : List (Bool × Nat)) : Option Ending := (firstSub cs).map (fun n => { status := st, sub := n })

/-- The first of several checks that fails. -/
def firstEnd : List (Option Ending) → Option Ending
  | [] => none
  | some e :: _ => some e
  | none :: r => firstEnd r

/-- A range the step still wants read: which, where, how long. -/
structure Want where
  range : Range
  addr : Nat
  len : Nat
  deriving DecidableEq, Repr

/-- An ending that writes nothing. -/
def workFail (st sub : Nat) : Work := { ending := { status := st, sub := sub } }

/-- Output at DST: to the handle it names, or to host memory padded with zeros to a multiple. -/
def outputAt (j : Job) (pad : Nat) (out : Bytes) : Work :=
  let a := dstAddr j
  if isHandle a then { handle := some out, len := out.length }
  else { writes := if out = [] then [] else [(a, padMul pad out)], len := out.length }

end Sys2Proof.Machine
end

