-- ==== Sys2Proof/Machine/SpecCipher.lean ====
section
/-! DEFINITION. The cipher opcodes: their checks, their source layout and what they compute (R206 to R221). -/
namespace Sys2Proof.Machine

/-- 16 GiB. -/
def gib16 : Nat := 2 ^ 34

/-- Opcodes of family 0x01xx (R206). -/
def cipherKnown (op : Nat) : Bool :=
  (decide (0x0101 ≤ op) && decide (op ≤ 0x010E)) || (decide (0x0110 ≤ op) && decide (op ≤ 0x0113))

def isCbc (op : Nat) : Bool := decide (0x0101 ≤ op) && decide (op ≤ 0x0106)
def isCtr (op : Nat) : Bool := op == 0x0107 || op == 0x0108
def isGcm (op : Nat) : Bool := op == 0x0109 || op == 0x010A
def isCcm (op : Nat) : Bool := op == 0x010B || op == 0x010C
def isXts (op : Nat) : Bool := op == 0x010D || op == 0x010E
def isKw (op : Nat) : Bool := decide (0x0110 ≤ op)
/-- Opcodes that need a DEC_ONLY key. -/
def cipherDec (op : Nat) : Bool := [0x0102, 0x0104, 0x0106, 0x0108, 0x010A, 0x010C, 0x010E, 0x0111, 0x0113].contains op

/-- Length of the associated data in SRC, padded (R211). -/
def aadLen (d : Desc) : Nat := if isGcm d.opcode || isCcm d.opcode then up16 d.aux else 0
/-- Bytes read from SRC (R211). -/
def cipherSrcLen (d : Desc) : Nat := aadLen d + up16 d.length
/-- Bytes taken from SRC: a handle holds no padding behind the message (R155, R214). -/
def cipherWantLen (d : Desc) : Nat := if isHandle d.src then aadLen d + d.length else cipherSrcLen d
/-- Associated data and message without padding: the input of the job (R167, R168). -/
def cipherInput (d : Desc) : Nat := (if isGcm d.opcode || isCcm d.opcode then d.aux else 0) + d.length
/-- Largest exact output (R206). -/
def cipherOut (d : Desc) : Nat :=
  if d.opcode = 0x0110 then d.length + 8
  else if d.opcode = 0x0111 ∨ d.opcode = 0x0113 then d.length - 8
  else if d.opcode = 0x0112 then up8 d.length + 8
  else d.length
/-- The opcode writes TAG or NEXT into its parameter block (R210). -/
def writesParam (op : Nat) : Bool := isCbc op || isCtr op || op == 0x0109 || op == 0x010B

/-- XTS lengths and unit numbers (R217). -/
def xtsBad (d : Desc) : Bool :=
  if d.aux < 16 then true
  else if d.aux % 16 = 0 then
    d.length == 0 || d.length % d.aux != 0 || decide (d.length > gib16) ||
      decide (d.inline + d.length / d.aux - 1 > 2 ^ 64 - 1)
  else d.length != d.aux

/-- Length checks of R206 and R216 to R218 that the descriptor decides. -/
def cipherLengths (d : Desc) : List (Bool × Nat) :=
  let op := d.opcode
  let l := d.length
  if isCbc op then [(l < 16 || l > gib16, 0x0001), (l % 16 != 0, 0x0002)]
  else if isCtr op then [(l < 1 || l > gib16, 0x0001)]
  else if isGcm op || isCcm op then [(decide (l > gib16), 0x0001)]
  else if isXts op then [(xtsBad d, 0x0006)]
  else if op = 0x0110 then [(decide (l < 16), 0x0001), (l % 8 != 0, 0x0002), (decide (l > 4096), 0x0007)]
  else if op = 0x0111 then [(decide (l < 24), 0x0001), (l % 8 != 0, 0x0002), (decide (l > 4104), 0x0007)]
  else if op = 0x0112 then [(decide (l < 1), 0x0001), (decide (l > 4096), 0x0007)]
  else [(decide (l < 16), 0x0001), (l % 8 != 0, 0x0002), (decide (l > 4104), 0x0007)]

/-- Forbidden overlaps (R213): DST may start exactly where the message does. -/
def cipherOverlap (d : Desc) : Bool :=
  let out := up16 (cipherOut d)
  let inPlace := d.dst == d.src + aadLen d
  (!inPlace && hostOverlap d.dst out d.src (cipherSrcLen d)) ||
    (inPlace && hostOverlap d.dst out d.src (aadLen d)) ||
    (!isKw d.opcode && (hostOverlap d.dst out d.param 64 || hostOverlap d.src (cipherSrcLen d) d.param 64))

/-- The pre-acceptance view of a cipher descriptor. -/
def cipherPre (d : Desc) : Pre :=
  let op := d.opcode
  let usesAux := isGcm op || isCcm op || isXts op
  { param := [(!usesAux && d.aux != 0, 0), (!isXts op && d.inline != 0, 0), (isKw op && d.param != 0, 0),
              (cipherOverlap d, 0x0105)]
    length := if wholeHandle d then [] else cipherLengths d
    align := [(misaligned d.src 16, 0x0201), (misaligned d.dst 16, 0x0202), (!isKw op && misaligned d.param 64, 0x0203)]
    reads := [(d.src, cipherSrcLen d)] ++ (if isKw op then [] else [(d.param, 64)])
    writes := [(d.dst, up16 (cipherOut d))] ++ (if writesParam op then [(d.param, 64)] else [])
    output := up16 (cipherOut d)
    dstZero := true }

/-- Use, algorithm and length of the key (R206 to R208, R378). -/
def cipherKey (d : Desc) (k : Key) : Option Ending :=
  let op := d.opcode
  let want := if cipherDec op then 0x02 else 0x01
  if k.use ≠ want then some { status := stKeyUse, sub := 0x0301 }
  else if isXts op then
    if k.alg ≠ 0x02 then some { status := stKeyUse, sub := 0x0302 }
    else if k.material.take (k.material.length / 2) = k.material.drop (k.material.length / 2) then
      some { status := stKeyUse, sub := 0x0303 }
    else none
  else if k.alg ≠ 0x01 then some { status := stKeyUse, sub := 0x0302 }
  else none

/-- Blocks of 16 bytes that a job's counter takes. -/
def ctrBlocksUsed (l : Nat) : Nat := ceilDiv l 16

/-- Checks of the parameter block, in the order of R119 (R209, R215, R216); `l` is the message length. -/
def cipherBlockFault (j : Job) (d : Desc) (l : Nat) : Option Ending :=
  let op := d.opcode
  let ivLen := paramField j 0x30 1
  let tagLen := paramField j 0x31 1
  let width := paramField j 0x32 1
  let unused :=
    if isCbc op then !paramZero j 0x10 16 || !paramZero j 0x30 16
    else if isCtr op then !paramZero j 0x10 16 || !paramZero j 0x30 2 || !paramZero j 0x33 13
    else if isGcm op then !paramZero j 0x0C 4 || !paramZero j 0x20 16 || !paramZero j 0x32 14
    else if isCcm op then !paramZero j (min ivLen 16) (16 - ivLen) || !paramZero j 0x20 16 || !paramZero j 0x32 14
    else !paramZero j 0 64
  let ivBad := (isGcm op && ivLen != 12) || (isCcm op && (decide (ivLen < 7) || decide (ivLen > 13)))
  let tagBad := (isGcm op && (decide (tagLen < 12) || decide (tagLen > 16))) ||
    (isCcm op && !([4, 6, 8, 10, 12, 14, 16].contains tagLen))
  let widthBad := isCtr op && !([32, 64, 128].contains width)
  match firstSub [(unused, 0x0101), (ivBad, 0x0102), (tagBad, 0x0103), (widthBad, 0x0104)] with
  | some n => some { status := stBadParam, sub := n }
  | none =>
    let ccmLong := isCcm op && decide (l > 2 ^ (8 * (15 - ivLen)) - 1)
    let start := beNat (paramBytes j 0 16) % 2 ^ width
    let wraps := isCtr op && decide (start + ctrBlocksUsed l > 2 ^ width)
    match firstSub [(ccmLong, 0x0004), (wraps, 0x0005)] with
    | some n => some { status := stBadLength, sub := n }
    | none => none

/-- XTS over data units of AUX_LENGTH bytes from unit INLINE on (R217). -/
def xtsUnits (key : Bytes) (dec : Bool) (inline : Nat) : Nat → List Bytes → Bytes
  | _, [] => []
  | i, u :: us => xtsUnit key dec (leBytes 16 (inline + i)) u ++ xtsUnits key dec inline (i + 1) us

/-- The output of a bulk mode over a message or a prefix of it. -/
def cipherBody (d : Desc) (key : Bytes) (block : Bytes) (m : Bytes) : Bytes :=
  let iv := fit 16 block
  let nonce := block.take (field block 0x30 1)
  let width := field block 0x32 1
  match d.opcode with
  | 0x0101 => cbcEnc key iv m
  | 0x0102 => cbcDec key iv m
  | 0x0103 => cfbEnc key iv m
  | 0x0104 => cfbDec key iv m
  | 0x0105 | 0x0106 => ofb key iv m
  | 0x0107 | 0x0108 => ctr key width iv m
  | 0x0109 | 0x010A => gcmCtr key (block.take 12) m
  | 0x010B | 0x010C => ccmCrypt key nonce m
  | 0x010D => xtsUnits key false d.inline 0 (pieces d.aux m)
  | 0x010E => xtsUnits key true d.inline 0 (pieces d.aux m)
  | _ => []

/-- The last full block of a string. -/
def lastBlock (b : Bytes) : Bytes := b.drop (b.length - 16)

/-- NEXT (R210): the last ciphertext block, the last OFB output block, or the following counter block. -/
def cipherNext (d : Desc) (block m out : Bytes) : Bytes :=
  let n := ceilDiv m.length 16
  match d.opcode with
  | 0x0101 | 0x0103 => lastBlock out
  | 0x0102 | 0x0104 => lastBlock m
  | 0x0105 | 0x0106 => xorBytes (lastBlock m) (lastBlock out)
  | _ =>
    let w := field block 0x32 1
    let v := beNat (fit 16 block)
    beBytes 16 (v / 2 ^ w * 2 ^ w + (v % 2 ^ w + n) % 2 ^ w)

/-- TAG as written or compared: the full tag of GCM or CCM cut to TAG_LEN (R209). -/
def cipherTag (d : Desc) (key block aad plain cipher : Bytes) : Bytes :=
  let t := field block 0x31 1
  if isGcm d.opcode then (gcmTag key (block.take 12) aad cipher).take t
  else ccmTag key (block.take (field block 0x30 1)) aad plain t

/-- Work of a KW or KWP opcode (R218, R219). -/
def kwWork (j : Job) (d : Desc) (key m : Bytes) : Work :=
  match d.opcode with
  | 0x0110 => outputAt j 16 (kwWrap key m)
  | 0x0112 => outputAt j 16 (kwpWrap key m)
  | 0x0111 =>
    match kwUnwrap key m with
    | some p => outputAt j 16 p
    | none => workFail stVerifyFalse 0
  | _ =>
    match kwpUnwrap key m with
    | some p => outputAt j 16 p
    | none => workFail stVerifyFalse 0

/-- Source bytes of the job as it now stands: padded associated data, then the message; the exact parts. -/
def cipherSource (j : Job) (d : Desc) : Bytes × Bytes :=
  let raw := rangeData j .src
  let a := aadLen d
  let l := if wholeHandle d then raw.length - a else d.length
  ((raw.take d.aux).take a, (raw.drop a).take l)

/-- What a cipher step computes once all its source is read; bytes already issued by earlier segments are not written
again. -/
def cipherWork (j : Job) (d : Desc) (key : Bytes) : Work :=
  let (aad, m) := cipherSource j d
  if isKw d.opcode then kwWork j d key m
  else
    let block := fit 64 (rangeData j .param)
    let out := cipherBody d key block m
    let w := outputAt j 16 out
    let w := { w with writes := if out.length > j.written ∧ !isHandle (dstAddr j) then
                 [(dstAddr j + j.written, padMul 16 (out.drop j.written))] else [] }
    if d.opcode = 0x0109 ∨ d.opcode = 0x010B then
      { w with writes := w.writes ++ [(d.param + 0x10, fit 16 (cipherTag d key block aad m out))] }
    else if d.opcode = 0x010A ∨ d.opcode = 0x010C then
      if cipherTag d key block aad out m = (subBytes block 0x10 16).take (field block 0x31 1) then w
      else { w with ending := { status := stUnverified }, unverified := true }
    else if isXts d.opcode then w
    else { w with writes := w.writes ++ [(d.param + 0x20, cipherNext d block m out)] }

/-- Output bytes that the segments done so far allow to be written (R167, R220): XTS holds its last block back. -/
def cipherPrefix (j : Job) (d : Desc) (key : Bytes) : Bytes :=
  let (_, m) := cipherSource j d
  let n := m.length / 16 * 16
  let n := if isXts d.opcode then n - 16 else n
  (cipherBody d key (fit 64 (rangeData j .param)) (m.take (m.length / 16 * 16))).take n

end Sys2Proof.Machine
end

