-- ==== Sys2Proof/Machine/Edwards.lean ====
section
/-! DEFINITION. EdDSA of RFC 8032 with the verification rules of R280 and R281, and X25519 and X448 of RFC 7748 with the peer
checks of R275 and R277. CURVE 0x07 names Curve25519, 0x08 Curve448 (R267). -/
namespace Sys2Proof.Machine

/-- An Edwards curve a x^2 + y^2 = 1 + d x^2 y^2 with base point, order l, cofactor c and encodings of `len` bytes. -/
structure EdCurve where
  p : Nat
  a : Nat
  d : Nat
  bx : Nat
  b : Nat
  l : Nat
  c : Nat
  len : Nat
  deriving DecidableEq, Repr

def ed25519 : EdCurve :=
  { p := 2 ^ 255 - 19, a := 2 ^ 255 - 20
    d := 37095705934669439343138083508754565189542113879843219016388785533085940283555
    bx := 15112221349535400772501151409588531511454012693041857206046113283949847762202
    b := 46316835694926478169428394003475163141307993866256225615783033603165251855960
    l := 2 ^ 252 + 27742317777372353535851937790883648493, c := 8, len := 32 }
def ed448 : EdCurve :=
  { p := 2 ^ 448 - 2 ^ 224 - 1, a := 1, d := 2 ^ 448 - 2 ^ 224 - 1 - 39081
    bx := 224580040295924300187604334099896036246789641632564134246125461686950415467406032909029192869357953282578032075146446173674602635247710
    b := 298819210078481492676017930443930673437544040154080242095928241372331506189835876003536878655418784733982303233503462500531545062832660
    l := 2 ^ 446 - 13818066809895115352007386748515426880336692474882178609894547503885, c := 4, len := 57 }
def edCurve (code : Nat) : EdCurve := if code = 7 then ed25519 else ed448

def edAdd (c : EdCurve) (x y : Nat × Nat) : Nat × Nat :=
  let t := c.d * (x.1 * y.1 % c.p) % c.p * (x.2 * y.2 % c.p) % c.p
  ((x.1 * y.2 + x.2 * y.1) % c.p * invMod (1 + t) c.p % c.p,
   subMod (x.2 * y.2) (c.a * (x.1 * y.1 % c.p)) c.p * invMod (subMod 1 t c.p) c.p % c.p)

/-- `k` times a point plus `acc`; the first argument bounds the bits of `k`. -/
def edMulFuel (c : EdCurve) : Nat → Nat → Nat × Nat → Nat × Nat → Nat × Nat
  | 0, _, _, acc => acc
  | f + 1, k, q, acc => if k = 0 then acc else edMulFuel c f (k / 2) (edAdd c q q) (if k % 2 = 1 then edAdd c acc q else acc)
def edMul (c : EdCurve) (k : Nat) (q : Nat × Nat) : Nat × Nat := edMulFuel c (bitLen k) k q (0, 1)
def edBase (c : EdCurve) : Nat × Nat := (c.bx, c.b)

/-! ## Encodings -/

def edEncode (c : EdCurve) (q : Nat × Nat) : Bytes := leBytes c.len (q.2 + 2 ^ (8 * c.len - 1) * (q.1 % 2))

/-- A square root modulo p, for p = 5 modulo 8 or 3 modulo 4. -/
def edSqrt (p u : Nat) : Option Nat :=
  let x := if p % 4 = 3 then powMod u ((p + 1) / 4) p
    else
      let y := powMod u ((p + 3) / 8) p
      if y * y % p = u % p then y else y * powMod 2 ((p - 1) / 4) p % p
  if x * x % p = u % p then some x else none

/-- The y of an encoding and its sign bit. -/
def edSplit (c : EdCurve) (b : Bytes) : Nat × Nat := (leNat b % 2 ^ (8 * c.len - 1), leNat b / 2 ^ (8 * c.len - 1))

/-- The point of an encoding, its y taken modulo p. -/
def edPoint (c : EdCurve) (b : Bytes) : Option (Nat × Nat) :=
  let e := edSplit c b
  let y := e.1 % c.p
  (edSqrt c.p (subMod 1 (y * y) c.p * invMod (subMod c.a (c.d * (y * y % c.p)) c.p) c.p % c.p)).map (fun x =>
    (if x % 2 = e.2 then x else (c.p - x) % c.p, y))

/-- The point of a canonical encoding: y below p, and no sign for x zero (R280). -/
def edCanonical (c : EdCurve) (b : Bytes) : Option (Nat × Nat) :=
  let e := edSplit c b
  match edPoint c b with
  | some q => if b.length = c.len ∧ e.1 < c.p ∧ !(q.1 == 0 && e.2 == 1) then some q else none
  | none => none

def edSmall (c : EdCurve) (q : Nat × Nat) : Bool := edMul c c.c q == (0, 1)

/-- A verification public key lies on its curve and has no small order (R277). -/
def edPublicOk (c : EdCurve) (b : Bytes) : Bool :=
  b.length == c.len && (match edPoint c b with
    | some q => !edSmall c q
    | none => false)

/-! ## Signatures -/

/-- MODE of R267: 0 pure, 1 context, 2 prehash. The domain string before a hash. -/
def edDomain (c : EdCurve) (mode : Nat) (ctx : Bytes) : Bytes :=
  let tail := [BitVec.ofNat 8 (if mode = 2 then 1 else 0), BitVec.ofNat 8 ctx.length] ++ ctx
  if c.len = 57 then ascii "SigEd448" ++ tail
  else if mode = 0 then []
  else ascii "SigEd25519 no Ed25519 collisions" ++ tail

def edHash (c : EdCurve) (m : Bytes) : Bytes := if c.len = 57 then shake256 m 114 else sha2 .s512 m

/-- The clamped scalar of a hashed seed. -/
def edScalar (c : EdCurve) (h : Bytes) : Nat :=
  if c.len = 57 then leNat (h.take 56) / 4 * 4 % 2 ^ 447 + 2 ^ 447 else leNat (h.take 32) / 8 * 8 % 2 ^ 254 + 2 ^ 254

/-- Seed and public key of fresh key material (R273, R379). -/
def edMaterial (c : EdCurve) (seed : Bytes) : Bytes :=
  seed ++ edEncode c (edMul c (edScalar c (edHash c seed)) (edBase c))

def edSign (c : EdCurve) (mode : Nat) (ctx material m : Bytes) : Bytes :=
  let h := edHash c (material.take c.len)
  let dom := edDomain c mode ctx
  let r := leNat (edHash c (dom ++ h.drop c.len ++ m)) % c.l
  let big := edEncode c (edMul c r (edBase c))
  let k := leNat (edHash c (dom ++ big ++ material.drop c.len ++ m)) % c.l
  big ++ leBytes c.len ((r + k * edScalar c h) % c.l)

/-- What R280 asks of a signature before its equation is looked at. -/
def edFormOk (c : EdCurve) (pub sig : Bytes) : Bool :=
  sig.length == 2 * c.len && decide (leNat (sig.drop c.len) < c.l) && (edCanonical c (sig.take c.len)).isSome &&
    (match edCanonical c pub with
     | some q => !edSmall c q
     | none => false)

/-- Verification by the cofactored equation (R280, R281). -/
def edVerify (c : EdCurve) (mode : Nat) (pub ctx m sig : Bytes) : Bool :=
  edFormOk c pub sig && (match edCanonical c pub, edCanonical c (sig.take c.len) with
    | some a, some r =>
      let k := leNat (edHash c (edDomain c mode ctx ++ sig.take c.len ++ pub ++ m)) % c.l
      edMul c c.c (edMul c (leNat (sig.drop c.len)) (edBase c)) == edAdd c (edMul c c.c r) (edMul c c.c (edMul c k a))
    | _, _ => false)

/-! ## X25519 and X448 -/

/-- A Montgomery curve v^2 = u^3 + A u^2 + u, its cofactor and base u. -/
structure XCurve where
  p : Nat
  aa : Nat
  c : Nat
  base : Nat
  bits : Nat
  len : Nat
  deriving DecidableEq, Repr
def x25519 : XCurve := { p := 2 ^ 255 - 19, aa := 486662, c := 8, base := 9, bits := 255, len := 32 }
def x448 : XCurve := { p := 2 ^ 448 - 2 ^ 224 - 1, aa := 156326, c := 4, base := 5, bits := 448, len := 56 }
def xCurve (code : Nat) : XCurve := if code = 7 then x25519 else x448

/-- The ladder over the bits of a scalar, most significant first: the two running points as (X, Z). -/
def xLadder (c : XCurve) (u : Nat) : List Bool → Nat × Nat → Nat × Nat → Nat × Nat
  | [], q, _ => q
  | b :: bs, q, r =>
    let add := let s := (q.1 + q.2) * subMod r.1 r.2 c.p % c.p
               let t := subMod q.1 q.2 c.p * (r.1 + r.2) % c.p
               (powMod (s + t) 2 c.p, u * powMod (subMod s t c.p) 2 c.p % c.p)
    let dbl := fun (w : Nat × Nat) =>
      let s := powMod (w.1 + w.2) 2 c.p
      let t := powMod (subMod w.1 w.2 c.p) 2 c.p
      let e := subMod s t c.p
      (s * t % c.p, e * (s + (c.aa - 2) / 4 * e) % c.p)
    if b then xLadder c u bs add (dbl r) else xLadder c u bs (dbl q) add

/-- u-coordinate of `k` times the point of a u-coordinate; zero for the identity. -/
def xMul (c : XCurve) (k u : Nat) : Nat :=
  let r := xLadder c u (bitsDown k) (1, 0) (u, 1)
  r.1 * invMod r.2 c.p % c.p

/-- The clamped scalar of a key (RFC 7748). -/
def xScalar (c : XCurve) (b : Bytes) : Nat :=
  if c.len = 32 then leNat (b.take 32) / 8 * 8 % 2 ^ 254 + 2 ^ 254 else leNat (b.take 56) / 4 * 4 % 2 ^ 447 + 2 ^ 447

def xPeer (c : XCurve) (b : Bytes) : Nat := leNat (b.take c.len) % 2 ^ c.bits % c.p

/-- The peer's point lies on the curve and has no small order (R275). -/
def xPublicOk (c : XCurve) (b : Bytes) : Bool :=
  let u := xPeer c b
  let v := (u * u % c.p * u + c.aa * (u * u % c.p) + u) % c.p
  b.length == c.len && decide (powMod v ((c.p - 1) / 2) c.p ≤ 1) && xMul c c.c u != 0

def xAgree (c : XCurve) (material peer : Bytes) : Bytes := leBytes c.len (xMul c (xScalar c material) (xPeer c peer))
/-- Scalar and public value of fresh key material (R273, R379). -/
def xMaterial (c : XCurve) (k : Bytes) : Bytes := k ++ leBytes c.len (xMul c (xScalar c k) c.base)

end Sys2Proof.Machine
end

