-- ==== Sys2Proof/Machine/HbsCheck.lean ====
section
/-! DEFINITION. Verification of stateful hash-based signatures: LMS and HSS of RFC 8554, XMSS and XMSS^MT of RFC 8391, with the
sets of SP 800-208 (R312, R315, R395). -/
namespace Sys2Proof.Machine

/-- A hash of a stateful set: SHA-256 or SHAKE256, cut to n bytes. -/
def hbsHashOf (shake : Bool) (n : Nat) (m : Bytes) : Bytes := if shake then shake256 m n else (sha2 .s256 m).take n

/-! ## LMS and HSS -/

/-- Hash, n and height of an LMS type code. -/
def lmsType (code : Nat) : Option (Bool × Nat × Nat) :=
  if 5 ≤ code ∧ code ≤ 24 then
    some (decide (15 ≤ code), if (code - 5) / 5 % 2 = 0 then 32 else 24, 5 * ((code - 5) % 5 + 1))
  else none
/-- Hash, n and W of an LM-OTS type code. -/
def lmotsType (code : Nat) : Option (Bool × Nat × Nat) :=
  if 1 ≤ code ∧ code ≤ 16 then some (decide (9 ≤ code), if (code - 1) / 4 % 2 = 0 then 32 else 24, 2 ^ ((code - 1) % 4)) else none

/-- Number of checksum digits of W bits for n bytes. -/
def lmotsTail (n w : Nat) : Nat := ceilDiv (Nat.log2 ((2 ^ w - 1) * (8 * n / w)) + 1) w

/-- Digits of a hash with their checksum. -/
def lmotsDigits (n w : Nat) (q : Bytes) : List Nat :=
  let digits := fun (k : Nat) (v len : Nat) => (List.range k).map (fun i => v / 2 ^ (len - w * (i + 1)) % 2 ^ w)
  let ds := digits (8 * n / w) (beNat q) (8 * n)
  let v := lmotsTail n w
  ds ++ digits v ((ds.map (fun d => 2 ^ w - 1 - d)).sum) (v * w)

def lmotsChain (h : Bytes → Bytes) (pre : Bytes) : Nat → Nat → Bytes → Bytes
  | 0, _, x => x
  | f + 1, j, x => lmotsChain h pre f (j + 1) (h (pre ++ beBytes 1 j ++ x))

/-- The one-time public key that a signature (after its type) leads to. -/
def lmotsFrom (shake : Bool) (n w : Nat) (id : Bytes) (q : Nat) (sig m : Bytes) : Bytes :=
  let h := hbsHashOf shake n
  let pre := id ++ beBytes 4 q
  let ds := lmotsDigits n w (h (pre ++ [0x81, 0x81] ++ sig.take n ++ m))
  h (pre ++ [0x80, 0x80] ++ (ds.zip (List.range ds.length)).flatMap (fun e =>
    lmotsChain h (pre ++ beBytes 2 e.2) (2 ^ w - 1 - e.1) e.1 (subBytes sig (n * (e.2 + 1)) n)))

/-- Climbs from node r of a tree to its root. -/
def lmsClimb (h : Bytes → Bytes) (id : Bytes) : List Bytes → Nat → Bytes → Bytes
  | [], _, x => x
  | a :: p, r, x => lmsClimb h id p (r / 2) (h (id ++ beBytes 4 (r / 2) ++ [0x83, 0x83] ++ (if r % 2 = 0 then x ++ a else a ++ x)))

/-- Length of an LMS signature under a public key of these types. -/
def lmsSigLen (n w h : Nat) : Nat := 4 + 4 + n + (8 * n / w + lmotsTail n w) * n + 4 + h * n

/-- An LMS signature of the key's types, of exact length, verifies. -/
def lmsVerify (pub m sig : Bytes) : Bool :=
  match lmsType (beNat (pub.take 4)), lmotsType (beNat (subBytes pub 4 4)) with
  | some (s, n, ht), some (s', n', w) =>
    let q := beNat (sig.take 4)
    let chains := 8 * n / w + lmotsTail n w
    let end1 := 8 + n + chains * n
    let id := subBytes pub 8 16
    let h := hbsHashOf s n
    s == s' && n == n' && pub.length == 24 + n && sig.length == lmsSigLen n w ht && subBytes sig 4 4 == subBytes pub 4 4 &&
      subBytes sig end1 4 == pub.take 4 && decide (q < 2 ^ ht) &&
      lmsClimb h id (pieces n (sig.drop (end1 + 4))) (2 ^ ht + q)
        (h (id ++ beBytes 4 (2 ^ ht + q) ++ [0x82, 0x82] ++ lmotsFrom s n w id q (subBytes sig 8 (end1 - 8)) m)) == pub.drop 24
  | _, _ => false

/-- Length of an LMS signature under a public key; zero for unknown types. -/
def lmsLenOf (pub : Bytes) : Nat :=
  match lmsType (beNat (pub.take 4)), lmotsType (beNat (subBytes pub 4 4)) with
  | some (_, n, ht), some (_, _, w) => lmsSigLen n w ht
  | _, _ => 0

/-- Type codes of a tree and its one-time signatures that R312 has, with one hash and n. -/
def lmsTypesOk (p : Bytes) : Bool :=
  match lmsType (beNat (p.take 4)), lmotsType (beNat (subBytes p 4 4)) with
  | some (s, n, _), some (s', n', _) => s == s' && n == n'
  | _, _ => false
/-- Two public keys have one hash, n and W, which the one-time type code names; their heights may differ (R312). -/
def lmsAlike (a b : Bytes) : Bool := lmsTypesOk a && lmsTypesOk b && subBytes a 4 4 == subBytes b 4 4

/-- The levels of an HSS signature below a public key: each signs the next public key, the last the message; all levels have the
hash, n and W of the first (R312). -/
def hssLevels : Nat → Bytes → Bytes → Bytes → Bool
  | 0, pub, sig, m => lmsVerify pub m sig
  | l + 1, pub, sig, m =>
    let len := lmsLenOf pub
    let next := subBytes sig len pub.length
    len != 0 && lmsVerify pub next (sig.take len) && lmsAlike next pub && hssLevels l next (sig.drop (len + pub.length)) m

/-- An LMS public key (24 + n bytes) or an HSS one (28 + n bytes). -/
def isHss (pub : Bytes) : Bool := pub.length == 52 || pub.length == 60

def hssVerify (pub m sig : Bytes) : Bool :=
  if isHss pub then
    let l := beNat (pub.take 4)
    decide (1 ≤ l) && decide (l ≤ 4) && beNat (sig.take 4) == l - 1 && hssLevels (l - 1) (pub.drop 4) (sig.drop 4) m
  else lmsVerify pub m sig

/-- Height of the tree of a public key; zero for an unknown type. -/
def lmsHeightOf (pub : Bytes) : Nat :=
  match lmsType (beNat (pub.take 4)) with
  | some (_, _, h) => h
  | none => 0
/-- Number of the one-time signature that a signature of `l` more levels below a public key uses, counted over the whole key. -/
def hssIndexGo : Nat → Nat → Bytes → Bytes → Nat
  | 0, i, pub, sig => i * 2 ^ lmsHeightOf pub + beNat (sig.take 4)
  | l + 1, i, pub, sig =>
    let rest := sig.drop (lmsLenOf pub)
    hssIndexGo l (i * 2 ^ lmsHeightOf pub + beNat (sig.take 4)) (rest.take pub.length) (rest.drop pub.length)
def hssIndex (pub sig : Bytes) : Nat :=
  if isHss pub then hssIndexGo (beNat (pub.take 4) - 1) 0 (pub.drop 4) (sig.drop 4) else beNat (sig.take 4)

/-- Whether an HSS signature, of `l` levels below a public key, has a level of R312 with other parameters (R334). -/
def hssMixed : Nat → Bytes → Bytes → Bool
  | 0, _, _ => false
  | l + 1, pub, sig =>
    let rest := sig.drop (lmsLenOf pub)
    (lmsTypesOk rest && !lmsAlike rest pub) || hssMixed l (rest.take pub.length) (rest.drop pub.length)

/-- A public key of known types and their length. -/
def hssPublicOk (pub : Bytes) : Bool :=
  let p := if isHss pub then pub.drop 4 else pub
  (!isHss pub || (decide (1 ≤ beNat (pub.take 4)) && decide (beNat (pub.take 4) ≤ 4))) &&
    (match lmsType (beNat (p.take 4)), lmotsType (beNat (subBytes p 4 4)) with
     | some (_, n, _), some _ => lmsTypesOk p && p.length == 24 + n
     | _, _ => false)

/-! ## XMSS and XMSS^MT -/

/-- Hash, n, height of one tree and layers of an XMSS or XMSS^MT type code. -/
def xmssType (mt : Bool) (code : Nat) : Option (Bool × Nat × Nat × Nat) :=
  let trees := [(10, 2), (5, 4), (20, 2), (10, 4), (5, 8), (20, 3), (10, 6), (5, 12)]
  let at8 := fun (s : Bool) (n i : Nat) => (trees[i]?).map (fun t => (s, n, t.1, t.2))
  let at3 := fun (s : Bool) (n i : Nat) => ([10, 16, 20][i]?).map (fun h => (s, n, h, 1))
  if mt then
    if 1 ≤ code ∧ code ≤ 8 then at8 false 32 (code - 1)
    else if 0x21 ≤ code ∧ code ≤ 0x28 then at8 false 24 (code - 0x21)
    else if 0x29 ≤ code ∧ code ≤ 0x30 then at8 true 32 (code - 0x29)
    else if 0x31 ≤ code ∧ code ≤ 0x38 then at8 true 24 (code - 0x31)
    else none
  else if 1 ≤ code ∧ code ≤ 3 then at3 false 32 (code - 1)
  else if 0x0D ≤ code ∧ code ≤ 0x0F then at3 false 24 (code - 0x0D)
  else if 0x10 ≤ code ∧ code ≤ 0x12 then at3 true 32 (code - 0x10)
  else if 0x13 ≤ code ∧ code ≤ 0x15 then at3 true 24 (code - 0x13)
  else none

/-- The keyed functions of a set: 0 chains, 1 pairs, 2 messages, 3 pseudorandom. -/
def xmssKeyed (shake : Bool) (n kind : Nat) (key m : Bytes) : Bytes :=
  hbsHashOf shake n (beBytes (if n = 32 then 32 else 4) kind ++ key ++ m)

/-- An address: layer, tree, type and four words, the last choosing key or mask. -/
structure XmssAdrs where
  layer : Nat
  tree : Nat
  type : Nat
  w1 : Nat
  w2 : Nat
  w3 : Nat
  deriving DecidableEq, Repr
/-- Key or mask i of an address under the public seed. -/
def xmssMask (shake : Bool) (n : Nat) (seed : Bytes) (x : XmssAdrs) (i : Nat) : Bytes :=
  xmssKeyed shake n 3 seed (beBytes 4 x.layer ++ beBytes 8 x.tree ++ beBytes 4 x.type ++ beBytes 4 x.w1 ++ beBytes 4 x.w2 ++
    beBytes 4 x.w3 ++ beBytes 4 i)

def xmssChain (shake : Bool) (n : Nat) (seed : Bytes) (x : XmssAdrs) : Nat → Nat → Bytes → Bytes
  | 0, _, m => m
  | f + 1, i, m =>
    let y := { x with w3 := i }
    xmssChain shake n seed x f (i + 1) (xmssKeyed shake n 0 (xmssMask shake n seed y 0) (xorBytes m (xmssMask shake n seed y 1)))

def xmssPair (shake : Bool) (n : Nat) (seed : Bytes) (x : XmssAdrs) (l r : Bytes) : Bytes :=
  xmssKeyed shake n 1 (xmssMask shake n seed x 0) (xorBytes l (xmssMask shake n seed x 1) ++ xorBytes r (xmssMask shake n seed x 2))

/-- One level of an L-tree: pairs joined, an odd last one carried up. -/
def ltreeLevel (shake : Bool) (n : Nat) (seed : Bytes) (x : XmssAdrs) : Nat → List Bytes → List Bytes
  | i, a :: b :: r => xmssPair shake n seed { x with w3 := i } a b :: ltreeLevel shake n seed x (i + 1) r
  | _, r => r
def ltree (shake : Bool) (n : Nat) (seed : Bytes) (x : XmssAdrs) : Nat → Nat → List Bytes → Bytes
  | 0, _, xs => xs.headD []
  | f + 1, z, xs => ltree shake n seed x f (z + 1) (ltreeLevel shake n seed { x with w2 := z } 0 xs)

/-- Digits of W = 16 with their checksum. -/
def xmssDigits (n : Nat) (m : Bytes) : List Nat :=
  let ds := m.flatMap (fun b => [b.toNat / 16, b.toNat % 16])
  let c := ((ds.take (2 * n)).map (fun d => 15 - d)).sum
  ds.take (2 * n) ++ [c / 256 % 16, c / 16 % 16, c % 16]

/-- Climbs from leaf i through the authentication path. -/
def xmssClimb (shake : Bool) (n : Nat) (seed : Bytes) (x : XmssAdrs) : List Bytes → Nat → Nat → Bytes → Bytes
  | [], _, _, node => node
  | a :: r, z, i, node =>
    let y := { x with w2 := z, w3 := i / 2 }
    xmssClimb shake n seed x r (z + 1) (i / 2) (if i % 2 = 0 then xmssPair shake n seed y node a else xmssPair shake n seed y a node)

/-- The root that the signature of one layer leads to. -/
def xmssRootFrom (shake : Bool) (n h layer tree i : Nat) (seed sig m : Bytes) : Bytes :=
  let ends := ((xmssDigits n m).zip (List.range (2 * n + 3))).map (fun e =>
    xmssChain shake n seed ⟨layer, tree, 0, i, e.2, 0⟩ (15 - e.1) e.1 (subBytes sig (n * e.2) n))
  xmssClimb shake n seed ⟨layer, tree, 2, 0, 0, 0⟩ ((pieces n (sig.drop ((2 * n + 3) * n))).take h) 0 i
    (ltree shake n seed ⟨layer, tree, 1, i, 0, 0⟩ 7 0 ends)

/-- The layers of a signature from layer j up. -/
def xmssLayers (shake : Bool) (n h : Nat) (seed : Bytes) : Nat → Nat → Nat → Bytes → Bytes → Bytes
  | 0, _, _, _, node => node
  | f + 1, j, idx, sig, node =>
    let len := (2 * n + 3 + h) * n
    xmssLayers shake n h seed f (j + 1) (idx / 2 ^ h) (sig.drop len)
      (xmssRootFrom shake n h j (idx / 2 ^ h) (idx % 2 ^ h) seed (sig.take len) node)

/-- Bytes of the index of a signature. -/
def xmssIdxLen (mt : Bool) (h l : Nat) : Nat := if mt then ceilDiv (h * l) 8 else 4

def xmssVerify (mt : Bool) (pub m sig : Bytes) : Bool :=
  match xmssType mt (beNat (pub.take 4)) with
  | none => false
  | some (s, n, h, l) =>
    let k := xmssIdxLen mt h l
    let idx := beNat (sig.take k)
    let root := subBytes pub 4 n
    pub.length == 4 + 2 * n && sig.length == k + n + l * (2 * n + 3 + h) * n && decide (idx < 2 ^ (h * l)) &&
      xmssLayers s n h (pub.drop (4 + n)) l 0 idx (sig.drop (k + n))
        (xmssKeyed s n 2 (subBytes sig k n ++ root ++ beBytes n idx) m) == root

/-! ## By algorithm -/

/-- The type codes of a public key are those of a set of R312. -/
def hbsTypesOk (alg : Nat) (pub : Bytes) : Bool :=
  if alg = 0x40 then
    lmsTypesOk (if isHss pub then pub.drop 4 else pub) &&
      (!isHss pub || (decide (1 ≤ beNat (pub.take 4)) && decide (beNat (pub.take 4) ≤ 4)))
  else (xmssType (alg == 0x42) (beNat (pub.take 4))).isSome

/-- A public key of such type codes has the length that they give. -/
def hbsLengthOk (alg : Nat) (pub : Bytes) : Bool :=
  if alg = 0x40 then hssPublicOk pub
  else match xmssType (alg == 0x42) (beNat (pub.take 4)) with
    | some (_, n, _) => pub.length == 4 + 2 * n
    | none => false

/-- The levels of a signature mix parameters. -/
def hbsMixed (alg : Nat) (pub sig : Bytes) : Bool :=
  alg == 0x40 && isHss pub && hssMixed (beNat (pub.take 4) % 8 - 1) (pub.drop 4) (sig.drop 4)

/-- Verification under a public key of ALG 0x40, 0x41 or 0x42 (R315). -/
def hbsVerify (alg : Nat) (pub m sig : Bytes) : Bool :=
  if alg = 0x40 then hssVerify pub m sig else xmssVerify (alg == 0x42) pub m sig

/-- Number of the one-time signature that a signature uses (R315, R395). -/
def usedIndex (alg : Nat) (pub sig : Bytes) : Nat :=
  if alg = 0x40 then hssIndex pub sig
  else match xmssType (alg == 0x42) (beNat (pub.take 4)) with
    | some (_, _, h, l) => beNat (sig.take (xmssIdxLen (alg == 0x42) h l))
    | none => 0

end Sys2Proof.Machine
end

