-- ==== Sys2Proof/Machine/HbsSign.lean ====
section
/-! DEFINITION. Stateful hash-based keys: their parameters, trees, public keys, signatures and tree images (R312 to R316, R379),
with the functions of RFC 8554, RFC 8391 and SP 800-208. The secrets of each tree are free functions of the 80 bytes of the key
(log entry 4). -/
namespace Sys2Proof.Machine

/-! ## Stateful parameters (R312, R379) -/

def hbsLayers (p : Nat) : Nat := bits p 7 0
def hbsHeight (p : Nat) : Nat := bits p 15 8
def hbsW (p : Nat) : Nat := bits p 23 16
def hbsHash (p : Nat) : Nat := bits p 31 24
/-- n of a stateful hash code. -/
def hbsN (p : Nat) : Nat := if hbsHash p = 1 ∨ hbsHash p = 3 then 32 else 24
/-- The hash is SHAKE256. -/
def hbsShake (p : Nat) : Bool := decide (3 ≤ hbsHash p)

/-- Sets of R312. -/
def hbsParamOk (alg p : Nat) : Bool :=
  [1, 2, 3, 4].contains (hbsHash p) &&
    (if alg = 0x40 then
       [5, 10, 15, 20, 25].contains (hbsHeight p) && [1, 2, 3, 4].contains (hbsLayers p) && [1, 2, 4, 8].contains (hbsW p)
     else if alg = 0x41 then hbsLayers p == 1 && [10, 16, 20].contains (hbsHeight p) && hbsW p == 16
     else hbsW p == 16 &&
       [(2, 10), (4, 5), (2, 20), (4, 10), (8, 5), (3, 20), (6, 10), (12, 5)].contains (hbsLayers p, hbsHeight p))

/-- Number of one-time chains: LM-OTS of RFC 8554, WOTS+ of RFC 8391 (PRESUMED, log entry 10). -/
def otsChains (n w : Nat) : Nat :=
  if n = 32 then (match w with | 1 => 265 | 2 => 133 | 8 => 34 | _ => 67)
  else (match w with | 1 => 200 | 2 => 101 | 8 => 26 | _ => 51)

/-- Length of what one layer signs with: an LMS signature, or the chains and the path of an XMSS one. -/
def layerSigLen (alg p : Nat) : Nat :=
  let n := hbsN p
  (if alg = 0x40 then 12 + n else 0) + (otsChains n (hbsW p) + hbsHeight p) * n

/-- Length of a signature of a stateful key. -/
def hbsSigLen (alg p : Nat) : Nat :=
  let n := hbsN p
  let l := hbsLayers p
  if alg = 0x40 then
    (if l = 1 then layerSigLen alg p else 4 + l * layerSigLen alg p + (l - 1) * (24 + n))
  else if alg = 0x41 then 4 + n + layerSigLen alg p
  else ceilDiv (hbsHeight p * l) 8 + n + l * layerSigLen alg p

/-- Length of a stateful public key: LMS or HSS of RFC 8554, XMSS of RFC 8391 (PRESUMED, log entry 10). -/
def hbsPubLen (alg p : Nat) : Nat :=
  if alg = 0x40 then (if hbsLayers p = 1 then 24 + hbsN p else 28 + hbsN p) else 4 + 2 * hbsN p

/-- Number of one-time signatures of a key. -/
def hbsTotal (p : Nat) : Nat := 2 ^ (hbsHeight p * hbsLayers p)

/-- Number of the tree of layer l (0 the lowest) that an index uses, for trees of height h. -/
def treeOf (h l i : Nat) : Nat := i / 2 ^ (h * (l + 1))
/-- The leaf of that tree that the index uses. -/
def leafOf (h l i : Nat) : Nat := i / 2 ^ (h * l) % 2 ^ h
/-- Trees of a layer in all, for a key of n layers. -/
def treesIn (h n l : Nat) : Nat := 2 ^ (h * (n - 1 - l))

/-! ## LMS trees -/

/-- Type codes of a set (PRESUMED, log entry 10). -/
def lmsCode (p : Nat) : Nat := 4 + 10 * b2n (hbsShake p) + 5 * b2n (hbsN p == 24) + hbsHeight p / 5
def lmotsCode (p : Nat) : Nat := 1 + 8 * b2n (hbsShake p) + 4 * b2n (hbsN p == 24) + Nat.log2 (hbsW p)

/-- A tree of a key: algorithm, parameter, material, layer and number. -/
structure Tree where
  alg : Nat
  param : Nat
  material : Bytes
  layer : Nat
  tree : Nat
  deriving DecidableEq, Repr

/-- SEED and identifier I of an LMS tree. -/
def Tree.seed (t : Tree) : Bytes := fit (hbsN t.param) (Config.treeSecret t.alg t.param t.material 0 t.layer t.tree)
def Tree.ident (t : Tree) : Bytes := fit 16 (Config.treeSecret t.alg t.param t.material 1 t.layer t.tree)
def Tree.hash (t : Tree) : Bytes → Bytes := hbsHashOf (hbsShake t.param) (hbsN t.param)

/-- Chain i of leaf q after `steps` steps from its secret start. -/
def lmsChainAt (t : Tree) (q i steps : Nat) : Bytes :=
  let pre := t.ident ++ beBytes 4 q ++ beBytes 2 i
  lmotsChain t.hash pre steps 0 (t.hash (pre ++ [0xFF] ++ t.seed))

/-- One-time public key of leaf q: every chain to its end. -/
def lmsOneTime (t : Tree) (q : Nat) : Bytes :=
  t.hash (t.ident ++ beBytes 4 q ++ [0x80, 0x80] ++
    (List.range (otsChains (hbsN t.param) (hbsW t.param))).flatMap (fun i => lmsChainAt t q i (2 ^ hbsW t.param - 1)))

/-- Node x of the level z above the leaves. -/
def lmsNode (t : Tree) : Nat → Nat → Bytes
  | 0, x =>
    let r := 2 ^ hbsHeight t.param + x
    t.hash (t.ident ++ beBytes 4 r ++ [0x82, 0x82] ++ lmsOneTime t x)
  | z + 1, x =>
    let r := 2 ^ (hbsHeight t.param - (z + 1)) + x
    t.hash (t.ident ++ beBytes 4 r ++ [0x83, 0x83] ++ lmsNode t z (2 * x) ++ lmsNode t z (2 * x + 1))

/-- The one-time signature of a message by leaf q under randomiser c: each chain as far as its digit (R316). -/
def lmsChains (t : Tree) (q : Nat) (c m : Bytes) : Bytes :=
  let ds := lmotsDigits (hbsN t.param) (hbsW t.param) (t.hash (t.ident ++ beBytes 4 q ++ [0x81, 0x81] ++ c ++ m))
  (ds.zip (List.range ds.length)).flatMap (fun e => lmsChainAt t q e.2 e.1)

/-- The LMS public key of a tree. -/
def lmsPublic (t : Tree) : Bytes :=
  beBytes 4 (lmsCode t.param) ++ beBytes 4 (lmotsCode t.param) ++ t.ident ++ lmsNode t (hbsHeight t.param) 0

/-! ## XMSS trees -/

/-- Secrets of an XMSS key: part 0 SK_SEED, 1 SK_PRF, 2 the public seed. -/
def xmssSecret (t : Tree) (part : Nat) : Bytes := fit (hbsN t.param) (Config.treeSecret t.alg t.param t.material part 0 0)
def xmssPublicSeed (t : Tree) : Bytes := xmssSecret t 2

/-- Bytes of an address with its last word. -/
def xmssAddress (x : XmssAdrs) (i : Nat) : Bytes :=
  beBytes 4 x.layer ++ beBytes 8 x.tree ++ beBytes 4 x.type ++ beBytes 4 x.w1 ++ beBytes 4 x.w2 ++ beBytes 4 x.w3 ++ beBytes 4 i

/-- Chain i of leaf q after `steps` steps; its start follows SP 800-208. -/
def xmssChainAt (t : Tree) (q i steps : Nat) : Bytes :=
  let x : XmssAdrs := ⟨t.layer, t.tree, 0, q, i, 0⟩
  let sh := hbsShake t.param
  let n := hbsN t.param
  xmssChain sh n (xmssPublicSeed t) x steps 0 (xmssKeyed sh n 4 (xmssSecret t 0) (xmssPublicSeed t ++ xmssAddress x 0))

/-- Node x of the level z above the leaves. -/
def xmssTreeNode (t : Tree) : Nat → Nat → Bytes
  | 0, x =>
    ltree (hbsShake t.param) (hbsN t.param) (xmssPublicSeed t) ⟨t.layer, t.tree, 1, x, 0, 0⟩ 7 0
      ((List.range (otsChains (hbsN t.param) 16)).map (fun i => xmssChainAt t x i 15))
  | z + 1, x =>
    xmssPair (hbsShake t.param) (hbsN t.param) (xmssPublicSeed t) ⟨t.layer, t.tree, 2, 0, z, x⟩ (xmssTreeNode t z (2 * x)) (xmssTreeNode t z (2 * x + 1))

/-- The one-time signature of n bytes by leaf q. -/
def xmssChains (t : Tree) (q : Nat) (m : Bytes) : Bytes :=
  let ds := xmssDigits (hbsN t.param) m
  (ds.zip (List.range ds.length)).flatMap (fun e => xmssChainAt t q e.2 e.1)

/-- Type code of an XMSS or XMSS^MT set (PRESUMED, log entry 10). -/
def xmssCode (alg p : Nat) : Nat :=
  let at1 := if hbsHash p = 1 then 1 else if hbsHash p = 2 then 0x0D else if hbsHash p = 3 then 0x10 else 0x13
  let atm := if hbsHash p = 1 then 1 else if hbsHash p = 2 then 0x21 else if hbsHash p = 3 then 0x29 else 0x31
  if alg = 0x41 then at1 + [10, 16, 20].idxOf (hbsHeight p)
  else atm + [(2, 10), (4, 5), (2, 20), (4, 10), (8, 5), (3, 20), (6, 10), (12, 5)].idxOf (hbsLayers p, hbsHeight p)

/-! ## Keys of either kind -/

/-- Node x of the level z above the leaves of a tree. -/
def treeNode (t : Tree) (z x : Nat) : Bytes := if t.alg = 0x40 then lmsNode t z x else xmssTreeNode t z x
def treeRoot (t : Tree) : Bytes := treeNode t (hbsHeight t.param) 0
/-- Siblings on the way from leaf q to the root. -/
def treePath (t : Tree) (q : Nat) : Bytes :=
  (List.range (hbsHeight t.param)).flatMap (fun z =>
    let x := q / 2 ^ z
    treeNode t z (if x % 2 = 0 then x + 1 else x - 1))

/-- What a tree signs with at leaf q: an LMS signature under randomiser c, or the chains and the path of an XMSS one. -/
def treeSign (t : Tree) (q : Nat) (c m : Bytes) : Bytes :=
  if t.alg = 0x40 then
    beBytes 4 q ++ beBytes 4 (lmotsCode t.param) ++ c ++ lmsChains t q c m ++ beBytes 4 (lmsCode t.param) ++ treePath t q
  else xmssChains t q m ++ treePath t q

/-- The tree above a tree, and the leaf of it that signs its root. -/
def Tree.parent (t : Tree) : Tree := { t with layer := t.layer + 1, tree := t.tree / 2 ^ hbsHeight t.param }
/-- The parent's signature of a tree's root, with a randomiser that follows from the parent's seed and index (R314). -/
def rootSignature (t : Tree) : Bytes :=
  let q := t.tree % 2 ^ hbsHeight t.param
  treeSign t.parent q (fit (hbsN t.param) (Config.rootRandomiser t.parent.seed q)) (if t.alg = 0x40 then lmsPublic t else treeRoot t)

/-- The tree of a layer that an index uses. -/
def usedTree (alg p : Nat) (m : Bytes) (l i : Nat) : Tree := ⟨alg, p, m, l, treeOf (hbsHeight p) l i⟩

/-- The public key of private stateful material. -/
def hbsPublic (alg p : Nat) (m : Bytes) : Bytes :=
  let t : Tree := ⟨alg, p, m, hbsLayers p - 1, 0⟩
  if alg = 0x40 then (if hbsLayers p = 1 then lmsPublic t else beBytes 4 (hbsLayers p) ++ lmsPublic t)
  else beBytes 4 (xmssCode alg p) ++ treeRoot t ++ xmssPublicSeed t

/-- The signature of a message under an index, with randomiser c of an LMS key; an XMSS randomiser follows from the index
(R316). -/
def hbsSign (alg p : Nat) (m : Bytes) (i : Nat) (msg c : Bytes) : Bytes :=
  let h := hbsHeight p
  let n := hbsN p
  let low := usedTree alg p m 0 i
  let upper := List.range (hbsLayers p - 1)
  if alg = 0x40 then
    (if hbsLayers p = 1 then [] else beBytes 4 (hbsLayers p - 1)) ++
      (upper.reverse.flatMap (fun l => rootSignature (usedTree alg p m l i) ++ lmsPublic (usedTree alg p m l i))) ++
      treeSign low (leafOf h 0 i) c msg
  else
    let sh := hbsShake p
    let r := xmssKeyed sh n 3 (xmssSecret low 1) (beBytes 32 i)
    let root := treeRoot ⟨alg, p, m, hbsLayers p - 1, 0⟩
    let digest := xmssKeyed sh n 2 (r ++ root ++ beBytes n i) msg
    beBytes (xmssIdxLen (alg == 0x42) h (hbsLayers p)) i ++ r ++ treeSign low (leafOf h 0 i) [] digest ++
      upper.flatMap (fun l => rootSignature (usedTree alg p m l i))

/-! ## Tree images (R313, R314, R451; log entry 28) -/

/-- Pages of a tree of height h: subtrees of height 6, level by level, the root's first. -/
def treeDepth (h : Nat) : Nat := ceilDiv h 6
def treeLevelBase (k : Nat) : Nat := ((List.range k).map (fun m => 2 ^ (6 * m))).sum
def treePages (h : Nat) : Nat := treeLevelBase (treeDepth h)
/-- Pages that hold the parent's signature of a tree's root, after those of its nodes. -/
def rootSigPages (alg p : Nat) : Nat := if hbsLayers p ≤ 1 then 0 else ceilDiv (layerSigLen alg p) 4096
/-- Pages of one tree of a key, and of its image: two trees of every layer. -/
def treeSize (alg p : Nat) : Nat := treePages (hbsHeight p) + rootSigPages alg p
def imageSize (alg p : Nat) : Nat := 2 * hbsLayers p * treeSize alg p
/-- First page of tree t of a layer within the image: two places a layer, used in turn. -/
def treePlace (alg p l t : Nat) : Nat := (2 * l + t % 2) * treeSize alg p
/-- Pages on the path of leaf q of a tree. -/
def leafPath (h q : Nat) : List Nat :=
  (List.range (treeDepth h)).map (fun k => treeLevelBase k + q / 2 ^ (h - min h (6 * k)))

/-- The 4 KiB of the subtree whose root stands at depth d and place x: node k at 32k; the tree's number plus 1 before the node of its
root. -/
def subtreePage (t : Tree) (d x : Nat) : Bytes :=
  let h := hbsHeight t.param
  fit 32 (if d = 0 then leBytes 8 (t.tree + 1) else []) ++
    (List.range 127).flatMap (fun i =>
      let k := i + 1
      let e := Nat.log2 k
      fit 32 (if d + e ≤ h then treeNode t (h - (d + e)) (x * 2 ^ e + (k - 2 ^ e)) else []))

/-- Page i of a tree. -/
def treePage (t : Tree) (i : Nat) : Bytes :=
  let n := treePages (hbsHeight t.param)
  if i < n then
    let k := (List.range (treeDepth (hbsHeight t.param))).countP (fun k => decide (treeLevelBase (k + 1) ≤ i))
    subtreePage t (6 * k) (i - treeLevelBase k)
  else fit 4096 (if t.layer + 1 < hbsLayers t.param then (rootSignature t).drop (4096 * (i - n)) else [])

end Sys2Proof.Machine
end

