-- ==== Sys2Proof/Machine/Rsa.lean ====
section
/-! DEFINITION. RSA of PKCS #1 v2.2: PSS and v1.5 signatures, OAEP encryption (R264 to R270, R274, R278). -/
namespace Sys2Proof.Machine

/-- A hash function: its HASH code of R267, digest length and digest. -/
structure HashFn where
  code : Nat
  len : Nat
  digest : Bytes → Bytes

/-- An RSA public key: modulus length in bytes, exponent and modulus (R268). -/
structure RsaPub where
  k : Nat
  e : Nat
  n : Nat
  deriving DecidableEq, Repr

/-- The public key of its encoding: e as 8 bytes, then n (R268). -/
def rsaPubFrom (b : Bytes) : RsaPub := { k := b.length - 8, e := beNat (b.take 8), n := beNat (b.drop 8) }

/-- A private key from its material p, q, dP, dQ, qInv, n, e (R379). -/
def rsaPart (m : Bytes) (k i : Nat) : Nat := beNat (subBytes m (i * (k / 2)) (k / 2))
def rsaOf (m : Bytes) : RsaPub :=
  let k := 2 * (m.length - 8) / 7
  { k := k, e := beNat (m.drop (m.length - 8)), n := beNat (subBytes m (5 * (k / 2)) k) }

/-- The private operation by the CRT; blinding changes no result (R274). -/
def rsaPrivate (m : Bytes) (x : Nat) : Nat :=
  let k := (rsaOf m).k
  let p := rsaPart m k 0
  let q := rsaPart m k 1
  let a := powMod x (rsaPart m k 2) p
  let b := powMod x (rsaPart m k 3) q
  b + q * (rsaPart m k 4 * subMod a b p % p)

/-- MGF1. -/
def mgf1 (h : HashFn) (seed : Bytes) (n : Nat) : Bytes :=
  ((List.range (ceilDiv n (max 1 h.len))).flatMap (fun i => h.digest (seed ++ beBytes 4 i))).take n

/-- Clears the bits of the first byte above those of a number of `bits` bits in `len` bytes. -/
def clearTop (len bits : Nat) (b : Bytes) : Bytes :=
  match b with
  | [] => []
  | x :: r => BitVec.ofNat 8 (x.toNat % 2 ^ (8 - (8 * len - bits))) :: r

/-- EMSA-PSS encoding of a digest with a salt, for emBits bits. -/
def pssEncode (h : HashFn) (emBits : Nat) (digest salt : Bytes) : Bytes :=
  let len := ceilDiv emBits 8
  let hh := h.digest (zeros 8 ++ digest ++ salt)
  let db := zeros (len - salt.length - h.len - 2) ++ [1] ++ salt
  clearTop len emBits (xorBytes db (mgf1 h hh (len - h.len - 1))) ++ hh ++ [0xBC]

/-- EMSA-PSS verification with a salt length. -/
def pssVerify (h : HashFn) (emBits sLen : Nat) (digest em : Bytes) : Bool :=
  let len := ceilDiv emBits 8
  let dbLen := len - h.len - 1
  let masked := em.take dbLen
  let hh := subBytes em dbLen h.len
  let db := clearTop len emBits (xorBytes masked (mgf1 h hh dbLen))
  let pad := dbLen - sLen - 1
  decide (h.len + sLen + 2 ≤ len) && em.length == len && em.drop (len - 1) == [0xBC] && clearTop len emBits masked == masked &&
    allZero (db.take pad) && subBytes db pad 1 == [1] && h.digest (zeros 8 ++ digest ++ db.drop (dbLen - sLen)) == hh

/-- Last byte of the object identifier of a SHA-2 function. -/
def shaOid (code : Nat) : Byte :=
  match code with
  | 1 => 4
  | 2 => 1
  | 3 => 2
  | 4 => 3
  | _ => 6

/-- EMSA-PKCS1-v1_5 encoding of a digest, with its DigestInfo. -/
def v15Encode (h : HashFn) (k : Nat) (digest : Bytes) : Bytes :=
  let info : Bytes := [0x30, BitVec.ofNat 8 (h.len + 17), 0x30, 0x0D, 0x06, 0x09, 0x60, 0x86, 0x48, 0x01, 0x65, 0x03, 0x04, 0x02, shaOid h.code,
    0x05, 0x00, 0x04, BitVec.ofNat 8 h.len] ++ digest
  [0x00, 0x01] ++ List.replicate (k - info.length - 3) 0xFF ++ [0x00] ++ info

/-- The input of the private operation of a signature over a digest: PSS with a salt or v1.5 without (R264, R270). -/
def rsaEncoded (pss : Bool) (h : HashFn) (m digest salt : Bytes) : Nat :=
  let pub := rsaOf m
  beNat (if pss then pssEncode h (bitLen pub.n - 1) digest salt else v15Encode h pub.k digest)

/-- The signature of an encoded digest. -/
def rsaSign (pss : Bool) (h : HashFn) (m digest salt : Bytes) : Bytes :=
  beBytes (rsaOf m).k (rsaPrivate m (rsaEncoded pss h m digest salt))

/-- Verification of a signature over a digest. -/
def rsaVerify (pss : Bool) (h : HashFn) (sLen : Nat) (pub : RsaPub) (digest sig : Bytes) : Bool :=
  let x := powMod (beNat sig) pub.e pub.n
  let emBits := bitLen pub.n - 1
  sig.length == pub.k && decide (beNat sig < pub.n) &&
    (if pss then decide (x < 2 ^ (8 * ceilDiv emBits 8)) && pssVerify h emBits sLen digest (beBytes (ceilDiv emBits 8) x)
     else beBytes pub.k x == v15Encode h pub.k digest)

/-- OAEP encryption under a label with a seed. -/
def oaepEncrypt (h : HashFn) (pub : RsaPub) (label msg seed : Bytes) : Bytes :=
  let dbLen := pub.k - h.len - 1
  let db := h.digest label ++ zeros (pub.k - msg.length - 2 * h.len - 2) ++ [1] ++ msg
  let masked := xorBytes db (mgf1 h seed dbLen)
  beBytes pub.k (powMod (beNat ([0] ++ xorBytes seed (mgf1 h masked h.len) ++ masked)) pub.e pub.n)

/-- OAEP decoding: none for any failure (R278). -/
def oaepDecrypt (h : HashFn) (m label ct : Bytes) : Option Bytes :=
  let pub := rsaOf m
  let em := beBytes pub.k (rsaPrivate m (beNat ct))
  let masked := em.drop (h.len + 1)
  let seed := xorBytes (subBytes em 1 h.len) (mgf1 h masked h.len)
  let db := xorBytes masked (mgf1 h seed (pub.k - h.len - 1))
  let rest := (db.drop h.len).dropWhile (· == 0)
  if decide (beNat ct < pub.n) && decide (2 * h.len + 2 ≤ pub.k) && em.take 1 == [0] && db.take h.len == h.digest label &&
      rest.take 1 == [1] then some (rest.drop 1)
  else none

/-- The check of R275 on a private operation: raising the result to e gives the input back. -/
def rsaChecks (m : Bytes) (x : Nat) : Bool :=
  let pub := rsaOf m
  powMod (rsaPrivate m x) pub.e pub.n == x % pub.n

end Sys2Proof.Machine
end

