-- ==== Sys2Proof/Machine/SlhDsa.lean ====
section
/-! DEFINITION. SLH-DSA of FIPS 205, hedged (R298, R299, R307, R308). -/
namespace Sys2Proof.Machine

/-- Parameters: SHAKE or SHA2, n, h, d, a, k, m; Winternitz width 16 (R299). -/
structure SlhSet where
  shake : Bool
  n : Nat
  h : Nat
  d : Nat
  a : Nat
  k : Nat
  m : Nat
  deriving DecidableEq, Repr
def slhSet (code : Nat) : SlhSet :=
  let s := decide (0x27 ≤ code)
  match (code - 0x21) % 6 with
  | 0 => ⟨s, 16, 63, 7, 12, 14, 30⟩
  | 1 => ⟨s, 16, 66, 22, 6, 33, 34⟩
  | 2 => ⟨s, 24, 63, 7, 14, 17, 39⟩
  | 3 => ⟨s, 24, 66, 22, 8, 33, 42⟩
  | 4 => ⟨s, 32, 64, 8, 14, 22, 47⟩
  | _ => ⟨s, 32, 68, 17, 9, 35, 49⟩
/-- Height of one tree. -/
def SlhSet.hp (p : SlhSet) : Nat := p.h / p.d
/-- Chains of a one-time signature. -/
def SlhSet.chains (p : SlhSet) : Nat := 2 * p.n + 3

/-- An address: layer, tree, type and three words. -/
structure SlhAdrs where
  layer : Nat
  tree : Nat
  type : Nat
  w1 : Nat
  w2 : Nat
  w3 : Nat
  deriving DecidableEq, Repr
def SlhAdrs.bytes (x : SlhAdrs) (p : SlhSet) : Bytes :=
  (if p.shake then beBytes 4 x.layer ++ beBytes 12 x.tree ++ beBytes 4 x.type
   else beBytes 1 x.layer ++ beBytes 8 x.tree ++ beBytes 1 x.type) ++ beBytes 4 x.w1 ++ beBytes 4 x.w2 ++ beBytes 4 x.w3

/-- The tweakable hash of a public seed, an address and an input; long inputs of the larger SHA2 sets use SHA-512. -/
def slhHash (p : SlhSet) (seed : Bytes) (x : SlhAdrs) (m : Bytes) : Bytes :=
  if p.shake then shake256 (seed ++ x.bytes p ++ m) p.n
  else if p.n = 16 ∨ m.length ≤ p.n then (sha2 .s256 (seed ++ zeros (64 - p.n) ++ x.bytes p ++ m)).take p.n
  else (sha2 .s512 (seed ++ zeros (128 - p.n) ++ x.bytes p ++ m)).take p.n

/-- The hash of a message under its randomiser: m bytes. -/
def slhMessage (p : SlhSet) (r pub m : Bytes) : Bytes :=
  let seed := pub.take p.n
  if p.shake then shake256 (r ++ pub ++ m) p.m
  else
    let a : ShaAlg := if p.n = 16 then .s256 else .s512
    let x := r ++ seed ++ sha2 a (r ++ pub ++ m)
    ((List.range (ceilDiv p.m a.outLen)).flatMap (fun i => sha2 a (x ++ beBytes 4 i))).take p.m

/-- The randomiser of a message. -/
def slhRandomiser (p : SlhSet) (prf opt m : Bytes) : Bytes :=
  if p.shake then shake256 (prf ++ opt ++ m) p.n
  else (hmac (if p.n = 16 then .s256 else .s512) prf (opt ++ m)).take p.n

/-- Digits of `b` bits of a string, most significant first. -/
def digitsOf (b n : Nat) (m : Bytes) : List Nat :=
  let v := beNat m
  (List.range n).map (fun i => v / 2 ^ (8 * m.length - b * (i + 1)) % 2 ^ b)

/-! ## One-time signatures -/

/-- `s` steps of a chain from step i. -/
def slhChain (p : SlhSet) (seed : Bytes) (x : SlhAdrs) : Nat → Nat → Bytes → Bytes
  | 0, _, m => m
  | s + 1, i, m => slhChain p seed x s (i + 1) (slhHash p seed { x with w3 := i } m)

/-- Digits of a message with their checksum. -/
def wotsDigits (p : SlhSet) (m : Bytes) : List Nat :=
  let ds := digitsOf 4 (2 * p.n) m
  let c := (ds.map (fun d => 15 - d)).sum
  ds ++ [c / 256 % 16, c / 16 % 16, c % 16]

def wotsSecret (p : SlhSet) (sk seed : Bytes) (x : SlhAdrs) (i : Nat) : Bytes :=
  slhHash p seed { x with type := 5, w2 := i, w3 := 0 } sk
/-- The compressed public key of its chains' ends. -/
def wotsJoin (p : SlhSet) (seed : Bytes) (x : SlhAdrs) (ends : Bytes) : Bytes :=
  slhHash p seed { x with type := 1, w2 := 0, w3 := 0 } ends
def wotsPublic (p : SlhSet) (sk seed : Bytes) (x : SlhAdrs) : Bytes :=
  wotsJoin p seed x ((List.range p.chains).flatMap (fun i => slhChain p seed { x with type := 0, w2 := i } 15 0 (wotsSecret p sk seed x i)))
def wotsSign (p : SlhSet) (sk seed : Bytes) (x : SlhAdrs) (m : Bytes) : Bytes :=
  ((wotsDigits p m).zip (List.range p.chains)).flatMap (fun e =>
    slhChain p seed { x with type := 0, w2 := e.2 } e.1 0 (wotsSecret p sk seed x e.2))
def wotsFrom (p : SlhSet) (seed : Bytes) (x : SlhAdrs) (sig m : Bytes) : Bytes :=
  wotsJoin p seed x (((wotsDigits p m).zip (List.range p.chains)).flatMap (fun e =>
    slhChain p seed { x with type := 0, w2 := e.2 } (15 - e.1) e.1 (subBytes sig (p.n * e.2) p.n)))

/-! ## Trees -/

/-- Node i at height z of the tree of an address. -/
def xmssNode (p : SlhSet) (sk seed : Bytes) (x : SlhAdrs) : Nat → Nat → Bytes
  | 0, i => wotsPublic p sk seed { x with w1 := i }
  | z + 1, i => slhHash p seed { x with type := 2, w1 := 0, w2 := z + 1, w3 := i }
      (xmssNode p sk seed x z (2 * i) ++ xmssNode p sk seed x z (2 * i + 1))

/-- The sibling of a node's index. -/
def sibling (i : Nat) : Nat := if i % 2 = 0 then i + 1 else i - 1

def xmssSign (p : SlhSet) (sk seed : Bytes) (x : SlhAdrs) (i : Nat) (m : Bytes) : Bytes :=
  wotsSign p sk seed { x with w1 := i } m ++ (List.range p.hp).flatMap (fun j => xmssNode p sk seed x j (sibling (i / 2 ^ j)))

/-- Climbs from a node through siblings: height and index of the next node. -/
def slhClimb (p : SlhSet) (seed : Bytes) (x : SlhAdrs) : List Bytes → Nat → Nat → Bytes → Bytes
  | [], _, _, node => node
  | a :: r, z, i, node =>
    slhClimb p seed x r (z + 1) (i / 2) (slhHash p seed { x with w2 := z + 1, w3 := i / 2 } (if i % 2 = 0 then node ++ a else a ++ node))

def xmssFrom (p : SlhSet) (seed : Bytes) (x : SlhAdrs) (i : Nat) (sig m : Bytes) : Bytes :=
  slhClimb p seed { x with type := 2, w1 := 0 } ((pieces p.n (sig.drop (p.chains * p.n))).take p.hp) 0 i
    (wotsFrom p seed { x with w1 := i } sig m)

/-- The hypertree signature from layer j on. -/
def hyperSign (p : SlhSet) (sk seed : Bytes) : Nat → Nat → Nat → Nat → Bytes → Bytes
  | 0, _, _, _, _ => []
  | f + 1, j, tree, leaf, m =>
    let x : SlhAdrs := ⟨j, tree, 0, 0, 0, 0⟩
    let s := xmssSign p sk seed x leaf m
    s ++ hyperSign p sk seed f (j + 1) (tree / 2 ^ p.hp) (tree % 2 ^ p.hp) (xmssFrom p seed x leaf s m)

/-- The root that a hypertree signature leads to. -/
def hyperFrom (p : SlhSet) (seed : Bytes) : Nat → Nat → Nat → Nat → Bytes → Bytes → Bytes
  | 0, _, _, _, _, m => m
  | f + 1, j, tree, leaf, sig, m =>
    let len := (p.chains + p.hp) * p.n
    hyperFrom p seed f (j + 1) (tree / 2 ^ p.hp) (tree % 2 ^ p.hp) (sig.drop len)
      (xmssFrom p seed ⟨j, tree, 0, 0, 0, 0⟩ leaf (sig.take len) m)

/-! ## Few-time signatures -/

def forsSecret (p : SlhSet) (sk seed : Bytes) (x : SlhAdrs) (i : Nat) : Bytes := slhHash p seed { x with type := 6, w2 := 0, w3 := i } sk
def forsNode (p : SlhSet) (sk seed : Bytes) (x : SlhAdrs) : Nat → Nat → Bytes
  | 0, i => slhHash p seed { x with type := 3, w2 := 0, w3 := i } (forsSecret p sk seed x i)
  | z + 1, i => slhHash p seed { x with type := 3, w2 := z + 1, w3 := i } (forsNode p sk seed x z (2 * i) ++ forsNode p sk seed x z (2 * i + 1))

def forsSign (p : SlhSet) (sk seed : Bytes) (x : SlhAdrs) (md : Bytes) : Bytes :=
  ((digitsOf p.a p.k md).zip (List.range p.k)).flatMap (fun e =>
    forsSecret p sk seed x (e.2 * 2 ^ p.a + e.1) ++
      (List.range p.a).flatMap (fun j => forsNode p sk seed x j (sibling ((e.2 * 2 ^ p.a + e.1) / 2 ^ j))))

def forsFrom (p : SlhSet) (seed : Bytes) (x : SlhAdrs) (sig md : Bytes) : Bytes :=
  let len := (p.a + 1) * p.n
  slhHash p seed { x with type := 4, w2 := 0, w3 := 0 } (((digitsOf p.a p.k md).zip (List.range p.k)).flatMap (fun e =>
    let s := subBytes sig (len * e.2) len
    let i := e.2 * 2 ^ p.a + e.1
    slhClimb p seed { x with type := 3 } (pieces p.n (s.drop p.n)) 0 i (slhHash p seed { x with type := 3, w2 := 0, w3 := i } (s.take p.n))))

/-! ## The scheme -/

/-- Message digest, tree and leaf of a hashed message. -/
def slhParts (p : SlhSet) (dg : Bytes) : Bytes × Nat × Nat :=
  let a := ceilDiv (p.k * p.a) 8
  let b := ceilDiv (p.h - p.hp) 8
  (dg.take a, beNat (subBytes dg a b) % 2 ^ (p.h - p.hp), beNat (subBytes dg (a + b) (ceilDiv p.hp 8)) % 2 ^ p.hp)

/-- Public key, seed then root, of the secret and public seeds. -/
def slhPublicOf (p : SlhSet) (sk seed : Bytes) : Bytes := seed ++ xmssNode p sk seed ⟨p.d - 1, 0, 0, 0, 0, 0⟩ p.hp 0

/-- Key material from 3n random bytes: secret seed, secret prf, public seed, root (R379). -/
def slhMaterial (set : Nat) (r : Bytes) : Bytes :=
  let p := slhSet set
  r.take (2 * p.n) ++ slhPublicOf p (r.take p.n) (subBytes r (2 * p.n) p.n)

/-- Signature with the random opt_rand (R307). -/
def slhSign (set : Nat) (material ctx m opt : Bytes) : Bytes :=
  let p := slhSet set
  let sk := material.take p.n
  let pub := subBytes material (2 * p.n) (2 * p.n)
  let seed := pub.take p.n
  let msg := [0, BitVec.ofNat 8 ctx.length] ++ ctx ++ m
  let r := slhRandomiser p (subBytes material p.n p.n) opt msg
  let e := slhParts p (slhMessage p r pub msg)
  let x : SlhAdrs := ⟨0, e.2.1, 3, e.2.2, 0, 0⟩
  let fors := forsSign p sk seed x e.1
  r ++ fors ++ hyperSign p sk seed p.d 0 e.2.1 e.2.2 (forsFrom p seed x fors e.1)

def slhVerify (set : Nat) (pub ctx m sig : Bytes) : Bool :=
  let p := slhSet set
  let seed := pub.take p.n
  let fLen := p.k * (p.a + 1) * p.n
  let e := slhParts p (slhMessage p (sig.take p.n) pub ([0, BitVec.ofNat 8 ctx.length] ++ ctx ++ m))
  pub.length == 2 * p.n && sig.length == p.n + fLen + (p.h + p.d * p.chains) * p.n &&
    hyperFrom p seed p.d 0 e.2.1 e.2.2 (sig.drop (p.n + fLen)) (forsFrom p seed ⟨0, e.2.1, 3, e.2.2, 0, 0⟩ (subBytes sig p.n fLen) e.1) ==
      pub.drop p.n

end Sys2Proof.Machine
end

