-- ==== Sys2Proof/Machine/SpecHash.lean ====
section
/-! DEFINITION. The hash and MAC opcodes: their checks and what they compute (R225 to R238). -/
namespace Sys2Proof.Machine

/-- Opcodes of family 0x02xx (R227). -/
def hashKnown (op : Nat) : Bool :=
  (decide (0x0200 ≤ op) && decide (op ≤ 0x0204)) || (decide (0x0210 ≤ op) && decide (op ≤ 0x0213)) ||
    (decide (0x0218 ≤ op) && decide (op ≤ 0x021B)) || (decide (0x0220 ≤ op) && decide (op ≤ 0x0223)) ||
    (decide (0x0230 ≤ op) && decide (op ≤ 0x0234)) || (decide (0x0238 ≤ op) && decide (op ≤ 0x023C))

def isHmac (op : Nat) : Bool := decide (0x0230 ≤ op)
def isKmac (op : Nat) : Bool := decide (0x0220 ≤ op) && decide (op ≤ 0x0223)
def isCshake (op : Nat) : Bool := op == 0x021A || op == 0x021B
def isXof (op : Nat) : Bool := decide (0x0218 ≤ op) && decide (op ≤ 0x021B)
def hashVerify (op : Nat) : Bool := op == 0x0222 || op == 0x0223 || decide (0x0238 ≤ op)
def hashKeyed (op : Nat) : Bool := isKmac op || isHmac op

/-- The SHA-2 function of an HMAC opcode, as its HASH code of R267: 1 to 5. -/
def hmacCode (op : Nat) : Nat := op % 8 + 1

/-- The SHA-2 function of a HASH code. -/
def sha2Of (code : Nat) : ShaAlg :=
  match code with
  | 1 => .s224
  | 2 => .s256
  | 3 => .s384
  | 4 => .s512
  | _ => .s512_256

/-- Digest length of a HASH code (R267); zero for an invalid one. -/
def hashLen (code : Nat) : Nat :=
  match code with
  | 0x01 | 0x11 => 28
  | 0x02 | 0x05 | 0x12 => 32
  | 0x03 | 0x13 => 48
  | 0x04 | 0x14 => 64
  | _ => 0

/-- Digest of a message under a HASH code. -/
def digestOf (code : Nat) (m : Bytes) : Bytes :=
  if code < 0x10 then sha2 (sha2Of code) m else sha3 (hashLen code) m

/-- OUT_LEN (R227). -/
def outLen (d : Desc) : Nat := d.inline % 2 ^ 32

/-- Length of the opcode's result before a comparison or a write. -/
def hashOut (d : Desc) : Nat :=
  let op := d.opcode
  if op ≤ 0x0204 then hashLen (op - 0x01FF)
  else if op ≤ 0x0213 then hashLen (op - 0x01FF)
  else if isHmac op then (if outLen d = 0 then hashLen (hmacCode op) else outLen d)
  else outLen d

/-- Bytes that the descriptor writes. -/
def hashWritten (d : Desc) : Nat := if hashVerify d.opcode then 0 else hashOut d

/-- Whether OUT_LEN lies outside the opcode's range (R227). -/
def outLenBad (d : Desc) : Bool :=
  let n := outLen d
  let op := d.opcode
  if isXof op then decide (n < 1) || decide (n > 65536)
  else if hashVerify op && isKmac op then decide (n < 4) || decide (n > 64)
  else if isKmac op then decide (n < 4) || decide (n > 65536)
  else if isHmac op then n != 0 && (decide (n < 4) || decide (n > hashLen (hmacCode op)))
  else n != 0

/-- The opcode needs a block; KMAC takes one or none (R227, R231). -/
def blockNeeded (op : Nat) : Bool := isCshake op || hashVerify op
def blockForbidden (op : Nat) : Bool := !(isCshake op || hashVerify op || isKmac op)

/-- The pre-acceptance view of a hash descriptor; the block's first 72 bytes stand for it here. -/
def hashPre (d : Desc) : Pre :=
  let op := d.opcode
  let hasBlock := d.param != 0
  { param := [(d.aux != 0, 0x0101), (!hashKeyed op && d.key != 0, 0x0101), (d.inline / 2 ^ 32 != 0, 0x0101),
              (hashVerify op && d.dst != 0, 0x0101),
              ((blockNeeded op && !hasBlock) || (blockForbidden op && hasBlock), 0x0103),
              (hostOverlap d.dst (hashWritten d) d.src d.length ||
                (hasBlock && hostOverlap d.dst (hashWritten d) d.param 72), 0x0105)]
    length := [(decide (d.length > 2 ^ 34), 0x0001), (outLenBad d, 0x0003)]
    align := [(misaligned d.param 8, 0x0203)]
    reads := [(d.src, d.length)] ++ (if hasBlock then [(d.param, 72)] else [])
    writes := if hashVerify op then [] else [(d.dst, hashWritten d)]
    output := hashWritten d
    dstZero := !hashVerify op }

/-- Use, algorithm and key length (R227, R228). -/
def hashKey (d : Desc) (k : Key) : Option Ending :=
  let op := d.opcode
  let n := k.material.length
  if k.use ≠ 0x08 then some { status := stKeyUse, sub := 0x0301 }
  else
    let ok :=
      if isHmac op then k.alg == 0x10 && k.param % 256 == hmacCode op && decide (16 ≤ n) && decide (n ≤ 128)
      else if op % 2 = 0 then k.alg == 0x11 && decide (16 ≤ n) && decide (n ≤ 64)
      else k.alg == 0x12 && decide (32 ≤ n) && decide (n ≤ 64)
    if ok then none else some { status := stKeyUse, sub := 0x0302 }

def nLen (j : Job) : Nat := paramField j 0x40 2
def sLen (j : Job) : Nat := paramField j 0x42 2

/-- Bytes of a left_encode of a number below 2^24, and of an encode_string of n bytes (SP 800-185). -/
def encodedLen (n : Nat) : Nat := if n < 2 ^ 8 then 2 else if n < 2 ^ 16 then 3 else 4
def stringLen (n : Nat) : Nat := encodedLen (8 * n) + n
/-- Rate of a cSHAKE or KMAC opcode: the even ones are the 128-bit functions. -/
def rateOf (op : Nat) : Nat := if op % 2 = 0 then 168 else 136
/-- Length of the prefix absorbed ahead of the message for strings of given lengths (R233). -/
def prefixLen (op n c : Nat) : Nat :=
  let r := rateOf op
  if isKmac op then r * ceilDiv (2 + stringLen 4 + stringLen c) r + r
  else if isCshake op ∧ n + c ≠ 0 then r * ceilDiv (2 + stringLen n + stringLen c) r
  else 0
/-- The prefix of a job, as far as its block has been read. -/
def hashPrefix (j : Job) (d : Desc) : Nat := prefixLen d.opcode (nLen j) (sLen j)
/-- The longest prefix that a descriptor can have; the block, which decides, is read after acceptance (log entry 173). -/
def longestPrefix (d : Desc) : Nat :=
  let n := if d.param = 0 then 0 else 4024
  if isKmac d.opcode then prefixLen d.opcode 4 n else prefixLen d.opcode n 0

/-- Ranges to read: the block first, whose strings and the message follow once it has been checked (R91). -/
def hashWants (j : Job) (d : Desc) : List Want :=
  if d.param ≠ 0 ∧ rangeData j .param = [] then [⟨.param, d.param, 72⟩]
  else
    (if d.param = 0 then [] else [⟨.param, d.param, 72⟩, ⟨.context, d.param + 72, nLen j + sLen j⟩]) ++
      (if d.length = 0 then [] else [⟨.src, d.src, d.length⟩])

/-- Checks of the block (R231). -/
def hashBlockFault (j : Job) (d : Desc) : Option Ending :=
  let op := d.opcode
  if d.param = 0 then none
  else
    let lim := if hashVerify op then min 64 (hashOut d) else 0
    failIf stBadParam
      [(!paramZero j lim (64 - lim) || !paramZero j 0x44 4, 0x0101),
       (decide (nLen j > 4024) || decide (sLen j > 4024) || decide (nLen j + sLen j > 4024) || (!isCshake op && nLen j != 0) ||
          (isHmac op && sLen j != 0), 0x0102),
       (hostOverlap d.dst (hashWritten d) d.param (72 + nLen j + sLen j), 0x0105)]

/-- The full result of a hash or MAC opcode over a message. -/
def hashResult (j : Job) (d : Desc) (key : Bytes) (m : Bytes) : Bytes :=
  let op := d.opcode
  let strings := rangeData j .context
  let nStr := strings.take (nLen j)
  let sStr := (strings.drop (nLen j)).take (sLen j)
  let n := hashOut d
  match op with
  | 0x0218 => shake128 m n
  | 0x0219 => shake256 m n
  | 0x021A => cshake 168 nStr sStr m n
  | 0x021B => cshake 136 nStr sStr m n
  | 0x0220 | 0x0222 => kmac128 key m n sStr
  | 0x0221 | 0x0223 => kmac256 key m n sStr
  | _ => if isHmac op then (hmac (sha2Of (hmacCode op)) key m).take n else digestOf (op - 0x01FF) m

/-- What a hash step computes (R230, R232). -/
def hashWork (j : Job) (d : Desc) (key : Bytes) : Work :=
  let m := (rangeData j .src).take d.length
  let r := hashResult j d key m
  if hashVerify d.opcode then
    if r = paramBytes j 0 (hashOut d) then {} else workFail stVerifyFalse 0
  else outputAt j 1 r

end Sys2Proof.Machine
end

