-- ==== Sys2Proof/Machine/KeyTypes.lean ====
section
/-! DEFINITION. Algorithms, curves and parameter sets: sizes, material, admitted uses and flags (R267, R299, R312, R379,
R380, R589), and loaded curves (R271, R285, R286). -/
namespace Sys2Proof.Machine

/-! ## Curves -/

/-- Field length f, order length o and grid base of a curve: class 75 + 4c for a built-in one, 99 + 4b for a loaded one
(R264, R291). -/
structure EcInfo where
  f : Nat
  o : Nat
  cls : Nat
  deriving DecidableEq, Repr

/-- The six built-in short Weierstrass curves of R267. -/
def builtinCurve (code : Nat) : Option EcInfo :=
  match code with
  | 1 => some ⟨32, 32, 75⟩
  | 2 => some ⟨48, 48, 79⟩
  | 3 => some ⟨66, 66, 83⟩
  | 4 => some ⟨32, 32, 87⟩
  | 5 => some ⟨48, 48, 91⟩
  | 6 => some ⟨64, 64, 95⟩
  | _ => none

/-- FIELD_BITS and the 72-byte numbers of a curve block (R285). -/
def curveBits (b : Bytes) : Nat := field b 0 2
def curveNum (b : Bytes) (off : Nat) : Nat := beNat (subBytes b off 72)
/-- Bytes that a number takes. -/
def byteLen (n : Nat) : Nat := if n = 0 then 0 else Nat.log2 n / 8 + 1
/-- Size band of a loaded curve (R291). -/
def curveBand (b : Bytes) : Nat := if curveBits b ≤ 256 then 0 else if curveBits b ≤ 384 then 1 else 2
def curveInfo (b : Bytes) : EcInfo := ⟨ceilDiv (curveBits b) 8, byteLen (curveNum b 0x170), 99 + 4 * curveBand b⟩

/-- A slice's curve record by handle, or by the slot that a key's PARAM names (log entry 23). -/
def curveByHandle (s : State) (sl h : Nat) : Option Curve :=
  s.keys.curves.find? (fun c => c.owner == sl && c.handle == h)
def curveBySlot (s : State) (sl n : Nat) : Option Curve := s.keys.curves.find? (fun c => c.owner == sl && c.slot == n)

/-- The curve of an ECDSA or ECDH key from its PARAM. -/
def keyCurve (s : State) (k : Key) : Option EcInfo :=
  if k.param % 256 = 0xFF then (curveBySlot s k.owner (k.param / 256)).map (fun c => curveInfo c.block)
  else builtinCurve k.param

/-- The equation and base point of that curve. -/
def keyEcCurve (s : State) (k : Key) : Option EcCurve :=
  if k.param % 256 = 0xFF then (curveBySlot s k.owner (k.param / 256)).map (fun c => ecLoaded c.block)
  else ecBuiltin k.param

/-- Powers p, p^2, ... modulo n, to 20: whether some is 1. -/
def embeddingBad (p n : Nat) : Nat → Nat → Bool
  | 0, _ => false
  | k + 1, x => let y := x * p % n; y == 1 || embeddingBad p n k y

/-- The 64 random bases of a prime test, from byte `off` of draw n on (R286). -/
def primeBases (n off : Nat) : List Nat := (List.range 64).map (fun i => beNat (randomAt n (off + 80 * i) 80))

/-- Checks of R286 in the order of their subcodes, with draw n for the bases of the prime tests. -/
def curveChecks (b : Bytes) (n : Nat) : Option Nat :=
  let bitsOf := curveBits b
  let h := field b 2 1
  let p := curveNum b 0x08
  let a := curveNum b 0x50
  let bb := curveNum b 0x98
  let x := curveNum b 0xE0
  let y := curveNum b 0x128
  let q := curveNum b 0x170
  let dist := if h * q > p + 1 then h * q - (p + 1) else p + 1 - h * q
  firstSub
    [(decide (bitsOf < 192) || decide (bitsOf > 576) || p == 0 || Nat.log2 p + 1 != bitsOf, 0x0401),
     (primeFails p (primeBases n 0), 0x0402),
     (decide (p ≤ a) || decide (p ≤ bb) || decide (p ≤ x) || decide (p ≤ y), 0x0403),
     ((4 * a ^ 3 + 27 * bb ^ 2) % p == 0, 0x0404),
     (y * y % p != (x ^ 3 + a * x + bb) % p, 0x0405),
     (primeFails q (primeBases n 8192), 0x0406),
     (ecOrderFails (ecLoaded b), 0x0407),
     (decide (h < 1) || decide (h > 8) || decide (dist * dist > 4 * p), 0x0408),
     (q == p, 0x0409),
     (embeddingBad p q 20 1, 0x040A)]

/-! ## Parameter sets (R299) -/

/-- A parameter set: its ALG, public key size, ciphertext or signature size, first grid class of its three (R299, R311). -/
structure SetInfo where
  alg : Nat
  pub : Nat
  out : Nat
  cls : Nat
  deriving DecidableEq, Repr

def setInfo (code : Nat) : Option SetInfo :=
  match code with
  | 0x01 => some ⟨0x30, 800, 768, 160⟩
  | 0x02 => some ⟨0x30, 1184, 1088, 163⟩
  | 0x03 => some ⟨0x30, 1568, 1568, 166⟩
  | 0x11 => some ⟨0x31, 1312, 2420, 169⟩
  | 0x12 => some ⟨0x31, 1952, 3309, 172⟩
  | 0x13 => some ⟨0x31, 2592, 4627, 175⟩
  | 0x21 | 0x27 => some ⟨0x32, 32, 7856, 178⟩
  | 0x22 | 0x28 => some ⟨0x32, 32, 17088, 181⟩
  | 0x23 | 0x29 => some ⟨0x32, 48, 16224, 184⟩
  | 0x24 | 0x2A => some ⟨0x32, 48, 35664, 187⟩
  | 0x25 | 0x2B => some ⟨0x32, 64, 29792, 190⟩
  | 0x26 | 0x2C => some ⟨0x32, 64, 49856, 193⟩
  | 0x31 => some ⟨0x33, 1216, 1120, 163⟩
  | 0x32 => some ⟨0x33, 1600, 1600, 166⟩
  | 0x33 => some ⟨0x33, 1281, 1185, 163⟩
  | 0x34 => some ⟨0x33, 1665, 1665, 166⟩
  | _ => none

/-- The ML-KEM set inside a hybrid KEM set, and whether its classical part is P-384. -/
def hykemKem (code : Nat) : Nat := if code = 0x31 ∨ code = 0x33 then 0x02 else 0x03
def hykemP384 (code : Nat) : Bool := code == 0x33 || code == 0x34
/-- Size of the classical public value of a hybrid KEM set. -/
def hykemClassical (code : Nat) : Nat := if hykemP384 code then 97 else 32

/-! ## Keys: public encodings, material and uses -/

/-- Length of the public encoding for an algorithm and a built-in parameter (R265, R268, R299). -/
def pubLen (alg p : Nat) : Nat :=
  match alg with
  | 0x20 => 8 + p / 8
  | 0x21 | 0x22 => match builtinCurve p with
    | some c => 1 + 2 * c.f
    | none => 0
  | 0x23 => if p = 7 then 32 else 57
  | 0x24 => if p = 7 then 32 else 56
  | 0x25 => 2689
  | 0x30 | 0x31 | 0x32 | 0x33 => match setInfo p with
    | some x => x.pub
    | none => 0
  | 0x40 | 0x41 | 0x42 => hbsPubLen alg p
  | _ => 0

/-- MAT_LEN that R379 fixes for ALG, PARAM and USE; none for a pair R379 does not list. -/
def matLen (alg p use : Nat) : Option Nat :=
  let pub := use = 6
  match alg with
  | 0x01 => if [128, 192, 256].contains p then some (p / 8) else none
  | 0x02 => if [256, 512].contains p then some (p / 8) else none
  | 0x10 =>
    let n := bits p 31 16
    if 1 ≤ bits p 7 0 ∧ bits p 7 0 ≤ 5 ∧ bits p 15 8 = 0 ∧ 16 ≤ n ∧ n ≤ 128 then some n else none
  | 0x11 | 0x13 => if 16 ≤ p ∧ p ≤ 64 then some p else none
  | 0x12 => if 32 ≤ p ∧ p ≤ 64 then some p else none
  | 0x20 =>
    if 1024 ≤ p ∧ p ≤ 8192 ∧ p % 256 = 0 then some (if pub then 8 + p / 8 else 7 * (p / 8) / 2 + 8) else none
  | 0x21 | 0x22 => (builtinCurve p).map (fun c => if pub then 1 + 2 * c.f else c.o + 1 + 2 * c.f)
  | 0x23 => if p = 7 then some (if pub then 32 else 64) else if p = 8 then some (if pub then 57 else 114) else none
  | 0x24 => if p = 7 then some 64 else if p = 8 then some 112 else none
  | 0x25 => if p = 0 then some (if pub then 2689 else 177) else none
  | 0x30 => if p = 1 ∨ p = 2 ∨ p = 3 then some 64 else none
  | 0x31 => match setInfo p with
    | some x => if x.alg = 0x31 then some (if pub then x.pub else 32) else none
    | none => none
  | 0x32 => match setInfo p with
    | some x => if x.alg = 0x32 then some (if pub then x.pub else 2 * x.pub) else none
    | none => none
  | 0x33 => match setInfo p with
    | some x => if x.alg = 0x33 then some (if hykemP384 p then 209 else 128) else none
    | none => none
  | 0x40 | 0x41 | 0x42 => if hbsParamOk alg p then some (if pub then hbsPubLen alg p else 80) else none
  | _ => none

/-- USE codes that an ALG admits (R589). -/
def useAdmitted (alg use : Nat) : Bool :=
  match alg with
  | 0x01 => [1, 2, 3].contains use
  | 0x02 => [1, 2].contains use
  | 0x10 | 0x11 | 0x12 => use == 8
  | 0x13 => use == 4
  | 0x20 => [5, 6, 1, 2].contains use
  | 0x21 | 0x23 | 0x25 | 0x31 | 0x32 | 0x40 | 0x41 | 0x42 => [5, 6].contains use
  | 0x22 | 0x24 | 0x30 | 0x33 => use == 7
  | _ => false

def isHbsAlg (alg : Nat) : Bool := alg == 0x40 || alg == 0x41 || alg == 0x42
/-- Algorithms of an ordinal key (R322). -/
def isOrdAlg (alg p : Nat) : Bool :=
  (alg == 0x21 && (p == 1 || p == 2)) || (alg == 0x23 && p == 7) || (alg == 0x31 && p == 0x12) || alg == 0x25

/-- Flag combinations that R380 forbids; an ordinal key is SIGN_ONLY (R322). -/
def flagsBad (alg p use : Nat) (stateful exportable : Bool) : Bool :=
  (isHbsAlg alg && !stateful) || (stateful && !(isHbsAlg alg || (use == 5 && isOrdAlg alg p))) || (stateful && exportable)

/-- Whether key material comes from the public-key world. -/
def isAsymmetric (alg : Nat) : Bool := decide (0x20 ≤ alg)

/-- The public encoding of a key: the material of a VERIFY_ONLY key, the public part where the material holds one, else the
standard's function of the private material (R379). -/
def publicOf (s : State) (k : Key) : Bytes :=
  let m := k.material
  if k.use = 6 then m
  else match k.alg with
    | 0x20 => m.drop (m.length - 8) ++ (m.drop (5 * (k.param / 8) / 2)).take (k.param / 8)
    | 0x21 | 0x22 => match keyCurve s k with
      | some c => m.drop c.o
      | none => []
    | 0x23 | 0x24 => m.drop (m.length / 2)
    | 0x25 => (m.drop 48).take 97 ++ mldsa87Public (m.drop 145)
    | 0x33 =>
      let c := if hykemP384 k.param then (m.drop 48).take 97 else (m.drop 32).take 32
      c ++ mlkemPublic (hykemKem k.param) (m.drop (m.length - 64))
    | 0x30 => mlkemPublic k.param m
    | 0x31 => mldsaPublic k.param m
    | 0x32 => m.drop (m.length / 2)
    | _ => if isHbsAlg k.alg then hbsPublic k.alg k.param m else []

/-! ## Random values of one draw (R255, R273, R306, R307)

Bytes 0 to 1,023 of a draw make classical key material, a salt or a seed, bytes 2,048 on ECDSA nonces, and bytes 4,096 on what
the lattice part takes, so that no two parts of one job share a byte. -/

/-- Where the lattice part's bytes begin. -/
def latticeAt : Nat := 4096

/-- ECDSA nonces: the first, and those that follow should one give r or s zero (log entry 138). -/
def ecNonces (c : EcCurve) (n : Nat) : List Nat := (List.range 8).map (fun i => ecScalar c (randomAt n (2048 + 128 * i) (c.o + 8)))

/-- Fresh scalar and point (R273). -/
def freshEc (c : EcCurve) (n : Nat) : Bytes := ecMaterial c (ecScalar c (randomAt n 0 (c.o + 8)))

/-- Fresh material of an algorithm under a draw; hybrids join their parts (R288, R309). -/
def freshMaterial (alg p len n : Nat) : Bytes :=
  match alg with
  | 0x21 | 0x22 => match ecBuiltin p with
    | some c => freshEc c n
    | none => zeros len
  | 0x23 => edMaterial (edCurve p) (randomAt n 0 (len / 2))
  | 0x24 => xMaterial (xCurve p) (randomAt n 0 (len / 2))
  | 0x25 => freshEc curveP384 n ++ randomAt n latticeAt 32
  | 0x30 | 0x31 => randomAt n latticeAt len
  | 0x32 => slhMaterial p (randomAt n latticeAt (3 * (len / 4)))
  | 0x33 => (if hykemP384 p then freshEc curveP384 n else xMaterial x25519 (randomAt n 0 32)) ++ randomAt n latticeAt 64
  | _ => randomBytes n len

/-- ML-DSA signing with draw n: the number of blocks of R306 and the signature. A run whose first 256 blocks all fail goes on to
an unstated one (log entry 139). -/
def mldsaRun (set : Nat) (seed ctx m : Bytes) (n : Nat) : Nat × Bytes :=
  match mldsaSign set seed ctx m ((List.range 256).map (fun i => randomAt n (latticeAt + 32 * i) 32)) with
  | some r => r
  | none => (257 + Config.mldsaExtraBlocks n, (List.range (match setInfo set with
      | some x => x.out
      | none => 0)).map (Config.mldsaLateByte n))

/-- The hash function of a HASH code (R267, R270). -/
def hashFn (code : Nat) : HashFn := { code := code, len := hashLen code, digest := digestOf code }

end Sys2Proof.Machine
end

