-- ==== Sys2Proof/Machine/SpecPub.lean ====
section
/-! DEFINITION. Big-number primitives and classical whole operations: their checks, operands, grid classes and results
(R252 to R294). -/
namespace Sys2Proof.Machine

/-- Opcodes of families 0x03xx and 0x04xx (R260, R264). -/
def pubKnown (op : Nat) : Bool :=
  [0x0300, 0x0301, 0x0401, 0x0402, 0x0403, 0x0404, 0x0405, 0x0406, 0x0410, 0x0411, 0x0412, 0x0413, 0x0420, 0x0421,
   0x0422, 0x0423, 0x0428, 0x0429, 0x0430, 0x0431, 0x0440, 0x0441, 0x0442].contains op

def isMulacc (op : Nat) : Bool := op == 0x0300 || op == 0x0301
def isRsa (op : Nat) : Bool := decide (0x0401 ≤ op) && decide (op ≤ 0x0406)
def isEcdsa (op : Nat) : Bool := op == 0x0410 || op == 0x0411
def isEddsa (op : Nat) : Bool := op == 0x0420 || op == 0x0421
def isHybrid (op : Nat) : Bool := decide (0x0440 ≤ op) && decide (op ≤ 0x0442)
/-- Verification opcodes: DST zero, no output (R266). -/
def pubVerify (op : Nat) : Bool := [0x0403, 0x0404, 0x0411, 0x0421, 0x0422, 0x0441].contains op
/-- Opcodes whose public key may come in the block with KEY_HANDLE zero (R264). -/
def pubOptional (op : Nat) : Bool := [0x0403, 0x0404, 0x0405, 0x0411, 0x0421, 0x0441].contains op
/-- Opcodes that take no key; CURVE_UNLOAD takes a curve handle (R264). -/
def pubKeyless (op : Nat) : Bool :=
  isMulacc op || [0x0412, 0x0422, 0x0423, 0x0429, 0x0430, 0x0431, 0x0442].contains op
/-- Opcodes that create a key or a curve whatever the block holds (R271). -/
def pubCreates (op : Nat) : Bool := [0x0412, 0x0423, 0x0429, 0x0430, 0x0442].contains op
/-- ECDH and XDH, which may keep their secret as a key (R271). -/
def isAgree (op : Nat) : Bool := op == 0x0413 || op == 0x0428
/-- Opcodes without input at SRC. -/
def pubNoInput (op : Nat) : Bool := [0x0412, 0x0423, 0x0429, 0x0431, 0x0442].contains op
/-- Opcodes that take HASH (R267). -/
def usesHash (op : Nat) : Bool := isRsa op || isEcdsa op

/-- W of a MULACC or of a vector's element, none when LENGTH gives no valid W (R259, R261). -/
def mulaccW (d : Desc) : Option Nat :=
  let n := if d.opcode = 0x0300 then 1 else d.inline % 128
  if n = 0 ∨ d.length % (4 * n) ≠ 0 then none
  else
    let w := d.length / (4 * n)
    if w % 32 = 0 ∧ 32 ≤ w ∧ w ≤ 1024 then some w else none

/-- Key and curve facts of a key given by handle: modulus bytes, signature and point lengths. -/
def keyK (k : Option Key) : Nat := match k with
  | some x => if x.alg = 0x20 then x.param / 8 else 0
  | none => 0
def keyEc (s : State) (k : Option Key) : Option EcInfo := k.bind (keyCurve s)

/-- LENGTH or AUX_LENGTH checks that the opcode or the key alone decides (R264, R269). -/
def pubLengths (s : State) (d : Desc) (k : Option Key) : List (Bool × Nat) :=
  let op := d.opcode
  let l := d.length
  let a := d.aux
  let ec := keyEc s k
  let len := match op with
    | 0x0406 => keyK k != 0 && l != keyK k
    | 0x0412 | 0x0423 | 0x0429 | 0x0431 | 0x0442 => l != 0
    | 0x0413 => match ec with
      | some c => l != 1 + 2 * c.f
      | none => false
    | 0x0428 => match k with
      | some x => x.alg == 0x24 && l != pubLen 0x24 x.param
      | none => false
    | 0x0422 => l == 0 || (l % 128 != 0 && l % 192 != 0) || decide (l > 64 * 192)
    | 0x0430 => l != 440
    | _ => false
  let aux := match op with
    | 0x0403 | 0x0404 => keyK k != 0 && a != keyK k
    | 0x0411 => match ec with
      | some c => a != 2 * c.o
      | none => false
    | 0x0421 => match k with
      | some x => x.alg == 0x23 && a != (if x.param = 7 then 64 else 114)
      | none => false
    | 0x0441 => a != 4723
    | _ => !isMulacc op && a != 0
  let long := (isEddsa op || op == 0x0440 || op == 0x0441) && decide (l > 4096)
  if isMulacc op then
    [((mulaccW d).isNone, 0x0001),
     (match mulaccW d with
      | some w => op == 0x0301 && decide (d.inline % 128 * w > 10240)
      | none => false, 0x0008)]
  else [(len || aux, 0x0001), (long, 0x0009)]

/-- Output length that the descriptor and a key given by handle decide, the largest possible where they do not. -/
def pubOut (s : State) (d : Desc) (k : Option Key) : Nat :=
  let ec := keyEc s k
  match d.opcode with
  | 0x0300 | 0x0301 => d.length / 2
  | 0x0401 | 0x0402 => if keyK k = 0 then 1024 else keyK k
  | 0x0405 => if keyK k = 0 then 1024 else keyK k
  | 0x0406 => d.length
  | 0x0410 => match ec with
    | some c => 2 * c.o
    | none => 144
  | 0x0412 => 145
  | 0x0413 => match ec with
    | some c => c.f
    | none => 72
  | 0x0420 => match k with
    | some x => if x.param = 8 then 114 else 64
    | none => 114
  | 0x0423 => 57
  | 0x0428 => match k with
    | some x => pubLen 0x24 x.param
    | none => 56
  | 0x0429 => 56
  | 0x0440 => 4723
  | 0x0442 => 2689
  | _ => 0

/-- Whether the output length above is exact, so that DST's range can be checked before acceptance. -/
def pubOutExact (d : Desc) (k : Option Key) : Bool :=
  isMulacc d.opcode || isHybrid d.opcode || (k.isSome && !pubKeyless d.opcode)

/-- The pre-acceptance view of a descriptor of these families (R260, R264, R266, R269). -/
def pubPre (s : State) (d : Desc) (k : Option Key) : Pre :=
  let op := d.opcode
  let out := pubOut s d k
  let noOut := pubVerify op || op == 0x0430 || op == 0x0431
  if isMulacc op then
    { param := [(d.key != 0 || d.param != 0 || d.aux != 0 || (op == 0x0300 && d.inline != 0) ||
                  (op == 0x0301 && d.inline / 128 != 0), 0x0101),
                (op == 0x0301 && (d.inline % 128 == 0 || decide (d.inline % 128 > 64)), 0x0108)]
      length := pubLengths s d k
      align := [(misaligned d.src 32, 0x0201), (misaligned d.dst 32, 0x0202)]
      reads := [(d.src, d.length)]
      writes := [(d.dst, out)]
      output := out
      dstZero := true }
  else
    { param := [(d.inline != 0 || (pubNoInput op && d.src != 0) || (noOut && d.dst != 0) ||
                  (pubKeyless op && op != 0x0431 && d.key != 0), 0x0101),
                (pubOutExact d k && (hostOverlap d.dst out d.src (d.length + d.aux) || hostOverlap d.dst out d.param 64),
                  0x0105)]
      length := pubLengths s d k
      align := [(misaligned d.src 8, 0x0201), (misaligned d.dst 8, 0x0202), (misaligned d.param 8, 0x0203)]
      reads := (if pubNoInput op then [] else [(d.src, d.length + d.aux)]) ++ [(d.param, 64)]
      writes := if noOut then [] else if pubOutExact d k then [(d.dst, out)] else [(d.dst, 1)]
      output := out
      dstZero := !noOut
      dstLater := isAgree op }

/-- The key use that an opcode needs. -/
def pubUse (op : Nat) : Nat :=
  match op with
  | 0x0401 | 0x0402 | 0x0410 | 0x0420 | 0x0440 => 5
  | 0x0405 => 1
  | 0x0406 => 2
  | 0x0413 | 0x0428 => 7
  | _ => 6
/-- The key algorithm that an opcode needs. -/
def pubAlg (op : Nat) : Nat :=
  if isRsa op then 0x20
  else if isEcdsa op then 0x21
  else if op = 0x0413 then 0x22
  else if isEddsa op then 0x23
  else if op = 0x0428 then 0x24
  else 0x25

/-- Use, algorithm and for a private RSA operation modulus length of the key (R6, R264, R293); a STATEFUL key serves none of these
opcodes (R322). -/
def pubKey (d : Desc) (k : Key) : Option Ending :=
  if k.use ≠ pubUse d.opcode ∨ k.stateful then some { status := stKeyUse, sub := 0x0301 }
  else if k.alg ≠ pubAlg d.opcode ∨ ([0x0401, 0x0402, 0x0406].contains d.opcode ∧ k.param < 2048) then
    some { status := stKeyUse, sub := 0x0302 }
  else none

/-! ## Fields of the parameter block (R267) -/

def blkCurve (j : Job) : Nat := paramField j 0x00 1
def blkHash (j : Job) : Nat := paramField j 0x01 1
def blkMode (j : Job) : Nat := paramField j 0x02 1
def blkSalt (j : Job) : Nat := paramField j 0x03 1
def blkCurveHandle (j : Job) : Nat := paramField j 0x04 4
def blkPubAddr (j : Job) : Nat := paramField j 0x08 8
def blkPubLen (j : Job) : Nat := paramField j 0x10 4
def blkLabelAddr (j : Job) : Nat := paramField j 0x18 8
def blkLabelLen (j : Job) : Nat := paramField j 0x20 4
def blkCtxLen (j : Job) : Nat := paramField j 0x24 1

/-- The public key comes in the block. -/
def pubInBlock (d : Desc) : Bool := pubOptional d.opcode && d.key == 0

/-- OUT_KEY is set. -/
def outKey (j : Job) : Bool := bit (blkMode j) 0

/-- The curve that the block names, or that the key has. -/
def opCurve (s : State) (j : Job) (k : Option Key) : Option EcInfo :=
  match k with
  | some x => keyCurve s x
  | none => if blkCurve j = 0xFF then (curveByHandle s j.slice (blkCurveHandle j)).map (fun c => curveInfo c.block)
    else builtinCurve (blkCurve j)

/-- Its equation and base point. -/
def opEcCurve (s : State) (j : Job) (k : Option Key) : Option EcCurve :=
  match k with
  | some x => keyEcCurve s x
  | none => if blkCurve j = 0xFF then (curveByHandle s j.slice (blkCurveHandle j)).map (fun c => ecLoaded c.block)
    else ecBuiltin (blkCurve j)

/-- Whether the Edwards or Montgomery curve in use is Curve448. -/
def is448 (j : Job) (k : Option Key) : Bool :=
  match k with
  | some x => x.param == 8
  | none => blkCurve j == 8

/-- Modulus bytes of an RSA public key in the block. -/
def blockK (j : Job) : Nat := blkPubLen j - 8
/-- Modulus bytes in use. -/
def modulusLen (j : Job) (k : Option Key) : Nat := if k.isSome then keyK k else blockK j

/-- PUBKEY_LEN does not fit the algorithm (R268), or gives an RSA modulus below 1,024 or above 8,192 bits (R6; log entry 178). -/
def pubLenBad (s : State) (j : Job) (d : Desc) : Bool :=
  let n := blkPubLen j
  if isRsa d.opcode then
    let k := blockK j
    decide (n < 8 + 128) || decide (k > 1024)
  else if isEcdsa d.opcode then match opCurve s j none with
    | some c => n != 1 + 2 * c.f
    | none => false
  else if isEddsa d.opcode then n != (if is448 j none then 57 else 32)
  else n != 2689

/-- CURVE, HASH or MODE invalid or not matching (0x0106). -/
def codesBad (s : State) (j : Job) (d : Desc) (k : Option Key) : Bool :=
  let op := d.opcode
  let c := blkCurve j
  let curve :=
    if isEcdsa op || op == 0x0412 || op == 0x0413 then k.isNone && !((decide (1 ≤ c) && decide (c ≤ 6)) || c == 0xFF)
    else if isEddsa op || op == 0x0423 || op == 0x0429 || op == 0x0422 then k.isNone && !(c == 7 || c == 8)
    else false
  let hash := usesHash op && (hashLen (blkHash j) == 0 ||
    ((op == 0x0402 || op == 0x0404) && decide (blkHash j > 5)))
  let m := blkMode j
  let mode :=
    if isEddsa op then decide (m > 2) || (m == 1 && is448 j k)
    else if op = 0x0422 then m != 0
    else if isAgree op || op == 0x0412 then decide (m > 1)
    else false
  let _ := s
  curve || hash || mode

/-- A field that the opcode does not use is non-zero (0x0101). -/
def unusedSet (j : Job) (d : Desc) (k : Option Key) : Bool :=
  let op := d.opcode
  let curveUsed := k.isNone && (isEcdsa op || isEddsa op || op == 0x0412 || op == 0x0413 || op == 0x0422 || op == 0x0423 ||
    op == 0x0429)
  (!curveUsed && blkCurve j != 0) || (!usesHash op && blkHash j != 0) ||
    (!(isEddsa op || isAgree op || op == 0x0412 || op == 0x0422) && blkMode j != 0) ||
    (!(op == 0x0401 || op == 0x0403) && blkSalt j != 0) ||
    (!(curveUsed && blkCurve j == 0xFF) && blkCurveHandle j != 0) ||
    (!pubInBlock d && (blkPubAddr j != 0 || blkPubLen j != 0)) || !paramZero j 0x14 4 ||
    (!(op == 0x0405 || op == 0x0406) && (blkLabelAddr j != 0 || blkLabelLen j != 0)) ||
    (!isEddsa op && blkCtxLen j != 0) || !paramZero j 0x25 27 ||
    (isAgree op && outKey j && d.dst != 0)

/-- CTX_LEN outside its range (R267). -/
def ctxBad (j : Job) (d : Desc) (k : Option Key) : Bool :=
  isEddsa d.opcode && !is448 j k &&
    ((blkMode j == 0 && blkCtxLen j != 0) || (blkMode j == 1 && blkCtxLen j == 0))

/-- PSS salt longer than the digest or than the modulus leaves room for (R267; log entry 24). -/
def saltBad (j : Job) (d : Desc) (k : Option Key) : Bool :=
  (d.opcode == 0x0401 || d.opcode == 0x0403) &&
    (decide (blkSalt j > hashLen (blkHash j)) ||
      decide (hashLen (blkHash j) + blkSalt j + 2 > modulusLen j k))

/-- Lengths that depend on the block (R269, R270). -/
def blockLengthBad (s : State) (j : Job) (d : Desc) (k : Option Key) : Bool :=
  let op := d.opcode
  let h := hashLen (blkHash j)
  let len :=
    if op = 0x0405 then decide (d.length + 2 * h + 2 > modulusLen j k)
    else if op = 0x0406 then false
    else if usesHash op then d.length != h
    else if isEddsa op && blkMode j == 2 then d.length != 64
    else if op = 0x0422 then d.length % (if is448 j none then 192 else 128) != 0 ||
      decide (d.length > 64 * (if is448 j none then 192 else 128))
    else false
  let aux :=
    if pubInBlock d then
      if op = 0x0403 ∨ op = 0x0404 then d.aux != blockK j
      else if op = 0x0411 then match opCurve s j none with
        | some c => d.aux != 2 * c.o
        | none => false
      else if op = 0x0421 then d.aux != (if is448 j none then 114 else 64)
      else false
    else false
  len || aux

/-- Fields of entry i of a batch (R282): key, signature, message address and length, whether a reserved byte is set. -/
structure BatchEntry where
  pub : Bytes
  sig : Bytes
  addr : Nat
  len : Nat
  bad : Bool
  deriving DecidableEq, Repr

def batchEntry (j : Job) (i : Nat) : BatchEntry :=
  let t := rangeData j .src
  if is448 j none then
    let e := subBytes t (192 * i) 192
    ⟨subBytes e 0 57, subBytes e 0x40 114, field e 0xB8 8, field e 0xB4 4,
     !allZero (subBytes e 0x39 7) || !allZero (subBytes e 0xB2 2)⟩
  else
    let e := subBytes t (128 * i) 128
    ⟨subBytes e 0 32, subBytes e 0x20 64, field e 0x60 8, field e 0x68 4, !allZero (subBytes e 0x6C 20)⟩

def batchCount (j : Job) (d : Desc) : Nat := d.length / (if is448 j none then 192 else 128)
def batchEntries (j : Job) (d : Desc) : List BatchEntry := (List.range (batchCount j d)).map (batchEntry j)

/-- Data of a range has been asked for and has come. -/
def got (j : Job) (r : Range) : Bool := j.asked.contains r

/-- The public key in use: the block's, or the key's. -/
def publicInUse (s : State) (j : Job) (k : Option Key) : Bytes :=
  match k with
  | some x => publicOf s x
  | none => rangeData j .pubkey

/-- The form of a public key in the block is wrong: RSA e and n (R268), a compressed point (R265). -/
def pubFormBad (j : Job) (d : Desc) : Bool :=
  let p := rangeData j .pubkey
  if isRsa d.opcode then
    let e := beNat (p.take 8)
    e % 2 == 0 || decide (e < 3) || (p.getD 8 0) == 0
  else if isEcdsa d.opcode || isHybrid d.opcode then (p.getD 0 0) != 4
  else false

/-- Output length once the block is known: exact, but for a decryption, whose message may be shorter (R264, R271). -/
def pubOutNow (s : State) (j : Job) (d : Desc) (k : Option Key) : Nat :=
  match d.opcode with
  | 0x0405 => modulusLen j k
  | 0x0406 => modulusLen j k - 2 * hashLen (blkHash j) - 2
  | 0x0412 => match opCurve s j none with
    | some c => 1 + 2 * c.f
    | none => 0
  | 0x0413 | 0x0428 => if outKey j then 0 else pubOut s d k
  | 0x0423 => if is448 j none then 57 else 32
  | 0x0429 => if is448 j none then 56 else 32
  | _ => pubOut s d k

/-- A key of the slice refers to the curve of a handle (R287). -/
def curveInUse (s : State) (sl h : Nat) : Bool :=
  match curveByHandle s sl h with
  | some c => s.keys.slots.any (fun e => e.2.owner == sl && (e.2.alg == 0x21 || e.2.alg == 0x22) && e.2.param == 0xFF + 256 * c.slot)
  | none => false
/-- CURVE_UNLOAD names no curve record of the slice (R287). -/
def curveAbsent (s : State) (sl : Nat) (d : Desc) : Bool := d.opcode == 0x0431 && (curveByHandle s sl d.key).isNone

/-- The output, to DST or the return buffer, meets a range that the job reads (R266). -/
def pubOverlap (s : State) (j : Job) (d : Desc) (k : Option Key) : Bool :=
  let meets := hostOverlap (dstAddr j) (pubOutNow s j d k)
  meets d.param (64 + blkCtxLen j) || meets d.src (d.length + d.aux) || (pubInBlock d && meets (blkPubAddr j) (blkPubLen j)) ||
    meets (blkLabelAddr j) (blkLabelLen j)

/-- Checks on what has been read of the block and what it names, in the order of R119 (R269). -/
def pubBlockFault (s : State) (j : Job) (d : Desc) (k : Option Key) : Option Ending :=
  let op := d.opcode
  if isMulacc op then none
  else
    let late := [(isAgree op && !outKey j && d.dst == 0 && j.buf.isNone, 0)]
    firstEnd
      [failIf stBadParam ([(unusedSet j d k, 0x0101),
          (op == 0x0430 && got j .src && !allZero (subBytes (rangeData j .src) 3 5), 0x0101),
          (op == 0x0422 && got j .src && (batchEntries j d).any (·.bad), 0x0101),
          (pubOverlap s j d k, 0x0105),
          (codesBad s j d k, 0x0106),
          (ctxBad j d k || saltBad j d k || decide (blkLabelLen j > 4096) || (pubInBlock d && pubLenBad s j d), 0x0107),
          (got j .pubkey && pubFormBad j d, 0x0111), (op == 0x0431 && curveInUse s j.slice d.key, 0x0112)] ++ late),
       failIf stBadLength [(blockLengthBad s j d k, 0x0001),
          (op == 0x0422 && got j .src && ((batchEntries j d).any (fun e => decide (e.len > 4096)) ||
            decide (((batchEntries j d).map (·.len)).sum > 32768)), 0x0009)],
       if (k.isNone ∧ blkCurve j = 0xFF ∧ (opCurve s j none).isNone) ∨ curveAbsent s j.slice d then some { status := stKeyAbsent }
       else none]

/-- Ranges to read: the block, its context, the source, and what the block or the entries name (R267, R282). -/
def pubWants (j : Job) (d : Desc) : List Want :=
  let op := d.opcode
  let src : List Want := if pubNoInput op then [] else [⟨.src, d.src, d.length + d.aux⟩]
  if isMulacc op then src
  else
    [⟨.param, d.param, 64⟩] ++
      (if got j .param then
        (if blkCtxLen j = 0 then [] else [⟨.context, d.param + 64, blkCtxLen j⟩]) ++
        (if pubInBlock d then [⟨.pubkey, blkPubAddr j, blkPubLen j⟩] else []) ++
        (if blkLabelLen j = 0 then [] else [⟨.label, blkLabelAddr j, blkLabelLen j⟩]) ++ src
       else []) ++
      (if op = 0x0422 ∧ got j .src then
        ((List.range (batchCount j d)).zip (batchEntries j d)).filterMap (fun e =>
          if e.2.len = 0 then none else some ⟨.message e.1, e.2.addr, e.2.len⟩)
       else [])

/-! ## Results -/

def hybridL : Bytes := ascii "PERAND-HYBRID-V1"

/-- The ECDSA part of a hybrid signature under P-384 material (R288). -/
def hybridEc (p384 l m : Bytes) (n : Nat) : Bytes :=
  ecdsaSign curveP384 (beNat (p384.take 48)) (sha384 (l ++ m)) (ecNonces curveP384 n)

/-- A hybrid signature under a P-384 key and an ML-DSA-87 seed with a domain string (R288, R370, R371). -/
def hybridSignRaw (p384 seed l m : Bytes) (n : Nat) : Bytes := hybridEc p384 l m n ++ (mldsaRun 0x13 seed l m n).2

/-- Whether the two parts of a hybrid signature verify under a 2,689-byte public key (R290). -/
def hybridParts (pub l m sig : Bytes) : Bool × Bool :=
  (ecdsaVerify curveP384 (pub.take 97) (sha384 (l ++ m)) (sig.take 96), mldsaVerify 0x13 (pub.drop 97) l m (sig.drop 96))

/-- The step of a hybrid signature, with the check of its ECDSA part (R275) and its blocks. -/
def hybridWork (w : Bytes → Work) (mat m : Bytes) (n : Nat) : Work :=
  let a := hybridEc mat hybridL m n
  let b := mldsaRun 0x13 (mat.drop 145) hybridL m n
  { w (a ++ b.2) with
    checked := true, wrong := !ecdsaVerify curveP384 (subBytes mat 48 97) (sha384 (hybridL ++ m)) a, blocks := b.1 }

/-- A signature of the opcodes with one classical part, with whether its check of R275 finds it wrong. -/
def classicalSign (s : State) (j : Job) (op : Nat) (k : Key) (ctx m : Bytes) (n : Nat) : Bytes × Bool :=
  match op with
  | 0x0401 | 0x0402 =>
    let h := hashFn (blkHash j)
    let salt := randomAt n 0 (blkSalt j)
    let pss := op == 0x0401
    (rsaSign pss h k.material m salt, !rsaChecks k.material (rsaEncoded pss h k.material m salt))
  | 0x0420 =>
    let c := edCurve k.param
    let sig := edSign c (blkMode j) ctx k.material m
    (sig, !edVerify c (blkMode j) (k.material.drop c.len) ctx m sig)
  | _ => match keyEcCurve s k with
    | some c =>
      let sig := ecdsaSign c (beNat (k.material.take c.o)) m (ecNonces c n)
      (sig, !ecdsaVerify c (k.material.drop c.o) m sig)
    | none => ([], true)

/-- Whether a signature of those opcodes verifies. -/
def classicalVerify (s : State) (j : Job) (op : Nat) (k : Option Key) (pub ctx m sig : Bytes) : Bool :=
  match op with
  | 0x0403 => rsaVerify true (hashFn (blkHash j)) (blkSalt j) (rsaPubFrom pub) m sig
  | 0x0404 => rsaVerify false (hashFn (blkHash j)) 0 (rsaPubFrom pub) m sig
  | 0x0421 => edVerify (edCurve (if is448 j k then 8 else 7)) (blkMode j) pub ctx m sig
  | _ => match opEcCurve s j k with
    | some c => ecdsaVerify c pub m sig
    | none => false

/-- A verification public key lies off its curve, or has small order (R277); none for RSA. -/
def verifyKeyBad (s : State) (j : Job) (op : Nat) (k : Option Key) (pub : Bytes) : Bool :=
  if isEcdsa op then match opEcCurve s j k with
    | some c => (ecDecode c pub).isNone
    | none => true
  else if isEddsa op then !edPublicOk (edCurve (if is448 j k then 8 else 7)) pub
  else if isHybrid op then (ecDecode curveP384 (pub.take 97)).isNone
  else false

/-- The shared secret of an agreement under a key; none where R275 rejects the peer value or the result. -/
def agreed (s : State) (k : Key) (peer : Bytes) : Option Bytes :=
  if k.alg = 0x24 then
    let c := xCurve k.param
    let z := xAgree c k.material peer
    if xPublicOk c peer ∧ !allZero z then some z else none
  else match keyEcCurve s k with
    | some c => (ecdhAgree c (beNat (k.material.take c.o)) peer).filter (fun z => !allZero z)
    | none => none

/-- A volatile key that a job will create. -/
def volatileKey (j : Job) (alg param use : Nat) (material : Bytes) : Key :=
  { alg := alg, param := param, use := use, owner := j.slice, material := material }

/-- MULACC of one element: result and carry (R259). -/
def mulaccOne (w : Nat) (e : Bytes) : Bytes × Bool :=
  let r := leNat (e.take w) * leNat (subBytes e w w) + leNat (subBytes e (2 * w) (2 * w))
  (leBytes (2 * w) r, decide (r ≥ 2 ^ (16 * w)))

def mulaccWork (j : Job) (d : Desc) : Work :=
  match mulaccW d with
  | none => workFail stBadLength 0x0001
  | some w =>
    let rs := (pieces (4 * w) (rangeData j .src)).map (mulaccOne w)
    let carries := (rs.zip (List.range rs.length)).foldl (fun a e => a + b2n e.1.2 * 2 ^ e.2) 0
    { outputAt j 1 (rs.flatMap (·.1)) with result := carries }

/-- Validity of each entry of a batch (R280, R281). -/
def batchValid (j : Job) (d : Desc) : List Bool :=
  ((List.range (batchCount j d)).zip (batchEntries j d)).map (fun e =>
    edVerify (edCurve (blkCurve j)) 0 e.2.pub [] ((rangeData j (.message e.1)).take e.2.len) e.2.sig)

/-- The checks of R283 over a set of entries (given by their validity): the sizes checked after a failed check, in order.
`fuel` bounds the depth. -/
def batchDivide : Nat → List Bool → List Nat
  | 0, _ => []
  | f + 1, set =>
    if set.length ≤ 1 then []
    else
      let n := (set.length + 1) / 2
      let left := set.take n
      let right := set.drop n
      if left.all id then left.length :: batchDivide f right
      else left.length :: batchDivide f left ++ right.length :: (if right.all id then [] else batchDivide f right)

/-- Sizes of all the checks of a batch, in order; entries that R280 rejects take part in none. -/
def batchChecks (vs : List Bool) : List Nat := vs.length :: (if vs.all id then [] else batchDivide 8 vs)

/-- Grid class of a batch check of n entries (R291). -/
def batchClass (ed448 : Bool) (n : Nat) : Nat :=
  (if ed448 then 124 else 117) +
    (if n ≤ 1 then 0 else if n ≤ 2 then 1 else if n ≤ 4 then 2 else if n ≤ 8 then 3 else if n ≤ 16 then 4
     else if n ≤ 32 then 5 else 6)

/-- Whether an entry is rejected at once: S not below L, a non-canonical encoding or a small-order A (R280). -/
def entryRejected (j : Job) (e : BatchEntry) : Bool := !edFormOk (edCurve (blkCurve j)) e.pub e.sig

/-- Entries that take part in the checks, by their validity. -/
def batchRemaining (j : Job) (d : Desc) : List Bool :=
  ((batchEntries j d).zip (batchValid j d)).filterMap (fun e => if entryRejected j e.1 then none else some e.2)

def batchWork (j : Job) (d : Desc) : Work :=
  let ok := ((batchEntries j d).zip (batchValid j d)).map (fun e => !entryRejected j e.1 && e.2)
  let map := (ok.zip (List.range ok.length)).foldl (fun a e => a + b2n e.1 * 2 ^ e.2) 0
  if ok.all id then { result := map }
  else { result := map, ending := { status := stBatchPartial }, batchPartial := true }

/-- Result of a verification. -/
def verdict (b : Bool) : Work := if b then {} else workFail stVerifyFalse 0

/-- What a step of these families computes, with draw n for its random values. -/
def pubWork (s : State) (j : Job) (d : Desc) (k : Option Key) (n : Nat) : Work :=
  let op := d.opcode
  let src := rangeData j .src
  let m := src.take d.length
  let sig := (src.drop d.length).take d.aux
  let ctx := rangeData j .context
  let pub := publicInUse s j k
  let publicBad := verifyKeyBad s j op k pub
  match op with
  | 0x0300 | 0x0301 => mulaccWork j d
  | 0x0401 | 0x0402 | 0x0410 | 0x0420 => match k with
    | some x => let g := classicalSign s j op x ctx m n; { outputAt j 1 g.1 with checked := true, wrong := g.2 }
    | none => {}
  | 0x0403 | 0x0404 | 0x0411 | 0x0421 =>
    if publicBad then workFail stBadParam 0x0111 else verdict (classicalVerify s j op k pub ctx m sig)
  | 0x0405 =>
    let h := hashFn (blkHash j)
    outputAt j 1 (oaepEncrypt h (rsaPubFrom pub) (rangeData j .label) m (randomAt n 0 h.len))
  | 0x0406 => match k with
    | some x =>
      let w := match oaepDecrypt (hashFn (blkHash j)) x.material (rangeData j .label) m with
        | some p => outputAt j 1 p
        | none => workFail stVerifyFalse 0
      { w with checked := true, wrong := !rsaChecks x.material (beNat m) }
    | none => {}
  | 0x0412 => match opEcCurve s j none with
    | some c =>
      let slot := match curveByHandle s j.slice (blkCurveHandle j) with
        | some r => r.slot
        | none => 0
      let p := if blkCurve j = 0xFF then 0xFF + 256 * slot else blkCurve j
      let a := if blkMode j = 0 then 0x21 else 0x22
      let mat := freshEc c n
      { outputAt j 1 (mat.drop c.o) with
        checked := true, after := .createKey, newKey := some (volatileKey j a p (if a = 0x21 then 5 else 7) mat) }
    | none => workFail stKeyAbsent 0
  | 0x0423 =>
    let p := blkCurve j
    let mat := freshMaterial 0x23 p (if p = 7 then 64 else 114) n
    { outputAt j 1 (mat.drop (mat.length / 2)) with
      checked := true, after := .createKey, newKey := some (volatileKey j 0x23 p 5 mat) }
  | 0x0429 =>
    let p := blkCurve j
    let mat := freshMaterial 0x24 p (if p = 7 then 64 else 112) n
    { outputAt j 1 (mat.drop (mat.length / 2)) with
      checked := true, after := .createKey, newKey := some (volatileKey j 0x24 p 7 mat) }
  | 0x0413 | 0x0428 => match k with
    | some x =>
      match agreed s x m with
      | none => workFail stBadParam 0x0110
      | some secret =>
        if outKey j then
          { checked := true, after := .createKey,
            newKey := some (volatileKey j 0x13 secret.length 4 secret) }
        else { outputAt j 1 secret with checked := true }
    | none => {}
  | 0x0422 => batchWork j d
  | 0x0430 => match curveChecks src n with
    | some sub => workFail stBadCurve sub
    | none => { after := .createKey, newKey := some { volatileKey j 0 0 0 src with alg := 0xFF } }
  | 0x0431 =>
    if curveAbsent s j.slice d then workFail stKeyAbsent 0
    else if curveInUse s j.slice d.key then workFail stBadParam 0x0112
    else { after := .destroyKey }
  | 0x0440 => match k with
    | some x => hybridWork (outputAt j 1) x.material m n
    | none => {}
  | 0x0441 =>
    if publicBad then workFail stBadParam 0x0111
    else
      let r := hybridParts pub hybridL m sig
      { verdict (r.1 && r.2) with result := b2n r.1 + 2 * b2n r.2 }
  | _ =>
    let mat := freshMaterial 0x25 0 177 n
    { outputAt j 1 ((mat.drop 48).take 97 ++ mldsa87Public (mat.drop 145)) with
      checked := true, after := .createKey, newKey := some (volatileKey j 0x25 0 5 mat) }

/-! ## Grid classes (R262, R291) -/

/-- Place of a modulus length in a list of listed lengths, rounded up. -/
def roundUpIndex (bitsOf : Nat) : List Nat → Nat
  | [] => 0
  | x :: r => if bitsOf ≤ x then 0 else 1 + roundUpIndex bitsOf r

def rsaPrivateClass (k : Nat) : Nat := 64 + min 4 (roundUpIndex (8 * k) [2048, 3072, 4096, 6144, 8192])
def rsaPublicClass (k : Nat) : Nat := 69 + min 5 (roundUpIndex (8 * k) [1024, 2048, 3072, 4096, 6144, 8192])

/-- Classes of the checks of the part on a big-number unit, and of the second part (R262, R283, R289, R291). -/
def pubClasses (s : State) (j : Job) (d : Desc) (k : Option Key) : List Nat × List Nat :=
  let ec := fun x => match opCurve s j k with
    | some c => [c.cls + x]
    | none => [75 + x]
  let ed := fun a b => [if is448 j k then b else a]
  match d.opcode with
  | 0x0300 => ([(mulaccW d).getD 32 / 32 - 1], [])
  | 0x0301 =>
    let w := (mulaccW d).getD 32
    let b := if w ≤ 128 then 0 else if w ≤ 256 then 1 else if w ≤ 512 then 2 else 3
    ([32 + 8 * b + (ceilDiv (d.inline % 128) 8 - 1)], [])
  | 0x0401 | 0x0402 | 0x0406 => ([rsaPrivateClass (modulusLen j k)], [])
  | 0x0403 | 0x0404 | 0x0405 => ([rsaPublicClass (modulusLen j k)], [])
  | 0x0410 => (ec 0, [])
  | 0x0411 => (ec 1, [])
  | 0x0412 => (ec 2, [])
  | 0x0413 => (ec 3, [])
  | 0x0420 => (ed 111 114, [])
  | 0x0421 => (ed 112 115, [])
  | 0x0423 => (ed 113 116, [])
  | 0x0422 => ((batchChecks (batchRemaining j d)).map (batchClass (is448 j none)), [])
  | 0x0428 => (ed 131 133, [])
  | 0x0429 => (ed 132 134, [])
  | 0x0430 => ([135 + curveBand (rangeData j .src)], [])
  | 0x0431 => ([135], [])
  | 0x0440 => ([138], [176])
  | 0x0441 => ([139], [177])
  | _ => ([81], [175])

/-- The opcode draws random values (R255). -/
def pubRandom (op : Nat) : Bool :=
  !([0x0300, 0x0301, 0x0403, 0x0404, 0x0411, 0x0421, 0x0441, 0x0431].contains op)

end Sys2Proof.Machine
end

