-- ==== Sys2Proof/Machine/SpecLattice.lean ====
section
/-! DEFINITION. Lattice, stateful hash-based and ordinal opcodes: their checks, operands, grid classes and results
(R295 to R334). -/
namespace Sys2Proof.Machine

/-- Opcodes of families 0x05xx, 0x06xx and 0x09xx (R298, R315, R323). -/
def latKnown (op : Nat) : Bool :=
  [0x0500, 0x0501, 0x0502, 0x0510, 0x0511, 0x0512, 0x0520, 0x0521, 0x0522, 0x0540, 0x0541, 0x0542, 0x0601, 0x0602,
   0x0603, 0x0900, 0x0901, 0x0902, 0x0903].contains op

def isHykem (op : Nat) : Bool := decide (0x0540 ≤ op) && decide (op ≤ 0x0542)
def isSlh (op : Nat) : Bool := decide (0x0520 ≤ op) && decide (op ≤ 0x0522)
def latKeygen (op : Nat) : Bool := [0x0500, 0x0510, 0x0520, 0x0540].contains op
def isEncaps (op : Nat) : Bool := op == 0x0501 || op == 0x0541
def isDecaps (op : Nat) : Bool := op == 0x0502 || op == 0x0542
def latSign (op : Nat) : Bool := op == 0x0511 || op == 0x0521
def latVerify (op : Nat) : Bool := [0x0512, 0x0522, 0x0602].contains op
def isHbs (op : Nat) : Bool := decide (0x0600 ≤ op) && decide (op < 0x0700)
def isOrd (op : Nat) : Bool := decide (0x0900 ≤ op)
/-- Opcodes without input at SRC. -/
def latNoInput (op : Nat) : Bool := latKeygen op || [0x0603, 0x0901, 0x0902].contains op
/-- Opcodes that take no key. -/
def latKeyless (op : Nat) : Bool := latKeygen op || isEncaps op
/-- Opcodes that take no block. -/
def latNoBlock (op : Nat) : Bool := [0x0601, 0x0603, 0x0901].contains op
/-- Opcodes that write nothing. -/
def latNoOutput (op : Nat) : Bool := latVerify op || [0x0901, 0x0902, 0x0903].contains op

/-- The algorithm of an opcode of family 0x05xx (R298, R379). -/
def latAlg (op : Nat) : Nat :=
  if op ≤ 0x0502 then 0x30 else if op ≤ 0x0512 then 0x31 else if op ≤ 0x0522 then 0x32 else 0x33

/-- Signature length of an ordinal key (R325). -/
def ordSigLen (k : Key) : Nat :=
  match k.alg with
  | 0x21 => if k.param = 1 then 64 else 96
  | 0x23 => 64
  | 0x31 => 3309
  | _ => 4723

/-- Parameter set of a key given by handle. -/
def keySet (k : Option Key) : Option SetInfo := k.bind (fun x => setInfo x.param)

/-- LENGTH and AUX_LENGTH checks that the opcode or the key alone decides (R298, R301, R303, R315, R323). -/
def latLengths (d : Desc) (k : Option Key) : List (Bool × Nat) :=
  let op := d.opcode
  let l := d.length
  let len :=
    if latNoInput op then l != 0
    else if isDecaps op then match keySet k with
      | some x => l != x.out
      | none => false
    else if op = 0x0903 then match k with
      | some x => l != 112 + ordSigLen x
      | none => false
    else false
  let aux :=
    if op = 0x0512 ∨ op = 0x0522 then match keySet k with
      | some x => x.alg == latAlg op && d.aux != x.out
      | none => false
    else if op = 0x0602 ∨ isOrd op then false
    else d.aux != 0
  [(len || aux, 0x0001), ((latSign op || latVerify op || op == 0x0601) && decide (l > 4096), 0x0009)]

/-- Output length that the descriptor and a key given by handle decide, the largest possible where they do not. -/
def latOut (d : Desc) (k : Option Key) : Nat :=
  let op := d.opcode
  match op with
  | 0x0500 => 1568
  | 0x0510 => 2592
  | 0x0520 => 64
  | 0x0540 => 1665
  | 0x0501 => 1600
  | 0x0541 => 1697
  | 0x0502 | 0x0542 => 32
  | 0x0511 | 0x0521 => match keySet k with
    | some x => x.out
    | none => 49856
  | 0x0601 => match k with
    | some x => hbsSigLen x.alg x.param
    | none => 0
  | 0x0603 => 64
  | 0x0900 => match k with
    | some x => 112 + ordSigLen x
    | none => 0
  | _ => 0

/-- Whether that length is exact before the block is read. -/
def latOutExact (op : Nat) : Bool := !(latKeyless op)

/-- Length of the parameter block read first. -/
def latBlockLen (op : Nat) : Nat := if latNoBlock op then 0 else 64

/-- The pre-acceptance view of a descriptor of these families (R266, R301, R315, R323). -/
def latPre (d : Desc) (k : Option Key) : Pre :=
  let op := d.opcode
  let out := latOut d k
  { param := [((!isOrd op && d.inline != 0) || (isOrd op && d.aux != 0) || (latNoInput op && d.src != 0) ||
                (latNoOutput op && d.dst != 0) || (latKeyless op && d.key != 0) || (latNoBlock op && d.param != 0), 0x0101),
              (latOutExact op && (hostOverlap d.dst out d.src (d.length + d.aux) ||
                hostOverlap d.dst out d.param (latBlockLen op)), 0x0105)]
    length := latLengths d k
    align := [(misaligned d.src 8, 0x0201), (misaligned d.dst 8, 0x0202), (misaligned d.param 8, 0x0203)]
    reads := (if latNoInput op then [] else [(d.src, d.length + d.aux)]) ++
      (if latNoBlock op then [] else [(d.param, 64)])
    writes := if latNoOutput op then [] else if latOutExact op then [(d.dst, out)] else [(d.dst, 1)]
    output := out
    dstZero := !latNoOutput op
    dstLater := isDecaps op }

/-- Use, STATEFUL flag and algorithm of the key (R298, R315, R322, R323). -/
def latKey (d : Desc) (k : Key) : Option Ending :=
  let op := d.opcode
  let useBad : Option Ending := some { status := stKeyUse, sub := 0x0301 }
  let algBad : Option Ending := some { status := stKeyUse, sub := 0x0302 }
  if isHbs op then
    if op = 0x0602 then (if k.use ≠ 6 then useBad else if !isHbsAlg k.alg then algBad else none)
    else if k.use ≠ 5 ∨ !k.stateful then useBad
    else if !isHbsAlg k.alg then (if isOrdAlg k.alg k.param then useBad else algBad)
    else none
  else if isOrd op then
    if op = 0x0903 then (if k.use ≠ 6 then useBad else if !isOrdAlg k.alg k.param then algBad else none)
    else if k.use ≠ 5 ∨ !k.stateful then useBad
    else if isHbsAlg k.alg then useBad
    else if !isOrdAlg k.alg k.param then algBad
    else none
  else
    let want := if isDecaps op then 7 else if latSign op then 5 else 6
    if k.use ≠ want ∨ k.stateful then useBad
    else if k.alg ≠ latAlg op then algBad
    else none

/-- Whether a key of the 0x09xx family runs on a lattice unit (R331), alone or for its second part. -/
def ordLattice (k : Key) : Bool := k.alg == 0x31 || k.alg == 0x25

/-! ## Fields of the parameter block (R300, R324) -/

/-- The parameter set in use: the key's, else the block's. -/
def opSet (j : Job) (k : Option Key) : Nat :=
  match k with
  | some x => x.param
  | none => blkCurve j

def ordDomain (j : Job) : Bytes := paramBytes j 0 16
def ordHash (j : Job) : Nat := paramField j 0x10 1
def ordBlock (j : Job) : Nat := paramField j 0x14 4
def ordCounter (j : Job) : Nat := paramField j 0x18 2

/-- A verification whose public key comes in the block. -/
def latPubInBlock (d : Desc) : Bool := latVerify d.opcode && d.key == 0

/-- Algorithm of the public key in the block of HBS_VERIFY (R315). -/
def hbsSetAlg (set : Nat) : Nat := set - 1

/-- PUBKEY_LEN does not fit the set; for a stateful scheme its encodings of RFC 8554 and RFC 8391. -/
def latPubLenBad (j : Job) (d : Desc) : Bool :=
  let n := blkPubLen j
  if d.opcode = 0x0602 then
    (if blkCurve j = 0x41 then !([48, 56, 52, 60].contains n) else !([52, 68].contains n))
  else match setInfo (blkCurve j) with
    | some x => n != x.pub
    | none => false

/-- SET invalid, or not matching the opcode (0x0114). -/
def setBad (j : Job) (d : Desc) (k : Option Key) : Bool :=
  let op := d.opcode
  if k.isSome then false
  else if op = 0x0602 then !([0x41, 0x42, 0x43].contains (blkCurve j))
  else match setInfo (blkCurve j) with
    | some x => x.alg != latAlg op
    | none => true

/-- HBS_VERIFY under a public key in the block: its type codes lie outside R312, or the levels of the signature mix parameters
(0x0114, R334); or its length is not that of its type codes (0x0107). -/
def hbsSetBad (j : Job) (d : Desc) (k : Option Key) : Bool :=
  let a := hbsSetAlg (blkCurve j)
  let pub := rangeData j .pubkey
  d.opcode == 0x0602 && k.isNone && got j .pubkey &&
    (!hbsTypesOk a pub || (got j .src && hbsMixed a pub ((rangeData j .src).drop d.length)))
def hbsPubLenBad (j : Job) (d : Desc) (k : Option Key) : Bool :=
  let a := hbsSetAlg (blkCurve j)
  let pub := rangeData j .pubkey
  d.opcode == 0x0602 && k.isNone && got j .pubkey && hbsTypesOk a pub && !hbsLengthOk a pub

/-- Output length once the block is known (R298, R304). -/
def latOutNow (j : Job) (d : Desc) (k : Option Key) : Nat :=
  let op := d.opcode
  if isDecaps op then (if outKey j then 0 else 32)
  else match setInfo (opSet j k) with
    | some x => if latKeygen op then x.pub else if isEncaps op then (if outKey j then x.out else x.out + 32) else latOut d k
    | none => if latKeyless op then 0 else latOut d k

/-- Checks of a 0x05xx or 0x06xx block and what it names, in the order of R119. -/
def latBlockFault (j : Job) (d : Desc) (k : Option Key) : Option Ending :=
  let op := d.opcode
  let modeOk := isEncaps op || isDecaps op
  let ctxOk := latSign op || op == 0x0512 || op == 0x0522
  let unused := (k.isSome && blkCurve j != 0) || !paramZero j 0x01 1 || (!modeOk && blkMode j != 0) ||
    decide (blkMode j > 1) || !paramZero j 0x03 5 || (!latPubInBlock d && (blkPubAddr j != 0 || blkPubLen j != 0)) ||
    !paramZero j 0x14 16 || (!ctxOk && blkCtxLen j != 0) || !paramZero j 0x25 27 ||
    (isDecaps op && outKey j && d.dst != 0)
  let meets := hostOverlap (dstAddr j) (latOutNow j d k)
  let isOver := meets d.param (64 + blkCtxLen j) || meets d.src (d.length + d.aux) || (latPubInBlock d && meets (blkPubAddr j) (blkPubLen j))
  let len := match setInfo (opSet j k) with
    | some x => (isEncaps op && d.length != x.pub) || ((op == 0x0512 || op == 0x0522) && d.aux != x.out)
    | none => false
  firstEnd
    [failIf stBadParam [(unused, 0x0101), (isOver, 0x0105), ((latPubInBlock d && latPubLenBad j d) || hbsPubLenBad j d k, 0x0107),
        (setBad j d k || hbsSetBad j d k, 0x0114),
        (latSign op && got j .context && (rangeData j .context).take 7 == ascii "PERAND-", 0x0115),
        (isDecaps op && !outKey j && d.dst == 0 && j.buf.isNone, 0)],
     failIf stBadLength [(len, 0x0001)]]

/-- Checks of a 0x09xx block (R324, R330), with the counters of the slice's allotment. -/
def ordBlockFault (a : Allot) (j : Job) (d : Desc) : Option Ending :=
  let op := d.opcode
  let dom := op == 0x0900 || op == 0x0903
  let unused := (!dom && !paramZero j 0 16) || (op != 0x0900 && ordHash j != 0) || !paramZero j 0x11 3 ||
    (op != 0x0902 && ordBlock j != 0) || (op != 0x0903 && ordCounter j != 0) || !paramZero j 0x1A 38
  let c := ordCounter j
  let outside := op == 0x0903 && !(decide (a.firstCounter ≤ c) && decide (c < a.firstCounter + a.counterCount))
  firstEnd
    [failIf stBadParam [(unused, 0x0101), (decide (ordBlock j > 65536), 0x0107),
        (op == 0x0900 && hashLen (ordHash j) == 0, 0x0114), (outside, 0x0117)],
     failIf stBadLength [(op == 0x0900 && d.length != hashLen (ordHash j), 0x0001)]]

/-- Output bytes of a one-time or ordinal signature under a key. -/
def signedLen (op : Nat) (k : Key) : Nat := if op = 0x0601 then hbsSigLen k.alg k.param else 112 + ordSigLen k
/-- The destination that a recovered signing step looks at before it takes a fresh value (R31). -/
def destWant (j : Job) (d : Desc) : List Want :=
  match j.loaded with
  | some k => if j.recovered ∧ j.value = none ∧ (d.opcode = 0x0601 ∨ d.opcode = 0x0900) then [⟨.dest, dstAddr j, signedLen d.opcode k⟩]
    else []
  | none => []

/-- Ranges to read. -/
def latWants (j : Job) (d : Desc) : List Want :=
  let op := d.opcode
  let src : List Want := if latNoInput op then [] else [⟨.src, d.src, d.length + d.aux⟩]
  if latNoBlock op then src ++ destWant j d
  else
    [⟨.param, d.param, 64⟩] ++
      (if got j .param then
        (if isOrd op || blkCtxLen j == 0 then [] else [⟨.context, d.param + 64, blkCtxLen j⟩]) ++
          (if latPubInBlock d then [⟨.pubkey, blkPubAddr j, blkPubLen j⟩] else []) ++ src ++ destWant j d
       else [])

/-! ## Results -/

/-- The combiner of R309. -/
def hykemSecret (ssC ssK ctC ctK pkC ek : Bytes) : Bytes :=
  kmac256 (ssC ++ ssK) (ctC ++ ctK ++ pkC ++ sha3 32 ek) 32 (ascii "PERAND-HYKEM-V1")

/-- A recipient's public value is acceptable (R277). -/
def peerOk (set : Nat) (p : Bytes) : Bool := if hykemP384 set then (ecDecode curveP384 p).isSome else xPublicOk x25519 p

/-- The classical shared secret of a set under its private material; none where R275 rejects the peer value or the result. -/
def hykemAgree (set : Nat) (material peer : Bytes) : Option Bytes :=
  if hykemP384 set then ecdhAgree curveP384 (beNat (material.take 48)) peer
  else
    let z := xAgree x25519 material peer
    if xPublicOk x25519 peer ∧ !allZero z then some z else none

/-- Encapsulation to a hybrid public key: none when the peer value is rejected, else ciphertext and secret (R310). -/
def hykemEncaps (set : Nat) (pub : Bytes) (n : Nat) : Option (Bytes × Bytes) :=
  let c := hykemClassical set
  let pkC := pub.take c
  let ek := pub.drop c
  let eph := if hykemP384 set then freshEc curveP384 n else xMaterial x25519 (randomAt n 0 32)
  let ctC := if hykemP384 set then eph.drop 48 else eph.drop 32
  let k := mlkemEncaps (hykemKem set) ek (randomAt n latticeAt 32)
  (hykemAgree set eph pkC).map (fun ssC => (ctC ++ k.1, hykemSecret ssC k.2 ctC k.1 pkC ek))

/-- Decapsulation with the private parts: classical material and ML-KEM seed, and the recipient's public key. -/
def hykemOpen (set : Nat) (classical seed pub ct : Bytes) : Option Bytes :=
  let c := hykemClassical set
  let ctC := ct.take c
  let ctK := ct.drop c
  (hykemAgree set classical ctC).map (fun ssC =>
    hykemSecret ssC (mlkemDecaps (hykemKem set) seed ctK) ctC ctK (pub.take c) (pub.drop c))

/-- A secret under OUT_KEY becomes a DERIVE_ONLY generic secret (R304). -/
def secretKey (j : Job) (m : Bytes) : Key := volatileKey j 0x13 m.length 4 m

/-- The 112-byte ordinal record (R325). -/
def ordRecord (domain : Bytes) (target ordinal hash : Nat) (digest : Bytes) : Bytes :=
  ascii "PRDORD01" ++ fit 16 domain ++ leBytes 8 target ++ leBytes 8 ordinal ++ leBytes 1 hash ++
    leBytes 1 (hashLen hash) ++ zeros 6 ++ fit 64 digest

/-- The curve of an ordinal ECDSA key and the digest of a record that it signs (R325). -/
def ordCurve (k : Key) : EcCurve := if k.param = 1 then curveP256 else curveP384
def ordDigest (k : Key) (r : Bytes) : Bytes := digestOf (if k.param = 1 then 2 else 3) r

/-- The step that writes an ordinal record and its signature, with the check of R275 (R325). -/
def ordSignWork (w : Bytes → Work) (k : Key) (r : Bytes) (n : Nat) : Work :=
  match k.alg with
  | 0x21 =>
    let c := ordCurve k
    let sig := ecdsaSign c (beNat (k.material.take c.o)) (ordDigest k r) (ecNonces c n)
    { w (r ++ sig) with checked := true, wrong := !ecdsaVerify c (k.material.drop c.o) (ordDigest k r) sig }
  | 0x23 =>
    let sig := edSign ed25519 0 [] k.material r
    { w (r ++ sig) with checked := true, wrong := !edVerify ed25519 0 (k.material.drop 32) [] r sig }
  | 0x31 =>
    let b := mldsaRun 0x12 k.material [] r n
    { w (r ++ b.2) with blocks := b.1 }
  | _ => hybridWork (fun sig => w (r ++ sig)) k.material r n

/-- Whether an ordinal record's signature verifies. -/
def ordVerifies (k : Key) (r sig : Bytes) : Bool :=
  match k.alg with
  | 0x21 => ecdsaVerify (ordCurve k) k.material (ordDigest k r) sig
  | 0x23 => edVerify ed25519 0 k.material [] r sig
  | 0x25 => let p := hybridParts k.material hybridL r sig; p.1 && p.2
  | _ => mldsaVerify 0x12 k.material [] r sig

/-- Every lower layer has its next tree built, or needs none. -/
def successorReady (p : Nat) (x : HbsState) : Bool :=
  (List.range (hbsLayers p - 1)).all (fun l =>
    decide (min (treesIn (hbsHeight p) (hbsLayers p) l) (treeOf (hbsHeight p) l x.next + 2) ≤ x.built.getD l 1))

/-- HBS_STATUS's 64 bytes (R315). -/
def hbsStatusBytes (p : Nat) (h : HbsState) : Bytes :=
  leBytes 8 h.total ++ leBytes 8 h.next ++ leBytes 8 h.committedEnd ++ leBytes 4 h.block ++
    leBytes 1 (b2n (successorReady p h) + 2 * b2n h.resident) ++ zeros 35

/-- ORD_CHECK (R330). -/
def ordCheckWork (s : State) (j : Job) (d : Desc) (k : Key) : Work :=
  let src := rangeData j .src
  let r := src.take 112
  let sigOk := ordVerifies k r (src.drop 112)
  let form := r.take 8 == ascii "PRDORD01" && subBytes r 8 16 == ordDomain j && field r 0x18 8 == d.inline
  let ord := field r 0x20 8
  let above := decide (ord > look s.per.counters (ordCounter j) 0)
  if sigOk && form && above then { after := .raise, result := ord }
  else { workFail stVerifyFalse 0 with result := b2n (!sigOk) + 2 * b2n (!form) + 4 * b2n (!above) }

/-- What a step of these families computes, with draw n for its random values. -/
def latWork (s : State) (j : Job) (d : Desc) (k : Option Key) (n : Nat) : Work :=
  let op := d.opcode
  let src := rangeData j .src
  let m := src.take d.length
  let sig := (src.drop d.length).take d.aux
  let set := opSet j k
  let x := (setInfo set).getD ⟨0, 0, 0, 0⟩
  let ctx := rangeData j .context
  let pub := match k with
    | some y => publicOf s y
    | none => rangeData j .pubkey
  match op with
  | 0x0500 | 0x0510 | 0x0520 | 0x0540 =>
    let len := (matLen x.alg set (if x.alg = 0x30 ∨ x.alg = 0x33 then 7 else 5)).getD 0
    let key := volatileKey j x.alg set (if x.alg = 0x30 ∨ x.alg = 0x33 then 7 else 5) (freshMaterial x.alg set len n)
    { outputAt j 1 (publicOf s key) with after := .createKey, newKey := some key }
  | 0x0501 =>
    if !mlkemPublicOk set m then workFail stBadParam 0x0113
    else
      let e := mlkemEncaps set m (randomAt n latticeAt 32)
      if outKey j then { outputAt j 1 e.1 with after := .createKey, newKey := some (secretKey j e.2) }
      else outputAt j 1 (e.1 ++ e.2)
  | 0x0541 => match hykemEncaps set m n with
    | none => workFail stBadParam 0x0110
    | some (ct, ss) =>
      if outKey j then { outputAt j 1 ct with after := .createKey, newKey := some (secretKey j ss) }
      else outputAt j 1 (ct ++ ss)
  | 0x0502 | 0x0542 => match k with
    | none => {}
    | some y =>
      let secret := if op = 0x0502 then some (mlkemDecaps set y.material m)
        else hykemOpen set (y.material.take (y.material.length - 64)) (y.material.drop (y.material.length - 64)) pub m
      match secret with
      | none => workFail stBadParam 0x0110
      | some ss =>
        if outKey j then
          { after := .createKey, newKey := some (secretKey j ss) }
        else outputAt j 1 ss
  | 0x0511 => match k with
    | some y => let b := mldsaRun set y.material ctx m n; { outputAt j 1 b.2 with blocks := b.1 }
    | none => {}
  | 0x0521 => match k with
    | some y => outputAt j 1 (slhSign set y.material ctx m (randomAt n latticeAt (x.pub / 2)))
    | none => {}
  | 0x0512 => verdict (mldsaVerify set pub ctx m sig)
  | 0x0522 => verdict (slhVerify set pub ctx m sig)
  | 0x0601 => match k with
    | some y =>
      let i := j.value.getD 0
      { outputAt j 1 (hbsSign y.alg y.param y.material i m (randomAt n latticeAt (hbsN y.param))) with result := i }
    | none => {}
  | 0x0602 =>
    let alg := match k with
      | some y => y.alg
      | none => hbsSetAlg set
    let lenOk := match k with
      | some y => sig.length == hbsSigLen y.alg y.param
      | none => true
    verdict (lenOk && hbsVerify alg pub m sig)
  | 0x0603 => outputAt j 1 (hbsStatusBytes (match k with
      | some y => y.param
      | none => 0) (look s.res.hbs d.key {}))
  | 0x0900 => match k with
    | some y =>
      let r := ordRecord (ordDomain j) d.inline (j.value.getD 0) (ordHash j) m
      { ordSignWork (outputAt j 1) y r n with result := j.value.getD 0 }
    | none => {}
  | 0x0901 =>
    let e := s.res.ordinals.find? (fun e => e.slice == j.slice && e.handle == d.key && e.target == d.inline)
    { result := (e.map (·.next)).getD 1 }
  | 0x0902 =>
    let b := if ordBlock j = 0 then (match k with
        | some y => if y.block = 0 then 1024 else y.block
        | none => 1024) else ordBlock j
    { after := .batch, result := b }
  | _ => match k with
    | some y => ordCheckWork s j d y
    | none => {}

/-! ## Grid classes (R311, R317, R331) -/

/-- The hash of a stateful public key is SHAKE256, and its W, from the type codes of RFC 8554, RFC 8391 and SP 800-208
(PRESUMED, log entry 10). -/
def hbsTypeShake (alg : Nat) (pub : Bytes) : Bool :=
  let hss := pub.length == 60 || pub.length == 52
  let t := beNat (subBytes pub 0 4)
  if alg = 0x40 then decide (beNat (subBytes pub (if hss then 8 else 4) 4) ≥ 9)
  else if alg = 0x41 then decide (0x10 ≤ t)
  else decide (0x29 ≤ t)
def hbsTypeW (pub : Bytes) : Nat :=
  let hss := pub.length == 60 || pub.length == 52
  2 ^ ((beNat (subBytes pub (if hss then 8 else 4) 4) + 3) % 4)

/-- Place of W among 1, 2, 4, 8. -/
def wIndex (w : Nat) : Nat := match w with
  | 1 => 0
  | 2 => 1
  | 4 => 2
  | _ => 3

/-- Class of a stateful signing or verifying job (R317). -/
def hbsClass (sign : Bool) (alg : Nat) (shake : Bool) (w : Nat) : Nat :=
  if alg = 0x40 then (if sign then 224 else 232) + 4 * b2n shake + wIndex w
  else if sign then 240 + b2n shake
  else if alg = 0x41 then 242 + b2n shake
  else 244 + b2n shake

/-- Class of an ordinal job's parts (R331). -/
def ordClasses (op : Nat) (k : Key) : List Nat × List Nat :=
  let b := if op = 0x0900 then 144 else 150
  match k.alg with
  | 0x21 => ([b + (if k.param = 1 then 0 else 1)], [])
  | 0x23 => ([b + 2], [])
  | 0x31 => ([b + 3], [])
  | _ => ([b + 4], [b + 5])

/-- Classes of the first and the second part. -/
def latClasses (j : Job) (d : Desc) (k : Option Key) : List Nat × List Nat :=
  let op := d.opcode
  let set := opSet j k
  let c := ((setInfo set).getD ⟨0, 0, 0, 160⟩).cls
  let p := hykemP384 set
  match op with
  | 0x0540 => ([c], [if p then 81 else 132])
  | 0x0541 => ([c + 1], if p then [81, 82] else [132, 131])
  | 0x0542 => ([c + 2], [if p then 82 else 131])
  | 0x0601 => match k with
    | some y => ([hbsClass true y.alg (hbsShake y.param) (hbsW y.param)], [])
    | none => ([224], [])
  | 0x0602 => match k with
    | some y => ([hbsClass false y.alg (hbsShake y.param) (hbsW y.param)], [])
    | none =>
      let a := hbsSetAlg set
      ([hbsClass false a (hbsTypeShake a (rangeData j .pubkey)) (hbsTypeW (rangeData j .pubkey))], [])
  | 0x0900 | 0x0903 => match k with
    | some y => ordClasses op y
    | none => ([144], [])
  | 0x0603 | 0x0901 | 0x0902 => ([], [])
  | _ => ([c + (if latKeygen op then 0 else if isEncaps op || latSign op then 1 else 2)], [])

/-- Blocks of the first and the second part of a step whose ML-DSA signing took b (R306). -/
def signBlocks (op : Nat) (k : Option Key) (b : Nat) : Nat × Nat :=
  match k with
  | some y =>
    if op = 0x0511 ∨ (op = 0x0900 ∧ y.alg = 0x31) then (b, 1)
    else if op = 0x0440 ∨ (op = 0x0900 ∧ y.alg = 0x25) then (1, b)
    else (1, 1)
  | none => (1, 1)

/-- The step draws random values (R255, R296); an XMSS signature derives its randomiser from the index (R316). -/
def latRandom (op : Nat) (k : Option Key) : Bool :=
  !latVerify op && !([0x0603, 0x0901, 0x0902, 0x0903].contains op) && (op != 0x0601 || k.any (·.alg == 0x40))

end Sys2Proof.Machine
end

