-- ==== Sys2Proof/Machine/SpecKey.lean ====
section
/-! DEFINITION. Random and key-store opcodes: their checks, operands and results (R351 to R360, R369 to R392, R398, R411,
R590, R591). -/
namespace Sys2Proof.Machine

/-! ## Random (R357) -/

def randKnown (op : Nat) : Bool := decide (0x0700 ≤ op) && decide (op ≤ 0x0702)

/-- The pre-acceptance view of a random descriptor (R357, R360). -/
def randPre (d : Desc) : Pre :=
  let op := d.opcode
  let a := d.aux
  { param := [(d.key != 0 || d.src != 0 || d.inline != 0 || (a == 0 && d.param != 0), 0x0101), (op == 0x0702 && d.dst != 0, 0),
              (hostOverlap d.dst d.length d.param a, 0x0105), (decide (a > 48), 0x0107)]
    length := [(if op = 0x0702 then d.length != 0 else decide (d.length < 1) || decide (d.length > 65536), 0x0001)]
    reads := if a = 0 then [] else [(d.param, a)]
    writes := if op = 0x0702 then [] else [(d.dst, d.length)]
    output := if op = 0x0702 then 0 else d.length
    dstZero := op != 0x0702 }

def randWants (d : Desc) : List Want := if d.aux = 0 then [] else [⟨.param, d.param, d.aux⟩]

/-! ## Key operations (R389) -/

def keyOpKnown (op : Nat) : Bool := decide (0x0800 ≤ op) && decide (op ≤ 0x080A) && op != 0x0806 && op != 0x0807

/-- Opcodes of 0x08xx that take no key. -/
def keyOpKeyless (op : Nat) : Bool := [0x0805, 0x0808, 0x0809, 0x080A].contains op
/-- Opcodes that write at DST; KUM_SUBMIT writes there what its operation gives, if DST is non-zero. -/
def keyOpOutput (op : Nat) : Bool := [0x0800, 0x0804, 0x0809, 0x080A].contains op

/-- KEY_WRAP's blob length for a key of m bytes (R389). -/
def wrapLen (m : Nat) : Nat := 8 * ceilDiv (64 + m) 8 + 8

/-- Largest output of a key operation (R389). -/
def keyOpOut (s : State) (j : Job) (d : Desc) (k : Option Key) : Nat :=
  match d.opcode with
  | 0x0800 => match resolveKey s j.slice (d.inline % 2 ^ 32) with
    | some x => wrapLen x.material.length
    | none => 3664
  | 0x0804 => match k with
    | some x => 48 + (publicOf s x).length
    | none => 48
  | 0x0809 => if s.keys.lifecycle = .blank then 1744 else 6467
  | 0x080A => 12803
  | _ => 0

/-- The pre-acceptance view of a key descriptor. -/
def keyOpPre (s : State) (j : Job) (d : Desc) (k : Option Key) : Pre :=
  let op := d.opcode
  let usesSrc := op == 0x0801 || op == 0x0802 || op == 0x0808
  let usesParam := op == 0x0802 || op == 0x0805 || op == 0x080A
  let n := keyOpOut s j d k
  let block := if op = 0x0802 then 64 else if op = 0x0805 then 48 else 32
  { param := [(d.aux != 0 || (op == 0x0800 && d.inline / 2 ^ 32 != 0) || (op != 0x0800 && d.inline != 0) ||
                (!usesSrc && (d.src != 0 || d.length != 0)) || (!usesParam && d.param != 0) ||
                (!keyOpOutput op && op != 0x0808 && d.dst != 0) || (keyOpKeyless op && d.key != 0), 0)]
    length := [((op == 0x0801 && (decide (d.length < 80) || decide (d.length > 4104) || d.length % 8 != 0)) ||
                (op == 0x0802 && decide (d.length > 4096)) || (op == 0x0808 && decide (d.length > 262144)), 0x0001)]
    align := [(misaligned d.src 8 || misaligned d.dst 8 || misaligned d.param 8, 0)]
    reads := (if usesSrc then [(d.src, d.length)] else []) ++ (if usesParam then [(d.param, block)] else [])
    writes := if keyOpOutput op then [(d.dst, n)] else []
    output := n
    dstZero := keyOpOutput op }

/-- Use and algorithm of the key of 0x0800 to 0x0802; KEY_DESTROY and KEY_INFO make no use check (R590). -/
def keyOpKey (d : Desc) (k : Key) : Option Ending :=
  let op := d.opcode
  if op = 0x0800 ∨ op = 0x0801 then
    if k.use ≠ 3 then some { status := stKeyUse, sub := 0x0301 }
    else if k.alg ≠ 1 then some { status := stKeyUse, sub := 0x0302 }
    else none
  else if op = 0x0802 then (if k.use ≠ 4 then some { status := stKeyUse, sub := 0x0301 } else none)
  else if op = 0x0803 ∧ k.persistent then some { status := stKeyUse, sub := 0x0304 }
  else none

/-- Whether the opcode counts a use of its key (R381, R590). -/
def countsUse (op : Nat) : Bool := op != 0x0803 && op != 0x0804

def keyOpWants (d : Desc) : List Want :=
  match d.opcode with
  | 0x0801 | 0x0808 => [⟨.src, d.src, d.length⟩]
  | 0x0802 => [⟨.param, d.param, 64⟩] ++ (if d.length = 0 then [] else [⟨.src, d.src, d.length⟩])
  | 0x0805 => [⟨.param, d.param, 48⟩]
  | 0x080A => [⟨.param, d.param, 32⟩]
  | _ => []

/-! ## Templates (R380, R389, R396, R589) -/

/-- A key template, bytes 0x50 to 0x7F of a KUM. -/
structure Template where
  alg : Nat
  use : Nat
  flags : Nat
  param : Nat
  matLen : Nat
  block : Nat
  useLimit : Nat
  reservedSet : Bool
  deriving DecidableEq, Repr

def templateOf (b : Bytes) : Template :=
  { alg := field b 0 1, use := field b 1 1, flags := field b 2 1, param := field b 4 4, matLen := field b 8 2
    block := field b 0x0C 4, useLimit := field b 0x10 8
    reservedSet := !allZero (subBytes b 3 1) || !allZero (subBytes b 0x0A 2) || !allZero (subBytes b 0x18 24) }

/-- A template that R379, R380, R396 or R589 refuses. -/
def templateBad (t : Template) : Bool :=
  t.reservedSet || decide (t.flags > 7) || !useAdmitted t.alg t.use || matLen t.alg t.param t.use != some t.matLen ||
    decide (t.block > 65536) || flagsBad t.alg t.param t.use (bit t.flags 1) (bit t.flags 2)

/-- Algorithms of KEY_GENERATE and KEY_DERIVE (R389). -/
def ringTemplate (t : Template) : Bool := [0x01, 0x02, 0x10, 0x11, 0x12, 0x13].contains t.alg

/-- The key a template describes, with its material. -/
def keyFrom (sl : Nat) (t : Template) (m : Bytes) : Key :=
  { alg := t.alg, use := t.use, saffronReq := bit t.flags 0, stateful := bit t.flags 1, exportable := bit t.flags 2,
    owner := sl, param := t.param, useLimit := t.useLimit, material := m,
    block := if bit t.flags 1 then (if t.block = 0 then 1024 else t.block) else 0 }

/-- Checks of the block of KEY_DERIVE and KEY_GENERATE (R590). -/
def keyOpBlockFault (j : Job) (d : Desc) : Option Ending :=
  let op := d.opcode
  if op = 0x0802 ∨ op = 0x0805 then
    let t := templateOf (rangeData j .param)
    firstEnd
      [failIf stBadParam [(op == 0x0802 && !paramZero j 0x32 14, 0x0101), (templateBad t || !ringTemplate t, 0x0137)],
       failIf stBadLength [(op == 0x0802 && paramField j 0x30 2 != d.length, 0x0001)]]
  else none

/-! ## Export and import (R390, R591) -/

/-- The export header (R390). -/
def exportHeader (k : Key) : Bytes := keyHeader { k with owner := 0, generation := 0, slot := 0, useCount := 0 } ++ zeros 16

/-- Checks of a blob's header before its key is created: the status that refuses it (R390, R591). -/
def importFault (h : Bytes) (recovered : Nat) : Option Ending :=
  let flags := field h 6 1
  let alg := field h 4 1
  let use := field h 5 1
  let par := field h 0x0C 4
  let ml := field h 0x0A 2
  if bit flags 1 ∨ bit flags 3 then some { status := stVerifyFalse }
  else if bit flags 4 ∨ flags ≥ 32 ∨ !allZero (subBytes h 0x08 2) ∨ !allZero (subBytes h 0x18 16) ∨
      !allZero (subBytes h 0x2C 4) ∨ !allZero (subBytes h 0x30 16) ∨ !useAdmitted alg use ∨
      matLen alg par use ≠ some ml ∨ recovered ≠ 64 + ml ∨ flagsBad alg par use (bit flags 1) (bit flags 2) then
    some { status := stBadParam, sub := 0x0137 }
  else none

/-- The key of a blob. -/
def importKey (sl : Nat) (b : Bytes) : Key :=
  let flags := field b 6 1
  { alg := field b 4 1, use := field b 5 1, saffronReq := bit flags 0, exportable := bit flags 2, owner := sl,
    param := field b 0x0C 4, useLimit := field b 0x10 8, material := b.drop 64 }

/-! ## Transport keys, offers and attestation (R366, R367, R398, R411) -/

/-- The hybrid transport pair of set 0x34 from a P-384 seed and an ML-KEM-1024 seed: classical material, ML-KEM seed,
public key. -/
def transportPair (v seed : Bytes) : Bytes × Bytes × Bytes :=
  let c := p384Material (p384Scalar v)
  (c, seed, c.drop 48 ++ mlkemPublic 3 seed)

/-- The transport key of a counter value (R366, R398). -/
def transportKey (s : State) (c : Nat) : Bytes × Bytes × Bytes :=
  let rk := s.keys.rk.getD []
  transportPair (derive s rk "XPORT-ECDH-P384" true c 56) (derive s rk "XPORT-MLKEM1024" true c 64)

/-- The recovery transport key (R367). -/
def recoveryTransport : Bytes × Bytes × Bytes := transportPair (fuseKey "RCV-ECDH-P384" 56) (fuseKey "RCV-MLKEM1024" 64)

/-- A MAK signature with its domain string (R371). -/
def makSign (s : State) (l : String) (m : Bytes) (n : Nat) : Bytes :=
  match s.keys.mak with
  | some (e, q) => hybridSignRaw (p384Material e) q (ascii l) m n
  | none => zeros 4723

/-- The MAK public keys: the P-384 point and the ML-DSA-87 key. -/
def makPublic (s : State) : Bytes :=
  match s.keys.mak with
  | some (e, q) => (p384Material e).drop 48 ++ mldsa87Public q
  | none => zeros 2689

def offerRecord (s : State) (n : Nat) : Bytes :=
  let c := keyAdmin s + 1
  let blank := s.keys.lifecycle == .blank
  let pub := if blank then recoveryTransport.2.2 else (transportKey s c).2.2
  let body := ascii "PRDOFFR1" ++ fit 48 s.keys.did ++ leBytes 8 c ++ [0x34, if blank then 1 else 0] ++ zeros 6 ++ pub ++ zeros 7
  if blank then body else body ++ makSign s "PERAND-OFFER-V01" body n

/-- LIFECYCLE code (R411). -/
def lifecycleCode : Lifecycle → Nat
  | .blank => 0
  | .enrolled => 1
  | .service => 2
  | .safe => 3
  | .retired => 4

def rosterPending (s : State) : Bool := s.keys.rosterA.st == .pendingSt || s.keys.rosterB.st == .pendingSt

/-- The active roster area. -/
def activeRoster (s : State) : Option Roster :=
  if s.keys.rosterA.st = .active then some s.keys.rosterA
  else if s.keys.rosterB.st = .active then some s.keys.rosterB
  else none

def recoveredCount (s : State) : Nat := match s.keys.recovery with
  | some r => r.recovered
  | none => 0

/-- What KUMs have made of the record's fields by now. -/
def viewNow (s : State) : AttestView :=
  { lifecycle := s.keys.lifecycle, pending := rosterPending s, recovery := s.keys.recovery.isSome, recovered := recoveredCount s
    keyAdmin := keyAdmin s, rosterGen := counterOf s 1 }
/-- The same without a KUM that is still being applied (R411). -/
def attestView (s : State) : AttestView := if s.keys.kumJob.isSome || s.keys.journal.isSome then s.keys.before else viewNow s

/-- The attestation record, with what its dispatch saw of the KUMs (R411). -/
def attestRecord (s : State) (j : Job) (v : AttestView) (n : Nat) : Bytes :=
  let flags := b2n s.per.otpDegraded + 2 * b2n v.pending + 4 * b2n (decide (v.recovered > 0)) +
    8 * b2n v.recovery + 16 * b2n s.keys.sealMismatch
  let body := ascii "PRDATT01" ++ leBytes 4 12803 ++ leBytes 2 1 ++ leBytes 1 (lifecycleCode v.lifecycle) ++
    leBytes 1 flags ++ fit 48 s.keys.did ++ (List.range 8).flatMap (measOf s) ++ leBytes 4 (counterOf s 2) ++
    leBytes 2 s.per.otpFloor ++ leBytes 2 s.per.otpTamper ++ leBytes 8 (ledgerEpoch s) ++ leBytes 8 (now s) ++
    leBytes 8 v.keyAdmin ++ leBytes 4 v.rosterGen ++ leBytes 4 v.recovered ++ fit 32 (rangeData j .param) ++
    leBytes 2 j.slice ++ zeros 6 ++ fit 7547 s.keys.makCert ++ zeros 5
  body ++ makSign s "PERAND-ATTEST-V1" body n

/-! ## Results -/

/-- What a key operation computes, but for KUM_SUBMIT. -/
def keyOpWork (s : State) (j : Job) (d : Desc) (k : Option Key) (n : Nat) : Work :=
  match d.opcode, k with
  | 0x0800, some x =>
    match resolveKey s j.slice (d.inline % 2 ^ 32) with
    | none => workFail stKeyAbsent 0
    | some e =>
      if e.bad || !keyIntact s e then workFail stKeyIntegrity 0x0331
      else if !e.exportable || e.stateful then workFail stKeyUse 0x0305
      else outputAt j 1 (kwpWrap x.material (exportHeader e ++ e.material))
  | 0x0801, some x =>
    match kwpUnwrap x.material ((rangeData j .src).take d.length) with
    | none => workFail stVerifyFalse 0
    | some b => match importFault b b.length with
      | some e => { ending := e }
      | none => { after := .createKey, newKey := some (importKey j.slice b) }
  | 0x0802, some x =>
    let t := templateOf (rangeData j .param)
    let m := kmac256 x.material (fit 48 (rangeData j .param) ++ (rangeData j .src).take d.length) t.matLen
      (ascii "PERAND-DERIVE-V1")
    let key := keyFrom j.slice t m
    { after := .createKey, newKey := some { key with saffronReq := key.saffronReq || x.saffronReq } }
  | 0x0803, some _ => { after := .destroyKey }
  | 0x0804, some x => outputAt j 1 (keyHeader x ++ publicOf s x)
  | 0x0805, _ =>
    let t := templateOf (rangeData j .param)
    { after := .createKey, newKey := some (keyFrom j.slice t (randomBytes n t.matLen)) }
  | 0x0809, _ => outputAt j 1 (offerRecord s n)
  | 0x080A, _ => outputAt j 1 (attestRecord s j j.view n)
  | _, _ => {}

/-- The operation draws random values; a signature of the MAK does (R255). -/
def keyOpRandom (s : State) (op : Nat) : Bool :=
  op == 0x0805 || op == 0x080A || (op == 0x0809 && s.keys.lifecycle != .blank)

/-- Grid classes of a key operation's signature parts (R412). -/
def keyOpClasses (s : State) (op : Nat) : List Nat × List Nat :=
  if op = 0x080A ∨ (op = 0x0809 ∧ s.keys.lifecycle ≠ .blank) then ([138], [176]) else ([], [])

end Sys2Proof.Machine
end

