-- ==== Sys2Proof/Machine/Opcode.lean ====
section
/-! DEFINITION. Every opcode family seen in one shape: known opcodes, rights, keys, engine, operands, checks, grid classes,
result (R82, R83, R118, R119, R151, R162, R184). -/
namespace Sys2Proof.Machine

/-- Family of an opcode. -/
def family (op : Nat) : Nat := op / 256

/-- Opcodes of the core (R119). -/
def opKnown (op : Nat) : Bool :=
  match family op with
  | 0x01 => cipherKnown op
  | 0x02 => hashKnown op
  | 0x03 | 0x04 => pubKnown op
  | 0x05 | 0x06 | 0x09 => latKnown op
  | 0x07 => randKnown op
  | 0x08 => keyOpKnown op
  | 0x0F => op == 0x0F00 || op == 0x0F01
  | _ => false

/-- NOP and FENCE use no engine (R118). -/
def isControl (op : Nat) : Bool := family op == 0x0F

/-- The step may be the last of a chain only: it advances state (R151, R273, R304, R330, R392). ECDH, XDH and
encapsulation advance state when OUT_KEY is set, which only the block shows: `outKeyEarly` checks them once it is read
(log entry 25). -/
def advances (op : Nat) : Bool :=
  [0x06, 0x07, 0x09].contains (family op) || pubCreates op || op == 0x0431 || latKeygen op ||
    [0x0801, 0x0802, 0x0803, 0x0805, 0x0808].contains op

/-- An earlier step of a chain whose block sets OUT_KEY (R151, R273, R304). -/
def outKeyEarly (j : Job) (d : Desc) : Bool :=
  (isAgree d.opcode || isEncaps d.opcode || isDecaps d.opcode) && got j .param && outKey j &&
    decide (j.step + 1 < j.descs.length)

/-- Bytes read from SRC beyond LENGTH. -/
def srcExtra (d : Desc) : Nat :=
  match family d.opcode with
  | 0x01 => aadLen d
  | 0x04 | 0x05 | 0x06 => d.aux
  | _ => 0

/-- The descriptor with the LENGTH that a whole handle gives (R155). -/
def effDesc (j : Job) (d : Desc) : Desc :=
  if wholeHandle d then { d with length := (handleData j d.src).length - srcExtra d } else d

/-! ## Keys -/

/-- A descriptor that works under a key: the handle, or none for a keyless form. Zero where a key is needed ends with
KEY_ABSENT. -/
def needsKey (d : Desc) : Option Nat :=
  let op := d.opcode
  match family op with
  | 0x01 => some d.key
  | 0x02 => if hashKeyed op then some d.key else none
  | 0x03 => none
  | 0x04 => if pubKeyless op || (pubOptional op && d.key == 0) then none else some d.key
  | 0x05 | 0x06 | 0x09 => if latKeyless op || (latVerify op && d.key == 0) then none else some d.key
  | 0x08 => if keyOpKeyless op then none else some d.key
  | _ => none

/-- Use and algorithm check of a family. -/
def keyFault (d : Desc) (k : Key) : Option Ending :=
  match family d.opcode with
  | 0x01 => cipherKey d k
  | 0x02 => hashKey d k
  | 0x04 => pubKey d k
  | 0x05 | 0x06 | 0x09 => latKey d k
  | 0x08 => keyOpKey d k
  | _ => none

/-- The key that a descriptor works under, if it resolves. -/
def descKey (s : State) (sl : Nat) (d : Desc) : Option Key :=
  match needsKey d with
  | some h => resolveKey s sl h
  | none => none

/-- The key counts a use of this descriptor (R381). -/
def usesCount (d : Desc) : Bool := (needsKey d).isSome && countsUse d.opcode

/-! ## Rights and engines (R82, R83, R162) -/

/-- Lane kind of a cipher descriptor (R83). -/
def laneKind (s : State) (sl : Nat) (d : Desc) (k : Option Key) : Engine :=
  let req := match k with
    | some x => x.saffronReq
    | none => false
  if (sliceOf s sl).saffron || req || flagSaffron d then .saffron else .pepper

/-- Engine kind of a step; none for the control family. -/
def engineOf (s : State) (sl : Nat) (d : Desc) (k : Option Key) : Option Engine :=
  let op := d.opcode
  match family op with
  | 0x01 => some (laneKind s sl d k)
  | 0x02 => some .hash
  | 0x03 | 0x04 => some .bignum
  | 0x05 => some .lattice
  | 0x06 => if op = 0x0603 then some .keyStore else some .hash
  | 0x07 => some .entropy
  | 0x08 => some .keyStore
  | 0x09 =>
    if op = 0x0901 ∨ op = 0x0902 then some .keyStore
    else match k with
      | some x => if x.alg = 0x31 then some .lattice else some .bignum
      | none => some .bignum
  | _ => none

/-- Further parts that a step holds beside its own (R289, R308, R310, R331); for the key store's work a Saffron lane for its cipher
work, units for the signatures of the MAK (R204, R207, R389). -/
def engineMore (s : State) (d : Desc) (k : Option Key) : List Engine :=
  let op := d.opcode
  if op = 0x0800 ∨ op = 0x0801 ∨ op = 0x0808 then [.saffron]
  else if op = 0x080A ∨ (op = 0x0809 ∧ s.keys.lifecycle ≠ .blank) then [.bignum, .lattice]
  else if isHybrid op && family op == 0x04 then [.lattice]
  else if isHykem op && family op == 0x05 then [.bignum]
  else if isSlh op && family op == 0x05 then [.hash, .hash, .hash, .hash]
  else if op = 0x0900 ∨ op = 0x0903 then match k with
    | some x => if x.alg = 0x25 then [.lattice] else []
    | none => []
  else []

/-- The kind whose weight a job is charged under (R162, R163). -/
def chargedKind (d : Desc) (e : Engine) : Engine := if family d.opcode = 0x09 ∧ e = .lattice then .bignum else e

/-- The slice lacks the right to the opcode (R82, R83, R264, R302, R323). -/
def noRight (s : State) (c : CfgImage) (sl : Nat) (d : Desc) (k : Option Key) : Bool :=
  let op := d.opcode
  let w := fun e => weightOf c sl e == 0
  let priv := (sliceOf s sl).privileged
  match family op with
  | 0x01 =>
    let req := match k with
      | some x => x.saffronReq
      | none => false
    if (sliceOf s sl).saffron then w .saffron
    else if req then false
    else if flagSaffron d then w .saffron
    else w .pepper
  | 0x02 => w .hash
  | 0x03 => w .bignum
  | 0x04 => !priv || w .bignum || (isHybrid op && w .lattice)
  | 0x05 => w .lattice || (isSlh op && w .hash) || (isHykem op && (!priv || w .bignum))
  | 0x06 => !priv || w .hash
  | 0x07 => false
  | 0x08 => op == 0x0808 && !priv
  | 0x09 => !priv || w .bignum || (allotOf c sl).ordinalEntries == 0 || (match k with
      | some x => ordLattice x && w .lattice
      | none => false)
  | _ => false

/-- A Saffron-required key on a Pepper slice without Saffron weight (R83). -/
def classFault (s : State) (c : CfgImage) (sl : Nat) (d : Desc) (k : Key) : Bool :=
  family d.opcode == 0x01 && !(sliceOf s sl).saffron && k.saffronReq && weightOf c sl .saffron == 0

/-- SAFFRON on a descriptor of another family has no meaning there: an unused flag is no reserved bit, and is ignored. -/
def opPre (s : State) (j : Job) (d : Desc) (k : Option Key) : Pre :=
  match family d.opcode with
  | 0x01 => cipherPre d
  | 0x02 => hashPre d
  | 0x03 | 0x04 => pubPre s d k
  | 0x05 | 0x06 | 0x09 => latPre d k
  | 0x07 => randPre d
  | 0x08 => keyOpPre s j d k
  | _ =>
    { param := [(d.key != 0 || d.src != 0 || d.dst != 0 || d.param != 0 || d.length != 0 || d.aux != 0 || d.inline != 0, 0)] }

/-! ## Operands, late checks, classes, results -/

/-- Ranges that a step wants read, as far as is known. -/
def opWants (j : Job) (d : Desc) : List Want :=
  match family d.opcode with
  | 0x01 => (if isKw d.opcode then [] else [⟨.param, d.param, 64⟩]) ++
      (if cipherSrcLen d = 0 then [] else [⟨.src, d.src, cipherWantLen d⟩])
  | 0x02 => hashWants j d
  | 0x03 | 0x04 => pubWants j d
  | 0x05 | 0x06 | 0x09 => latWants j d
  | 0x07 => randWants d
  | 0x08 => keyOpWants d
  | _ => []

/-- Checks on what has been read so far (R121, R269, R590). -/
def opBlockFault (s : State) (j : Job) (d : Desc) (k : Option Key) : Option Ending :=
  match family d.opcode with
  | 0x01 => if isKw d.opcode || !got j .param then none else cipherBlockFault j d d.length
  | 0x02 => if d.param = 0 ∨ !got j .param then none else hashBlockFault j d
  | 0x03 | 0x04 => if !got j .param then none else pubBlockFault s j d k
  | 0x05 | 0x06 => if !got j .param then none else latBlockFault j d k
  | 0x09 => if !got j .param then none else ordBlockFault (allotOf (cfgOf s j.gen) j.slice) j d
  | 0x08 => if !got j .param then none else keyOpBlockFault j d
  | _ => none

/-- The output of a step whose length only its block shows lies outside the WRITE windows (R91, R269, R301); checked before the part
starts. -/
def lateWindow (s : State) (j : Job) (d : Desc) (k : Option Key) : Bool :=
  let out := fun (n : Nat) => got j .param && d.dst != 0 && !isHandle d.dst && !inWindows (windowsOf (cfgOf s j.gen) j.slice) true d.dst n
  match family d.opcode with
  | 0x04 => out (pubOutNow s j d k)
  | 0x05 => out (latOutNow j d k)
  | _ => false

/-- Grid classes of the first and the second part; empty where the step is not grid-timed (R183, R184). -/
def opClasses (s : State) (j : Job) (d : Desc) (k : Option Key) : List Nat × List Nat :=
  match family d.opcode with
  | 0x03 | 0x04 => pubClasses s j d k
  | 0x05 | 0x06 | 0x09 => latClasses j d k
  | 0x08 => keyOpClasses s d.opcode
  | _ => ([], [])

/-- The step needs values of the internal instance (R201, R255, R296, R348). -/
def opRandom (s : State) (d : Desc) (e : Option Engine) (k : Option Key) : Bool :=
  match family d.opcode with
  | 0x01 => e == some .saffron
  | 0x03 | 0x04 => pubRandom d.opcode
  | 0x05 | 0x06 | 0x09 => latRandom d.opcode k
  | 0x08 => keyOpRandom s d.opcode
  | _ => false

/-- The step's computation, but for random opcodes and KUMs. -/
def opWork (s : State) (j : Job) (d : Desc) (k : Option Key) (n : Nat) : Work :=
  let key := match k with
    | some x => x.material
    | none => []
  match family d.opcode with
  | 0x01 => cipherWork j d key
  | 0x02 => hashWork j d key
  | 0x03 | 0x04 => pubWork s j d k n
  | 0x05 | 0x06 | 0x09 => latWork s j d k n
  | 0x08 => keyOpWork s j d k n
  | _ => {}

/-! ## The built-in grid table (R189, R263, R291, R311, R317, R331), in TREF units -/

/-- Defaults of classes 64 to 143, in microseconds. -/
def gridWhole : List Nat :=
  [798, 2400, 5400, 17500, 40000, 20, 60, 120, 200, 440, 780] ++
  [62, 126, 55, 55, 148, 298, 128, 128, 330, 660, 290, 290, 90, 180, 80, 80, 200, 400, 180, 180, 380, 760, 340, 340] ++
  [120, 240, 110, 110, 260, 520, 240, 240, 600, 1200, 560, 560] ++
  [58, 108, 48, 198, 378, 168, 108, 188, 328, 578, 998, 1798, 3400] ++
  [378, 648, 1098, 1998, 3498, 6298, 11798, 44, 44, 138, 138, 9000, 20000, 60000, 155, 305]

/-- Defaults of classes 144 to 155. -/
def gridOrd : List Nat := [68, 155, 64, 125, 160, 155, 130, 300, 112, 55, 305, 85]

/-- Defaults of classes 160 to 195. -/
def gridLat : List Nat :=
  [12, 15, 17, 18, 22, 25, 26, 31, 35, 40, 80, 34, 64, 120, 50, 100, 150, 80] ++
  [3600, 26000, 35, 80, 1300, 70, 5400, 46000, 45, 120, 2100, 95, 3400, 40000, 60, 220, 4200, 100]

/-- Defaults of classes 224 to 245. -/
def gridHbs : List Nat :=
  [17, 23, 51, 400, 16, 23, 54, 440, 60, 85, 200, 1600, 64, 92, 215, 1750, 290, 160, 330, 170, 3700, 1950]

/-- The built-in default entry of a class; reserved classes hold 1 us. -/
def gridDefault (c : Nat) : Nat :=
  if c < 32 then 100 + 5 * (c + 1) ^ 2
  else if c < 64 then 100 + 40 * (4 * 2 ^ ((c - 32) / 8)) ^ 2 * ((c - 32) % 8 + 1)
  else if c < 144 then us (gridWhole.getD (c - 64) 1)
  else if c < 160 then us (gridOrd.getD (c - 144) 1)
  else if c < 224 then us (gridLat.getD (c - 160) 1)
  else us (gridHbs.getD (c - 224) 1)

/-- The grid entry G of a class in a configuration (R190). -/
def gridEntry (c : CfgImage) (cls : Nat) : Nat := look c.grid cls (gridDefault cls)

end Sys2Proof.Machine
end

