-- ==== Sys2Proof/Machine/Operands.lean ====
section
/-! DEFINITION. Operand forms: where each operand comes from (host memory or a scratch handle), in which order the core
reads them, segment by segment for lanes, and the late checks between (R91, R116, R121, R152 to R155, R167, R269). -/
namespace Sys2Proof.Machine

/-- The key that the step in progress works under: the one loaded at dispatch, before that the cached one. -/
def stepKey (s : State) (j : Job) : Option Key :=
  match j.loaded with
  | some k => some k
  | none => descKey s j.slice (stepDesc j)

/-- The descriptor of the step with its effective LENGTH. -/
def stepEff (j : Job) : Desc := effDesc j (stepDesc j)

/-- Bytes of a segment (R167). -/
def segBytes : Nat := 65536

/-- The step runs in segments: ciphers and hashes (R167). -/
def isSegmented (op : Nat) : Bool := family op == 0x01 || family op == 0x02

/-- Length of the input of a step: associated data and message of a cipher job, prefix and message of a hash job (R167, R233). -/
def inputTotal (j : Job) (d : Desc) : Nat :=
  if family d.opcode = 0x01 then cipherInput d
  else if family d.opcode = 0x02 then hashPrefix j d + d.length
  else d.length

/-- Number of segments of a step. -/
def segCount (j : Job) (d : Desc) : Nat := if isSegmented d.opcode then max 1 (ceilDiv (inputTotal j d) segBytes) else 1

/-- The segment in progress is the step's last. -/
def lastSegment (j : Job) : Bool := decide (segCount j (stepEff j) ≤ j.segDone + 1)

/-- Where byte i of the input of a segmented step lies in its source: the padding behind the associated data takes room there, the
prefix of a hash job none. -/
def srcAt (j : Job) (d : Desc) (i : Nat) : Nat :=
  if family d.opcode = 0x01 then
    let a := if isGcm d.opcode || isCcm d.opcode then d.aux else 0
    if i < a then i else aadLen d + (i - a)
  else i - hashPrefix j d
/-- Source offset at which the segment in progress begins. -/
def segStart (j : Job) (d : Desc) : Nat := srcAt j d (segBytes * j.segDone)

/-- Cuts the source of a segmented step to the segment in progress; the offset of its first byte. -/
def segWant (j : Job) (d : Desc) (w : Want) : Want × Nat :=
  if isSegmented d.opcode ∧ w.range = .src then
    let a := segStart j d
    let z := if segCount j d ≤ j.segDone + 1 then w.len else min w.len (srcAt j d (segBytes * (j.segDone + 1)))
    ({ w with addr := if isHandle w.addr then w.addr else w.addr + a, len := z - a }, a)
  else (w, 0)

/-- What the step still wants read for the segment in progress. -/
def openWants (j : Job) (d : Desc) : List (Want × Nat) :=
  ((opWants j d).filter (fun w => !j.asked.contains w.range)).map (segWant j d)

/-- A handle holds fewer bytes than the step reads (R155). -/
def handleShort (j : Job) (d : Desc) : Bool :=
  (opWants j d).any (fun w => isHandle w.addr && decide ((handleData j w.addr).length < w.len))

/-- LENGTH checks that a whole handle decides only now (R155). -/
def lateLength (s : State) (j : Job) (d : Desc) (k : Option Key) : Option Ending :=
  if wholeHandle (stepDesc j) then failIf stBadLength (opPre s j d k).length else none

/-- A step that advances state before the last one, which only its block shows, ends the chain with BAD_PARAM itself (R151). -/
def lateChain (s : State) (j : Job) (d : Desc) (k : Option Key) : Bool :=
  outKeyEarly j d && (firstEnd [j.bad, opBlockFault s j d k]).isNone

/-- The first late check that fails for what has been read. -/
def lateFault (s : State) (j : Job) (d : Desc) (k : Option Key) : Option Ending :=
  firstEnd
    [j.bad, opBlockFault s j d k, failIf stBadParam [(outKeyEarly j d, 0)], lateLength s j d k,
     failIf stBadLength [(handleShort j d, 0)]]

/-- A unit begins to compute once its operands are there; from then on its time counts (R185, R253). -/
def beginCompute (t : Nat) (j : Job) : Job :=
  match j.part with
  | some (.bignum, _) | some (.lattice, _) =>
    { j with phase := .operands, dispatchTime := t, t1 := { j.t1 with start := t }, t2 := { j.t2 with start := t } }
  | _ => { j with phase := .operands }

/-- Takes what comes from a scratch handle. -/
def takeHandles (ws : List (Want × Nat)) (j : Job) : Job :=
  ws.foldl (fun j w =>
    if isHandle w.1.addr then
      { j with data := j.data ++ [{ range := w.1.range, offset := w.2,
                                    data := subBytes (handleData j w.1.addr) w.2 w.1.len }] }
    else j) j

/-- Read requests for what lies in host memory. -/
def hostReads (j : Job) (ws : List (Want × Nat)) : List Txn :=
  ws.flatMap (fun w =>
    if isHandle w.1.addr then []
    else readTxns j.slice w.1.addr w.1.len (fun o => .operand j.id w.1.range (w.2 + o)))

/-- Counts a refused access in SLC_n_ERR_COUNT.WINDOW (R91). -/
def countWindow (s : State) (sl : Nat) : State :=
  updSlice s sl (fun x => { x with errWindow := satInc 8 x.errWindow })

/-- Works on the operands of a dispatched step: late checks, then the next reads, until all is there. `fuel` bounds the
rounds: each asks for ranges not asked before. -/
def fetchFuel : Nat → State → Nat → State
  | 0, s, _ => s
  | f + 1, s, id =>
    match jobOf s id with
    | none => s
    | some j =>
      let d := stepEff j
      let k := stepKey s j
      match lateFault s j d k with
      | some e => match j.abort with
        | some a => endWith s j a
        | none => if lateChain s j d k then endWith s j e else failStep s j e
      | none =>
        if lateWindow s j d k then failStep (countWindow s j.slice) j { status := stWindow } else
        let all := openWants j d
        let ws := all.filter (fun w => w.1.range != .dest || inWindows (windowsOf (cfgOf s j.gen) j.slice) false w.1.addr w.1.len)
        if ws = [] then setJob s (beginCompute (now s) j)
        else
          let out := ws.any (fun w => !isHandle w.1.addr &&
            !inWindows (windowsOf (cfgOf s j.gen) j.slice) false w.1.addr w.1.len)
          if out then failStep (countWindow s j.slice) j { status := stWindow }
          else
            let j := takeHandles ws { j with asked := j.asked ++ all.map (·.1.range) }
            match hostReads j ws with
            | [] => fetchFuel f (setJob s j) id
            | ts => request (setJob s j) ts

/-- Reads on for a job. -/
def fetchOperands (s : State) (id : Nat) : State := fetchFuel 6 s id

/-- Whether operand reads of a job are under way. -/
def operandsPending (s : State) (id : Nat) : Bool :=
  hasTxn s (fun p => match p with
    | .operand i _ _ => i == id
    | _ => false)

/-- A job is reading its operands. -/
def isFetching (s : State) (id : Nat) : Bool := (jobOf s id).any (fun j => j.phase == .fetching)

/-- Operand data arrives; once no read of the job is outstanding the core works on. -/
def takeOperand (s : State) (id : Nat) (r : Range) (off : Nat) (data : Bytes) : State :=
  if !isFetching s id then s
  else
    let s := updJob s id (fun j => { j with data := j.data ++ [{ range := r, offset := off, data := data }] })
    if operandsPending s id then s else fetchOperands s id

/-- An operand read ends badly: the step fails once its other reads have ended. -/
def badOperand (s : State) (id : Nat) (e : Ending) : State :=
  if !isFetching s id then s
  else
    let s := updJob s id (fun j => { j with bad := match j.bad with
      | some b => some b
      | none => some e })
    if operandsPending s id then s else fetchOperands s id

/-- Operand reads of a job whose data is no longer wanted: unissued ones go, the others' data is discarded when it comes. -/
def sinkOperands (s : State) (id : Nat) : State :=
  let mine := fun (p : Purpose) => match p with
    | .operand i _ _ => i == id
    | _ => false
  let s := dropUnissued s mine
  { s with fabric := { s.fabric with
    txns := s.fabric.txns.map (fun t => if mine t.purpose then { t with sunk := true } else t) } }

end Sys2Proof.Machine
end

