-- ==== Sys2Proof/Machine/Queue.lean ====
section
/-! DEFINITION. Work that waits for a part: which kinds it waits for, its class, its virtual time, and how a step becomes
dispatchable (R162, R163). -/
namespace Sys2Proof.Machine

/-- FENCE the opcode behaves as NOP with BARRIER and FENCE set (R118). -/
def hasBarrier (d : Desc) : Bool := flagBarrier d || d.opcode == 0x0F01
def hasFence (d : Desc) : Bool := flagFence d || d.opcode == 0x0F01

/-- Class P: work of cadenced rings (R163). -/
def isClassP (s : State) (j : Job) : Bool := (ringOf s j.ring).ctx.periodUs != 0

/-- The step is the core's own work on the key store (R162, R389): what it takes beside the key store is held by the core. -/
def ownWork (j : Job) : Bool := family (stepDesc j).opcode == 0x08

/-- Further parts that a dispatched step still lacks (R289, R308, R310). -/
def missingMore (s : State) (j : Job) : List Engine :=
  let d := stepDesc j
  j.more.foldl (fun l p => l.erase p.1) (engineMore s d (stepKey s j))

/-- The kind that a job waits for: its own in phase ready, a further one once dispatched, for the core's own work and for the
hash lanes that a lattice unit directs once its operands are there (R253, R308). -/
def waitsFor (s : State) (j : Job) : Option Engine :=
  match j.phase with
  | .ready => engineOf s j.slice (stepDesc j) (stepKey s j)
  | .fetching => if ownWork j || isSlh (stepDesc j).opcode then none else (missingMore s j).head?
  | .operands => (missingMore s j).head?
  | _ => none

/-- A write for a submission is under way. -/
def writesPending (s : State) (id : Nat) : Bool :=
  hasTxn s (fun p => match p with
    | .stamp i _ | .result i | .body i | .head i => i == id
    | _ => false)

/-- Whether a step with FENCE may issue its reads: the results of all earlier submissions of the ring are written, and every write
issued for them has its response (R117, R141, R143). -/
def fencePassed (s : State) (j : Job) : Bool :=
  !hasFence (stepDesc j) || !s.jobs.any (fun q => q.ring == j.ring && decide (q.id < j.id) && (writesPending s q.id ||
    match q.phase with
    | .ended | .phaseRead | .bodyWrite | .headWrite => false
    | _ => true))

/-- The job can be dispatched to a part of a kind now. -/
def dispatchable (s : State) (k : Engine) (j : Job) : Bool :=
  waitsFor s j == some k && !j.bufDue && j.abort.isNone && fencePassed s j

/-- Kinds dispatched by weight (R162). -/
def weighted : Engine → Bool
  | .pepper | .saffron | .hash | .bignum | .lattice | .stateful => true
  | .keyStore | .entropy => false

def vtKey (k : Engine) (sl : Nat) : Nat := engCode k * 256 + sl
def vtOf (s : State) (k : Engine) (sl : Nat) : Nat := look s.sched.vt (vtKey k sl) 0
def setVt (s : State) (k : Engine) (sl v : Nat) : State := { s with sched := { s.sched with vt := put s.sched.vt (vtKey k sl) v } }

/-- Slices that have had dispatchable work of a kind noted: jobs, and trees to be built on hash lanes (R314). -/
def slicesWaiting (s : State) (k : Engine) : List Nat :=
  ((s.jobs.filter (fun j => j.noted && !ownWork j && dispatchable s k j)).map (·.slice) ++
    (if k = .hash then (s.res.builds.filter (·.lane.isNone)).map (·.slice) else [])).eraseDups

/-- A slice gains dispatchable work of a kind: after having none, its virtual time is raised to the least of the slices
that have some (R163). -/
def raiseVt (s : State) (sl : Nat) (k : Engine) : State :=
  let xs := slicesWaiting s k
  if xs.contains sl then s
  else match xs.map (vtOf s k) with
    | [] => s
    | v :: vs => setVt s k sl (max (vtOf s k sl) (vs.foldl min v))

/-- Notes that a job's step has turned dispatchable. -/
def gainWork (s : State) (id : Nat) : State :=
  match jobOf s id with
  | none => s
  | some j =>
    match waitsFor s j with
    | none => s
    | some k =>
      if j.noted || ownWork j || !dispatchable s k j then s
      else setJob (raiseVt s j.slice k) { j with noted := true }

/-! ## Trees of stateful keys in the background (R314) -/

/-- A batch stores a tree already. -/
def treeCarried (s : State) (h l : Nat) : Bool :=
  let on := fun (b : Option Batch) => match b with
    | some x => x.trees.contains (h, l)
    | none => false
  on s.store.gathering || on s.store.committing

/-- The tree that is to be built in a layer: the next one, or the current one that was skipped into. -/
def buildTree (x : HbsState) (l : Nat) : Nat := max (x.built.getD l 0) (treeOf (hbsHeight x.param) l x.next)
/-- The tree above it is built, so that its root can be signed. -/
def parentBuilt (x : HbsState) (l : Nat) : Bool :=
  decide (buildTree x l / 2 ^ hbsHeight x.param < x.built.getD (l + 1) 0)
/-- Trees that have turned dispatchable. -/
def treesReady (s : State) : List TreeBuild :=
  s.res.hbs.flatMap (fun e => (e.2.building.filter (fun l =>
    parentBuilt e.2 l && !treeCarried s e.1 l && !s.res.builds.any (fun b => b.handle == e.1 && b.layer == l))).map
      (fun l => { handle := e.1, layer := l, slice := e.2.owner }))
def setBuilds (s : State) (bs : List TreeBuild) : State := { s with res := { s.res with builds := bs } }
def noteTree (s : State) (b : TreeBuild) : State :=
  let s := raiseVt s b.slice .hash
  setBuilds s (s.res.builds ++ [b])
/-- A lane stops building its tree, which waits for another. -/
def abandonBuild (s : State) (n : Nat) : State :=
  setBuilds s (s.res.builds.map (fun b => if b.lane = some n then { b with lane := none } else b))
/-- A lane that built a tree is free again. -/
def freeBuildLane (s : State) (n : Nat) : State := updPart s .hash n (fun p => { p with own := false })
/-- Every lane that builds a tree is erased (R223, R237). -/
def haltBuilds (s : State) : State :=
  (s.res.builds.filterMap (·.lane)).foldl (fun s n => abandonBuild (freeBuildLane s n) n) s
/-- Nothing is built any more for a key. -/
def dropBuilds (s : State) (h : Nat) : State :=
  let s := ((s.res.builds.filter (·.handle == h)).filterMap (·.lane)).foldl freeBuildLane s
  setBuilds s (s.res.builds.filter (·.handle != h))

/-- Notes whatever has turned dispatchable since the last look: a FENCE passed, a part missing, a tree to build (R163). -/
def noteWork (s : State) : State :=
  let s := (s.jobs.map (·.id)).foldl gainWork s
  (treesReady s).foldl noteTree s

/-- Puts a job's step among the work that waits for a part. -/
def makeReady (s : State) (j : Job) : State := gainWork (setJob s { j with phase := .ready, noted := false }) j.id

end Sys2Proof.Machine
end

