-- ==== Sys2Proof/Machine/StoreOps.lean ====
section
/-! DEFINITION. The Bagrim store: objects and addresses, seals, the tree walk, requests to the host and batches
(R447 to R466). -/
namespace Sys2Proof.Machine

/-! ## Addresses and entries (R447, R448, R453) -/

/-- OBJ of level l, index j. -/
def objOf (l j : Nat) : Nat := l * 2 ^ 33 + j
def objLevel (o : Nat) : Nat := o / 2 ^ 33
def objIndex (o : Nat) : Nat := o % 2 ^ 33
/-- First physical block number of a level's nodes, in pairs. -/
def levelBase (l : Nat) : Nat :=
  match l with
  | 1 => 0
  | 2 => 0x4000000
  | 3 => 0x4080000
  | 4 => 0x4081000
  | _ => 0x4081020
/-- PHYS of an object's slot. -/
def physOf (o slot : Nat) : Nat :=
  if objLevel o = 0 then 2 * objIndex o + slot else 2 ^ 34 + 2 * (levelBase (objLevel o) + objIndex o) + slot
/-- The node above an object, and the object's place in it. -/
def parentOf (o : Nat) : Nat × Nat := (objOf (objLevel o + 1) (objIndex o / 128), objIndex o % 128)
/-- The 32 bytes of an entry. -/
def entryBytes (e : Entry) : Bytes :=
  if e.present then leBytes 8 e.version ++ leBytes 1 (e.slot % 2 + 2) ++ zeros 7 ++ fit 16 e.tag else zeros 32
def entryFrom (b : Bytes) : Entry :=
  { version := field b 0 8, slot := b2n (bit (field b 8 1) 0), present := bit (field b 8 1) 1, tag := subBytes b 0x10 16 }
/-- A node's 4,096 bytes, and back; absent entries are not listed. -/
def nodeBytes (t : Tbl Entry) : Bytes := (List.range 128).flatMap (fun i => entryBytes (look t i {}))
def nodeFrom (b : Bytes) : Tbl Entry :=
  (List.range 128).filterMap (fun i => let e := entryFrom (subBytes b (32 * i) 32); if e.present then some (i, e) else none)

/-! ## Seals (R454) -/

def storeKey (s : State) : Bytes := match s.keys.smk with
  | some (_, k) => k
  | none => []
def sealIv (o v : Nat) : Bytes := leBytes 12 (o + 2 ^ 36 * v)
def sealAad (o v : Nat) : Bytes := leBytes 8 o ++ leBytes 8 v
/-- Sealed content and tag. -/
def sealObject (s : State) (o v : Nat) (b : Bytes) : Bytes × Bytes := gcmEnc (storeKey s) (sealIv o v) (sealAad o v) b
/-- Content of a sealed block whose tag matches its entry. -/
def openObject (s : State) (o : Nat) (e : Entry) (c : Bytes) : Option Bytes :=
  let iv := sealIv o e.version
  if gcmTag (storeKey s) iv (sealAad o e.version) c = e.tag then some (gcmCtr (storeKey s) iv c) else none

/-! ## Requests (R458 to R460) -/

/-- Store work can be started: attached, the store master keys are there, and Saffron lanes can seal (R465, R546). -/
def storeUp (s : State) : Bool :=
  s.store.attach.isSome && !s.keys.sealMismatch && s.keys.smk.isSome && !kindGone s .saffron

/-- Requests that hold a buffer. -/
def bufferUse (s : State) : Nat := s.store.outstanding.countP (fun r => r.op != .trim)
/-- Whether a request's blocks meet those of an outstanding one. -/
def storeMeets (s : State) (r : StoreReq) : Bool :=
  s.store.outstanding.any (fun x => overlaps x.phys x.count r.phys r.count)
/-- A buffer that no request uses. -/
def freeBuffer (s : State) (a : Attach) : Nat :=
  ((List.range a.bufCount).find? (fun i => !s.store.outstanding.any (fun x => x.op != .trim && x.buf == a.bufBase + 4096 * i))
    ).getD 0

/-- Bytes 8 onward of a request, and its HEAD. -/
def requestBody (r : StoreReq) : Bytes :=
  leBytes 1 (match r.op with | .read => 1 | .write => 2 | .trim => 3) ++ zeros 7 ++ leBytes 8 r.phys ++
    leBytes 8 (if r.op = .trim then 0 else r.buf) ++ leBytes 4 r.count ++ zeros 28
def requestHead (a : Attach) (r : StoreReq) : Nat :=
  r.rid % 2 ^ 48 + 2 ^ 63 * b2n ((r.rid / 2 ^ a.rqLog2) % 2 == 0)
def requestAddr (a : Attach) (r : StoreReq) : Nat := a.rqBase + 64 * (r.rid % 2 ^ a.rqLog2)

/-- Whether a request can be issued now. -/
def storeRoom (s : State) (a : Attach) (r : StoreReq) : Bool :=
  decide (s.store.outstanding.length < 2 ^ a.rqLog2) && (r.op == .trim || decide (bufferUse s < a.bufCount)) &&
    !storeMeets s r

/-- Issues one request: a WRITE's buffer first, then the body. -/
def storeIssue (s : State) (a : Attach) (r : StoreReq) : State :=
  let r := { r with rid := s.store.nextRid, buf := if r.op = .trim then 0 else freeBuffer s a, issuedAt := now s }
  let s := { s with store := { s.store with nextRid := r.rid + 1, outstanding := s.store.outstanding ++ [r] } }
  if r.op = .write then request s (writeTxns 0 r.buf r.data 0 (.storeBuffer r.rid))
  else request s (writeTxns 0 (requestAddr a r + 8) (requestBody r) 0 (.storeBody r.rid))

/-- Issues what fits, in order; what does not keeps its place. -/
def storePumpList (a : Attach) : List StoreReq → State → State
  | [], s => s
  | r :: rest, s =>
    if storeRoom s a r then storePumpList a rest (storeIssue s a r)
    else storePumpList a rest { s with store := { s.store with unissued := s.store.unissued ++ [r] } }
def storePump (s : State) : State :=
  match s.store.attach with
  | some a => if storeUp s then storePumpList a s.store.unissued { s with store := { s.store with unissued := [] } } else s
  | none => s

/-- Blocks that are to be sealed before their WRITEs go out, or opened (R204, R454). -/
def sealWant (s : State) (ts : List SealTask) : State := { s with store := { s.store with sealing := s.store.sealing ++ ts } }
/-- Seals that are no longer wanted: the waiting ones go, the running ones come to nothing. -/
def dropSeals (s : State) (f : SealTask → Bool) : State :=
  { s with store := { s.store with sealing :=
    (s.store.sealing.filter (fun t => !f t || t.lane.isSome)).map (fun t => if f t then { t with dropped := true } else t) } }
/-- A lane's seal is abandoned: it waits for another lane, unless it is no longer wanted. -/
def abandonSeal (s : State) (n : Nat) : State :=
  { s with store := { s.store with sealing :=
    (s.store.sealing.filter (fun t => !(t.dropped && t.lane == some n))).map (fun t => if t.lane = some n then { t with lane := none } else t) } }
/-- Every lane at work on a seal is erased (R223). -/
def haltSeals (s : State) : State :=
  (s.store.sealing.filterMap (·.lane)).foldl (fun s n => abandonSeal (updPart s .saffron n (fun p => { p with own := false })) n) s

/-- Wants requests made. -/
def storeWant (s : State) (rs : List StoreReq) : State :=
  storePump { s with store := { s.store with unissued := s.store.unissued ++ rs } }

/-- Writes the request producer index and the response consumer index, for a request (R458, R459). -/
def storeIndices (s : State) (rid : Nat) : State :=
  match s.store.attach with
  | some a => request s (writeTxns 0 a.coreIdx (leBytes 4 s.store.nextRid ++ leBytes 4 s.store.respCons.toNat) 0 (.storeIndex rid))
  | none => s

/-- Sends the store interrupt message, or defers it within its 10 us window (R458). -/
def storeMessage (s : State) : State :=
  match s.store.attach with
  | none => s
  | some a =>
    if a.vector = 0xFFFF then s
    else match s.store.lastMsg with
      | some t =>
        if now s < t + us 10 then { s with store := { s.store with msgDeferred := true } }
        else notifyManager { s with store := { s.store with lastMsg := some (now s), msgDeferred := false } } a.vector
      | none => notifyManager { s with store := { s.store with lastMsg := some (now s), msgDeferred := false } } a.vector

/-! ## The tree (R453, R456) -/

/-- What a read of an object needs. -/
inductive Need where
  | content (b : Bytes)
  | load (obj : Nat) (e : Entry)
  | failed (sub : Nat)
  deriving DecidableEq, Repr

/-- Walks from an entry down to an object through the nodes of the committed tree; `path` lists the nodes still to pass, the
root first. -/
def walk (s : State) (e : Entry) : List Nat → Nat → Need
  | [], o =>
    if !e.present then .content (zeros 4096)
    else match look? s.store.objects (objIndex o) with
      | some b => .content b
      | none => match look? s.store.failed o with
        | some n => .failed n
        | none => .load o e
  | n :: rest, o =>
    if !e.present then .content (zeros 4096)
    else match look? s.store.nodes n with
      | some t =>
        let child := rest.headD o
        walk s (look t (objIndex child % 128) {}) rest o
      | none => match look? s.store.failed n with
        | some x => .failed x
        | none => .load n e

/-- The nodes above a data object, the root first. -/
def pathOf (i : Nat) : List Nat :=
  [objOf 5 0, objOf 4 (i / 128 ^ 4), objOf 3 (i / 128 ^ 3), objOf 2 (i / 128 ^ 2), objOf 1 (i / 128)]

/-- The content of a data object as the core's work sees it: the open batch's, the committing batch's, the committed
(R464). -/
def storeSees (s : State) (i : Nat) : Need :=
  match s.store.gathering.bind (fun b => look? b.changes i) with
  | some b => .content b
  | none => match s.store.committing.bind (fun b => look? b.changes i) with
    | some b => .content b
    | none => walk s s.store.root (pathOf i) (objOf 0 i)

/-- A read of a data object: its content, a failure (which this use takes), or its next READ under way. -/
inductive Got where
  | have (b : Bytes)
  | fail (sub : Nat)
  | wait
  deriving DecidableEq, Repr

/-- Reads an object through its entry, unless a READ for it is under way. -/
def loadObject (s : State) (o : Nat) (e : Entry) : Got × State :=
  let asked := fun (r : StoreReq) => r.op == .read && r.obj == o
  if s.store.outstanding.any (fun r => asked r && r.timedOut) then (.fail 0x0501, s)
  else if s.store.outstanding.any asked || s.store.unissued.any asked || s.store.sealing.any (fun t => asked t.req && !t.dropped) then
    (.wait, s)
  else (.wait, storeWant { s with store := { s.store with misses := s.store.misses + b2n (decide (objLevel o > 0)) } }
    [{ op := .read, phys := physOf o e.slot, obj := o }])

/-- The nodes of a path that the cache holds become the most recently used (R456). -/
def touchPath (s : State) (i : Nat) : State :=
  let held := (pathOf i).filter s.store.nodeLru.contains
  { s with store := { s.store with nodeLru := s.store.nodeLru.filter (fun n => !held.contains n) ++ held } }

def storeRead (s : State) (i : Nat) : Got × State :=
  let s := touchPath s i
  if !storeUp s then (.fail 0x0502, s)
  else match storeSees s i with
    | .content b => (.have b, s)
    | .failed n => (.fail n, { s with store := { s.store with failed := [] } })
    | .load o e => loadObject s o e

/-- Loads the nodes above a data object, which a batch that changes it needs (R456). -/
def loadPath (s : State) (i : Nat) : Got × State :=
  let s := touchPath s i
  match walk s s.store.root (pathOf i) (objOf 0 i) with
  | .content b => (.have b, s)
  | .failed n => if n = 0x0510 then (.have [], s) else (.fail n, { s with store := { s.store with failed := [] } })
  | .load o e => if objLevel o = 0 then (.have [], s) else loadObject s o e

/-- The entry that names an object in the committed tree. -/
def entryOf (s : State) (o : Nat) : Entry :=
  if objLevel o = 5 then s.store.root
  else match look? s.store.nodes (parentOf o).1 with
    | some t => look t (parentOf o).2 {}
    | none => {}

/-- A node that the cache may not evict: the root, level 4, and those on the path of a change (R456). -/
def nodePinned (s : State) (o : Nat) : Bool :=
  let on := fun (b : Option Batch) => match b with
    | some x => x.changes.any (fun c => (pathOf c.1).contains o)
    | none => false
  decide (4 ≤ objLevel o) || on s.store.gathering || on s.store.committing

/-- Caches a verified node, evicting the least recently used that may go beyond 2,048. -/
def cacheNode (s : State) (o : Nat) (t : Tbl Entry) : State :=
  let st := s.store
  let s := { s with store := { st with nodes := put st.nodes o t, nodeLru := st.nodeLru.filter (· != o) ++ [o] } }
  if s.store.nodes.length ≤ 2048 then s
  else match s.store.nodeLru.find? (fun n => !nodePinned s n) with
    | some n => { s with store := { s.store with nodes := del s.store.nodes n, nodeLru := s.store.nodeLru.filter (· != n) } }
    | none => s

/-- Keeps an opened data object, 256 at most (the 1 MiB reserve). -/
def cacheObject (s : State) (i : Nat) (b : Bytes) : State :=
  let os := if s.store.objects.length < 256 then s.store.objects else s.store.objects.drop 1
  { s with store := { s.store with objects := put os i b } }

/-! ## Batches (R328, R462 to R464) -/

/-- The block version space is used up (R454). -/
def versionsGone (s : State) : Bool := decide (ledgerEpoch s > 2 ^ 20 - 1) || decide (s.store.batchNo + 1 > 2 ^ 40 - 1)

/-- Nodes that a set of changed data objects changes. -/
def changedNodes (is : List Nat) : List Nat := ((is.flatMap pathOf).eraseDups)

/-- Room in the open batch for one more changed object (R456). -/
def batchRoom (s : State) (i : Nat) : Bool :=
  match s.store.gathering with
  | some b => decide ((changedNodes (i :: b.changes.map (·.1))).length ≤ 960)
  | none => true

/-- Changes the open batch, opening it if there is none. -/
def openBatch (s : State) (f : Batch → Batch) : State :=
  let b := match s.store.gathering with
    | some b => b
    | none => { firstAt := now s }
  { s with store := { s.store with gathering := some (f b) } }

/-- Adds one request to the open batch. -/
def joinBatch (s : State) (f : Batch → Batch) : State := openBatch s (fun b => f { b with requests := b.requests + 1 })

/-- A changed object of the open batch. -/
def changeObject (s : State) (i : Nat) (content : Bytes) : State :=
  openBatch s (fun b => { b with changes := put b.changes i (fit 4096 content) })

/-- The tree work of one level of a batch: each object of the level is sealed into the slot that no entry names, its WRITE
is queued, and its entry goes into its parent. The accumulator holds nodes, root entry, writes and freed blocks. -/
structure SealAcc where
  nodes : Tbl (Tbl Entry) := []
  root : Entry := {}
  writes : List StoreReq := []
  freed : List Nat := []
  deriving DecidableEq, Repr

def sealOne (s : State) (ver : Nat) (a : SealAcc) (oc : Nat × Bytes) : SealAcc :=
  let o := oc.1
  let old := entryOf s o
  let slot := 1 - old.slot
  let (c, tag) := sealObject s o ver oc.2
  let e : Entry := { version := ver, slot := slot, present := true, tag := tag }
  let w : StoreReq := { op := .write, phys := physOf o slot, obj := o, data := c }
  let a : SealAcc := { a with writes := a.writes ++ [w], freed := a.freed ++ [physOf o old.slot] }
  if objLevel o = 5 then { a with root := e }
  else
    let p := (parentOf o).1
    let t := match look? a.nodes p with
      | some t => t
      | none => look s.store.nodes p []
    { a with nodes := put a.nodes p (put t (parentOf o).2 e) }

/-- Seals the nodes of a level that have a changed child. -/
def sealLevel (s : State) (ver : Nat) (a : SealAcc) (l : Nat) : SealAcc :=
  ((a.nodes.filter (fun n => objLevel n.1 == l)).map (fun n => (n.1, nodeBytes n.2))).foldl (sealOne s ver) a

/-- Seals a batch, children before parents; each WRITE goes out once a Saffron lane has sealed it. -/
def startBatch (s : State) (b : Batch) : State :=
  let n := s.store.batchNo + 1
  let ver := ledgerEpoch s * 2 ^ 40 + n
  let a0 : SealAcc := { root := s.store.root }
  let a := (b.changes.map (fun c => (objOf 0 c.1, c.2))).foldl (sealOne s ver) a0
  let a := [1, 2, 3, 4, 5].foldl (sealLevel s ver) a
  let b := { b with nodes := a.nodes, root := a.root, writes := a.writes.map (·.obj), oldPhys := a.freed }
  sealWant { s with store := { s.store with batchNo := n, gathering := none, committing := some b } } (a.writes.map (fun w => { req := w }))

/-- A job that waits for the store ends at once (R12, R465). -/
def storeEnding (sub : Nat) : Ending :=
  { status := if sub ≥ 0x0510 then stStoreIntegrity else stStoreUnavailable, sub := sub }

/-- A reservation of an aborted batch is lost (R463). -/
def clearReserving (s : State) (r : Nat × Nat × Nat) : State :=
  { s with res := { s.res with
    ordinals := s.res.ordinals.map (fun e => if e.handle = r.1 ∧ e.target = r.2.1 then { e with reserving := false } else e)
    hbs := s.res.hbs.map (fun e => if e.1 = r.1 ∧ r.2.1 = 0 then (e.1, { e.2 with reserving := false }) else e) } }

end Sys2Proof.Machine
end

