-- ==== Sys2Proof/Machine/Alarm.lean ====
section
/-! DEFINITION. What stops work: slice faults, the alarm classes, Mace, SAFE, and how they end or re-run jobs
(R32, R95 to R103, R223, R258, R345 to R350, R533 to R537, R541 to R552). -/
namespace Sys2Proof.Machine

/-! ## The measurement digest port (R245, R249) -/

/-- Clears the port as misuse does: IDLE, no owner, count and result zero, HMAC states wiped. -/
def clearPort (m : Mdp) : Mdp :=
  { m with st := .idle, owner := 0, path := .regPort, extend := false, message := [], hmacKey := [], count := 0,
           result := [], alg := 0, why := .block, prior := none }

/-! ## Entropy state (R342, R346) -/

/-- Changes the entropy state, with STATE_CHANGED, vector 7 and the counts of unavailability (R346, R361). -/
def setEntropy (s : State) (x : EntSt) : State :=
  if s.ent.st = x then s
  else
    let bad := fun (y : EntSt) => y == .unavailable || y == .failed
    let e := s.ent
    let e := { e with st := x, stateChanged := true }
    let e := if bad x ∧ !bad s.ent.st then { e with unavailSince := some (now s) } else e
    let e := if bad x then { e with unavailCount := satInc 32 e.unavailCount } else e
    let e := if !bad x ∧ bad s.ent.st then
        { e with unavailTime := e.unavailTime + (now s - e.unavailSince.getD (now s)), unavailSince := none }
      else e
    let e := if x = .available then e else { e with mustReseed := true }
    notifyManager { s with ent := e } 7

/-- The state that the sources give (R346); STARTING lasts until the internal instance is first instantiated, so before a start
tests its sources too, and after a Class B alarm the state stays UNAVAILABLE until it is instantiated again (R350). -/
def entropyTarget (s : State) : EntSt :=
  let h := healthySources s
  let t := countSources s (fun x => x == .healthy || x == .testing)
  if s.ent.st = .failed then .failed
  else if s.pwr.main = .precondition then .starting
  else if t < s.ent.minSources then .failed
  else if s.ent.st = .starting then .starting
  else if s.ent.restarting ∨ h < s.ent.minSources then .unavailable
  else .available

/-- Below ENT_MIN_SOURCES healthy sources the conditioner discards its blocks (R342). -/
def conditionerCheck (s : State) : State :=
  if healthySources s < s.ent.minSources then dropBlocks s else s

/-! ## Ending and re-running jobs -/

/-- A lane kind (R167, R223). -/
def isLane : Engine → Bool
  | .pepper | .saffron | .hash => true
  | .bignum | .lattice | .stateful | .keyStore | .entropy => false

/-- A job holds a lane for its step. -/
def onLane (j : Job) : Bool :=
  match j.part with
  | some (k, _) => isLane k
  | none => false

/-- Drops a fetched, unaccepted submission with its reservations (R96 step 1). -/
def dropWaiting (s : State) (j : Job) : State := returnBuffer (dropJob s j.id) j.ring j.buf

/-- The jobs that a queue entry announces something of. -/
def effectJobs : Effect → List Nat
  | .createKey j | .applyKum j | .endJob j => [j]
  | .raised js => js
  | _ => []

/-- A queue entry without what it holds of a job: a record of several raises loses the job's move (R420). -/
def withoutJob (id : Nat) (q : LRec × Effect) : Option (LRec × Effect) :=
  match q.2, q.1.payload with
  | .raised js, .counter ms =>
    let keep := (js.zip ms).filter (fun x => x.1 != id)
    if keep = [] then none
    else some ({ q.1 with payload := .counter (keep.map (·.2)) }, .raised (keep.map (·.1)))
  | e, _ => if effectJobs e = [id] then none else some q

/-- Withdraws a job's uncommitted ledger work: its queued records go, an open intent is rolled back (R29, R429). -/
def ledgerAbort (s : State) (j : Job) : State :=
  let s := { s with per := { s.per with queue := s.per.queue.filterMap (withoutJob j.id) } }
  match j.opid with
  | some o => enqueue s (.rollback o) .nothing
  | none => s

/-- Whether the record at the head of the ledger's queue is this job's own: the engine finishes it (R418). -/
def ledgerBusyWith (s : State) (id : Nat) : Bool :=
  match s.per.queue with
  | (_, e) :: _ => (effectJobs e).contains id
  | [] => false

/-- Whether a job is a KUM whose effect is being applied under its intent (R402). -/
def kumApplying (s : State) (j : Job) : Bool := s.keys.kumJob == some j.id && j.phase == .committing

/-- Stops one job of a slice under a slice fault or slice reset (R96 step 4, R100, R101, R551); a random job whose results are being
written ends so under a reset (R359). -/
def stopJob (e : Ending) (s : State) (id : Nat) : State :=
  match jobOf s id with
  | none => s
  | some j =>
    match j.phase with
    | .waiting => if j.recovered then endWith s j e else dropWaiting s j
    | .recheck => endWith s j e
    | .stamping => if j.decided then s else setJob s { j with decided := true, ending := e }
    | .ready | .finished => endWith s j e
    | .fetching | .operands | .computed => if onLane j then setJob s { j with abort := some e } else endWith s j e
    | .committing =>
      if ledgerBusyWith s id ∨ kumApplying s j then s else endWith (ledgerAbort s j) j e
    | .writing =>
      if j.step + 1 < j.descs.length ∨ (e.status = stAbortReset ∧ family (stepDesc j).opcode = 0x07) then
        setJob s { j with abort := some e }
      else s
    | .ended | .phaseRead | .bodyWrite | .headWrite => s

/-- Stops one job at a Class A alarm (R32): whatever has no completion being written ends with ABORTED_ALARM. -/
def alarmJob (s : State) (id : Nat) : State :=
  let e : Ending := { status := stAbortAlarm }
  match jobOf s id with
  | none => s
  | some j =>
    match j.phase with
    | .waiting => if j.recovered then endWith s j e else dropWaiting s j
    | .recheck => endWith s j e
    | .stamping => setJob s { j with decided := true, ending := e }
    | .ready | .finished | .fetching | .operands | .computed | .committing => endWith s j e
    | .writing => setJob s { j with abort := some e }
    | .ended | .phaseRead => setJob s { j with ending := e, chainFail := false, result := 0, resultLen := j.written }
    | .bodyWrite | .headWrite => s

/-- Source data of the segments already done, and what was read once for the whole step. -/
def keepsChunk (j : Job) (c : Chunk) : Bool :=
  j.segDone != 0 && (c.range != .src || decide (c.offset < segStart j (stepEff j)))

/-- Runs the current step again from its sources, a lane's step from the context saved at its segment's start (R28, R203,
R223, R256, R258). -/
def rerunJob (s : State) (j : Job) : State :=
  makeReady (freeParts (sinkOperands s j.id) j)
    { j with retried := true, data := j.data.filter (keepsChunk j), out := [], part := none, more := [], bad := none, loaded := none,
             asked := if j.segDone = 0 then [] else j.asked.filter (· != .src), t1 := {}, t2 := {}, after := .nothing,
             newKey := none }

/-- What a Class B alarm does to a job on a part: under a volatile key it ends with KEY_ABSENT, else it runs again
(R223, R258). A job whose results are being written goes on, but a random one ends with ENTROPY_UNAVAILABLE (R359). -/
def alarmBJob (s : State) (id : Nat) : State :=
  match jobOf s id with
  | none => s
  | some j =>
    match j.phase with
    | .fetching | .operands | .computed | .finished =>
      if j.part = none then s
      else if isVolatile (stepDesc j).key then failStep s j { status := stKeyAbsent }
      else rerunJob s j
    | .writing => if family (stepDesc j).opcode = 0x07 then setJob s { j with abort := some { status := stEntropy } } else s
    | _ => s

/-- The leases of the parts on which jobs of a slice work are taken back (R96 step 2, R550). -/
def revokeSlice (s : State) (sl : Nat) : State :=
  (s.jobs.filter (fun j => j.slice == sl && (j.phase == .fetching || j.phase == .operands || j.phase == .computed ||
    j.phase == .finished))).foldl revokeParts s

/-- A ring of a slice gives up what its fetches reserved (R96 step 1). -/
def quietRing (sl : Nat) (e : Nat × Ring) : Nat × Ring :=
  if e.2.ctx.slice = sl then (e.1, { e.2 with fetching := false, chain := [], reserved := none, poolFail := none, poolCause := 0, poolWait := false }) else e

/-- A job loses the content of its scratch handles. -/
def wipeHandles (j : Job) : Job := { j with handles := [] }

/-- Steps 1 to 4 of R96 with the given aborted status (R96, R100). -/
def stopSlice (s : State) (sl st : Nat) : State :=
  let ids := (s.jobs.filter (fun j => j.slice == sl)).map (·.id)
  let s := (s.rings.filter (fun e => e.2.ctx.slice == sl)).foldl (fun s e => returnBuffer s e.1 e.2.reserved) s
  let s := { s with rings := s.rings.map (quietRing sl) }
  let s := revokeSlice s sl
  let s := wipeDrbg (wipeSliceKeys s sl) sl
  let s := { s with jobs := s.jobs.map (fun j => if j.slice = sl then wipeHandles j else j) }
  let s := dropUnissued s (fun p => match p with
    | .fetch r _ => (ringOf s r).ctx.slice == sl
    | .operand j _ _ => ids.contains j && !((jobOf s j).map onLane).getD false
    | _ => false)
  ids.foldl (stopJob { status := st }) s

/-- A slice fault (R95, R96): steps 1 to 4, and steps 5 and 6 once the completions of step 4 are written. Nothing unless the slice
is ACTIVE with no fault under way, since a fault of a RESETTING or DESTROYING slice is folded into what it is doing and a faulted
slice keeps its first cause (R94, R587). -/
def sliceFault (s : State) (sl cause : Nat) : State :=
  if !sliceServes (sliceOf s sl) then s
  else
    let s := updSlice s sl (fun x => { x with faulting := some cause })
    settleFault (stopSlice s sl stAbortFault) sl

/-! ## Alarms (R533, R534) -/

/-- Records an alarm in TMP_ALARM and its count; B and C write their log record and raise vector 11 at once. -/
def recordAlarm (s : State) (cls cause sl : Nat) : State :=
  let p := s.pwr
  let p := { p with alarmClass := cls, alarmCause := cause, alarmSlice := if cls = 3 then sl else 0 }
  let p := if cls = 1 then { p with countA := satInc 8 p.countA }
    else if cls = 2 then { p with countB := satInc 8 p.countB, alarmFlag := true }
    else { p with countC := satInc 8 p.countC, alarmFlag := true }
  let s := { s with pwr := p }
  if cls = 1 then s
  else notifyManager (writeLog s 0x0005 (if cls = 3 then sl else 0xFFFF) (leBytes 1 cls ++ leBytes 1 cause ++ leBytes 2 sl)) 11

/-- What a cold start loses beside what every start loses (R495): the committed configuration, slices, rings, pools and accepted
work, the caches and the registers that a warm start keeps. -/
def loseVolatile (s : State) : State :=
  { wipeAllKeys s with
    cfg := {}, slices := [], rings := [], pools := [], jobs := [], glb := {}, links := [], irq := {}, res := {}
    fabric := { ports := s.fabric.ports.map (fun e => (e.1, { e.2 with fmax := 1600, fmaxLocked := false, fmaxInForce := 1600 })) } }

/-- The core leaves service for SAFE (R406); only a start ends it. A start that ends in SAFE keeps no accepted work and serves no
ring (R500, R506). -/
def enterSafe (s : State) : State :=
  let s := if inStart s then loseVolatile s else s
  if s.keys.lifecycle = .retired then s else
  { s with pwr := { s.pwr with main := .safe }, keys := { s.keys with lifecycle := .safe } }

/-- Zeroises the root secret, copies and check word (R533). -/
def zeroRoot (s : State) : State := { s with per := { s.per with rootA := zeros 32, rootB := zeros 32, rootCheck := zeros 8 } }

/-- The Class A zeroisation inside the main domain, and the jobs (R32, R533). -/
def classAMain (s : State) : State :=
  let s := wipeAllDrbgs (wipeAllKeys (wipeRegisters (leaveGroup s 2)))
  let s := { s with mdp := { clearPort s.mdp with alarmClear := true } }
  let s := { s with jobs := s.jobs.map wipeHandles }
  let s := haltBuilds (haltSeals s)
  let s := { s with store := { s.store with objects := [], nodes := [], gathering := none, committing := none, sealing := [] } }
  let s := enterSafe { s with keys := { s.keys with journal := none } }
  (s.jobs.map (·.id)).foldl alarmJob s

/-- A Class A alarm (R533): the root at once, the rest when the main domain is up. -/
def classA (s : State) (cause : Nat) : State :=
  let s := recordAlarm (zeroRoot s) 1 cause 0
  let s := { s with pwr := { s.pwr with coldNext := true } }
  if mainOn s then classAMain s else s

/-- The sealing record's entry for this start's measurements, opened (R385). -/
def openSeal (s : State) : Option (Bytes × Bytes) :=
  match s.keys.storeSeal with
  | none => none
  | some k =>
    let open1 := fun (e : SealEntry) =>
      if e.mdigest = s.keys.mdigest ∧ e.wrap ≠ [] then kwUnwrap k e.wrap else none
    match open1 s.keys.sealA with
    | some m => some (m.take 32, m.drop 32)
    | none => (open1 s.keys.sealB).map (fun m => (m.take 32, m.drop 32))

/-- The key store recomputes RK and the derived keys before it serves key work again (R368). -/
def recomputeRegisters (s : State) : State :=
  match rootOf s with
  | some r =>
    let s := loadRegisters s r
    { s with keys := { s.keys with smk := openSeal s } }
  | none => s

/-- Every source that is not OFF or FATAL runs its start-up test again (R350). -/
def retestSources (s : State) : State :=
  (List.range 8).foldl (fun s n =>
    let x := sourceOf s n
    if x.st = .off ∨ x.st = .fatal then s
    else setSource s n { testedSource x with st := .testing, restarts := satInc 8 x.restarts }) s

/-- A Class B alarm (R533): keys, registers and DRBG states go, service continues. -/
def classB (s : State) (cause : Nat) : State :=
  let s := leaveGroup (recordAlarm s 2 cause 0) 2
  let s := recomputeRegisters (wipeAllDrbgs (wipeAllKeys (wipeRegisters s)))
  let s := { s with mdp := { clearPort s.mdp with alarmClear := true } }
  let s := retestSources (dropBlocks { s with ent := { s.ent with restarting := true, katDue := true } })
  let s := setEntropy s (entropyTarget s)
  (s.jobs.map (·.id)).foldl alarmBJob (haltBuilds (haltSeals s))

/-- A Class C alarm of a slice (R533). -/
def classC (s : State) (cause sl : Nat) : State := sliceFault (leaveGroup (recordAlarm s 3 cause sl) 2) sl 6

/-- Recomputes the entropy state; reaching FAILED in service raises a Class B alarm (R346, R347). -/
def refreshEntropy (s : State) : State :=
  let t := entropyTarget s
  let was := s.ent.st
  let s := setEntropy (conditionerCheck s) t
  if t = .failed ∧ was ≠ .failed ∧ serving s then classB s 0x10 else s

end Sys2Proof.Machine
end

