-- ==== Sys2Proof/Machine/Buckets.lean ====
section
/-! DEFINITION. Persistent key records, use counts, and the ordinal table's buckets (R372, R373, R376, R377, R381 to R387,
R450). -/
namespace Sys2Proof.Machine

/-! ## Ordinal buckets (R449, R450) -/

/-- Data index of the ordinal table. -/
def ordBase : Nat := 0x100000000
/-- Home bucket of a pair. -/
def homeBucket (s : State) (h t : Nat) : Nat :=
  leNat (kmac256 (storeKey s) (leBytes 4 h ++ leBytes 8 t) 4 (ascii "PERAND-ORDBKT-V1")) % 2 ^ 28

/-- Entry e of a bucket: handle, target, committed end, block. -/
def bucketEntry (b : Bytes) (e : Nat) : Nat × Nat × Nat × Nat :=
  let x := subBytes b (32 * e) 32
  (field x 0 4, field x 8 8, field x 0x10 8, field x 0x18 4)

/-- A pair's place in the table: bucket index and entry, and the end and block found; `isNew` for an empty entry. -/
structure Place where
  index : Nat
  entry : Nat
  committedEnd : Nat
  block : Nat
  isNew : Bool
  deriving DecidableEq, Repr

/-- Search of the home bucket and the fifteen after it: a place, a failure or a READ under way. -/
inductive FoundPair where
  | at (p : Place)
  | fail (sub : Nat)
  | wait
  deriving DecidableEq, Repr

/-- First entry of a bucket that a condition takes. -/
def findEntry (b : Bytes) (f : Nat × Nat × Nat × Nat → Bool) : Option Nat :=
  (List.range 128).find? (fun e => f (bucketEntry b e))

/-- The pair's entry, else the first empty one; entries are placed first fit, so the search ends at an empty entry. -/
def findPairFuel : Nat → State → Nat → Nat → Nat → FoundPair × State
  | 0, s, _, _, _ => (.fail 0x0505, s)
  | n + 1, s, bucket, h, t =>
    match storeRead s (ordBase + bucket) with
    | (.fail x, s) => (.fail x, s)
    | (.wait, s) => (.wait, s)
    | (.have b, s) =>
      match findEntry b (fun e => e.1 == h && e.2.1 == t) with
      | some e =>
        let x := bucketEntry b e
        (.at ⟨ordBase + bucket, e, x.2.2.1 % 2 ^ 48, x.2.2.2, false⟩, s)
      | none => match findEntry b (fun e => e.1 == 0) with
        | some e => (.at ⟨ordBase + bucket, e, 0, 0, true⟩, s)
        | none => findPairFuel n s ((bucket + 1) % 2 ^ 28) h t

def findPair (s : State) (h t : Nat) : FoundPair × State :=
  if storeUp s then findPairFuel 16 s (homeBucket s h t) h t else (.fail 0x0502, s)

/-- Writes a pair's entry into the open batch. -/
def writePair (s : State) (p : Place) (h sl t e block : Nat) : State :=
  match storeSees s p.index with
  | .content b =>
    changeObject s p.index
      (overlay b (32 * p.entry) (leBytes 4 h ++ leBytes 2 sl ++ zeros 2 ++ leBytes 8 t ++ leBytes 8 e ++ leBytes 4 block ++ zeros 4))
  | _ => s

/-! ## Key records (R383, R384) -/

/-- The header of a record, USE_COUNT taken as given. -/
def recordHeader (r : KeyRec) (useCount : Nat) : Bytes :=
  leBytes 4 r.handle ++ leBytes 1 r.alg ++ leBytes 1 r.use ++ leBytes 1 r.flags ++ [0] ++ leBytes 2 r.owner ++
    leBytes 2 r.matLen ++ leBytes 4 r.param ++ leBytes 8 r.useLimit ++ leBytes 8 useCount ++ leBytes 8 r.generation ++
    leBytes 4 r.block ++ zeros 4

/-- A record as the store holds it, and back. -/
def recordBytes (r : KeyRec) (useCount : Nat) : Bytes := fit 4096 (recordHeader r useCount ++ fit 16 r.gcmTag ++ r.sealed)
def recordFrom (b : Bytes) : KeyRec :=
  { handle := field b 0 4, alg := field b 4 1, use := field b 5 1, flags := field b 6 1, owner := field b 8 2
    matLen := field b 0x0A 2, param := field b 0x0C 4, useLimit := field b 0x10 8, generation := field b 0x20 8
    block := field b 0x28 4, gcmTag := subBytes b 0x30 16, sealed := subBytes b 0x40 (field b 0x0A 2) }

def recordIv (r : KeyRec) : Bytes := leBytes 4 r.handle ++ leBytes 8 r.generation

/-- A record with its material sealed under SMK0. -/
def sealRecord (smk0 : Bytes) (r : KeyRec) (m : Bytes) : KeyRec :=
  let (c, t) := gcmEnc smk0 (recordIv r) (recordHeader r 0) m
  { r with gcmTag := t, sealed := c, matLen := m.length }

/-- The material of a record whose tag matches. -/
def openRecord (smk0 : Bytes) (r : KeyRec) : Option Bytes :=
  if gcmTag smk0 (recordIv r) (recordHeader r 0) r.sealed = r.gcmTag then some (gcmCtr smk0 (recordIv r) r.sealed) else none

/-- A record as a header with BAD and zero material (R387). -/
def badRecord (r : KeyRec) : KeyRec := { r with flags := r.flags ||| 16, sealed := zeros r.matLen, gcmTag := zeros 16 }

/-- What looking for a key gives. -/
inductive KeyFind where
  | have (k : Key)
  | fail (e : Ending)
  | wait
  deriving DecidableEq, Repr

def keyAbsent : KeyFind := .fail { status := stKeyAbsent }
def keyBadEnd : Ending := { status := stKeyIntegrity, sub := 0x0331 }

/-- A record found damaged is rewritten as BAD, and the event logged (R387). -/
def markRecordBad (s : State) (r : KeyRec) : State :=
  let s := if isMramHandle r.handle then { s with keys := { s.keys with records := put s.keys.records r.handle (badRecord r) } }
    else changeObject s r.handle (recordBytes (badRecord r) 0)
  writeLog s 0x0004 r.owner (leBytes 4 r.handle)

/-- Loads a record's key into the cache: quota, a run, the material (R377, R384). -/
def cacheRecord (s : State) (r : KeyRec) (useCount : Nat) : KeyFind × State :=
  let smk0 := match s.keys.smk with
    | some (k, _) => k
    | none => []
  if bit r.flags 4 then (.fail keyBadEnd, s)
  else match openRecord smk0 r with
    | none => (.fail keyBadEnd, markRecordBad s r)
    | some m =>
      match makeRoom s r.owner (spanOf m.length) with
      | none => (.wait, s)
      | some (n, s) =>
        let k : Key :=
          { handle := r.handle, alg := r.alg, use := r.use, saffronReq := bit r.flags 0, stateful := bit r.flags 1,
            exportable := bit r.flags 2, persistent := true, span := spanOf m.length, owner := r.owner, param := r.param,
            useLimit := r.useLimit, useCount := useCount, useEnd := useCount, generation := r.generation, block := r.block,
            slot := n, material := m }
        let k := { k with tag := keyTag s k }
        (.have k, touchKey (putKey s k) n)

/-- Drops a damaged cached copy, or marks a volatile key BAD with its material gone, and logs it (R376). -/
def keyDamaged (s : State) (k : Key) : State :=
  let s := writeLog s 0x0004 k.owner (leBytes 4 k.handle)
  if k.persistent then dropKey s k.slot
  else dropHmac (putTagged s { k with bad := true, material := zeros k.material.length }) k.slot

/-- Resolves a handle for a slice, loading a persistent key (R372, R373, R376, R377, R386, R387). -/
def findKey (s : State) (sl h : Nat) : KeyFind × State :=
  match cachedKey s h with
  | some k => if k.owner = sl then (.have k, touchKey s k.slot) else (keyAbsent, s)
  | none =>
    if s.keys.sealMismatch ∨ s.keys.smk = none then (keyAbsent, s)
    else if isMramHandle h then
      match look? s.keys.records h with
      | some r => if r.owner = sl then cacheRecord s r (look s.per.reserves h 0) else (keyAbsent, s)
      | none => (keyAbsent, s)
    else if isStoreHandle h then
      match storeRead s h with
      | (.wait, s) => (.wait, s)
      | (.fail x, s) => (.fail (storeEnding x), s)
      | (.have b, s) =>
        let r := recordFrom b
        if r.handle = h ∧ r.owner = sl then cacheRecord s r (field b 0x18 8) else (keyAbsent, s)
    else (keyAbsent, s)

/-! ## Use counts (R381) -/

/-- Counting one use: done, exhausted, or waiting for a block to be committed. -/
inductive UseGrant where
  | counted
  | exhausted
  | wait
  deriving DecidableEq, Repr

/-- Target that stands for a use-count block among a batch's reservations. -/
def useTarget : Nat := 2 ^ 64

/-- Whether a key's use-count block is being committed. -/
def usePending (s : State) (h : Nat) : Bool :=
  s.per.queue.any (fun q => match q.2 with
    | .useBlock x _ => x == h
    | _ => false) ||
    (let on := fun (b : Option Batch) => match b with
      | some x => x.reservations.any (fun r => r.1 == h && r.2.1 == useTarget)
      | none => false
     on s.store.gathering || on s.store.committing)

/-- Asks for the next use-count block of a persistent key: a RESERVE record, or a batch for a key in the store. -/
def askUseBlock (s : State) (k : Key) : State :=
  let e := k.useEnd + 64
  if usePending s k.handle then s
  else if isMramHandle k.handle then
    if ledgerOpen s ∧ (intentRoom s ∨ (look? s.per.reserves k.handle).isSome) then
      enqueue s (.reserve k.handle e) (.useBlock k.handle e)
    else s
  else match storeSees s k.handle with
    | .content b =>
      joinBatch (changeObject s k.handle (overlay b 0x18 (leBytes 8 e))) (fun x =>
        { x with reservations := x.reservations ++ [(k.handle, useTarget, e)], urgent := true })
    | _ => s

/-- Whether one use can be counted now (R381). -/
def useGrant (k : Key) : UseGrant :=
  if k.useLimit = 0 then .counted
  else if k.useCount ≥ k.useLimit then .exhausted
  else if k.persistent ∧ k.useCount ≥ k.useEnd then .wait
  else .counted

/-- Counts one use, with a fresh tag (R375, R381). -/
def countUse (s : State) (k : Key) : State :=
  if k.useLimit = 0 then s else putTagged s { k with useCount := k.useCount + 1 }

end Sys2Proof.Machine
end

