-- ==== Sys2Proof/Machine/MirrorOps.lean ====
section
/-! DEFINITION. Mirror groups: requests, signed messages, block requests and grants (R556 to R565). -/
namespace Sys2Proof.Machine

/-- A request that a new one of its kind replaces: one JOIN_OFFER, LEASE_REQUEST, JOURNAL_REQUEST or TIME a peer, and one of each
other body. -/
def replacesAsk (type : Nat) (body : Bytes) (a : Ask) : Bool :=
  a.type == type && ([0x01, 0x10, 0x30, 0x40].contains type || a.body == body)
/-- Remembers a request until it is answered. -/
def noteAsk (s : State) (dest type : Nat) (body : Bytes) : State :=
  let p := peerOf s dest
  setPeer s dest { p with unanswered := p.unanswered.filter (fun a => !replacesAsk type body a) ++ [⟨type, body, now s⟩] }
/-- Requests to a peer that an answer, or the end of their purpose, takes away. -/
def dropAsks (s : State) (dest : Nat) (f : Ask → Bool) : State :=
  let p := peerOf s dest
  setPeer s dest { p with unanswered := p.unanswered.filter (fun a => !f a) }
def dropAllAsks (s : State) (types : List Nat) : State := (others s).foldl (fun s i => dropAsks s i (fun a => types.contains a.type)) s

/-- Queues a request that is repeated until answered (R558). -/
def mirAsk (s : State) (dest type : Nat) (body : Bytes) : State :=
  if (peerOf s dest).key.isNone then s else noteAsk (mirSend s dest type body) dest type body

/-- Queues a message signed by the MAK in place of a tag: JOIN_OFFER and JOIN_REFUSED (R556, R558). -/
def mirSendSigned (s : State) (dest type : Nat) (body : Bytes) : State :=
  let (n, s) := drawRandom s
  let p := peerOf s dest
  let m := mirHeader s type dest body.length (p.ctrOut + 1) ++ body
  let s := setPeer s dest { p with ctrOut := p.ctrOut + 1 }
  mirrorVector { s with mir := { s.mir with outbound := s.mir.outbound ++ [m ++ makSign s "PERAND-MIRJOIN-1" m n] } }

/-! ## Blocks (R564, R565) -/

/-- Marks a waiting reservation of a pair or key as over, whatever its outcome. -/
def blockDone (s : State) (handle target : Nat) : State := clearReserving s (handle, target, 0)

/-- The last step of a submission asks for a value of a pair or key. -/
def asksValue (handle target : Nat) (j : Job) : Bool :=
  match j.descs.getLast? with
  | some d => d.key == handle && ((d.opcode == 0x0601 && target == 0) || (d.opcode == 0x0900 && d.inline == target))
  | none => false

/-- A granted block opens: the requester issues from a to b (R564). -/
def blockOpens (s : State) (handle target a b : Nat) : State :=
  let s := blockDone s handle target
  { s with
    jobs := s.jobs.map (fun j => if asksValue handle target j then { j with blockSince := none } else j)
    res := { s.res with
      ordinals := s.res.ordinals.map (fun e =>
        if e.handle = handle ∧ e.target = target then { e with next := a, committedEnd := b + 1 } else e)
      hbs := s.res.hbs.map (fun e =>
        if e.1 = handle ∧ target = 0 then (e.1, { e.2 with next := a, committedEnd := min (b + 1) e.2.total }) else e) }
    mir := { s.mir with blocksGranted := s.mir.blocksGranted + 1 } }

/-- Body of a BLOCK_RECORD (R560). -/
def blockRecordBody (g : Granting) (e : Nat) : Bytes :=
  leBytes 1 g.kind ++ leBytes 1 g.requester ++ zeros 2 ++ leBytes 4 g.handle ++ leBytes 8 g.target ++ leBytes 4 g.size ++
    zeros 4 ++ leBytes 8 g.requestId ++ leBytes 8 e

/-- Puts the new end of a pair or key into this core's next batch, with an acknowledgement to follow its commit. -/
def commitEnd (s : State) (leader requester id kind handle target block e : Nat) : State :=
  match findPair s handle target with
  | (.at p, s) =>
    let s := writePair s p handle 0 target (max e p.committedEnd) (if p.isNew then block else p.block)
    let s := joinBatch s (fun b => { b with reservations := b.reservations ++ [(handle, target, e)], urgent := true })
    { s with mir := { s.mir with
      acksDue := s.mir.acksDue ++ [(leader, requester, id, handle, target, e)]
      ends := (kind, handle, target, e) :: s.mir.ends.filter (fun x => !(x.1 == kind && x.2.1 == handle && x.2.2.1 == target)) } }
  | (_, s) => s

/-- First value that a pair or key may get: 1 for a pair, 0 for a stateful key, or the largest end known. -/
def firstValue (kind : Nat) (e : Nat) : Nat := if kind = 1 then max 1 e else e

/-- The leader works on one grant: it settles the first value, sends the records and commits its own. -/
def pumpGrant (s : State) (g : Granting) : State × Granting :=
  if g.sent || g.lookups != [] then (s, g)
  else
    match findPair s g.handle g.target with
    | (.at p, s) =>
      let own := max (groupEnd s.mir g.kind g.handle g.target) p.committedEnd
      let a := firstValue g.kind (max own g.largest)
      let g := { g with first := a, sent := true }
      let e := a + g.size
      let s := (joinedPeers s).foldl (fun s i => mirAsk s i 0x21 (blockRecordBody g e)) s
      (commitEnd s s.mir.own g.requester g.requestId g.kind g.handle g.target g.size e, g)
    | (_, s) => (s, g)

/-- The leader works on all grants. -/
def pumpGrants (s : State) : State :=
  let gs := s.mir.granting
  let (s, gs) := gs.foldl (fun (a : State × List Granting) g =>
    let (s, g) := pumpGrant a.1 g
    (s, a.2 ++ [g])) ({ s with mir := { s.mir with granting := [] } }, [])
  { s with mir := { s.mir with granting := gs } }

/-- The leader takes a request for a block: its first for the pair or key in this term waits for END_REPLYs (R565). -/
def startGrant (s : State) (requester id kind handle target size : Nat) : State :=
  if s.mir.granting.any (fun g => g.requester == requester && g.requestId == id) then s
  else
    let fresh := !s.mir.looked.contains (handle, target)
    let asked := if fresh then s.mir.granters.filter (· != s.mir.own) else []
    let g : Granting :=
      { requester := requester, requestId := id, kind := kind, handle := handle, target := target, size := size
        first := 0, sent := false, acks := [], lookups := asked, largest := 0, lookupId := s.mir.nextLookup }
    let n := s.mir.nextLookup
    let body := leBytes 1 kind ++ zeros 3 ++ leBytes 4 handle ++ leBytes 8 target ++ leBytes 8 n
    let s := { s with mir := { s.mir with
      granting := s.mir.granting ++ [g], nextLookup := n + 1, looked := (handle, target) :: s.mir.looked } }
    let s := asked.foldl (fun s i => mirAsk s i 0x24 body) s
    pumpGrants s

/-- The grant is due once the end is committed by a majority that holds the leader and the requester (R564). -/
def grantReady (s : State) (g : Granting) : Bool :=
  g.sent && decide (majority s ≤ g.acks.length) && g.acks.contains s.mir.own && g.acks.contains g.requester

/-- Grants every block that is due. -/
def finishGrants (s : State) : State :=
  let due := s.mir.granting.filter (grantReady s)
  let s := { s with mir := { s.mir with granting := s.mir.granting.filter (fun g => !grantReady s g) } }
  due.foldl (fun s g =>
    let b := g.first + g.size - 1
    if g.requester = s.mir.own then
      blockOpens { s with mir := { s.mir with asking := s.mir.asking.filter (fun x => x.1 != g.requestId) } } g.handle
        g.target g.first b
    else mirSend s g.requester 0x23 (leBytes 8 g.requestId ++ leBytes 8 g.first ++ leBytes 8 b)) s

/-- Counts an acknowledgement of an end. -/
def ackGrant (s : State) (member requester id e : Nat) : State :=
  finishGrants { s with mir := { s.mir with granting := s.mir.granting.map (fun g =>
    if g.requester = requester ∧ g.requestId = id ∧ g.sent ∧ g.first + g.size ≤ e ∧ !g.acks.contains member then { g with acks := g.acks ++ [member] } else g) } }

/-- A member needs a block: it asks the leader, or grants itself as leader; one request a pair or key at a time. -/
def askBlock (s : State) (kind handle target size : Nat) : State :=
  if s.mir.asking.any (fun x => x.2.2.1 == handle && x.2.2.2.1 == target) then s
  else
    let id := s.mir.nextRequest
    let s := { s with mir := { s.mir with
      nextRequest := id + 1, asking := s.mir.asking ++ [(id, kind, handle, target, size)], askedAt := put s.mir.askedAt id (now s) } }
    if s.mir.st = .leader then startGrant s s.mir.own id kind handle target size
    else match s.mir.leader with
      | some l => mirAsk s l 0x20 (leBytes 1 kind ++ zeros 3 ++ leBytes 4 handle ++ leBytes 8 target ++ leBytes 4 size ++
          zeros 4 ++ leBytes 8 id)
      | none => s

/-- A batch commits the end of a pair or key: acknowledgements that waited for it go out (R564). -/
def endCommitted (s : State) (handle target e : Nat) : State :=
  let due := s.mir.acksDue.filter (fun x => x.2.2.2.1 == handle && x.2.2.2.2.1 == target && x.2.2.2.2.2 == e)
  let s := { s with mir := { s.mir with acksDue := s.mir.acksDue.filter (fun x =>
    !(x.2.2.2.1 == handle && x.2.2.2.2.1 == target && x.2.2.2.2.2 == e)) } }
  due.foldl (fun s x =>
    if x.1 = s.mir.own then ackGrant s s.mir.own x.2.1 x.2.2.1 e
    else mirSend s x.1 0x22 (leBytes 1 x.2.1 ++ zeros 7 ++ leBytes 8 x.2.2.1 ++ leBytes 8 e)) s

/-- An END_LOOKUP's answer reaches the leader (R565). -/
def endHeard (s : State) (member id e : Nat) : State :=
  pumpGrants { s with mir := { s.mir with granting := s.mir.granting.map (fun g =>
    if g.lookupId = id ∧ g.lookups.contains member then { g with lookups := g.lookups.filter (· != member), largest := max g.largest e } else g) } }

/-! ## BEHIND (R567, R568) -/

/-- Compares counter 0 with the leader's: a member below it is BEHIND, and asks for the KUMs it lacks. -/
def judgeBehind (s : State) : State :=
  let b : Bool := inGroup s && s.mir.st != .leader && decide (keyAdmin s < s.mir.leaderCounter0)
  if b then
    let s := { s with mir := { s.mir with behind := true } }
    match s.mir.leader with
    | some l =>
      if (peerOf s l).unanswered.any (fun a => a.type == 0x30) then s else mirAsk s l 0x30 (leBytes 8 (keyAdmin s))
    | none => s
  else
    let jobs := s.jobs.map (fun (j : Job) => { j with heldSince := none })
    { s with mir := { s.mir with behind := false }, jobs := jobs }

end Sys2Proof.Machine
end

