-- ==== Sys2Proof/Machine/Reserve.lean ====
section
/-! DEFINITION. Reserve-ahead of indices and ordinals: the state of stateful keys, their tree-cache windows and trees, the
ordinal cache, and the value a signing descriptor gets at acceptance (R313, R314, R318 to R321, R326 to R329). -/
namespace Sys2Proof.Machine

/-- What admission gets for an index, an ordinal or a resident state. -/
inductive Assign where
  | value (n : Nat)
  | fail (e : Ending)
  | wait
  deriving DecidableEq, Repr

/-! ## Stateful keys (R312 to R321) -/

def hbsOf (s : State) (h : Nat) : HbsState := look s.res.hbs h {}
def setHbs (s : State) (h : Nat) (x : HbsState) : State := { s with res := { s.res with hbs := put s.res.hbs h x } }

/-- The block size in force: the key's, or 1,024 (R318). -/
def blockOf (b : Nat) : Nat := if b = 0 then 1024 else b

/-- Notes the first value that this start may issue: the committed end it found (R31, R320). -/
def noteFresh (s : State) (h t v : Nat) : State :=
  if s.res.fresh.any (fun e => e.1 == h && e.2.1 == t) then s else { s with res := { s.res with fresh := s.res.fresh ++ [(h, t, v)] } }
/-- A value comes from a block reserved before this start (R31). -/
def beforeStart (s : State) (h t v : Nat) : Bool := s.res.fresh.all (fun e => e.1 != h || e.2.1 != t || decide (v < e.2.2))

/-- Data index of page p of the tree-image region (R449). -/
def imagePage (p : Nat) : Nat := 0x110000000 + p

/-- The directory entry of a key: first page and page count (R449, R451). -/
def directoryAt (h : Nat) : Nat := 0xF0000000 + h / 256
def directoryEntry (b : Bytes) (h : Nat) : Nat × Nat := (field b (16 * (h % 256)) 8, field b (16 * (h % 256) + 8) 4)

/-- Reads pages in turn until one is missing. -/
def readPages : List Nat → State → Assign × State
  | [], s => (.value 0, s)
  | p :: r, s =>
    match storeRead s p with
    | (.have _, s) => readPages r s
    | (.fail x, s) => (.fail (storeEnding x), s)
    | (.wait, s) => (.wait, s)

/-- The page of the root of the tree that stands in one of a layer's two places. -/
def rootPage (k : Key) (first l place : Nat) : Nat := imagePage (first + treePlace k.alg k.param l place)
def rootPages (k : Key) (first : Nat) : List Nat :=
  (List.range (hbsLayers k.param)).flatMap (fun l => [rootPage k first l 0, rootPage k first l 1])
/-- Number of trees of a layer built so far: the tree in one of its places tells its own (R314). -/
def treesFound (s : State) (k : Key) (first l : Nat) : Nat :=
  let found := fun (place : Nat) => match storeSees s (rootPage k first l place) with
    | .content b => field b 0 8
    | _ => 0
  max (found 0) (found 1)

/-- The state of a stateful key, read from the store when the core does not hold it. -/
def loadHbs (s : State) (k : Key) : Assign × State :=
  if (look? s.res.hbs k.handle).isSome then (.value 0, s)
  else match findPair s k.handle 0 with
    | (.fail x, s) => (.fail (storeEnding x), s)
    | (.wait, s) => (.wait, s)
    | (.at p, s) =>
      match storeRead s (directoryAt k.handle) with
      | (.fail n, s) => (.fail (storeEnding n), s)
      | (.wait, s) => (.wait, s)
      | (.have b, s) =>
        let first := (directoryEntry b k.handle).1
        match readPages (rootPages k first) s with
        | (.value _, s) =>
          let e := if p.isNew then 0 else p.committedEnd
          (.value 0, setHbs (noteFresh s k.handle 0 e) k.handle
            { owner := k.owner, alg := k.alg, param := k.param, first := first, total := hbsTotal k.param, next := e, committedEnd := e
              block := blockOf k.block, built := (List.range (hbsLayers k.param)).map (treesFound s k first) })
        | r => r

/-- Pages of one index's path through every layer. -/
def indexPath (x : HbsState) (i : Nat) : List Nat :=
  let h := hbsHeight x.param
  (List.range (hbsLayers x.param)).flatMap (fun l =>
    (leafPath h (leafOf h l i)).map (fun q => imagePage (x.first + treePlace x.alg x.param l (treeOf h l i) + q)))

/-- The window: the paths of the next index and of the index after it (R313). -/
def windowPages (x : HbsState) (i : Nat) : List Nat := (indexPath x i ++ indexPath x (i + 1)).eraseDups
/-- Pages of the tree caches that the windows of a key's trees take: two paths for each tree in use (R313). -/
def windowRoom (p : Nat) : Nat := 2 * hbsLayers p * treeDepth (hbsHeight p)

/-- Whether accepted work stands under a key. -/
def workUnder (s : State) (h : Nat) : Bool :=
  s.jobs.any (fun j => accepted j && !j.decided && j.descs.any (fun d => d.key == h))

/-- Pages that the tree caches have left (R21). -/
def windowFree (s : State) : Nat := (sramUnits .treeCache).1 - (s.res.hbs.map (fun e => e.2.room)).sum
/-- Windows of keys without accepted work go, least recently used first, until `n` pages are free (R313). -/
def trimWindows (n : Nat) : List Nat → State → State
  | [], s => s
  | h :: r, s =>
    if n ≤ windowFree s then s
    else if workUnder s h then trimWindows n r s
    else
      let s := setHbs s h { hbsOf s h with window := [], room := 0, resident := false }
      trimWindows n r { s with res := { s.res with windowLru := s.res.windowLru.filter (· != h) } }

/-- Gives a key's windows their room in the tree caches; it has none while keys with accepted work hold them. -/
def takeRoom (s : State) (k : Key) : Bool × State :=
  let n := windowRoom k.param
  if (hbsOf s k.handle).room ≠ 0 then (true, s)
  else
    let s := trimWindows n s.res.windowLru s
    if n ≤ windowFree s then (true, setHbs s k.handle { hbsOf s k.handle with room := n }) else (false, s)

/-- Brings a key's windows into the tree caches (R313). -/
def loadWindow (s : State) (k : Key) : Assign × State :=
  match takeRoom s k with
  | (false, s) => (.wait, s)
  | (true, s) =>
    let x := hbsOf s k.handle
    let pages := windowPages x x.next
    match readPages (pages.filter (fun p => !x.window.contains p)) s with
    | (.value _, s) =>
      let s := setHbs s k.handle { x with window := pages, resident := true }
      (.value 0, { s with res := { s.res with windowLru := s.res.windowLru.filter (· != k.handle) ++ [k.handle] } })
    | r => r

/-- The trees that an index needs are built, in every layer (R314). -/
def treesBuilt (x : HbsState) (i : Nat) : Bool :=
  (List.range (hbsLayers x.param)).all (fun l => decide (treeOf (hbsHeight x.param) l i < x.built.getD l 0))

/-- Starts building the next tree of each lower layer whose current tree is half used, and a current tree that was skipped into
before it was built (R314; log entry 181). -/
def startBuilding (x : HbsState) : HbsState :=
  let h := hbsHeight x.param
  let n := hbsLayers x.param
  let due := (List.range (n - 1)).filter (fun l =>
    let t := treeOf h l x.next
    let b := x.built.getD l 0
    (decide (b ≤ t) || (b == t + 1 && decide (t + 1 < treesIn h n l) &&
      decide (2 ^ (h * (l + 1)) ≤ 2 * (x.next % 2 ^ (h * (l + 1)))))) && !x.building.contains l)
  { x with building := x.building ++ due }

/-- Puts the reservation of a pair or key up to a new end into the open batch (R319, R328). -/
def reserveBlock (s : State) (sl h t e block : Nat) : Assign × State :=
  if versionsGone s then (.fail { status := stStoreUnavailable, sub := 0x0506 }, s)
  else match findPair s h t with
    | (.fail x, s) => (.fail (storeEnding x), s)
    | (.wait, s) => (.wait, s)
    | (.at p, s) =>
      if !batchRoom s p.index then (.wait, s)
      else
        let s := writePair s p h sl t e block
        (.value 0, joinBatch s (fun b => { b with reservations := b.reservations ++ [(h, t, e)], urgent := true }))

/-- The index an HBS_SIGN would get now (R319 to R321); waiting starts a reservation, or a request to the leader of the
group. -/
def hbsIndex (s : State) (sl : Nat) (k : Key) : Assign × State :=
  match loadHbs s k with
  | (.value _, s) =>
    match loadWindow s k with
    | (.value _, s) =>
      let x := hbsOf s k.handle
      if x.next ≥ x.total then (.fail { status := stKeyExhausted, sub := 0x0321 }, s)
      else if x.next < x.committedEnd then
        if treesBuilt x x.next then (.value x.next, s) else (.wait, setHbs s k.handle (startBuilding x))
      else if x.reserving then (.wait, s)
      else if inGroup s then
        (.wait, askBlock (setHbs s k.handle { x with reserving := true }) 2 k.handle 0 x.block)
      else
        match reserveBlock s sl k.handle 0 (min (x.committedEnd + x.block) x.total) x.block with
        | (.value _, s) => (.wait, setHbs s k.handle { x with reserving := true })
        | r => r
    | r => r
  | r => r

/-- Takes the next index at acceptance. -/
def takeIndex (s : State) (k : Key) : State :=
  let x := hbsOf s k.handle
  let x := { x with next := x.next + 1, resident := (windowPages x (x.next + 1)).all x.window.contains }
  setHbs s k.handle (startBuilding x)

/-! ## The ordinal cache (R326 to R329) -/

def isOrdEntry (sl h t : Nat) (e : OrdEntry) : Bool := e.slice == sl && e.handle == h && e.target == t
def ordOf (s : State) (sl h t : Nat) : Option OrdEntry := s.res.ordinals.find? (isOrdEntry sl h t)
/-- Replaces an entry, as the most recently used. -/
def setOrd (s : State) (e : OrdEntry) : State :=
  { s with res := { s.res with
    ordinals := s.res.ordinals.filter (fun x => !isOrdEntry e.slice e.handle e.target x) ++ [e] } }
def dropOrd (s : State) (h t : Nat) : State :=
  { s with res := { s.res with ordinals := s.res.ordinals.filter (fun x => !(x.handle == h && x.target == t)) } }

/-- An accepted job stands under the pair. -/
def ordBusy (s : State) (e : OrdEntry) : Bool :=
  s.jobs.any (fun j => accepted j && !j.decided && j.slice == e.slice &&
    j.descs.any (fun d => isOrd d.opcode && d.key == e.handle && d.inline == e.target))

/-- Writes an entry back to the table in the next batch, and marks it; it stays resident until the batch commits. What it cannot
write while the store does not answer is no eviction (R328). -/
def evictOrd (s : State) (e : OrdEntry) : Assign × State :=
  if versionsGone s then (.fail { status := stStoreUnavailable, sub := 0x0506 }, s)
  else match findPair s e.handle e.target with
  | (.fail x, s) => (.fail (storeEnding x), s)
  | (.wait, s) => (.wait, s)
  | (.at p, s) =>
    if !batchRoom s p.index then (.wait, s)
    else
      let s := writePair s p e.handle e.slice e.target (if inGroup s then max p.committedEnd e.next else e.next) e.block
      let s := joinBatch s (fun b => { b with evicted := b.evicted ++ [(e.handle, e.target)] })
      (.wait, setOrd s { e with evicting := true })

/-- The pair's entry in the cache: read from the table on a miss, within the slice's quota (R327). -/
def loadOrd (s : State) (sl : Nat) (k : Key) (t : Nat) : Assign × State :=
  match ordOf s sl k.handle t with
  | some e => if e.evicting then (.wait, s) else (.value 0, setOrd s e)
  | none =>
    let mine := s.res.ordinals.filter (fun e => e.slice == sl)
    if mine.length ≥ (allotOf s.cfg.cur sl).ordinalEntries then
      if mine.any (·.evicting) then (.wait, s)
      else match mine.find? (fun e => !ordBusy s e && !e.reserving) with
        | some e => evictOrd s e
        | none => (.wait, s)
    else match findPair s k.handle t with
      | (.fail x, s) => (.fail (storeEnding x), s)
      | (.wait, s) => (.wait, s)
      | (.at p, s) =>
        let e := if p.isNew then 1 else p.committedEnd
        let b := blockOf (if p.isNew then k.block else p.block)
        (.value 0, setOrd (noteFresh s k.handle t e)
          { slice := sl, handle := k.handle, target := t, next := e, committedEnd := e, block := b, storedBlock := b })

/-- The ordinal an ORD_SIGN would get now (R319, R326). -/
def ordNumber (s : State) (sl : Nat) (k : Key) (t : Nat) : Assign × State :=
  match loadOrd s sl k t with
  | (.value _, s) =>
    match ordOf s sl k.handle t with
    | none => (.wait, s)
    | some e =>
      if e.next > 2 ^ 48 - 1 then (.fail { status := stKeyExhausted, sub := 0x0322 }, s)
      else if e.next < e.committedEnd then (.value e.next, s)
      else if e.reserving then (.wait, s)
      else if inGroup s then (.wait, askBlock (setOrd s { e with reserving := true }) 1 k.handle t e.block)
      else match reserveBlock s sl k.handle t (min (e.committedEnd + e.block) (2 ^ 48)) e.block with
        | (.value _, s) => (.wait, setOrd s { e with reserving := true })
        | r => r
  | r => r

/-- Takes the next ordinal at acceptance. -/
def takeOrdinal (s : State) (sl h t : Nat) : State :=
  match ordOf s sl h t with
  | some e => setOrd s { e with next := e.next + 1 }
  | none => s

/-- What a descriptor of families 0x06xx and 0x09xx needs before acceptance: its index or ordinal, or the state it
reads. -/
def assign (s : State) (sl : Nat) (d : Desc) (k : Option Key) : Assign × State :=
  match k with
  | none => (.value 0, s)
  | some k =>
    match d.opcode with
    | 0x0601 => hbsIndex s sl k
    | 0x0603 => loadHbs s k
    | 0x0900 => ordNumber s sl k d.inline
    | 0x0901 | 0x0902 => loadOrd s sl k d.inline
    | _ => (.value 0, s)

/-- Takes what was assigned. -/
def takeAssigned (s : State) (sl : Nat) (d : Desc) (k : Option Key) : State :=
  match k with
  | none => s
  | some k => if d.opcode = 0x0601 then takeIndex s k else if d.opcode = 0x0900 then takeOrdinal s sl d.key d.inline else s

end Sys2Proof.Machine
end

