-- ==== Sys2Proof/Machine/Admission.lean ====
section
/-! DEFINITION. Admission: the checks before acceptance in the order of R119, the resources a descriptor waits for, and the
taken stamps that accept it (R9 to R13, R86, R87, R119 to R123, R139, R147 to R154, R160, R161, R170, R171, R517, R546,
R568). -/
namespace Sys2Proof.Machine

/-! ## Sizes of scratch handles (R154) -/

/-- The descriptor with the largest LENGTH that a whole handle can give. -/
def maxDesc (c : Tbl Nat) (d : Desc) : Desc :=
  if wholeHandle d then { d with length := look c (d.src - handleBase) 0 - srcExtra d } else d

/-- Bytes of input of a step (R154, R168): without padding, with the longest prefix that its block can give (R233). -/
def inputLen (p : Pre) (d : Desc) : Nat :=
  if family d.opcode = 0x01 then cipherInput d
  else if family d.opcode = 0x02 then longestPrefix d + d.length
  else ((p.reads.filter (fun r => r.1 == d.src)).map (·.2)).foldl max 0

/-- Largest contents of the handles and the count of long inputs after a list of steps. -/
structure Sizes where
  content : Tbl Nat := []
  long : Nat := 0
  deriving DecidableEq, Repr

def addStep (s : State) (j : Job) (z : Sizes) (d : Desc) : Sizes :=
  let d := maxDesc z.content d
  let p := opPre s j d (descKey s j.slice d)
  let h := d.dst - handleBase
  { content := if isHandle d.dst then put z.content h (max (look z.content h 0) p.output) else z.content
    long := z.long + b2n (decide (65536 < inputLen p d)) }

/-- Sizes after the first i steps. -/
def sizesAt (s : State) (j : Job) (i : Nat) : Sizes := (j.descs.take i).foldl (addStep s j) {}

/-- Scratch need of a submission, KiB (R154, R168). -/
def scratchNeed (s : State) (j : Job) : Nat :=
  let z := sizesAt s j j.descs.length
  (z.content.map (fun e => 4 * ceilDiv e.2 4096)).sum + z.long

/-! ## Checks of one step (R119, R147 to R153, R593) -/

/-- Flags that a descriptor may not carry at its place (R117, R147, R148). -/
def flagFault (c : RingCtx) (j : Job) (i : Nat) (d : Desc) : Bool :=
  d.flags.extractLsb' 6 10 != 0 || (flagExt d && !c.extSlots) || (i == 15 && flagChain d) ||
    (i != 0 && (hasBarrier d || flagNotify d || flagExt d)) || (decide (i + 1 < j.descs.length) && advances d.opcode)

/-- Handle rules (R152, R153): reserved values, handles outside a chain, a handle read that no earlier step wrote, one
that is source and destination, a last DST that is a handle. -/
def handleFault (j : Job) (i : Nat) (d : Desc) : Bool :=
  let used := [d.src, d.dst, d.param].filter isHandle
  let reads := [d.src, d.param].filter isHandle
  let written := (j.descs.take i).map (·.dst)
  used.any badHandle || (used != [] && decide (j.descs.length < 2)) || reads.any (fun h => !written.contains h) ||
    (isHandle d.dst && reads.contains d.dst) || (isHandle d.dst && i + 1 == j.descs.length)

/-- DST zero where it asks for a buffer that the submission cannot have (R139, R593). -/
def bufferFault (c : RingCtx) (j : Job) (i : Nat) (d : Desc) (p : Pre) : Bool :=
  p.dstZero && d.dst == 0 && (decide (i + 1 < j.descs.length) || (c.rbpBase == 0 && !p.dstLater))

/-- Engine kinds that a step needs. -/
def kindsOf (s : State) (sl : Nat) (d : Desc) (k : Option Key) : List Engine := (engineOf s sl d k).toList ++ engineMore s d k

/-- A window check of a range that the descriptor fixes; handles, and the buffer asked for by DST zero, lie in none. -/
def rangeOut (ws : List Window) (write : Bool) (r : Nat × Nat) : Bool :=
  !isHandle r.1 && !(write && r.1 == 0) && !inWindows ws write r.1 r.2

/-- Ranges of a step outside its windows (R91); what a whole handle's content decides is checked later. -/
def windowFault (ws : List Window) (d : Desc) (p : Pre) : Bool :=
  p.reads.any (rangeOut ws false) || (!wholeHandle d && p.writes.any (rangeOut ws true))

/-- The configuration that a submission is held against: the one in force, for one accepted before a restart its own generation's
(R193). -/
def jobCfg (s : State) (j : Job) : CfgImage := if j.recovered then cfgOf s j.gen else s.cfg.cur

/-- Length checks: the opcode's, the pool's, the handle's capacity, and for the first step the scratch need (R87, R139,
R150, R154). -/
def lengthFault (s : State) (j : Job) (i : Nat) (d : Desc) (p : Pre) : Option Ending :=
  let c := (ringOf s j.ring).ctx
  let z := sizesAt s j (i + 1)
  firstEnd
    [if wholeHandle (j.descs.getD i {}) then none else failIf stBadLength p.length,
     failIf stBadLength
      [(p.dstZero && d.dst == 0 && c.rbpBase != 0 && decide (1024 * c.rbpBufKib < p.output), 0),
       (isHandle d.dst && decide (1024 < ceilDiv (look z.content (d.dst - handleBase) 0) 4096), 0),
       (i == 0 && decide ((allotOf (jobCfg s j) j.slice).scratchLimit < scratchNeed s j), 0)]]

/-- The checks before the key's, in order. -/
def fieldFault (s : State) (j : Job) (i : Nat) (d : Desc) (k : Option Key) : Option Ending :=
  let p := opPre s j d k
  let c := (ringOf s j.ring).ctx
  firstEnd
    [failIf stBadParam (p.param ++ [(bufferFault c j i d p, 0)]),
     failIf stNoRight [(noRight s (jobCfg s j) j.slice d k, 0), ((kindsOf s j.slice d k).any (kindGone s), 0x0146)],
     lengthFault s j i d p,
     failIf stBadAlign p.align]

/-- Earlier steps of the submission that count a use of the same key. -/
def usesBefore (j : Job) (i : Nat) (h : Nat) : Nat := (j.descs.take i).countP (fun d => usesCount d && d.key == h)

/-- The key's own checks: integrity, use, class, count (R119, R376, R378, R381, R590). -/
def keyChecks (s : State) (j : Job) (i : Nat) (d : Desc) (k : Key) : Option Ending × State :=
  if !keyIntact s k then (some keyBadEnd, keyDamaged s k)
  else if k.bad ∧ d.opcode ≠ 0x0803 then (some keyBadEnd, s)
  else match keyFault d k with
    | some e => (some e, s)
    | none =>
      if classFault s (jobCfg s j) j.slice d k then (some { status := stKeyClass }, s)
      else if usesCount d ∧ !j.recovered then
        match useGrant { k with useCount := k.useCount + usesBefore j i k.handle } with
        | .exhausted => (some { status := stKeyExhausted, sub := 0x0323 }, s)
        | _ => (none, s)
      else (none, s)

/-- Whether a use count must wait for its block. -/
def useWaits (j : Job) (i : Nat) (d : Desc) (k : Key) : Bool :=
  usesCount d && !j.recovered && useGrant { k with useCount := k.useCount + usesBefore j i k.handle } == .wait

/-- What the checks of a step give. -/
inductive Check where
  | pass
  | fail (e : Ending)
  | wait
  deriving DecidableEq, Repr

/-- The key to be exported, of KEY_WRAP, must resolve as well (R390). -/
def exportLook (s : State) (sl : Nat) (d : Desc) : KeyFind × State :=
  if d.opcode = 0x0800 then findKey s sl (d.inline % 2 ^ 32) else (.fail { status := 0 }, s)

/-- The last checks of a step, its key being at hand. -/
def checkKeyed (s : State) (j : Job) (i : Nat) (d : Desc) (k : Option Key) : Check × State :=
  match fieldFault s j i d k with
  | some e => (.fail e, s)
  | none =>
    let (f, s) := match k with
      | some k => keyChecks s j i d k
      | none => (if curveAbsent s j.slice d then some { status := stKeyAbsent } else none, s)
    match f with
    | some e => (.fail e, s)
    | none =>
      match exportLook s j.slice d with
      | (.wait, s) => (.wait, s)
      | (.fail e, s) =>
        if e.status ≠ 0 then (.fail e, s)
        else if windowFault (windowsOf (jobCfg s j) j.slice) d (opPre s j d k) then (.fail { status := stWindow }, s)
        else match k with
          | some k => if useWaits j i d k then (.wait, askUseBlock s k) else (.pass, s)
          | none => (.pass, s)
      | (.have _, s) =>
        if windowFault (windowsOf (jobCfg s j) j.slice) d (opPre s j d k) then (.fail { status := stWindow }, s)
        else match k with
          | some k => if useWaits j i d k then (.wait, askUseBlock s k) else (.pass, s)
          | none => (.pass, s)

/-- What a key that is still being loaded may turn out to be, as far as rights and parts depend on it. -/
def keyGuesses : List (Option Key) := [none, some { saffronReq := true }, some { alg := 0x31 }, some { alg := 0x25 }]

/-- The checks before the key's that fail whatever the key turns out to be (R12, R119). -/
def loadingFault (s : State) (j : Job) (i : Nat) (d : Desc) : Option Ending :=
  let p := opPre s j d none
  let c := (ringOf s j.ring).ctx
  firstEnd
    [failIf stBadParam (p.param ++ [(bufferFault c j i d p, 0)]),
     failIf stNoRight
      [(keyGuesses.all (fun k => noRight s (jobCfg s j) j.slice d k), 0),
       (keyGuesses.all (fun k => (kindsOf s j.slice d k).any (kindGone s)), 0x0146)],
     lengthFault s j i d p,
     failIf stBadAlign p.align]

/-- All checks of step i in the order of R119. -/
def checkStep (s : State) (j : Job) (i : Nat) : Check × State :=
  let raw := j.descs.getD i {}
  let d := maxDesc (sizesAt s j i).content raw
  if !opKnown d.opcode then (.fail { status := stBadOpcode }, s)
  else if flagFault (ringOf s j.ring).ctx j i d ∨ handleFault j i d then (.fail { status := stBadParam }, s)
  else match needsKey d with
    | none => checkKeyed s j i d none
    | some h =>
      match findKey s j.slice h with
      | (.have k, s) => checkKeyed s j i d (some k)
      | (.fail e, s) =>
        match fieldFault s j i d none with
        | some e => (.fail e, s)
        | none => (.fail e, s)
      | (.wait, s) =>
        match loadingFault s j i d with
        | some e => (.fail e, s)
        | none => (.wait, s)

/-- The checks of all steps in step order, and the step that decided (R150). -/
def checkSteps (j : Job) : List Nat → State → Check × Nat × State
  | [], s => (.pass, 0, s)
  | i :: r, s =>
    match checkStep s j i with
    | (.pass, s) => checkSteps j r s
    | (c, s) => (c, i, s)

/-! ## Resources (R11, R86, R160, R161, R170, R171, R517, R568) -/

/-- An earlier submission of the ring is not yet complete. -/
def earlierOpen (s : State) (j : Job) : Bool := s.jobs.any (fun q => q.ring == j.ring && decide (q.id < j.id))
/-- An earlier submission of the ring waits for acceptance. -/
def earlierWaiting (s : State) (j : Job) : Bool :=
  s.jobs.any (fun q => q.ring == j.ring && decide (q.id < j.id) && q.phase == .waiting)

/-- The period in progress covers the submission (R170, R171). -/
def budgetCovers (x : Ring) (n : Nat) : Bool :=
  x.cad.accepting && (decide (n ≤ x.cad.budgetLeft) || (decide (x.ctx.budget < n) && x.cad.budgetLeft == x.ctx.budget))

/-- The cadence lets the submission be accepted now; on a cadenced ring none passes an earlier one. -/
def cadenceLets (s : State) (j : Job) : Bool :=
  let x := ringOf s j.ring
  x.ctx.periodUs == 0 || (!earlierWaiting s j && budgetCovers x j.descs.length)

/-- The shedding level admits the submission (R517). -/
def levelLets (s : State) (j : Job) : Bool :=
  match s.pwr.level with
  | .full | .trim => true
  | .essential => isClassP s j || (sliceOf s j.slice).privileged
  | .finish | .secure => false

/-- A step needs a lattice unit, which is parked below Full (R517). -/
def latticeParked (s : State) (j : Job) : Bool :=
  s.pwr.level != .full && j.descs.any (fun d => (kindsOf s j.slice d (descKey s j.slice d)).contains .lattice)

/-- All parts of a kind are out, but some may return (R546). -/
def kindWaits (s : State) (j : Job) : Bool :=
  j.descs.any (fun d => (kindsOf s j.slice d (descKey s j.slice d)).any (allFenced s))

/-- Held while the member is BEHIND (R568). -/
def behindHolds (s : State) (j : Job) : Bool :=
  s.mir.behind && j.descs.any (fun d =>
    [0x04, 0x06, 0x08, 0x09].contains (family d.opcode) ||
      (match descKey s j.slice d with
       | some k => k.persistent
       | none => false))

/-- Opcodes that commit a ledger record of their own (R29, R257, R330, R402). -/
def needsCommit (d : Desc) : Bool :=
  pubCreates d.opcode || latKeygen d.opcode || [0x0801, 0x0802, 0x0803, 0x0805, 0x0808, 0x0903].contains d.opcode
/-- The ledger takes the submission's commits (R418, R421, R422). -/
def ledgerLets (s : State) (j : Job) : Bool := !j.descs.any needsCommit || (ledgerOpen s && intentRoom s)

/-! The pools: what slices claim of them (R85, R94). -/

/-- Slices that are not FREE. -/
def liveSlices (s : State) : List Nat := (s.slices.filter (fun e => e.2.st != .free)).map (·.1)

/-- What a slice claims of the pools: what it holds, and until a commit has settled it the allotments in force or under way. -/
def claims (s : State) (n : Nat) : List Allot :=
  let inForce := (look? s.cfg.cur.allots n).toList
  let coming := match s.cfg.pendingCommit with
    | some c => (look? c.allots n).toList
    | none => []
  (sliceOf s n).held :: inForce ++ coming
/-- The largest claim of a slice on a counted pool. -/
def claimOf (s : State) (n : Nat) (f : Allot → Nat) : Nat := ((claims s n).map f).foldl max 0

/-- Whether a submission holds scratch: accepted, and not taken up again only after a restart. -/
def holdsScratch (j : Job) : Bool := accepted j && (j.phase != .waiting)
/-- Scratch that accepted jobs of a slice hold. -/
def scratchUsed (s : State) (sl : Nat) : Nat := ((s.jobs.filter (fun j => j.slice == sl && holdsScratch j)).map (·.scratch)).sum
/-- Scratch that no slice has guaranteed and no job holds, of 19,456 KiB (R85, R86). -/
def scratchFree (s : State) : Nat :=
  19456 - (((liveSlices s).map (fun n => max (claimOf s n (·.scratchGuarantee)) (scratchUsed s n))).sum)

/-- A waiting submission asks for scratch above its slice's guarantee and within its limit (R86, R87). -/
def asksScratch (s : State) (j : Job) : Bool :=
  j.phase == .waiting && j.scratch != 0 && sliceServes (sliceOf s j.slice) &&
    decide (scratchUsed s j.slice + j.scratch ≤ (allotOf (jobCfg s j) j.slice).scratchLimit)
/-- The rings of such submissions. -/
def scratchAskers (s : State) : List Nat := ((s.jobs.filter (asksScratch s)).map (·.ring)).eraseDups
/-- The submission is the oldest of its ring that asks. -/
def firstAsker (s : State) (j : Job) : Bool := (s.jobs.find? (fun q => q.ring == j.ring && asksScratch s q)).map (·.id) == some j.id

/-- The scratch grant: within the guarantee always, above it by the arbiter, which serves one request until it is met (R86, R161).
None while it waits; the state records the request. -/
def grantScratch (s : State) (j : Job) (need : Nat) : Option State × State :=
  let used := scratchUsed s j.slice
  let a := allotOf (jobCfg s j) j.slice
  if need = 0 ∨ used + need ≤ a.scratchGuarantee then (some s, s)
  else
    let j := { j with scratch := need }
    let s := setJob s j
    let s := { s with sched := { s.sched with arbScratch := arbServe s.sched.arbScratch (scratchAskers s) } }
    if used + need ≤ a.scratchLimit ∧ used + need - max used a.scratchGuarantee ≤ scratchFree s ∧
        s.sched.arbScratch.serving = some j.ring ∧ firstAsker s j then
      (some { s with sched := { s.sched with arbScratch := arbGrant j.ring } }, s)
    else (none, s)

/-- An earlier submission waits for a value of the same key or pair (R319). -/
def valueBlocked (s : State) (j : Job) (d : Desc) : Bool :=
  (d.opcode == 0x0601 || d.opcode == 0x0900) &&
    s.jobs.any (fun q => q.phase == .waiting && q.slice == j.slice && decide (q.id < j.id) &&
      q.descs.any (fun e => e.opcode == d.opcode && e.key == d.key && (d.opcode == 0x0601 || e.inline == d.inline)))

/-! ## Acceptance (R120 to R123) -/

/-- Issues the stamps of all the submission's descriptors: it is accepted (R121, R149). -/
def stampTxns (s : State) (j : Job) : List Txn :=
  let c := (ringOf s j.ring).ctx
  ((List.range j.descs.length).filter (fun i => !j.stamped.contains i)).flatMap (fun i =>
    writeTxns j.slice (c.sqBase + 64 * ((j.idx.toNat + i) % 2 ^ c.sizeLog2) + 56) (leBytes 8 (j.stamps.getD i 0)) 1
      (.stamp j.id i))

/-- What follows the stamps of a submission, once none is outstanding: its first step waits for a part, or it ends as decided
(R12, R121). -/
def stampsDone (s : State) (id : Nat) : State :=
  let under := hasTxn s (fun p => match p with
    | .stamp i _ => i == id
    | _ => false)
  match jobOf s id with
  | some j => if j.phase ≠ .stamping ∨ under then s else if j.decided then endJob s j else makeReady s j
  | none => s

/-- Takes up a submission accepted before a restart again: no period, no budget, and only the stamps that are missing (R511,
R552). -/
def acceptAgain (s : State) (j : Job) : State :=
  let j := { j with phase := .stamping, acceptNo := s.sched.nextAccept, heldSince := none, blockSince := none, period := none }
  let s := { s with sched := { s.sched with nextAccept := s.sched.nextAccept + 1 } }
  stampsDone (request (setJob s j) (stampTxns s j)) j.id

/-- Accepts a submission: generation, order, period, budget, stamps. -/
def acceptNew (s : State) (j : Job) : State :=
  let x := ringOf s j.ring
  let n := j.descs.length
  let j := { j with
    phase := .stamping, gen := s.cfg.cur.gen, acceptNo := s.sched.nextAccept, heldSince := none, blockSince := none
    period := if x.ctx.periodUs = 0 then none else some x.cad.period
    periodEnd := x.cad.scheduledEnd }
  let s := { s with sched := { s.sched with nextAccept := s.sched.nextAccept + 1 } }
  let first := !ringWork s j.ring
  let s := updRing s j.ring (fun x => { x with
    wbAt := if first then now s else x.wbAt
    cad := { x.cad with budgetLeft := x.cad.budgetLeft - min n x.cad.budgetLeft } })
  request (setJob s j) (stampTxns s j)

/-- Accepts a submission, or takes a recovered one up again. -/
def accept (s : State) (j : Job) : State := if j.recovered then acceptAgain s j else acceptNew s j

/-- Accepts a submission that ends as decided (R12). -/
def acceptDecided (s : State) (j : Job) (step : Nat) (e : Ending) : State :=
  accept s { j with decided := true, ending := e, step := step, scratch := 0 }

/-- Accepts a submission that a check has already decided, counting a window violation (R12, R91). -/
def refuse (s : State) (j : Job) (step : Nat) (e : Ending) : State :=
  acceptDecided (if e.status = stWindow then countWindow s j.slice else s) j step e

/-- Counts the uses of all its steps; a re-run counts nothing (R381). -/
def countUses (s : State) (j : Job) : State :=
  if j.recovered then s else
  j.descs.foldl (fun s d =>
    match descKey s j.slice d with
    | some k => if usesCount d then countUse s k else s
    | none => s) s

/-- Notes since when a submission is held while the member is BEHIND (R568). -/
def hold (s : State) (j : Job) : State :=
  updJob s j.id (fun x => { x with heldSince := match x.heldSince with
    | some t => some t
    | none => some (now s) })

/-- A block of the pair or key of a value has been asked for. -/
def blockAsked (s : State) (j : Job) : Bool := s.mir.asking.any (fun a => asksValue a.2.2.1 a.2.2.2.1 j)
/-- Notes since when a submission waits for a block of its group (R565). -/
def holdBlock (s : State) (j : Job) : State :=
  if !blockAsked s j then s
  else updJob s j.id (fun x => { x with blockSince := match x.blockSince with
    | some t => some t
    | none => some (now s) })

/-- A recovered signing step takes its value only once its destination shows no signature to adopt (R31, R552). -/
def valueLater (j : Job) (d : Desc) : Bool := j.recovered && (d.opcode == 0x0601 || d.opcode == 0x0900)

/-- The value of the last step of a submission. -/
def assignFor (s : State) (j : Job) (d : Desc) (k : Option Key) : Assign × State :=
  if valueLater j d then (.value 0, s) else assign s j.slice d k
/-- Takes the value and remembers it. -/
def takeValue (s : State) (j : Job) (d : Desc) (n : Nat) : State × Option Nat :=
  if valueLater j d ∨ (d.opcode ≠ 0x0601 ∧ d.opcode ≠ 0x0900) then (s, none)
  else (takeAssigned s j.slice d (descKey s j.slice d), some n)

/-- The last part of admission: value, scratch, acceptance. -/
def admitValue (s : State) (j : Job) : State :=
  let last := j.descs.length - 1
  let d := j.descs.getD last {}
  if valueBlocked s j d then s
  else
    let k := descKey s j.slice d
    match assignFor s j d k with
    | (.fail e, s) => refuse s j last e
    | (.wait, s) => holdBlock s j
    | (.value n, s) =>
      let need := scratchNeed s j
      match grantScratch s j need with
      | (none, s) => s
      | (some s, _) =>
        let (s, v) := takeValue (countUses s j) j d n
        accept s { j with scratch := need, value := v }

/-- A record that closes an intent is on its way. -/
def closing (s : State) (opid : Nat) : Bool :=
  s.per.queue.any (fun q => match q.1.payload with
    | .doneRec o .. | .rollback o => o == opid
    | _ => false)
/-- Intents of KIND 2 or 3 that no submission stands behind yet (R512). -/
def orphanIntents (s : State) : Tbl LPayload :=
  s.per.openIntents.filter (fun e => !closing s e.1 && s.keys.journal.map (·.opid) != some e.1 && !s.jobs.any (fun j => j.opid == some e.1 && !j.decided) && match e.2 with
    | .intent k _ _ _ _ _ _ _ _ => k == 2 || k == 3
    | _ => false)
/-- Such an intent holds every KUM_SUBMIT (R512). -/
def kumHeld (s : State) (j : Job) : Bool := j.descs.any (fun d => d.opcode == 0x0808) && orphanIntents s != []

/-- What lets a submission be accepted for the first time: BARRIER, cadence, shedding level, intents (R117, R170, R512,
R517). -/
def newLets (s : State) (j : Job) : Bool :=
  !(j.descs.any hasBarrier && earlierOpen s j) && cadenceLets s j && levelLets s j && !kumHeld s j

/-- One try to take a waiting submission: it is accepted, accepted with an error, or goes on waiting. -/
def tryAdmit (s : State) (j : Job) : State :=
  let x := ringOf s j.ring
  if j.phase ≠ .waiting ∨ j.bufDue ∨ !serving s ∨ !sliceServes (sliceOf s j.slice) then s
  else if !j.recovered ∧ (x.st ≠ .enabled ∨ !newLets s j) then s
  else match j.bad, j.poolFail with
    | some e, _ => refuse s j (j.descs.length - 1) e
    | none, some st =>
      let s := acceptDecided s j 0 { status := st }
      if j.poolCause = 0 then s else sliceFault s j.slice j.poolCause
    | none, none =>
      match checkSteps j (List.range (if j.finish.isSome then j.descs.length - 1 else j.descs.length)) s with
      | (.fail e, i, s) => refuse s j i e
      | (.wait, _, s) => s
      | (.pass, _, s) =>
        if !j.recovered ∧ behindHolds s j then hold s j
        else if (!j.recovered ∧ (latticeParked s j ∨ kindWaits s j)) ∨ !ledgerLets s j then s
        else admitValue s j

/-- ADMISSION (R11): a waiting descriptor obtains what it waits for. -/
def execAdmission (job : Nat) (s : State) : Res :=
  match jobOf s job with
  | some j => .next (tryAdmit s j)
  | none => .next s

end Sys2Proof.Machine
end

