-- ==== Sys2Proof/Machine/CadenceCmds.lean ====
section
/-! DEFINITION. Cadence commands and the events of the TREF counter: START, STOP, the opening and end of periods, cadence lost, TREF
stopping and returning (R76, R170 to R182, R570). -/
namespace Sys2Proof.Machine

/-- The first whole microsecond at or after a time. -/
def wholeUs (t : Nat) : Nat := us (ceilDiv t 100)

/-- Origin of a START: TB_CAD_T0 when it lies ahead, else the next tick (R178). -/
def originOf (s : State) : Nat := if s.glb.cadT0 > now s then wholeUs s.glb.cadT0 else us (now s / 100 + 1)

/-- On a member with CAD_ALIGN the origin goes on to a multiple of the period in the leader's time (R570). -/
def alignOrigin (s : State) (t0 t : Nat) : Nat :=
  if inGroup s ∧ s.mir.cadAlign ∧ !s.mir.skew then t0 + ((-((t0 : Int) + s.mir.offset)) % (t : Int)).toNat else t0

/-- Work of earlier periods keeps no number that a period of the new cadence could have. -/
def closeOldPeriods (s : State) (r : Nat) : State :=
  { s with jobs := s.jobs.map (fun j => if j.ring = r ∧ j.period.isSome then { j with period := some (2 ^ 64) } else j) }

/-- A START (R178, R179). -/
def startCadence (s : State) (r : Nat) : State :=
  let x := ringOf s r
  if x.st ≠ .enabled ∨ x.ctx.periodUs = 0 then updCad s r (fun c => { c with cmdIgnored := true })
  else if x.cad.st ≠ .stopped then updCad s r (fun c => { c with startRepeated := true })
  else
    let t0 := alignOrigin s (originOf s) (periodOf x.ctx)
    let s := closeOldPeriods { s with glb := { s.glb with cadT0 := 0 } } r
    updCad s r (fun c => { c with
      st := .waiting, t0 := t0, openAt := t0, debt := 0, period := 0, periods := 0, inPeriod := false, accepting := false, rejoin := false
      regain := false })

/-- CADENCE_START (R177 to R179): a write of TB_CAD_CMD with CMD START. -/
def execCadenceStart (ring : Nat) (s : State) : Res :=
  portAccess (.cadenceStart ring) s (.next (regWrite s (fun s => startCadence s ring)))

/-- CADENCE_STOP (R180, R181): a write of TB_CAD_CMD with CMD STOP. -/
def execCadenceStop (ring : Nat) (s : State) : Res :=
  portAccess (.cadenceStop ring) s (.next (regWrite s (fun s =>
    if (ringOf s ring).cad.st = .stopped then updCad s ring (fun c => { c with stopWithoutStart := true })
    else stopCadence s ring)))

/-- Periods open: TREF runs and the core is in service. -/
def cadenceRuns (s : State) : Bool := s.clock.running && serving s

/-- CADENCE_ORIGIN (R172, R175): a waiting ring's first period opens. -/
def execCadenceOrigin (ring : Nat) (s : State) : Res :=
  let c := (ringOf s ring).cad
  if cadenceRuns s ∧ c.st = .waiting ∧ c.openAt ≤ now s then .next (openPeriod s ring c.openAt) else .next s

/-- PERIOD_END (R172, R174): the scheduled end of a period, or the grid boundary at which the next one opens after a loss. -/
def execPeriodEnd (ring : Nat) (s : State) : Res :=
  let c := (ringOf s ring).cad
  if !cadenceRuns s ∨ (c.st ≠ .running ∧ c.st ≠ .late) then .next s
  else if !c.inPeriod then .next (if c.openAt ≤ now s then openPeriod s ring c.openAt else s)
  else if c.st = .late ∨ now s < c.scheduledEnd then .next s
  else if periodWork s ring then .next (updCad s ring (fun c => { c with st := .late, accepting := false }))
  else .next (openPeriod s ring c.scheduledEnd)

/-- CADENCE_LOST (R174): debt and lateness pass four periods. -/
def execCadenceLost (ring : Nat) (s : State) : Res :=
  let x := ringOf s ring
  let c := x.cad
  if cadenceRuns s ∧ c.st = .late ∧ c.inPeriod ∧ !c.rejoin ∧ 4 * periodOf x.ctx < c.debt + (now s - c.scheduledEnd) then
    .next (reportLost s ring)
  else .next s

/-- Rings whose cadence is running, late ones included. -/
def runningCadences (s : State) : List Nat :=
  (s.rings.filter (fun e => e.2.cad.st == .running || e.2.cad.st == .late)).map (·.1)

/-- TREF_STOP (R76, R175): time stands still; each running cadence is reported lost. -/
def execTrefStop (s : State) : Res :=
  if !s.clock.running then .next s
  else
    let s := { s with clock := { s.clock with running := false } }
    if !mainOn s then .next s
    else .next ((runningCadences s).foldl reportLost { s with glb := { s.glb with trefLost := true } })

/-- A running ring after TREF's return: its log record at once, and its next period at the first boundary after the later of the
return and the end of its accepted work (R175). -/
def regainGrid (s : State) (r : Nat) : State :=
  let s := logLost s r (now s + 1)
  if periodWork s r ∧ (ringOf s r).cad.inPeriod then updCad s r (fun c => { c with st := .late, debt := 0, regain := true })
  else openOnGrid s r (now s + 1)

/-- A waiting ring whose origin has not come keeps it, else takes the next boundary. -/
def regainOrigin (s : State) (r : Nat) : State :=
  let x := ringOf s r
  if x.cad.t0 > now s then s
  else
    let b := boundaryFrom x (now s + 1)
    updCad s r (fun c => { c with openAt := b.1, period := b.2 })

/-- TREF_RETURN (R175). -/
def execTrefReturn (s : State) : Res :=
  if s.clock.running then .next s
  else
    let s := { s with clock := { s.clock with running := true } }
    if !mainOn s then .next s
    else
      let s := { s with glb := { s.glb with trefLost := false } }
      let waiting := (s.rings.filter (fun e => e.2.cad.st == .waiting)).map (·.1)
      .next (waiting.foldl regainOrigin ((runningCadences s).foldl regainGrid s))

end Sys2Proof.Machine
end

