-- ==== Sys2Proof/Machine/PartFault.lean ====
section
/-! DEFINITION. Faults of parts: fencing, recovery of the part's job, parts sent to the self-test, kinds that become
unavailable (R203, R237, R256, R276, R541 to R546, R550 to R553). -/
namespace Sys2Proof.Machine

/-- Jobs that wait for a part of an unavailable kind end with NO_RIGHT (R546). -/
def kindGoneJob (k : Engine) (s : State) (id : Nat) : State :=
  match jobOf s id with
  | some j => if waitsFor s j = some k then failStep s j { status := stNoRight, sub := 0x0146 } else s
  | none => s
def sweepKind (s : State) (k : Engine) : State :=
  if kindGone s k then (s.jobs.map (·.id)).foldl (kindGoneJob k) s else s

/-- A part goes to the self-test at once, ahead of the rotation (R545). -/
def sendToTest (s : State) (p : Engine × Nat) : State :=
  updPart s p.1 p.2 (fun x => { x with test := .underTest, mayReturn := true })

/-- Recovers the job of a faulting part: it runs again on another part, or a Class B alarm decides how it goes on (R223); at its third
fault it ends (R543, R545, R552). -/
def recoverJob (s : State) (j : Job) (p : Engine × Nat) (alarm : Bool) : State :=
  match j.phase with
  | .fetching | .operands | .computed | .finished =>
    let seen := j.faultedOn ++ [p]
    let j := { j with faultedOn := seen, recovered := true }
    if seen.length ≥ 3 then
      let s := (seen.drop 1).foldl sendToTest s
      failStep s j { status := stNoRight, sub := 0x0147 }
    else if alarm then setJob s j
    else rerunJob s j
  | _ => s

/-- Fences a part, with its log record, vector 8 and the revocation of its lease (R543, R544, R549, R550). -/
def fencePart (s : State) (p : Engine × Nat) (why : FenceSt) : State :=
  let s := updPart s p.1 p.2 (fun x => { x with fence := why, busy := none, own := false })
  let s := if p.1 = .saffron then abandonSeal s p.2 else if p.1 = .hash then abandonBuild s p.2 else s
  let s := revoke s (.part p.1 p.2)
  notifyManager (writeLog s 0x0009 0xFFFF (leBytes 1 (engCode p.1) ++ leBytes 1 p.2)) 8

/-- The third fault of the job on a part, for which the part is not fenced (R545). -/
def thirdFault (j : Job) : Bool :=
  decide (j.faultedOn.length ≥ 2) && (j.phase == .fetching || j.phase == .operands || j.phase == .computed || j.phase == .finished)

/-- A part fault (R203, R543): the part is fenced, its job recovered, and a kind that loses its last part is swept; a codeword fault of
a Saffron lane raises a Class B alarm, which decides its job too. -/
def partFault (s : State) (k : Engine) (n : Nat) (why : FenceSt) : State :=
  let holder := (partOf s k n).busy.bind (jobOf s)
  let s := updPart s k n (fun x => { x with faults := satInc 8 x.faults })
  let s := match holder with
    | some j => if thirdFault j then updPart s k n (fun x => { x with busy := none }) else fencePart s (k, n) why
    | none => fencePart s (k, n) why
  let alarm : Bool := k = .saffron ∧ why = .codeword
  let s := match holder with
    | some j => recoverJob s j (k, n) alarm
    | none => s
  let s := if alarm then classB s 0x12 else s
  sweepKind s k

/-- Parts that can fault: lanes, hash lanes, units in service (R541). -/
def canFault (s : State) (k : Engine) (n : Nat) : Bool :=
  mainOn s && decide (n < engCount k) && (partOf s k n).fence == .inService &&
    match k with
    | .pepper | .saffron | .hash | .bignum | .lattice => true
    | .stateful | .keyStore | .entropy => false

end Sys2Proof.Machine
end

