-- ==== Sys2Proof/Machine/Sched.lean ====
section
/-! DEFINITION. Dispatch: class P before class N, virtual time, caps, parked parts, rings in turn (R162 to R166, R201, R349,
R517), the charge of a dispatched segment or job, and the HMAC state cache from which a lane may start (R234, R235). -/
namespace Sys2Proof.Machine

/-- Jobs of slices that hold a part of a kind, once for each part. -/
def heldOf (s : State) (k : Engine) : List Job :=
  (s.jobs.filter (fun j => !ownWork j)).flatMap (fun j => ((j.part.toList ++ j.more).filter (fun p => p.1 == k)).map (fun _ => j))

/-- Slices for which a hash lane builds a tree, once for each lane (R314). -/
def buildsOf (s : State) (k : Engine) : List Nat :=
  if k = .hash then (s.res.builds.filter (·.lane.isSome)).map (·.slice) else []

/-- A slice holds fewer parts of the kind than its cap (R165); zero is no cap. -/
def sliceUnderCap (s : State) (k : Engine) (sl : Nat) : Bool :=
  let c := capOf s.cfg.cur sl k
  c == 0 || decide ((heldOf s k).countP (fun q => q.slice == sl) + (buildsOf s k).count sl < c)
def underCap (s : State) (k : Engine) (j : Job) : Bool := sliceUnderCap s k j.slice

/-- Class N work of a non-privileged slice. -/
def isHumble (s : State) (j : Job) : Bool := !isClassP s j && !(sliceOf s j.slice).privileged

/-- Below Full, such work holds at most half of the in-service parts of a lane kind (R517). -/
def halfFree (s : State) (k : Engine) : Bool :=
  s.pwr.level == .full || s.pwr.level == .finish || !(k == .pepper || k == .saffron || k == .hash) ||
    decide (2 * ((heldOf s k).countP (isHumble s) + (buildsOf s k).countP (fun sl => !(sliceOf s sl).privileged) + 1) ≤
      (List.range (engCount k)).countP (fun n => !partOut (partOf s k n)))
def halfRule (s : State) (k : Engine) (j : Job) : Bool := !isHumble s j || halfFree s k

/-- The acceptance number from which on jobs stay off a part, none where the level parks it not (R517). -/
def parkedFrom (s : State) (k : Engine) (n : Nat) : Option Nat :=
  match s.pwr.level, k with
  | .trim, .pepper | .essential, .pepper => if 128 ≤ n then some s.pwr.parkedTrim else none
  | .trim, .lattice | .essential, .lattice => some s.pwr.parkedTrim
  | .essential, .bignum => if 32 ≤ n then some s.pwr.parkedEssential else none
  | _, _ => none

/-- A part may take a job at the level in force; at Finish every accepted job runs on any part. -/
def parkLets (s : State) (k : Engine) (n : Nat) (j : Job) : Bool :=
  match parkedFrom s k n with
  | some a => decide (j.acceptNo < a)
  | none => true

/-- A Saffron segment whose seed the internal instance cannot supply yet waits for its reseed (R201, R355). -/
def seedWaits (s : State) (k : Engine) : Bool := k == .saffron && !entropyDown s && !internalReady s

/-- Saffron lanes that the core holds for work of its own (R205). -/
def ownLanes (s : State) : Nat :=
  s.store.sealing.countP (fun t => t.lane.isSome) + s.jobs.countP (fun j => j.more.any (fun p => p.1 == .saffron))
/-- The core may hold a further part of a kind for its own work: at most four Saffron lanes (R205). -/
def ownLets (s : State) (k : Engine) : Bool := k != .saffron || decide (ownLanes s < 4)

/-- Jobs that a free part could take now. -/
def candidates (s : State) (k : Engine) (n : Nat) : List Job :=
  s.jobs.filter (fun j => dispatchable s k j && parkLets s k n j && !seedWaits s k &&
    (!weighted k || (if ownWork j then ownLets s k else underCap s k j && halfRule s k j)))

/-- The job of a list that was accepted first. -/
def firstAccepted : List Job → Option Job
  | [] => none
  | j :: r =>
    match firstAccepted r with
    | some q => if q.acceptNo < j.acceptNo then some q else some j
    | none => some j

/-- A random step reseeds its instance: asked for, or due after 2^ENT_RESEED_INTERVAL requests (R355, R357). -/
def wantsReseed (s : State) (j : Job) (d : Desc) : Bool :=
  d.opcode != 0x0700 || decide (2 ^ (cfgOf s j.gen).reseedLog2 ≤ (drbgOf s j.slice).reqs)

/-- The random job that goes next: the one accepted first, but while it would take a conditioned block for a reseed, one that
takes a block for an instantiation goes ahead of it (R343). -/
def pickRandom (s : State) (js : List Job) : Option Job :=
  match firstAccepted js with
  | none => none
  | some j =>
    if (drbgOf s j.slice).st ≠ .uninstantiated ∧ wantsReseed s j (stepDesc j) then
      (firstAccepted (js.filter (fun q => (drbgOf s q.slice).st == .uninstantiated))).or (some j)
    else some j

/-- The slice with the smallest virtual time, the lower number on a tie (R163). -/
def pickSlice (s : State) (k : Engine) (js : List Job) : Option Nat :=
  let less := fun (a b : Nat) => decide (vtOf s k a < vtOf s k b) || (vtOf s k a == vtOf s k b && decide (a < b))
  match js.map (·.slice) with
  | [] => none
  | x :: xs => some (xs.foldl (fun a b => if less b a then b else a) x)

/-- Where a slice's turns of a kind stand, for each class (R166). -/
def turnKey (s : State) (k : Engine) (j : Job) : Nat := 2 * vtKey k j.slice + b2n (isClassP s j)
/-- The next ring of a slice after the one last served, in ascending number; the jobs are of one slice and class (R166). -/
def pickRing (s : State) (k : Engine) (js : List Job) : Option Nat :=
  match js with
  | [] => none
  | j :: _ => arbiter (look s.sched.lastRing (turnKey s k j) 0) (js.map (·.ring))
/-- A job takes its ring's turn. -/
def takeTurn (s : State) (k : Engine) (j : Job) : State :=
  { s with sched := { s.sched with lastRing := put s.sched.lastRing (turnKey s k j) ((j.ring + 1) % 4096) } }

/-- The choice among jobs of one class (R163, R166). -/
def choose (s : State) (k : Engine) (js : List Job) : Option Job :=
  match pickSlice s k js with
  | none => none
  | some sl =>
    let mine := js.filter (fun j => j.slice == sl)
    match pickRing s k mine with
    | none => none
    | some r => firstAccepted (mine.filter (fun j => j.ring == r))

/-- The job that a free part of a kind takes. The core's own work, in acceptance order, goes ahead of all slices' on Saffron lanes,
ahead of class N work on units (R205, R389). -/
def pick (s : State) (k : Engine) (n : Nat) : Option Job :=
  let js := candidates s k n
  if k = .entropy then pickRandom s js
  else if !weighted k then firstAccepted js
  else
    let own := firstAccepted (js.filter ownWork)
    let rest := js.filter (fun j => !ownWork j)
    if k = .saffron ∧ own.isSome then own
    else match rest.filter (isClassP s) with
      | [] => own.or (choose s k rest)
      | p :: ps => choose s k (p :: ps)

/-- What a cost adds to a slice's virtual time under the job's own generation, rounded down (R163, R193; log entry 165). -/
def vtShare (s : State) (j : Job) (k : Engine) (cost : Nat) : Nat :=
  if weighted k then cost * 256 / weightOf (cfgOf s j.gen) j.slice (chargedKind (stepDesc j) k) else 0
/-- Adds to a slice's virtual time of a kind. -/
def charge (s : State) (j : Job) (k : Engine) (x : Nat) : State := if x = 0 then s else setVt s k j.slice (vtOf s k j.slice + x)

/-- Cost of a unit's job: its class grid entry in microseconds, rounded up, at least 1; the sum for several checks (R163). -/
def gridCost (c : CfgImage) (cs : List Nat) : Nat := (cs.map (fun x => max 1 (ceilDiv (gridEntry c x) 100))).sum

/-- Cost of a step on a part: 1 per 4 KiB of input for a lane's segment and for hash lanes that a lattice unit directs, else that of
its classes (R163; log entry 172). -/
def partCost (s : State) (j : Job) (d : Desc) (k : Engine) (cs : List Nat) : Nat :=
  if isSegmented d.opcode then ceilDiv (min segBytes (inputTotal j d - segBytes * j.segDone)) 4096
  else if k = .hash ∧ isSlh d.opcode then ceilDiv d.length 4096
  else gridCost (cfgOf s j.gen) cs

/-- The classes of a step follow from its descriptor and key; else its operands show them (R184). -/
def classesKnown (op : Nat) (key : Option Key) : Bool :=
  (key.isSome || [0x0300, 0x0301, 0x0431].contains op) && op != 0x0422 && op != 0x0430

/-- What the dispatch of a step to a part charges: 1 for a unit while the class is not known (R163; log entry 29). -/
def dispatchShare (s : State) (j : Job) (k : Engine) (key : Option Key) (second : Bool) : Nat :=
  let d := stepEff j
  let c := opClasses s j d key
  let known := isSegmented d.opcode || (k == .hash && isSlh d.opcode) || classesKnown d.opcode key
  vtShare s j k (if known then partCost s j d k (if second then c.2 else c.1) else 1)

/-- Charges what the dispatch could not know yet, once the operands are read (R163; log entry 29). -/
def chargeRest (s : State) (j : Job) (d : Desc) (c : List Nat × List Nat) : State :=
  let s := match j.part with
    | some (k, _) => charge s j k (vtShare s j k (partCost s j d k c.1) - j.charged.1)
    | none => s
  match j.more.head? with
  | some (k, _) => if c.2 = [] ∨ ownWork j then s else charge s j k (vtShare s j k (partCost s j d k c.2) - j.charged.2)
  | none => s

/-- A lane draws its seed at the start of a segment; a Pepper lane goes on without (R198 to R201, R349). -/
def seedLane (s : State) (k : Engine) : State :=
  match k with
  | .pepper =>
    if internalReady s then (drawRandom s).2
    else { s with ent := { s.ent with stale := true, staleCount := satInc 32 s.ent.staleCount } }
  | .saffron => (drawRandom s).2
  | _ => s

/-- What loading the key of a step gives: the key (or none is needed), a failure, or its record is still being read. -/
inductive Loaded where
  | ready (k : Option Key)
  | fail (e : Ending)
  | wait
  deriving DecidableEq, Repr

/-! ## The HMAC state cache (R234 to R236) -/

def hmacBlock (a : ShaAlg) (key : Bytes) (x : BitVec 8) : Bytes :=
  (fit a.blockLen (if key.length > a.blockLen then sha2 a key else key)).map (· ^^^ x)

/-- The tag of an entry's content. -/
def hmacTag (s : State) (e : HmacEntry) : Bytes :=
  kmac256 (s.keys.slotKey.getD []) (e.inner ++ e.outer ++ leBytes 4 e.slot ++ leBytes 8 e.generation ++ leBytes 1 e.hash) 16 []
/-- The entry that a key's states make, with its tag. -/
def hmacEntry (s : State) (k : Key) (code : Nat) : HmacEntry :=
  let a := sha2Of code
  let e : HmacEntry := { slot := k.slot, generation := k.generation, hash := code, inner := shaState a (hmacBlock a k.material 0x36)
                         outer := shaState a (hmacBlock a k.material 0x5C), tag := [] }
  { e with tag := hmacTag s e }

/-- An entry belongs to a key's slot and generation and names the hash function. -/
def hmacOf (k : Key) (code : Nat) (e : HmacEntry) : Bool := e.slot == k.slot && e.generation == k.generation && e.hash == code
/-- The entries in the order of their last use. -/
def setHmac (s : State) (es : List HmacEntry) : State := { s with keys := { s.keys with hmac := es } }

/-- Looks a key's entry up: a hit is used last; one whose tag fails is discarded, counted and no hit (R235). -/
def findHmac (s : State) (k : Key) (code : Nat) : Bool × State :=
  match s.keys.hmac.find? (hmacOf k code) with
  | none => (false, s)
  | some e =>
    let rest := s.keys.hmac.filter (fun x => !hmacOf k code x)
    if e.tag = hmacTag s e then (true, setHmac s (rest ++ [e]))
    else (false, { setHmac s rest with glb := { s.glb with hmacTagFails := satInc 8 s.glb.hmacTagFails } })
/-- Stores a key's entry, in the least recently used place when the cache is full (R235). -/
def storeHmac (s : State) (k : Key) (code : Nat) : State :=
  setHmac s ((if s.keys.hmac.length < (sramUnits .hmacCache).1 then s.keys.hmac else s.keys.hmac.drop 1) ++ [hmacEntry s k code])

/-- The hash code of an HMAC opcode. -/
def hmacNeeds (d : Desc) : Option Nat := if family d.opcode = 0x02 ∧ isHmac d.opcode then some (hmacCode d.opcode) else none

/-- What taking a key out of its slot gives: whether it may be used, and the state after. -/
def takeKey (s : State) (k : Key) (hmacOp : Option Nat) (bad : Bool) : Bool × State :=
  match hmacOp.map (findHmac s k) with
  | some (true, s) => (true, s)
  | x =>
    let s := (x.map (·.2)).getD s
    if !keyIntact s k then (false, keyDamaged s k)
    else if k.bad ∧ !bad then (false, s)
    else (true, match hmacOp with
      | some c => storeHmac s k c
      | none => s)

/-- Loads the key of a step into its part, with the check of its tag; an HMAC job whose states are cached starts from them, its key
not loaded (R99, R235, R376). -/
def loadKey (s : State) (j : Job) : Loaded × State :=
  match needsKey (stepDesc j) with
  | none => (.ready none, s)
  | some h =>
    match findKey s j.slice h with
    | (.wait, s) => (.wait, s)
    | (.fail e, s) => (.fail e, s)
    | (.have k, s) =>
      match takeKey s k (hmacNeeds (stepDesc j)) ((stepDesc j).opcode == 0x0803) with
      | (true, s) => (.ready (some k), s)
      | (false, s) => (.fail keyBadEnd, s)

/-- A ready step takes its part, its key loaded, and its operand reads start. -/
def startStep (s : State) (j : Job) (k : Engine) (n : Nat) (key : Option Key) : State :=
  let x := dispatchShare s j k key false
  let s := charge s j k x
  let s := updPart s k n (fun p => { p with busy := some j.id })
  let s := takeTurn s k j
  let j := { j with part := some (k, n), phase := .fetching, dispatchTime := now s, releaseTime := 0,
                     lastPart := some (if (stepDesc j).opcode = 0x0601 then 6 else engCode k, n),
                     t1 := { start := now s }, loaded := key, charged := (x, 0), noted := false,
                     view := if (stepDesc j).opcode = 0x080A then attestView s else j.view }
  fetchOperands (seedLane (setJob s j) k) j.id

/-- A dispatched step takes one of its further parts; an SLH-DSA job starts its time with the fourth hash lane (R308). -/
def takeMore (s : State) (j : Job) (k : Engine) (n : Nat) : State :=
  let x := if ownWork j then 0 else dispatchShare s j k j.loaded true
  let s := charge s j k x
  let s := updPart s k n (fun p => { p with busy := some j.id })
  let s := seedLane (if ownWork j then s else takeTurn s k j) k
  let j := { j with more := j.more ++ [(k, n)], noted := false }
  let j := if ownWork j then { j with dispatchTime := now s, t1 := { j.t1 with start := now s }, t2 := { start := now s } }
    else if k = .hash then
      if j.more.length = 4 then { j with dispatchTime := now s, t1 := { j.t1 with start := now s } } else j
    else { j with t2 := { start := now s }, charged := (j.charged.1, x) }
  gainWork (setJob s j) j.id

/-- Dispatches a job to a part. A key that is missing or damaged ends the step; a key that turns out to want the other
lane kind leaves it to that kind (R83). -/
def dispatch (s : State) (j : Job) (k : Engine) (n : Nat) : State :=
  if j.phase = .ready then
    match loadKey s j with
    | (.wait, s) => s
    | (.fail e, s) => failStep s j e
    | (.ready key, s) =>
      if engineOf s j.slice (stepDesc j) key = some k then startStep s j k n key
      else gainWork (setJob s { j with noted := false }) j.id
  else takeMore s j k n

/-- The job cannot start: the lane's or the opcode's random values are not to be had (R201, R348). -/
def startRefused (s : State) (k : Engine) : Bool := entropyDown s && (k == .saffron || k == .entropy)

/-! ## The seal of store blocks (R204, R205, R454) -/

/-- A seal may start: for a WRITE, all those of lower levels are done, whose tags it holds. -/
def sealReady (ts : List SealTask) (t : SealTask) : Bool :=
  t.lane.isNone && (t.req.op == .read ||
    !ts.any (fun x => x.req.op == .write && !x.dropped && decide (objLevel x.req.obj < objLevel t.req.obj)))
/-- A lane takes the first seal that may start. -/
def takeSeal (n : Nat) (f : SealTask → Bool) : List SealTask → Option (List SealTask)
  | [] => none
  | t :: r => if f t then some ({ t with lane := some n } :: r) else (takeSeal n f r).map (t :: ·)
/-- A free Saffron lane goes to a seal, its seed drawn; none where none waits or may have it. -/
def dispatchSeal (s : State) (k : Engine) (n : Nat) : Option State :=
  if k ≠ .saffron ∨ !ownLets s k ∨ entropyDown s ∨ !internalReady s then none
  else (takeSeal n (sealReady s.store.sealing) s.store.sealing).map (fun ts =>
    seedLane (updPart { s with store := { s.store with sealing := ts } } k n (fun p => { p with own := true })) k)

/-! ## Background building (R314; log entry 181) -/

/-- A tree may go to a hash lane: class N work of its slice. -/
def buildLets (s : State) (b : TreeBuild) : Bool :=
  b.lane.isNone && decide (weightOf s.cfg.cur b.slice .hash ≠ 0) && sliceUnderCap s .hash b.slice &&
    ((sliceOf s b.slice).privileged || halfFree s .hash)
/-- The tree that a free hash lane builds: that of the slice with the smallest virtual time, unless a job of class P waits, or one of
the slice itself or of a slice before it. -/
def pickBuild (s : State) (n : Nat) : Option TreeBuild :=
  let bs := s.res.builds.filter (buildLets s)
  let js := (candidates s .hash n)
  if js.any (isClassP s) then none
  else
    let less := fun (a b : Nat) => decide (vtOf s .hash a < vtOf s .hash b) || (vtOf s .hash a == vtOf s .hash b && decide (a < b))
    match bs.map (·.slice) with
    | [] => none
    | x :: xs =>
      let sl := xs.foldl (fun a b => if less b a then b else a) x
      if js.all (fun j => less sl j.slice) then bs.find? (fun b => b.slice == sl) else none
/-- Pages of the nodes of a tree of a key. -/
def hbsCost (s : State) (b : TreeBuild) : Nat := treePages (hbsHeight (look s.res.hbs b.handle {}).param)
/-- The lane starts building: the slice is charged 1 for each 4 KiB page of the tree. -/
def startBuild (s : State) (b : TreeBuild) (n : Nat) : State :=
  let x := hbsCost s b * 256 / weightOf s.cfg.cur b.slice .hash
  let s := setVt s .hash b.slice (vtOf s .hash b.slice + x)
  let s := updPart s .hash n (fun p => { p with own := true })
  setBuilds s (s.res.builds.map (fun q => if q.handle = b.handle ∧ q.layer = b.layer then { q with lane := some n } else q))
/-- A free hash lane goes to a tree; none where none waits or may have it. -/
def dispatchBuild (s : State) (k : Engine) (n : Nat) : Option State :=
  if k ≠ .hash then none else (pickBuild s n).map (fun b => startBuild s b n)

/-- Key-store work is held at dispatch while the pair restarts (R480). -/
def kindOpen (s : State) (k : Engine) : Bool := k != .keyStore || s.mgmt.st == .running

/-- JOB_DISPATCH (R162 to R166): a free part takes the job that the rules choose; nothing where none can go. -/
def execJobDispatch (kind : Engine) (part : Nat) (s : State) : Res :=
  let s := noteWork s
  if !serving s ∨ part ≥ engCount kind ∨ !kindOpen s kind ∨ !partFree (partOf s kind part) then .next s
  else match (dispatchSeal s kind part).or (dispatchBuild s kind part) with
  | some t => .next (noteWork t)
  | none => match pick s kind part with
    | none => .next s
    | some j =>
      if startRefused s kind then .next (noteWork (failStep s j { status := stEntropy }))
      else .next (noteWork (dispatch s j kind part))

end Sys2Proof.Machine
end

