-- ==== Sys2Proof/Machine/RunOp.lean ====
section
/-! DEFINITION. How an opcode runs on its part: random values, computation, result check, grid timing, what follows the
release, result writes, and the end of a step (R125, R129, R157, R158, R185 to R188, R254, R255, R275, R276,
R351 to R359). -/
namespace Sys2Proof.Machine

/-! ## DRBG instances of the slices (R351 to R357) -/

/-- Seeds a slice's instance from one conditioned block and one serial, what is due of the internal instance first (R343, R351,
R352, R354). None while block or serial are lacking. -/
def seedInstance (s : State) (n : Nat) (extra : Bytes) : Option State × State :=
  let s := reseedIfDue s
  if s.ent.st ≠ .available ∨ internalDue s ∨ s.ent.buffer = [] then (none, s)
  else if s.ent.serialNext ≥ s.ent.serialEnd then (none, askSerials s)
  else (some (seedFrom s n extra), s)

/-- Makes an instance ready for a generate request: instantiated, then reseeded where one is due or asked for; with the additional
input that is left for the request itself, none after a reseed that took it (R354 to R357, SP 800-90A). -/
def readyInstance (s : State) (j : Job) (d : Desc) : Option (State × Bytes) × State :=
  let extra := if d.aux = 0 then [] else fit d.aux (rangeData j .param)
  let x := drbgOf s j.slice
  if x.st = .uninstantiated then
    match seedInstance s j.slice [] with
    | (none, s) => (none, s)
    | (some s, t) => if wantsReseed s j d then (none, s) else (some (s, extra), t)
  else if wantsReseed s j d then
    match seedInstance (setDrbg s j.slice { x with st := .reseeding }) j.slice extra with
    | (none, s) => (none, s)
    | (some s, t) => (some (s, []), t)
  else (some (s, extra), s)

/-- RANDOM, RANDOM_PR, RESEED (R357, R358): the whole output is generated before any byte is written. -/
def randomWork (s : State) (j : Job) (d : Desc) : Option (Work × State) × State :=
  match readyInstance s j d with
  | (none, s) => (none, s)
  | (some (s, extra), _) =>
    if d.opcode = 0x0702 then (some ({}, s), s)
    else
      let x := drbgOf s j.slice
      let s := setDrbg s j.slice (drbgAfter x extra d.length)
      (some (outputAt j 1 (drbgOutput x extra d.length), s), s)

/-! ## The end of a step -/

/-- A step's work is done and its results are acknowledged: the next step, or the end of the submission (R129, R157,
R158). -/
def stepDone (s : State) (j : Job) : State :=
  let last := decide (j.descs.length ≤ j.step + 1)
  match j.bad, j.abort with
  | some e, _ => failStep s j e
  | none, some e => endWith s j e
  | none, none =>
    if !isDone j.ending.status ∨ (!last ∧ j.ending.status ≠ stDone) then failStep s j j.ending
    else if last then endJob s j
    else if j.finish.isSome ∧ j.step + 2 = j.descs.length then
      endJob s { j with step := j.step + 1, ending := { status := stDone }, result := j.finish.getD 0, resultLen := 0 }
    else
      let s := freeParts s j
      makeReady s { j with
        step := j.step + 1, data := [], asked := [], out := [], part := none, more := [], segDone := 0, written := 0
        t1 := {}, t2 := {}, after := .nothing, newKey := none, draw := 0, checkFailed := false, loaded := none, charged := (0, 0) }

/-- The step is over once no result write is under way. -/
def stepOver (s : State) (id : Nat) : State :=
  match jobOf s id with
  | some j => if j.phase = .writing ∧ !resultsPending s id then stepDone s j else s
  | none => s

/-- Bytes of a list of writes that lie in a step's destination. -/
def dstBytes (j : Job) (ws : List (Nat × Bytes)) : Nat :=
  let a := dstAddr j
  let d := stepDesc j
  ((ws.filter (fun w => decide (a ≤ w.1) && !(d.param != 0 && decide (d.param ≤ w.1) && decide (w.1 < d.param + 64)))).map
    (fun w => w.2.length)).sum

/-- Issues result writes, each wholly inside the WRITE windows of the job's generation (R43, R91). None where one lies
outside. -/
def issueResults (s : State) (j : Job) (ws : List (Nat × Bytes)) : Option State :=
  let win := windowsOf (cfgOf s j.gen) j.slice
  if ws.any (fun w => !inWindows win true w.1 w.2.length) then none
  else some (request s (ws.flatMap (fun w => writeTxns j.slice w.1 w.2 0 (.result j.id))))

/-- A unit keeps its job until it has written the result and wiped its memory (R188, R254). -/
def keepsJob (p : Engine × Nat) : Bool := p.1 == .bignum || p.1 == .lattice
/-- At the release a job gives up its parts but for the units. -/
def giveUpParts (s : State) (j : Job) : State × Job :=
  let k := { j with part := j.part.filter keepsJob, more := j.more.filter keepsJob }
  (freeParts s { j with part := j.part.filter (fun p => !keepsJob p), more := j.more.filter (fun p => !keepsJob p) }, k)

/-- Result writes start, at the release of a grid-timed job (R185, R188). -/
def startResults (s : State) (j : Job) (released : Nat) : State :=
  let (s, j) := giveUpParts s j
  let used := decide ((stepDesc j).dst = 0) && j.buf.isSome && j.resultLen != 0 && j.out != []
  let j := { j with releaseTime := released, bufUsed := used }
  match issueResults (setJob s j) j j.out with
  | none => failStep (countWindow s j.slice) j { status := stWindow }
  | some s =>
    let j := { j with phase := .writing, out := [], written := j.written + dstBytes j j.out }
    stepOver (setJob s j) j.id

/-! ## Intents and batches after the release (R29, R328, R330, R420) -/

/-- The INTENT of a job (R419). -/
def jobIntent (j : Job) (kind op object argument : Nat) : LPayload :=
  .intent kind op j.slice j.ring j.epoch j.seq object argument (j.repeats.getD 0)

/-- Intent KIND of a KUM operation (R429). -/
def kumKind (op : Nat) : Nat :=
  if op = 0x01 ∨ op = 0x03 ∨ op = 0x30 then 2 else if op = 0x10 ∨ op = 0x11 ∨ op = 0x12 then 3 else 4

/-- A raise joins a waiting record of fewer than three raises, or gets its own (R420). -/
def joinRaise (id : Nat) (m : Nat × Nat) : List (LRec × Effect) → Option (List (LRec × Effect))
  | [] => none
  | q :: r =>
    match q.2, q.1.payload with
    | .raised js, .counter ms =>
      if ms.length < 3 then some (({ q.1 with payload := .counter (ms ++ [m]) }, .raised (js ++ [id])) :: r)
      else (joinRaise id m r).map (q :: ·)
    | _, _ => (joinRaise id m r).map (q :: ·)
def raiseCounter (s : State) (id : Nat) (m : Nat × Nat) : State :=
  match joinRaise id m s.per.queue.tail with
  | some r => { s with per := { s.per with queue := s.per.queue.take 1 ++ r } }
  | none => enqueue s (.counter [m]) (.raised [id])

/-- What a computed step does once it may be released. -/
def afterRelease (s : State) (j : Job) (released : Nat) : State :=
  let j := { j with releaseTime := released }
  let d := stepDesc j
  let (t, q) := giveUpParts s { j with phase := .committing }
  let committing := setJob t q
  match j.after with
  | .nothing => startResults s j released
  | .createKey =>
    let span := match j.newKey with
      | some k => if k.alg = 0xFF then 1 else spanOf k.material.length
      | none => 1
    if (makeRoom s j.slice span).isNone then failStep s j { status := stKeyExhausted, sub := 0x0320 }
    else enqueue committing (jobIntent j 1 0 0 0) (.createKey j.id)
  | .destroyKey =>
    enqueue committing (jobIntent j 1 0 d.key 0) (.createKey j.id)
  | .raise =>
    raiseCounter committing j.id (ordCounter j, j.result)
  | .kum =>
    let b := rangeData j .src
    let op := field b 0x0E 1
    let s := match j.opid with
      | some o => enqueue committing (.rollback o) .nothing
      | none => committing
    let object := if op = 0x21 then field b 0x8C 4 % 2 else field b 0x48 4
    enqueue s (jobIntent j (kumKind op) op object (field b 0x40 8)) (.applyKum j.id)
  | .batch =>
    let s := committing
    let j := q
    if versionsGone s then failStep s j { status := stStoreUnavailable, sub := 0x0506 }
    else match findPair s d.key d.inline with
      | (.fail x, s) => failStep s j (storeEnding x)
      | (.wait, s) => setJob s { j with phase := .computed }
      | (.at p, s) =>
        let e := ordOf s j.slice d.key d.inline
        let s := writePair s p d.key j.slice d.inline (if p.isNew then (e.map (·.committedEnd)).getD 1 else p.committedEnd) j.result
        let s := match e with
          | some x => setOrd s { x with block := j.result }
          | none => s
        joinBatch s (fun b => { b with jobs := b.jobs ++ [j.id] })

/-! ## Computing -/

/-- Parts of the grid still to be timed. -/
def timed (j : Job) : Bool := j.t1.classes != [] || j.t2.classes != []

/-- A write into the parameter handle of a chain step goes into the handle's content (R152). -/
def isHandleWrite (w : Nat × Bytes) : Bool := isHandle w.1
def handleWrites (j : Job) (d : Desc) (ws : List (Nat × Bytes)) : Tbl Bytes :=
  (ws.filter isHandleWrite).foldl (fun h w =>
    let n := d.param - handleBase
    put h n (overlay (look h n []) (w.1 - d.param) w.2)) j.handles

/-- Takes a step's computed work. -/
def takeWork (s : State) (j : Job) (d : Desc) (k : Option Key) (w : Work) : State :=
  let c := opClasses s j d k
  let b := signBlocks d.opcode k w.blocks
  let s := chargeRest s j d c
  let hs := handleWrites j d w.writes
  let hs := match w.handle with
    | some h => put hs (d.dst - handleBase) h
    | none => hs
  setJob s { j with
    phase := .computed, out := w.writes.filter (fun x => !isHandleWrite x), handles := hs, ending := w.ending
    result := w.result, resultLen := w.len, unverified := w.unverified, batchPartial := w.batchPartial
    after := if isDone w.ending.status then w.after else .nothing
    newKey := w.newKey
    t1 := { j.t1 with classes := c.1, blocks := b.1 }
    t2 := { j.t2 with classes := c.2, blocks := b.2, start := if j.more = [] then j.t1.start else j.t2.start } }

/-- A failed check of a private-key result: a part fault the first time, the key's the second (R275, R276). -/
def checkFails (s : State) (j : Job) (k : Option Key) : State :=
  if j.checkFailed then
    let s := match k with
      | some x => writeLog (putTagged s { x with bad := true }) 0x0004 x.owner (leBytes 4 x.handle)
      | none => writeLog s 0x0004 j.slice (leBytes 4 0)
    failStep s j { status := stKeyIntegrity, sub := 0x0330 }
  else
    let j := { j with checkFailed := true }
    match j.part with
    | some (e, n) => partFault (setJob s j) e n .failed
    | none => rerunJob s j

/-- The key that KEY_WRAP exports is loaded beside the job's own, with the check of its tag (R376, R390). -/
def exportLoaded (s : State) (j : Job) (d : Desc) : State :=
  match if d.opcode = 0x0800 then resolveKey s j.slice (d.inline % 2 ^ 32) else none with
  | some e => if keyIntact s e then s else keyDamaged s e
  | none => s

/-- Computes with the random value n. -/
def computeWith (s : State) (j : Job) (d : Desc) (k : Option Key) (n : Nat) : State :=
  let w := opWork s j d k n
  let s := exportLoaded s j d
  if w.checked && (Config.resultCheckFails n || w.wrong) then checkFails s j k
  else takeWork s j d k w

/-- The draw that a run of a step uses again: a one-time signature's and an encapsulation's first (R28, R316; log entry 179). -/
def keptDraw (j : Job) (d : Desc) : Option Nat :=
  if d.opcode = 0x0601 ∧ j.draw ≠ 0 then some (j.draw - 1)
  else if isEncaps d.opcode then look? j.encaps j.step
  else none

/-- Draws the random value of a run (R255). None while the internal instance has not reseeded. -/
def drawFor (s : State) (j : Job) (d : Desc) : Option (Nat × State) :=
  match keptDraw j d with
  | some n => some (n, s)
  | none => if internalReady s then some (drawRandom s) else none

/-! ## Recovered signatures (R31, R552) -/

/-- The value of the signature that a recovered step finds at its destination, if it verifies and its value comes from a block
reserved before this start. -/
def adoptedValue (s : State) (j : Job) (d : Desc) (k : Key) : Option Nat :=
  let b := rangeData j .dest
  let m := (rangeData j .src).take d.length
  if d.opcode = 0x0601 then
    let pub := publicOf s k
    let i := usedIndex k.alg pub b
    if b.length = signedLen 0x0601 k ∧ hbsVerify k.alg pub m b ∧ beforeStart s k.handle 0 i then some i else none
  else
    let r := b.take 112
    let v := field r 0x20 8
    if b.length = signedLen 0x0900 k ∧ r = ordRecord (ordDomain j) d.inline v (ordHash j) m ∧
        ordVerifies { k with material := publicOf s k } r (b.drop 112) ∧ beforeStart s d.key d.inline v then some v else none

/-- What a recovered signing step works with: an adopted signature, a fresh value, or it waits for one. -/
inductive Fresh where
  | adopt (w : Work)
  | value (n : Nat)
  | fail (e : Ending)
  | wait
  deriving DecidableEq, Repr

/-- A recovered signing step adopts what it finds, or takes a fresh value (R31). -/
def freshValue (s : State) (j : Job) (d : Desc) (k : Key) : Fresh × State :=
  match adoptedValue s j d k with
  | some v => (.adopt { outputAt j 1 (rangeData j .dest) with result := v }, s)
  | none => match assign s j.slice d (some k) with
    | (.value n, s) => (.value n, takeAssigned s j.slice d (some k))
    | (.fail e, s) => (.fail e, s)
    | (.wait, s) => (.wait, holdBlock s j)

/-- Runs the current step of a dispatched job whose value is settled. -/
def computeNow (s : State) (j : Job) : State :=
  let d := stepEff j
  let k := j.loaded
  let e := j.part.map (·.1)
  if family d.opcode = 0x07 then
    if entropyDown s then failStep s j { status := stEntropy } else
    match randomWork s j d with
    | (none, s) => s
    | (some (w, s), _) => takeWork s j d k w
  else if d.opcode = 0x0903 ∧ s.per.broken.contains (ordCounter j) then
    failStep (writeLog s 0x000C 0xFFFF (leBytes 2 (ordCounter j))) j { status := stBadParam, sub := 0x0117 }
  else if family d.opcode ≠ 0x01 ∧ opRandom s d e k then
    if entropyDown s ∧ (keptDraw j d).isNone then failStep s j { status := stEntropy }
    else match drawFor s j d with
      | none => s
      | some (n, s) =>
        computeWith s { j with draw := n + 1, encaps := if isEncaps d.opcode then put j.encaps j.step n else j.encaps } d k n
  else
    let (n, s) := draw s
    computeWith s j d k n

/-- Runs the current step of a dispatched job. -/
def compute (s : State) (j : Job) : State :=
  let d := stepEff j
  match j.loaded with
  | none => computeNow s j
  | some k =>
    if !(valueLater j d && j.value.isNone) then computeNow s j
    else match freshValue s j d k with
      | (.adopt w, s) => takeWork s j d (some k) w
      | (.value n, s) => computeNow (setJob s { j with value := some n }) { j with value := some n }
      | (.fail e, s) => failStep s j e
      | (.wait, s) => s

/-- A job can run an opcode now: dispatched with all its parts, operands read, the opcode that of its step, and on a lane
the last segment in progress. -/
def canRun (s : State) (op : Nat) (j : Job) : Bool :=
  mainOn s && j.phase == .operands && (stepDesc j).opcode == op && (missingMore s j).isEmpty && lastSegment j

/-- An opcode of the table runs for a submission; nothing where that submission does not stand at it. -/
def runOp (op id : Nat) (s : State) : Res :=
  match jobOf s id with
  | some j => .next (if canRun s op j then compute s j else s)
  | none => .next s

/-! ## NOP and FENCE (R118) -/

/-- A step that uses no engine is done as soon as it may go. -/
def runControl (op id : Nat) (s : State) : Res :=
  match jobOf s id with
  | some j =>
    if mainOn s ∧ j.phase = .ready ∧ (stepDesc j).opcode = op ∧ fencePassed s j ∧ !j.bufDue ∧ j.abort.isNone then
      .next (startResults s { j with ending := { status := stDone }, result := 0, resultLen := 0, out := [], dispatchTime := 0, lastPart := none } 0)
    else .next s
  | none => .next s

end Sys2Proof.Machine
end

