-- ==== Sys2Proof/Machine/Cipher.lean ====
section
/-! DEFINITION. The cipher opcodes (R206 to R222): each runs for a submission whose current step it is. -/
namespace Sys2Proof.Machine

/-- CBC_ENC (R206): AES-CBC encryption opcode. -/
def execCbcEnc (job : Nat) (s : State) : Res := runOp 0x0101 job s

/-- CBC_DEC (R206): AES-CBC decryption opcode. -/
def execCbcDec (job : Nat) (s : State) : Res := runOp 0x0102 job s

/-- CFB_ENC (R206): AES-CFB128 encryption opcode. -/
def execCfbEnc (job : Nat) (s : State) : Res := runOp 0x0103 job s

/-- CFB_DEC (R206): AES-CFB128 decryption opcode. -/
def execCfbDec (job : Nat) (s : State) : Res := runOp 0x0104 job s

/-- OFB_ENC (R206): AES-OFB encryption opcode. -/
def execOfbEnc (job : Nat) (s : State) : Res := runOp 0x0105 job s

/-- OFB_DEC (R206): AES-OFB decryption opcode. -/
def execOfbDec (job : Nat) (s : State) : Res := runOp 0x0106 job s

/-- CTR_ENC (R215): AES-CTR encryption opcode. -/
def execCtrEnc (job : Nat) (s : State) : Res := runOp 0x0107 job s

/-- CTR_DEC (R215): AES-CTR decryption opcode. -/
def execCtrDec (job : Nat) (s : State) : Res := runOp 0x0108 job s

/-- GCM_ENC (R206): AES-GCM encryption opcode writing ciphertext and tag. -/
def execGcmEnc (job : Nat) (s : State) : Res := runOp 0x0109 job s

/-- GCM_DEC (R220): AES-GCM decryption opcode that reports DONE_UNVERIFIED on tag mismatch. -/
def execGcmDec (job : Nat) (s : State) : Res := runOp 0x010A job s

/-- CCM_ENC (R216): AES-CCM encryption opcode. -/
def execCcmEnc (job : Nat) (s : State) : Res := runOp 0x010B job s

/-- CCM_DEC (R220): AES-CCM decryption opcode. -/
def execCcmDec (job : Nat) (s : State) : Res := runOp 0x010C job s

/-- XTS_ENC (R217): AES-XTS encryption opcode. -/
def execXtsEnc (job : Nat) (s : State) : Res := runOp 0x010D job s

/-- XTS_DEC (R217): AES-XTS decryption opcode. -/
def execXtsDec (job : Nat) (s : State) : Res := runOp 0x010E job s

/-- KW_WRAP (R218): AES key wrap of host data. -/
def execKwWrap (job : Nat) (s : State) : Res := runOp 0x0110 job s

/-- KW_UNWRAP (R219): AES key unwrap that writes nothing unless its integrity check passes. -/
def execKwUnwrap (job : Nat) (s : State) : Res := runOp 0x0111 job s

/-- KWP_WRAP (R218): AES key wrap with padding of host data. -/
def execKwpWrap (job : Nat) (s : State) : Res := runOp 0x0112 job s

/-- KWP_UNWRAP (R219): AES key unwrap with padding, returning the recovered length. -/
def execKwpUnwrap (job : Nat) (s : State) : Res := runOp 0x0113 job s

end Sys2Proof.Machine
end

