-- ==== Sys2Proof/Machine/Rings.lean ====
section
/-! DEFINITION. From a doorbell to a fetched submission: producer indices, fetched descriptors and chains, return-buffer
pools, watches and polling (R9, R47, R88, R111 to R115, R130 to R135, R138, R139, R147, R149, R593, R594). -/
namespace Sys2Proof.Machine

/-! ## Producer indices (R131) -/

/-- Takes a producer index P for a ring (R131). -/
def takeProducer (s : State) (r : Nat) (p : W32) : State :=
  let x := ringOf s r
  if x.st ≠ .enabled ∨ p = x.prod then s
  else if (p - x.cidx).toNat ≤ 2 ^ x.ctx.sizeLog2 then fetchPump (updRing s r (fun x => { x with prod := p }))
  else
    let s := updRing s r (fun x => { x with dbErr := satInc 32 x.dbErr })
    updSlice s x.ctx.slice (fun y => { y with errDoorbell := satInc 8 y.errDoorbell })

/-- Takes the 8 bytes of a doorbell word (R130). -/
def takeDoorbell (s : State) (r : Nat) (data : Bytes) : State :=
  takeProducer (updRing s r (fun x => { x with dbRetry := false })) r (BitVec.ofNat 32 (field data 0 4))

/-- A doorbell read had a bad response: it is read again after POLL_INTERVAL (log entry 20). -/
def missDoorbell (s : State) (r : Nat) : State := updRing s r (fun x => { x with dbRetry := true, polledAt := now s })

/-! ## Fetched descriptors (R112 to R116, R147, R149) -/

/-- A descriptor from its 64 bytes (R116). -/
def descFrom (b : Bytes) : Desc :=
  { opcode := field b 0 2, flags := BitVec.ofNat 16 (field b 2 2), key := field b 4 4, src := field b 8 8
    dst := field b 16 8, param := field b 24 8, length := field b 32 5, aux := field b 37 3, inline := field b 40 8
    userTag := field b 48 8 }

/-- Epoch and sequence of the descriptor k before CIDX (R115). -/
def seqBack (x : Ring) (k : Nat) : Nat × Nat :=
  if k ≤ x.nextSeq.toNat then (x.epoch, x.nextSeq.toNat - k)
  else ((if x.epoch = 1 then 32767 else x.epoch - 1), x.nextSeq.toNat + 2 ^ 48 - k)
/-- The taken stamp of an epoch and sequence (R120). -/
def stampWord (e q : Nat) : Nat := e % 2 ^ 15 + 2 ^ 16 * (q % 2 ^ 48)

/-- Counts one fetched descriptor; after sequence 2^48 - 1 the next epoch opens (R113, R115). -/
def countFetch (x : Ring) : Ring :=
  if x.nextSeq = BitVec.ofNat 48 (2 ^ 48 - 1) then
    { x with cidx := x.cidx + 1, nextSeq := 0, epoch := if x.epoch = 32767 then 1 else x.epoch + 1 }
  else { x with cidx := x.cidx + 1, nextSeq := x.nextSeq + 1 }

/-- Makes a submission of a ring's fetched descriptors (R114). -/
def formJob (s : State) (r : Nat) (bad : Option Ending) : State :=
  let x := ringOf s r
  let n := x.chain.length
  let back := (List.range n).map (fun i => seqBack x (n - i))
  let first := back.headD (0, 0)
  let j : Job :=
    { id := s.nextJob, ring := r, slice := x.ctx.slice, epoch := first.1, seq := first.2
      idx := x.cidx - BitVec.ofNat 32 n, cpl := x.nextCpl, descs := x.chain.map descFrom
      stamps := back.map (fun e => stampWord e.1 e.2), buf := x.reserved, poolFail := x.poolFail
      poolCause := x.poolCause, bad := bad }
  let s := updRing s r (fun x => { x with
    chain := [], reserved := none, poolFail := none, poolCause := 0, nextCpl := x.nextCpl + 1 })
  { s with jobs := s.jobs ++ [j], nextJob := s.nextJob + 1 }

/-- A descriptor has arrived: it ends a submission, or the rest of its chain is fetched (R147, R149). -/
def takeDescriptor (s : State) (r i : Nat) (data : Bytes) : State :=
  let x := ringOf s r
  if !x.fetching || x.cidx.toNat != i then s
  else
    let d := descFrom data
    let s := updRing s r (fun x => countFetch { x with fetching := false, chain := x.chain ++ [data] })
    if flagChain d ∧ x.chain.length + 1 < 16 then fetchPump s else fetchPump (formJob s r none)

/-- A descriptor fetch had a bad response: the submission ends with DMA_READ_FAULT. -/
def missDescriptor (s : State) (r i : Nat) : State :=
  let x := ringOf s r
  if !x.fetching || x.cidx.toNat != i then s
  else
    let s := updRing s r (fun x => countFetch { x with fetching := false, chain := x.chain ++ [zeros 64] })
    fetchPump (formJob s r (some { status := stDmaRead }))

/-! ## Return-buffer pools (R138, R139, R594) -/

/-- The header's first read: the consumer index starts at the value found (R594). -/
def takePoolHeader (s : State) (sl base : Nat) (data : Bytes) : State :=
  match poolOf s sl base with
  | some p =>
    let c := BitVec.ofNat 32 (field data 0 4)
    fetchPump (setPool s { p with ready := true, cons := c, prod := c })
  | none => s

/-- A producer index of the pool: valid within the ring of entries, else ignored and counted (R594). -/
def takePoolIndex (s : State) (sl base : Nat) (data : Bytes) : State :=
  match poolOf s sl base with
  | some p =>
    let q := BitVec.ofNat 32 (field data 0 4)
    if (q - p.cons).toNat ≤ 2 ^ p.log2 then fetchPump (setPool s { p with prod := q })
    else updSlice s sl (fun y => { y with errDoorbell := satInc 8 y.errDoorbell })
  | none => s

/-- The ring is still waiting for a buffer. -/
def wantsBuffer (s : State) (r : Nat) : Bool :=
  let x := ringOf s r
  x.reserved.isNone && x.poolFail.isNone && (bufOwed s r || (x.st == .enabled && x.chain == [] && x.cidx != x.prod))

/-- The waiting submission is fetched without a buffer and ends with a status (R594). -/
def failPool (s : State) (r st cause : Nat) : State :=
  if wantsBuffer s r then fetchPump (updRing s r (fun x => { x with poolFail := some st, poolCause := cause, poolWait := false })) else s

/-- A pool entry: its buffer is reserved, or outside the WRITE windows refused and counted once (R594); one that no submission
waits for any more joins the free list. A buffer that is not 64-byte aligned is used as it is (log entry 162). -/
def takePoolEntry (s : State) (r : Nat) (data : Bytes) : State :=
  let x := ringOf s r
  let a := field data 0 8
  if !inWindows (windowsOf s.cfg.cur x.ctx.slice) true a (1024 * x.ctx.rbpBufKib) then
    failPool (updSlice s x.ctx.slice (fun y => { y with errWindow := satInc 8 y.errWindow })) r stWindow 0
  else if wantsBuffer s r then fetchPump (updRing s r (fun x => { x with reserved := some a }))
  else returnBuffer s r (some a)

/-- Another enabled ring names a ring's pool. -/
def poolShared (s : State) (r : Nat) : Bool :=
  let c := (ringOf s r).ctx
  (enabledRings s).any (fun q => q != r && (ringOf s q).ctx.slice == c.slice && (ringOf s q).ctx.rbpBase == c.rbpBase)

/-- A ring names its pool: the first enabled ring of a slice to name it, or to name it again after a time in which none did, makes
the core read its header (R594). -/
def namePool (s : State) (r : Nat) : State :=
  let c := (ringOf s r).ctx
  if c.rbpBase = 0 ∨ poolShared s r then s
  else
    request (setPool s { slice := c.slice, base := c.rbpBase, bufKib := c.rbpBufKib, log2 := c.rbpLog2 })
      [{ addr := c.rbpBase + 8, len := 4, slice := c.slice, purpose := .poolHeader c.slice c.rbpBase }]

/-! ## Watch entries (R88, R132) -/

/-- Enabled rings of a slice that want a watch entry, ascending. -/
def watchRings (s : State) (sl : Nat) : List Nat :=
  (s.rings.filter (fun e => e.2.st == .enabled && e.2.ctx.slice == sl && e.2.ctx.watch && !e.2.ctx.agentDb)).map (·.1)

/-- Gives a slice's watch entries to its rings in ascending number (R88). -/
def giveWatches (s : State) (sl : Nat) : State :=
  let got := (watchRings s sl).take (allotOf s.cfg.cur sl).watchCount
  { s with rings := s.rings.map (fun e =>
      if e.2.ctx.slice = sl then (e.1, { e.2 with watchEntry := got.contains e.1 }) else e) }

/-- Some armed watch stands for a ring. -/
def armed (s : State) (r : Nat) : Bool := s.fabric.watches.any (fun w => w.ring == r)

/-- Forgets the watches of a ring. -/
def dropWatches (s : State) (r : Nat) : State :=
  { s with fabric := { s.fabric with watches := s.fabric.watches.filter (fun w => w.ring != r) } }

/-- A ring is armed: its doorbell word is read, with WATCH where it has an entry (R111, R132). -/
def armRing (s : State) (r : Nat) : State :=
  readDoorbell (updRing s r (fun x => { x with polledAt := now s })) r false false

/-! ## Polling (R134, R594) -/

/-- A doorbell read of a ring is under way. -/
def doorbellAsked (s : State) (r : Nat) : Bool :=
  hasTxn s (fun p => match p with
    | .doorbell q _ | .rearm q _ => q == r
    | _ => false)

/-- A doorbell read of a ring waits for a port. -/
def doorbellQueued (s : State) (r : Nat) : Bool :=
  s.fabric.unissued.any (fun t => match t.purpose with
    | .doorbell q _ | .rearm q _ => q == r
    | _ => false)

/-- The ring is observed by polling, whether or not a read is under way, or its last read failed (R134). -/
def pollsRing (s : State) (r : Nat) : Bool :=
  let x := ringOf s r
  x.st == .enabled && !x.ctx.agentDb && (x.dbRetry || !watched s r || (!armed s r && !doorbellQueued s r))
/-- Such a ring whose word can be read now: no read of it is under way. -/
def isPolled (s : State) (r : Nat) : Bool := pollsRing s r && !doorbellAsked s r

/-- Shortest POLL_INTERVAL of the rings that wait for a pool whose last read showed no new entry (R594). -/
def poolInterval (s : State) (sl base : Nat) : Option Nat :=
  if !s.rings.any (fun e => e.2.poolWait && e.2.ctx.slice == sl && e.2.ctx.rbpBase == base) then none
  else match (poolWaiters s sl base).map (fun r => (ringOf s r).ctx.pollInterval) with
    | [] => none
    | n :: ns => some (ns.foldl min n)

/-- The intervals, in microseconds, of everything that is polled. -/
def pollIntervals (s : State) : List Nat :=
  ((s.rings.filter (fun e => pollsRing s e.1)).map (fun e => e.2.ctx.pollInterval)) ++
    s.pools.filterMap (fun p => poolInterval s p.slice p.base)
/-- The sum of the reciprocals of intervals, as a fraction. -/
def sumRates (ns : List Nat) : Nat × Nat :=
  ns.foldl (fun f n => let d := Nat.lcm f.2 (max n 1); (f.1 * (d / f.2) + d / max n 1, d)) (0, 1)
/-- Polling reads in a microsecond that the intervals ask for, as a fraction. -/
def pollDemand (s : State) : Nat × Nat := sumRates (pollIntervals s)
/-- The intervals are lengthened: more than 64 million reads a second would be made (R134). -/
def pollStretched (s : State) : Bool := decide (64 * (pollDemand s).2 < (pollDemand s).1)
/-- An interval in TREF units, lengthened in proportion when the demand passes the limit, rounded up to a whole unit. -/
def pollTicks (s : State) (n : Nat) : Nat :=
  if pollStretched s then ceilDiv (us n * (pollDemand s).1) (64 * (pollDemand s).2) else us n

end Sys2Proof.Machine
end

