-- ==== Sys2Proof/Machine/RingBase.lean ====
section
/-! DEFINITION. Ring contexts: their fields and ranges, where their memory lies, and how a ring opens, restarts and closes (R88,
R92, R108 to R111, R115, R181, R510, R594). -/
namespace Sys2Proof.Machine

/-! ## The context block (R109) -/

/-- The manager's fields of a context block. -/
def ctxFrom (b : Bytes) : RingCtx :=
  let c := field b 0x19 1
  { sqBase := field b 0x00 8, cqBase := field b 0x08 8, dbAddr := field b 0x10 8, sizeLog2 := field b 0x18 1
    extSlots := bit c 0, agentDb := bit c 1, cnEnable := bit c 2, watch := bit c 3
    slice := field b 0x1A 2, vector := field b 0x1C 2, cnLink := field b 0x1E 2, coalCount := field b 0x20 2
    coalTime := field b 0x22 2, pollInterval := field b 0x24 2, rbpBufKib := field b 0x26 2, rbpBase := field b 0x28 8
    rbpLog2 := field b 0x30 1, periodUs := field b 0x40 4, budget := field b 0x44 4, catchup := field b 0x48 1 }

/-- Ranges of the cadence fields, with the offset of the first that fails (R109, R192). -/
def cadFieldFault (period budget catchup : Nat) : Option Nat :=
  if period ≠ 0 ∧ (period < 10 ∨ 1000000 < period) then some 0x40
  else if budget = 0 ∨ 65536 < budget then some 0x44
  else if catchup = 0 ∨ 8 < catchup then some 0x48
  else none

/-- The return-buffer fields are in range. -/
def poolFieldsOk (c : RingCtx) : Bool :=
  if c.rbpBase = 0 then c.rbpBufKib == 0 && c.rbpLog2 == 0
  else c.rbpBase % 64 == 0 && decide (1 ≤ c.rbpBufKib) && decide (c.rbpBufKib ≤ 64) && decide (4 ≤ c.rbpLog2) &&
    decide (c.rbpLog2 ≤ 16)

/-- A vector that a ring of a slice may name: one of its allotment, for slice 0 one of 0 to 15 too, or none (R144). -/
def vectorOk (a : Allot) (owner v : Nat) : Bool :=
  v == 0xFFFF || (owner == 0 && decide (v < 16)) || (decide (a.firstVector ≤ v) && decide (v < a.firstVector + a.vectorCount))

/-- Every field that the manager writes lies in its range, reserved bytes zero; `a` is the owner's allotment. -/
def ctxInRange (b : Bytes) (owner : Nat) (a : Allot) : Bool :=
  let c := ctxFrom b
  c.sqBase % 4096 == 0 && c.cqBase % 4096 == 0 && (c.agentDb || c.dbAddr % 8 == 0) &&
    decide (4 ≤ c.sizeLog2) && decide (c.sizeLog2 ≤ 16) && decide (field b 0x19 1 < 16) && c.slice == owner &&
    vectorOk a owner c.vector && decide (c.cnLink < 256) &&
    decide (1 ≤ c.coalCount) && decide (c.coalCount ≤ 1024) && decide (1 ≤ c.pollInterval) && decide (c.pollInterval ≤ 1000) &&
    poolFieldsOk c && allZero (subBytes b 0x31 15) && (cadFieldFault c.periodUs c.budget c.catchup).isNone &&
    allZero (subBytes b 0x49 55)

/-! ## Where a ring's memory lies (R90, R92, R108, R111, R138, R594) -/

def sqSpan (c : RingCtx) : Nat × Nat := (c.sqBase, 64 * 2 ^ c.sizeLog2)
def cqSpan (c : RingCtx) : Nat × Nat := (c.cqBase, slotSize c * 2 ^ c.sizeLog2)
/-- The doorbell word, none under AGENT_DB. -/
def dbSpan (c : RingCtx) : List (Nat × Nat) := if c.agentDb then [] else [(c.dbAddr, 8)]
/-- Pool header and entry table. -/
def poolSpans (c : RingCtx) : List (Nat × Nat) :=
  if c.rbpBase = 0 then [] else [(c.rbpBase, 64), (c.rbpBase + 64, 8 * 2 ^ c.rbpLog2)]

/-- Submission ring, completion ring and doorbell word. -/
def ringSpans (c : RingCtx) : List (Nat × Nat) := [sqSpan c, cqSpan c] ++ dbSpan c

/-- Two ranges of a list meet. -/
def spansMeet : List (Nat × Nat) → Bool
  | [] => false
  | a :: r => r.any (fun b => overlaps a.1 a.2 b.1 b.2) || spansMeet r

/-- The ring's own parts, or the context table, overlap. -/
def ownOverlap (s : State) (c : RingCtx) : Bool := spansMeet (ringSpans c ++ poolSpans c ++ [(rctxBase s, 0x100000)])

/-- Parts of a ring outside a set of windows, by the context field that names them (R92, R192). -/
def outsideField (ws : List Window) (c : RingCtx) : Option Nat :=
  if !inWindowsRW ws (sqSpan c).1 (sqSpan c).2 then some 0x00
  else if !inWindowsRW ws (cqSpan c).1 (cqSpan c).2 then some 0x08
  else if (dbSpan c).any (fun p => !inWindows ws false p.1 p.2) then some 0x10
  else if (poolSpans c).any (fun p => !inWindowsRW ws p.1 p.2) then some 0x28
  else none

/-- The ring's memory lies inside a set of windows. -/
def insideWindows (ws : List Window) (c : RingCtx) : Bool := (outsideField ws c).isNone

/-- Another enabled ring uses some of a ring's memory. -/
def ringsClash (s : State) (r : Nat) (c : RingCtx) : Bool :=
  (enabledRings s).any (fun q => q != r &&
    (ringSpans (ringOf s q).ctx).any (fun a => (ringSpans c).any (fun b => overlaps a.1 a.2 b.1 b.2)))

/-- Another enabled ring names the pool with other geometry. -/
def poolsClash (s : State) (r : Nat) (c : RingCtx) : Bool :=
  c.rbpBase != 0 && (enabledRings s).any (fun q =>
    let x := (ringOf s q).ctx
    q != r && x.slice == c.slice && x.rbpBase == c.rbpBase && (x.rbpBufKib != c.rbpBufKib || x.rbpLog2 != c.rbpLog2))

/-- The refusal IN_USE of RING_ENABLE and RING_RESUME (R92, R111, R594). -/
def ctxInUse (s : State) (r : Nat) (c : RingCtx) : Bool :=
  (windowSets s c.slice).any (fun ws => !insideWindows ws c) || ringsClash s r c || poolsClash s r c

/-! ## Opening, restarting and closing -/

/-- The next epoch, from 32,767 to 1. -/
def epochAfter (e : Nat) : Nat := if e % 2 ^ 15 = 32767 then 1 else e % 2 ^ 15 + 1

/-- An enabled ring joins: watch entries, its pool, the write-back, and the first reading of its doorbell word (R88, R111,
R594). -/
def openRingNow (s : State) (r : Nat) (x : Ring) : State :=
  let s := setRing s r x
  let s := giveWatches s x.ctx.slice
  armRing (writeBack (namePool s r) r) r

/-- A ring of a slice after its reset: as newly created, with the next epoch (R100). -/
def restartRing (x : Ring) : Ring :=
  { ctx := x.ctx, st := x.st, epoch := epochAfter x.epoch, dbErr := x.dbErr, watchEntry := x.watchEntry, cad := x.cad,
    polledAt := x.polledAt, poolPolledAt := x.poolPolledAt, wbAt := x.wbAt }

/-- Stops fetching: what the ring has fetched and not accepted is dropped, with its reservations (R111). -/
def stopFetching (s : State) (r : Nat) : State :=
  let s := (s.jobs.filter (fun j => j.ring == r && !accepted j)).foldl dropWaiting s
  let s := returnBuffer s r (ringOf s r).reserved
  updRing s r (fun x => { x with fetching := false, chain := [], reserved := none, poolFail := none, poolCause := 0, poolWait := false })

/-- The slice fault that follows a submission which a stop of the ring drops before its acceptance (R95, R594). -/
def droppedCause (s : State) (r : Nat) : Nat :=
  let own := (ringOf s r).poolCause
  if own ≠ 0 then own
  else (s.jobs.filter (fun j => j.ring == r && !accepted j)).foldl (fun c j => if c = 0 then j.poolCause else c) 0

/-- The ring's fetches and pool entries are all answered. -/
def ringReadsDone (s : State) (r : Nat) : Bool :=
  !hasTxn s (fun p => match p with
    | .fetch q _ | .poolEntry q => q == r
    | _ => false)

/-- Takes STATE 0, with a write-back; its watch entry and its pool may go, and no read of its doorbell word goes out any more (R88,
R111, R593). -/
def closeRing (s : State) (r : Nat) : State :=
  let sl := (ringOf s r).ctx.slice
  let s := dropUnissued s (fun p => match p with
    | .doorbell q _ | .rearm q _ => q == r
    | _ => false)
  let s := dropWatches (updRing s r (fun x => { x with st := .disabled, watchEntry := false, dbRetry := false, drainDue := false })) r
  dropIdlePools (giveWatches (writeBack s r) sl)

end Sys2Proof.Machine
end

