-- ==== Sys2Proof/Machine/Commit.lean ====
section
/-! DEFINITION. Configuration commits: validation, the snapshot, and its taking effect (R56, R58, R88, R94, R176, R189, R191 to R196,
R355, R499, R581). -/
namespace Sys2Proof.Machine

/-! ## Validation (R192, R581) -/

/-- Slice 0's window k, as staged or in force. -/
def s0Window (ws : List Window) (k : Nat) : Window := ws.getD k {}

/-- The vector table, and the ring context table once its registers are locked, lie in slice 0's windows. -/
def tablesFault (s : State) (c : CfgImage) : List Nat :=
  let ws := windowsOf c 0
  (if c.vecBase % 16 ≠ 0 ∨ !inWindows ws false c.vecBase 16384 then [0x28] else []) ++
    (if s.glb.rctxLoLocked ∧ s.glb.rctxHiLocked ∧ !inWindowsRW ws (rctxBase s) 0x100000 then [0x30] else [])

/-- Failing staged registers by their offsets, ascending: the vector and context bases, the grid entries, slice 0's windows, the
reseed interval. -/
def registerFaults (s : State) (c : CfgImage) : List Nat :=
  let ws := windowsOf c 0
  tablesFault s c ++
    (if (List.range 256).any (fun g => decide (gridEntry c g < 100)) then [0xAC] else []) ++
    (List.range 16).filterMap (fun k =>
      let w := s0Window ws k
      if w.base % 4096 ≠ 0 ∨ 2 ^ 64 < w.base + 4096 * w.pages then some (0x140 + 16 * k) else none) ++
    (if c.reseedLog2 < 10 ∨ 24 < c.reseedLog2 then [0x3138] else [])

/-- Cadence fields of a context block. -/
def cadFields (b : Bytes) : Nat × Nat × Nat := (field b 0x40 4, field b 0x44 4, field b 0x48 1)

/-- The first failing field of an enabled ring, as CFG_ERR_OFFSET holds it. -/
def ringFault (c : CfgImage) (contexts : Tbl Bytes) (e : Nat × Ring) : Option Nat :=
  let cad := match look? contexts e.1 with
    | some b => let x := cadFields b; cadFieldFault x.1 x.2.1 x.2.2
    | none => none
  let out := if e.2.ctx.slice = 0 then outsideField (windowsOf c 0) e.2.ctx else none
  let at1 := fun (f : Nat) => 2 ^ 31 + 2 ^ 12 * e.1 + f
  match out, cad with
  | some f, _ => some (at1 f)
  | none, some f => some (at1 f)
  | none, none => none

/-- The first failing item of the staged configuration (R192). -/
def commitFault (s : State) (contexts : Tbl Bytes) : Option Nat :=
  match registerFaults s s.cfg.staged with
  | o :: _ => some o
  | [] => ((s.rings.filter (fun e => e.2.st == .enabled)).filterMap (ringFault s.cfg.staged contexts)).head?

/-- A commit fails: nothing changes, and the first failing item is recorded (R192). -/
def failCommit (s : State) (item : Nat) : State :=
  { s with cfg := { s.cfg with commitError := true, errOffset := BitVec.ofNat 32 item, pendingCommit := none, pendingRings := [] } }

/-- Takes the snapshot of the staged configuration (R191). A ring whose context could not be read keeps its cadence. -/
def snapshotCommit (s : State) (contexts : Tbl Bytes) : State :=
  let rings := (enabledRings s).filterMap (fun r => (look? contexts r).map (fun b => (r, cadFields b)))
  { s with cfg := { s.cfg with pendingCommit := some s.cfg.staged, pendingRings := rings } }

/-- A write of CFG_COMMIT. -/
def requestCommit (s : State) (contexts : Tbl Bytes) : State :=
  if !serving s ∨ s.cfg.pendingCommit.isSome then { s with cfg := { s.cfg with commitRefused := true } }
  else match commitFault s contexts with
    | some item => failCommit s item
    | none => snapshotCommit s contexts

/-- CFG_COMMIT (R191, R192, R194, R499): bit 0 requests a commit; the contexts of the enabled rings are read with it. -/
def execCfgCommit (value : W32) (contexts : Tbl Bytes) (s : State) : Res :=
  portAccess (.cfgCommit value contexts) s
    (.next (regWrite s (fun s => if value.getLsbD 0 then requestCommit s contexts else s)))

/-! ## Taking effect (R194, R195) -/

/-- Jobs of an older generation remain. -/
def olderJobs (s : State) : Bool := s.jobs.any (fun j => accepted j && j.gen != s.cfg.cur.gen)

/-- The vector table from its 16 KiB (R56). -/
def vectorTable (b : Bytes) : List VecEntry :=
  (List.range 1024).map (fun n =>
    { addr := field b (16 * n) 8, data := BitVec.ofNat 32 (field b (16 * n + 8) 4), mask := bit (field b (16 * n + 12) 4) 0 })

/-- A ring takes the cadence fields of a commit: at once while its cadence is stopped, else at its next opening (R176). -/
def commitCadence (s : State) (e : Nat × Nat × Nat × Nat) : State :=
  updRing s e.1 (fun x =>
    if x.st ≠ .enabled then x
    else if e.2 = (x.ctx.periodUs, x.ctx.budget, x.ctx.catchup) then { x with cad := { x.cad with staged := none } }
    else if x.cad.st = .stopped then
      { x with ctx := { x.ctx with periodUs := e.2.1, budget := e.2.2.1, catchup := e.2.2.2 } }
    else { x with cad := { x.cad with staged := some e.2 } })

/-- A CREATING slice that the commit carries becomes ACTIVE (R94). -/
def activateSlice (c : CfgImage) (e : Nat × Slice) : Nat × Slice :=
  if e.2.st = .creating ∧ (look? c.allots e.1).isSome then (e.1, { e.2 with st := .active }) else e

/-- The generation after one. -/
def nextGen (g : W32) : W32 := if g = 0xFFFFFFFF then 1 else g + 1

/-- Switches to a validated configuration, with its vector table (R195). -/
def applyCommit (s : State) (c : CfgImage) (tab : Option (List VecEntry)) : State :=
  let cur := s.cfg.cur
  let old := if s.jobs.any (fun j => accepted j && j.gen == cur.gen) then some cur else none
  let rings := s.cfg.pendingRings
  let cfg := { s.cfg with cur := { c with gen := nextGen cur.gen }, old := old, pendingCommit := none, pendingRings := [] }
  let s := { s with cfg := cfg, slices := s.slices.map (activateSlice c), irq := { s.irq with table := tab } }
  let s := rings.foldl commitCadence s
  let s := (s.slices.map (·.1)).foldl giveWatches s
  fetchPump (notifyManager s 5)

/-- COMMIT_TAKES_EFFECT (R194, R195): once no job of an older generation remains; a vector table that cannot be read fails the
commit. -/
def execCommitTakesEffect (table : ReadOutcome) (s : State) : Res :=
  match s.cfg.pendingCommit with
  | none => .next s
  | some c =>
    if !pastStart s ∨ olderJobs s then .next s
    else if !s.glb.s0Bound then .next (applyCommit s c s.irq.table)
    else
      let s := emit s (readNote s 0 c.vecBase 16384)
      match table with
      | .ok b => .next (applyCommit s c (some (vectorTable b)))
      | .bad _ | .event => .next (failCommit s 0x28)

/-- TB_GRID_DEFAULT (R182, R189): bit 0 stages the built-in grid table. -/
def execTbGridDefault (value : W32) (s : State) : Res :=
  portAccess (.tbGridDefault value) s (.next (regWrite s (fun s =>
    if value.getLsbD 0 then { s with cfg := { s.cfg with staged := { s.cfg.staged with grid := [] } } } else s)))

end Sys2Proof.Machine
end

