-- ==== Sys2Proof/Machine/Control.lean ====
section
/-! DEFINITION. The control opcodes (R118). -/
namespace Sys2Proof.Machine

/-- NOP (R118): uses no engine and completes with DONE. -/
def execNop (job : Nat) (s : State) : Res := runControl 0x0F00 job s

/-- FENCE (R118): NOP with BARRIER and FENCE set. -/
def execFence (job : Nat) (s : State) : Res := runControl 0x0F01 job s

end Sys2Proof.Machine
end

