-- ==== Sys2Proof/Machine/Digest.lean ====
section
/-! DEFINITION. The digest and MAC opcodes (R226 to R239): each runs for a submission whose current step it is. -/
namespace Sys2Proof.Machine

/-- SHA224 (R227): SHA-224 digest opcode. -/
def execSha224 (job : Nat) (s : State) : Res := runOp 0x0200 job s

/-- SHA256 (R227): SHA-256 digest opcode. -/
def execSha256 (job : Nat) (s : State) : Res := runOp 0x0201 job s

/-- SHA384 (R227): SHA-384 digest opcode. -/
def execSha384 (job : Nat) (s : State) : Res := runOp 0x0202 job s

/-- SHA512 (R227): SHA-512 digest opcode. -/
def execSha512 (job : Nat) (s : State) : Res := runOp 0x0203 job s

/-- SHA512_256 (R227): SHA-512/256 digest opcode. -/
def execSha512_256 (job : Nat) (s : State) : Res := runOp 0x0204 job s

/-- SHA3_224 (R227): SHA3-224 digest opcode. -/
def execSha3_224 (job : Nat) (s : State) : Res := runOp 0x0210 job s

/-- SHA3_256 (R227): SHA3-256 digest opcode. -/
def execSha3_256 (job : Nat) (s : State) : Res := runOp 0x0211 job s

/-- SHA3_384 (R227): SHA3-384 digest opcode. -/
def execSha3_384 (job : Nat) (s : State) : Res := runOp 0x0212 job s

/-- SHA3_512 (R227): SHA3-512 digest opcode. -/
def execSha3_512 (job : Nat) (s : State) : Res := runOp 0x0213 job s

/-- SHAKE128 (R227): SHAKE128 extendable output opcode. -/
def execShake128 (job : Nat) (s : State) : Res := runOp 0x0218 job s

/-- SHAKE256 (R227): SHAKE256 extendable output opcode. -/
def execShake256 (job : Nat) (s : State) : Res := runOp 0x0219 job s

/-- CSHAKE128 (R231): cSHAKE128 opcode with N and S strings. -/
def execCshake128 (job : Nat) (s : State) : Res := runOp 0x021A job s

/-- CSHAKE256 (R231): cSHAKE256 opcode with N and S strings. -/
def execCshake256 (job : Nat) (s : State) : Res := runOp 0x021B job s

/-- KMAC128 (R227): KMAC128 MAC opcode. -/
def execKmac128 (job : Nat) (s : State) : Res := runOp 0x0220 job s

/-- KMAC256 (R227): KMAC256 MAC opcode. -/
def execKmac256 (job : Nat) (s : State) : Res := runOp 0x0221 job s

/-- KMAC128_VERIFY (R232): KMAC128 verification opcode. -/
def execKmac128Verify (job : Nat) (s : State) : Res := runOp 0x0222 job s

/-- KMAC256_VERIFY (R232): KMAC256 verification opcode. -/
def execKmac256Verify (job : Nat) (s : State) : Res := runOp 0x0223 job s

/-- HMAC_SHA224 (R235): HMAC-SHA-224 opcode using the HMAC state cache. -/
def execHmacSha224 (job : Nat) (s : State) : Res := runOp 0x0230 job s

/-- HMAC_SHA256 (R235): HMAC-SHA-256 opcode using the HMAC state cache. -/
def execHmacSha256 (job : Nat) (s : State) : Res := runOp 0x0231 job s

/-- HMAC_SHA384 (R235): HMAC-SHA-384 opcode using the HMAC state cache. -/
def execHmacSha384 (job : Nat) (s : State) : Res := runOp 0x0232 job s

/-- HMAC_SHA512 (R235): HMAC-SHA-512 opcode using the HMAC state cache. -/
def execHmacSha512 (job : Nat) (s : State) : Res := runOp 0x0233 job s

/-- HMAC_SHA512_256 (R235): HMAC-SHA-512/256 opcode using the HMAC state cache. -/
def execHmacSha512_256 (job : Nat) (s : State) : Res := runOp 0x0234 job s

/-- HMAC_SHA224_VERIFY (R232): HMAC-SHA-224 verification opcode. -/
def execHmacSha224Verify (job : Nat) (s : State) : Res := runOp 0x0238 job s

/-- HMAC_SHA256_VERIFY (R232): HMAC-SHA-256 verification opcode. -/
def execHmacSha256Verify (job : Nat) (s : State) : Res := runOp 0x0239 job s

/-- HMAC_SHA384_VERIFY (R232): HMAC-SHA-384 verification opcode. -/
def execHmacSha384Verify (job : Nat) (s : State) : Res := runOp 0x023A job s

/-- HMAC_SHA512_VERIFY (R232): HMAC-SHA-512 verification opcode. -/
def execHmacSha512Verify (job : Nat) (s : State) : Res := runOp 0x023B job s

/-- HMAC_SHA512_256_VERIFY (R232): HMAC-SHA-512/256 verification opcode. -/
def execHmacSha512_256Verify (job : Nat) (s : State) : Res := runOp 0x023C job s

end Sys2Proof.Machine
end

