-- ==== Sys2Proof/Machine/Doorbells.lean ====
section
/-! DEFINITION. Doorbells, notices and ring timers: SNOOP_NOTIFICATION, the polls, agent links, COALESCE_TIMEOUT and the
context write-back timer (R47, R48, R53 to R55, R110, R134, R135, R144, R594). -/
namespace Sys2Proof.Machine

/-- SNOOP_NOTIFICATION (R47, R48): every notification is answered; one for a watch held makes the core read the doorbell
words of the line again, with WATCH set. -/
def execSnoopNotification (port line : Nat) (s : State) : Res :=
  let s := if aonAbsent s then s else emit s (.snoopAnswer port line)
  if !serving s ∨ !Config.snCapable port then .next s
  else
    let hit := s.fabric.watches.filter (fun w => w.port == port && w.line == line)
    let s := { s with fabric := { s.fabric with watches := s.fabric.watches.filter (fun w => !(w.port == port && w.line == line)) } }
    .next ((hit.map (·.ring)).foldl (fun s r => if (ringOf s r).st = .enabled then readDoorbell s r false false else s) s)

/-- POLL_INTERVAL_EXPIRY (R134): a polled ring's doorbell word is read once per interval. -/
def execPollIntervalExpiry (ring : Nat) (s : State) : Res :=
  let x := ringOf s ring
  if serving s ∧ isPolled s ring ∧ x.polledAt + pollTicks s x.ctx.pollInterval ≤ now s then .next (armRing s ring)
  else .next s

/-- POOL_POLL_EXPIRY (R594): the producer index of a pool that a submission waits for is read again. -/
def execPoolPollExpiry (ring : Nat) (s : State) : Res :=
  let x := ringOf s ring
  match poolInterval s x.ctx.slice x.ctx.rbpBase with
  | some n =>
    if serving s ∧ x.poolWait ∧ !poolAsking s ring x.ctx.slice x.ctx.rbpBase ∧ x.poolPolledAt + pollTicks s n ≤ now s then
      .next (request (updRing s ring (fun x => { x with poolPolledAt := now s }))
        [{ addr := x.ctx.rbpBase, len := 4, slice := x.ctx.slice, ordered := true, purpose := .poolIndex x.ctx.slice x.ctx.rbpBase }])
    else .next s
  | none => .next s

/-- COALESCE_TIMEOUT (R144): COAL_TIME has passed since the first pending completion. -/
def execCoalesceTimeout (ring : Nat) (s : State) : Res :=
  let x := ringOf s ring
  if pastStart s ∧ x.coalPending ≠ 0 ∧ x.ctx.coalTime ≠ 0 ∧ x.coalSince + us x.ctx.coalTime ≤ now s then .next (announce s ring)
  else .next s

/-- CONTEXT_WRITEBACK_TIMER (R110): once a millisecond while the ring holds accepted work, or after a failed write-back. -/
def execContextWritebackTimer (ring : Nat) (s : State) : Res :=
  let x := ringOf s ring
  let under := hasTxn s (fun p => p == .writeback ring)
  if pastStart s ∧ !under ∧ (x.wbDue ∨ (ringWork s ring ∧ x.wbAt + ms 1 ≤ now s)) then .next (writeBack s ring)
  else .next s

/-! ## Agent links (R52 to R55, R585) -/

/-- AL_k_CFG of the current generation: the slice it names and ENABLE. -/
def linkSlice (s : State) (k : Nat) : Nat := ((look s.cfg.cur.alCfg k 0).extractLsb' 0 8).toNat
def linkEnabled (s : State) (k : Nat) : Bool := (look s.cfg.cur.alCfg k 0).getLsbD 31

/-- Answers a doorbell on a link (R54). -/
def ringLink (s : State) (link ring : Nat) (pidx : W32) : State :=
  let x := ringOf s ring
  if !serving s then (if aonAbsent s then s else emit s (.dbAck link .refusedAbsent))
  else if !linkEnabled s link then
    emit (setLink s link { linkOf s link with refusedDisabled := satInc 8 (linkOf s link).refusedDisabled })
      (.dbAck link .refusedDisabled)
  else if x.st = .enabled ∧ x.ctx.agentDb ∧ x.ctx.slice = linkSlice s link then
    takeProducer (emit s (.dbAck link .accepted)) ring pidx
  else
    emit (setLink s link { linkOf s link with refusedRing := satInc 8 (linkOf s link).refusedRing }) (.dbAck link .refusedRing)

/-- AGENT_DOORBELL (R53, R54): a doorbell is answered, or held while the cluster's port quiesces. -/
def execAgentDoorbell (link ring : Nat) (pidx : W32) (s : State) : Res :=
  if mainOn s ∧ ((portOf s (link / 16)).qreq ∨ (portOf s (link / 16)).qack) then
    .next (setLink s link { linkOf s link with held := some (ring, pidx) })
  else .next (ringLink s link ring pidx)

/-- Offers the next waiting notice of a link, in ring order; notices that the link may not carry are dropped and
counted (R144). -/
def offerNext (link : Nat) : Tbl W32 → State → State
  | [], s => setLink s link { linkOf s link with offered := none, waiting := [] }
  | (r, c) :: rest, s =>
    let sl := (ringOf s r).ctx.slice
    if sl = linkSlice s link then setLink s link { linkOf s link with offered := some (r, c), waiting := rest }
    else offerNext link rest (updSlice s sl (fun y => { y with errNotice := satInc 8 y.errNotice }))

/-- COMPLETION_NOTICE_TAKEN (R55): the agent takes the offered notice. -/
def execCompletionNoticeTaken (link : Nat) (s : State) : Res :=
  if mainOn s ∧ (linkOf s link).offered.isSome then .next (offerNext link (linkOf s link).waiting s) else .next s

end Sys2Proof.Machine
end

