-- ==== Sys2Proof/Machine/Mailbox.lean ====
section
/-! DEFINITION. The mailbox: request and reply queues, which request starts, host memory as a command meets it, and the commands
that only report (R103, R104, R480 to R484, R506, R595). -/
namespace Sys2Proof.Machine

/-! ## Replies (R104, R481 to R483) -/

/-- What a command answers: the code and the data words. -/
structure Ans where
  code : Nat
  data : List W32 := []
  deriving DecidableEq, Repr

def rOk : Nat := 0x00
def rBadParam : Nat := 0x01
def rNoResource : Nat := 0x02
def rInUse : Nat := 0x03
def rWrongState : Nat := 0x04
def rKeysPresent : Nat := 0x05
def rBankRunning : Nat := 0x06
def rImageInvalid : Nat := 0x07
def rVersionLow : Nat := 0x08
def rSequence : Nat := 0x09
def rUnknown : Nat := 0x0A
def rDmaFault : Nat := 0x0B

/-- How a started command goes on: it has its reply, or it waits on the datapath. -/
inductive Ran where
  | reply (a : Ans)
  | park
  deriving DecidableEq, Repr

/-- Requests not yet replied to; a merged SLICE_RESET counts for itself (R481). -/
def queuedCount (s : State) : Nat := (s.mgmt.requests.map (fun q => 1 + q.merged.length)).sum

/-- Moves held replies into the reply queue while the firmware runs and there is room, in arrival order; vector 2 when it was empty (R482, R483). -/
def flushFuel : Nat → State → State
  | 0, s => s
  | n + 1, s =>
    match s.mgmt.requests.find? (fun q => q.st == .replyHeld) with
    | none => s
    | some q =>
      if 16 ≤ s.mgmt.replies.length then s
      else
        let was := s.mgmt.replies
        let s := { s with mgmt := { s.mgmt with
          requests := s.mgmt.requests.eraseP (fun x => x.st == .replyHeld)
          replies := was ++ q.reply.toList } }
        flushFuel n (if was = [] then notifyManager s 2 else s)
def flushReplies (s : State) : State := if s.mgmt.st = .running then flushFuel 32 s else s

/-- A request that holds a reply under a tag. -/
def heldReply (q : Req) (a : Ans) (tag : Nat) : Req :=
  { q with
    tag := tag, st := .replyHeld, merged := []
    reply := some { tag := tag, cmd := q.cmd, code := a.code, repeated := q.repeated, data := a.data } }

/-- A command is finished: its reply, and one for each request merged into it (R103). -/
def finishReq (s : State) (i : Nat) (a : Ans) : State :=
  match s.mgmt.requests[i]? with
  | none => s
  | some q =>
    let rs := (q.tag :: q.merged).map (heldReply q a)
    flushReplies { s with mgmt := { s.mgmt with
      requests := s.mgmt.requests.take i ++ rs ++ s.mgmt.requests.drop (i + 1) } }

/-- The first parked request of a code that a condition takes. -/
def parkedReq (s : State) (f : Req → Bool) : Option Nat := s.mgmt.requests.findIdx? (fun q => q.st == .parked && f q)

/-- Finishes a parked command when its wait is over. -/
def finishParked (s : State) (f : Req → Bool) (a : Ans) : State :=
  match parkedReq s f with
  | some i => finishReq s i a
  | none => s

/-! ## Which request starts (R483) -/

/-- The slice that a ring names: its owner, or the slice whose context it holds. -/
def ringSlice (s : State) (r : Nat) : Nat := (ringOwner s r).getD (1000 + r)
/-- What a command names: its slice, its ring's slice, or 256 for none. -/
def reqName (s : State) (q : Req) : Nat :=
  if 0x0101 ≤ q.cmd ∧ q.cmd ≤ 0x0105 then q.target
  else if 0x0201 ≤ q.cmd ∧ q.cmd ≤ 0x0203 then ringSlice s q.target
  else 256

/-- Before DONE the firmware answers PING, SENSOR_READ and PERSIST_STATUS and holds the rest (R499). -/
def heldInStart (s : State) (q : Req) : Bool := inStart s && q.cmd != 0x0001 && q.cmd != 0x0600 && q.cmd != 0x0300

/-- The first queued request that no earlier unfinished one holds back; `busy` holds what those name. -/
def firstStart (s : State) : Nat → List Nat → List Req → Option (Nat × Req)
  | _, _, [] => none
  | i, busy, q :: r =>
    let n := reqName s q
    match q.st with
    | .replyHeld => firstStart s (i + 1) busy r
    | .parked => firstStart s (i + 1) (n :: busy) r
    | .queued => if busy.contains n ∨ heldInStart s q then firstStart s (i + 1) busy r else some (i, q)

/-- The request that the firmware starts next, while the pair runs. -/
def mbxNext (s : State) : Option (Nat × Req) :=
  if mainOn s ∧ s.mgmt.st = .running then firstStart s 0 [] s.mgmt.requests else none

/-- Commands that SAFE and RETIRED still answer (R406, R506). -/
def reportsOnly (s : State) : Bool := s.pwr.main == .safe || s.keys.lifecycle == .safe || s.keys.lifecycle == .retired

/-- Runs the next request if it has a code and passes a further condition. -/
def runMailbox (code : Nat) (mine : Req → Bool) (f : Req → State → Ran × State) (s : State) : Res :=
  match mbxNext s with
  | none => .next s
  | some (i, q) =>
    if q.cmd ≠ code ∨ !mine q then .next s
    else if reportsOnly s ∧ code ≠ 0x0001 ∧ code ≠ 0x0600 then .next (finishReq s i { code := rWrongState })
    else match f q s with
      | (.reply a, s) => .next (finishReq s i a)
      | (.park, s) =>
        .next { s with mgmt := { s.mgmt with requests := s.mgmt.requests.set i { q with st := .parked } } }

/-- Any request of the code. -/
def anyReq (_ : Req) : Bool := true

/-- Some argument from a number on is not zero (R484). -/
def argsFrom (q : Req) (n : Nat) : Bool := (q.args.drop n).any (fun a => a != 0)
def argOf (q : Req) (n : Nat) : Nat := q.args.getD n 0

/-! ## Host memory (R104, R595) -/

/-- The reply DMA_FAULT with the response code, 0x8 for a fault event. -/
def dmaFault (n : Nat) : Ans := { code := rDmaFault, data := [BitVec.ofNat 32 n] }

/-- The input of a command: its bytes, or the reply that its failure gives. -/
inductive Input where
  | data (b : Bytes)
  | fail (a : Ans)
  deriving DecidableEq, Repr

/-- Reads a command's input through slice 0; memory cannot be reached while GLB_S0_BIND is unwritten (R79, R596). -/
def readInput (s : State) (a n : Nat) (r : ReadOutcome) : Input × State :=
  if !s.glb.s0Bound then (.fail { code := rWrongState }, s)
  else if !inWindows (windowsOf s.cfg.cur 0) false a n then (.fail { code := rBadParam }, s)
  else
    let s := emit s (readNote s 0 a n)
    match r with
    | .ok b => (.data (fit n b), s)
    | .bad c => (.fail (dmaFault c.toNat), s)
    | .event => (.fail (dmaFault 8), s)

/-- Why an output buffer cannot be used, if so. -/
def outputFault (s : State) (a n : Nat) : Option Ans :=
  if !s.glb.s0Bound then some { code := rWrongState }
  else if !inWindows (windowsOf s.cfg.cur 0) true a n then some { code := rBadParam }
  else none

/-- Writes a command's output, and the reply; after a bad response the output is undefined (R592). -/
def writeOutput (s : State) (a : Nat) (b : Bytes) (w : WriteOutcome) (ok : Ans) : Ran × State :=
  match w with
  | .ok => (.reply ok, emit s (writeNote s 0 a b))
  | .bad c => (.reply (dmaFault c.toNat), emit s (writeNote s 0 a b))
  | .event => (.reply (dmaFault 8), emit s (writeNote s 0 a b))

/-- A command that writes one output block at PARAM and takes no argument. -/
def reportBlock (q : Req) (io : MbxIo) (n : Nat) (f : State → Bytes) (s : State) : Ran × State :=
  if argsFrom q 0 then (.reply { code := rBadParam }, s)
  else match outputFault s q.param n with
    | some a => (.reply a, s)
    | none => writeOutput s q.param (fit n (f s)) io.write { code := rOk }

/-! ## The registers' side (R103, R482) -/

/-- The staged request. -/
def stagedReq (s : State) : Req :=
  let m := s.mgmt
  { tag := (m.reqCmd.extractLsb' 24 8).toNat, cmd := (m.reqCmd.extractLsb' 0 16).toNat
    target := (m.reqTarget.extractLsb' 0 16).toNat
    param := m.reqParamLo.toNat + 2 ^ 32 * m.reqParamHi.toNat, args := m.reqArgs.map (·.toNat) }

/-- A SLICE_RESET into which a later one of the same slice is merged (R103). -/
def mergesInto (q x : Req) : Bool :=
  q.cmd == 0x0103 && x.cmd == 0x0103 && x.target == q.target && x.st != .replyHeld && !argsFrom q 0 && !argsFrom x 0

/-- Queues the staged request, or refuses it when 16 are queued. -/
def submitReq (s : State) : State :=
  let q := stagedReq s
  if 16 ≤ queuedCount s then
    { s with mgmt := { s.mgmt with queueFull := true, errFull := satInc 16 s.mgmt.errFull } }
  else if s.mgmt.requests.any (mergesInto q) then
    let i := (s.mgmt.requests.findIdx? (mergesInto q)).getD 0
    let rs := s.mgmt.requests.mapIdx (fun k (x : Req) => if k = i then { x with merged := x.merged ++ [q.tag] } else x)
    { s with mgmt := { s.mgmt with requests := rs } }
  else { s with mgmt := { s.mgmt with requests := s.mgmt.requests ++ [q] } }

/-- MBX_REQ_SUBMIT (R482): a write of 1 queues the staged request. -/
def execMbxReqSubmit (value : W32) (s : State) : Res :=
  portAccess (.mbxReqSubmit value) s (.next (regWrite s (fun s => if value.getLsbD 0 then submitReq s else s)))

/-- Removes the oldest reply; vector 2 while one remains. -/
def popReply (s : State) : State :=
  match s.mgmt.replies with
  | [] => s
  | _ :: r =>
    let s := flushReplies { s with mgmt := { s.mgmt with replies := r } }
    if s.mgmt.replies = [] ∨ r = [] then s else notifyManager s 2

/-- MBX_RPL_POP (R482): a write of 1 removes the oldest reply. -/
def execMbxRplPop (value : W32) (s : State) : Res :=
  portAccess (.mbxRplPop value) s (.next (regWrite s (fun s => if value.getLsbD 0 then popReply s else s)))

/-! ## Commands that need nothing else -/

/-- The codes of R104, R111, R439, R468, R484, R510 and R561. -/
def cmdCodes : List Nat :=
  [0x0001, 0x0101, 0x0102, 0x0103, 0x0104, 0x0105, 0x0201, 0x0202, 0x0203, 0x0300, 0x0301, 0x0400, 0x0401, 0x0402, 0x0403,
   0x0404, 0x0500, 0x0501, 0x0502, 0x0503, 0x0600, 0x0700, 0x0701, 0x0702, 0x0703, 0x0704, 0x0705]

/-- UNKNOWN_COMMAND (R483): the next request's code names no command. -/
def execUnknownCommand (s : State) : Res :=
  match mbxNext s with
  | none => .next s
  | some (i, q) =>
    if cmdCodes.contains q.cmd then .next s
    else
      let s := { s with mgmt := { s.mgmt with errUnknown := satInc 16 s.mgmt.errUnknown } }
      .next (finishReq s i { code := if reportsOnly s then rWrongState else rUnknown })

/-- PING (R484): the reply holds MBX_HEARTBEAT. -/
def execPing (s : State) : Res :=
  runMailbox 0x0001 anyReq (fun q s =>
    (.reply (if argsFrom q 0 then { code := rBadParam } else { code := rOk, data := [s.mgmt.heartbeat] }), s)) s

end Sys2Proof.Machine
end

