-- ==== Sys2Proof/Machine/StartBase.lean ====
section
/-! DEFINITION. How a start fails (R497, R505 to R508). -/
namespace Sys2Proof.Machine

/-- Start registers that every end of a start writes: its step. -/
def atStep (s : State) (n : Nat) : State := { s with pwr := { s.pwr with startStep := n } }

/-- A start-up failure that leaves the core in SAFE, with its code (R505, R506). It holds no key. -/
def startFailed (s : State) (code : Nat) : State :=
  let s := enterSafe (wipeAllDrbgs (wipeAllKeys (wipeRegisters s)))
  { s with pwr := { s.pwr with startFail := code } }

/-- The start is still going on (R347, R497, R505). -/
def starting (s : State) : Bool := inStart s

/-! ## The main domain in reset (R67, R69, R73, R523) -/

/-- The boundary of a held main domain (R73, R74): nothing is outstanding, QACK follows QREQ, doorbells held are refused, accesses
held are answered ABSENT. -/
def holdBoundary (s : State) : State :=
  let s := s.fabric.heldAccess.foldl (fun s _ => guardAnswer s) s
  let s := (s.links.filter (fun e => e.2.held.isSome)).foldl (fun s e => emit s (.dbAck e.1 .refusedAbsent)) s
  { s with
    links := []
    fabric := { ports := s.fabric.ports.map (fun (e : Nat × Port) => (e.1, { e.2 with qack := e.2.qreq })) } }

/-- The record at the head of the ledger's queue is committed, without what it announces (R520, R523). -/
def commitHead (s : State) : State :=
  match s.per.queue with
  | [] => s
  | (r, _) :: q => if 2 ^ 48 - 1 ≤ s.per.nextSeq then s else commitRecord { s with per := { s.per with queue := q } } r true true

/-- The main domain enters reset; whether the record in progress ends with its row is open (R523). -/
def enterReset (s : State) : State :=
  let l := s.keys.lifecycle
  let clean := s.pwr.main == .up && s.pwr.startDone && (l == .blank || l == .enrolled || l == .service)
  let (n, s) := draw s
  let s := if mainOn s ∧ Config.freeNat n % 2 = 1 then commitHead s else s
  holdBoundary { s with pwr := { s.pwr with main := .inReset, rstAsserted := true, coldNext := s.pwr.coldNext || !clean } }

/-- With both supplies of the always-on domain below their ranges the main domain is held in reset (R67). -/
def aonDown (s : State) : State := if aonAbsent s ∧ s.pwr.main ≠ .inReset then enterReset s else s

end Sys2Proof.Machine
end

