-- ==== Sys2Proof/Machine/CoreFault.lean ====
section
/-! DEFINITION. Faults of core-wide parts and restarts of the management pair (R32, R406, R471, R476 to R480, R547, R548). -/
namespace Sys2Proof.Machine

/-- A core-wide part has recovered from its first fault (R547). -/
def recovered (s : State) (p : CorePart) : State :=
  { s with pwr := { s.pwr with recovering := s.pwr.recovering.filter (· != p) } }

/-- A core-wide part faults: recovered in place, or SAFE while a first fault is still being recovered (R547, R548). -/
def coreFault (s : State) (p : CorePart) (f : State → State) : State :=
  if s.pwr.recovering = [] then f { s with pwr := { s.pwr with recovering := [p] } } else enterSafe s

/-! ## Restart of the pair (R477 to R480) -/

/-- KEYPATH: the firmware holds the key store's command window open, for a KUM, an attestation, a transport offer or a seal
on the update path (R471). -/
def keyPath (s : State) : Bool :=
  s.mgmt.keypath || s.keys.kumJob.isSome ||
    s.jobs.any (fun j => ((stepDesc j).opcode == 0x0809 || (stepDesc j).opcode == 0x080A) &&
      (j.phase == .operands || j.phase == .computed || j.phase == .finished))

/-- A request that the firmware has started runs again after the restart, and its reply says so (R480). -/
def markRepeated (q : Req) : Req :=
  if q.st = .queued then q
  else { q with repeated := true, reply := q.reply.map (fun (r : Reply) => { r with repeated := true }) }

/-- The pair's memory is cleared, with its protection entries (R478). -/
def wipePair (s : State) : State := { s with mgmt := { s.mgmt with mem := [], pmp := [] } }
/-- Steps 1 to 4 of a restart (R478); a fourth within 60 s ends in SAFE (R479). -/
def restartPair (s : State) (kind : Nat) (cause : Byte) (pc sp : W64) : State :=
  let times := s.mgmt.restartTimes.filter (fun t => decide (now s < t + 60 * ms 1000)) ++ [now s]
  let m := s.mgmt
  let m := { m with st := .restarting, trapKind := kind, trapInterrupt := cause.getLsbD 7, trapCause := cause.extractLsb' 0 7
                    trapPc := pc, trapSp := sp, restartCount := satInc 32 m.restartCount, restartTimes := times, restartBegan := now s }
  let m := { m with keypath := false, requests := m.requests.map markRepeated }
  let s := wipePair { s with mgmt := m }
  let s := if s.per.writeLock then { revoke s .writeLock with per := { s.per with writeLock := false } } else s
  let s := if s.mdp.st ≠ .idle ∧ s.mdp.owner = 0x10 then { s with mdp := clearPort s.mdp } else s
  let s := notifyManager s 3
  if 4 ≤ times.length then { enterSafe s with pwr := { (enterSafe s).pwr with startFail := 0x0C } } else s

/-- A restart whose pc and sp the core records and the model does not know. -/
def restartUnseen (s : State) (kind : Nat) : State :=
  let (n, s) := draw s
  restartPair s kind 0 (BitVec.ofNat 64 (leNat (freeBytes n 8))) (BitVec.ofNat 64 (leNat ((freeBytes n 16).drop 8)))

/-- A fault of the pair: a first fault of a core-wide part, recovered by its restart. -/
def pairFault (s : State) (f : State → State) : State := coreFault s .management f

end Sys2Proof.Machine
end

