-- ==== Sys2Proof/Machine/EntropyCmds.lean ====
section
/-! DEFINITION. The entropy source in service: tests of the noise sources, conditioned blocks, the reseeds of the internal instance and
the source mask (R335 to R355, R361). -/
namespace Sys2Proof.Machine

/-- A change of the sources' states takes effect; FAILED during a start fails the start (R346, R347, R505). -/
def settleEntropy (s : State) : State :=
  let s := refreshEntropy s
  if starting s ∧ s.ent.st = .failed then startFailed s 0x0A else s

/-- A failed known-answer test (R344, R347, R353). -/
def entropyFailed (s : State) : State :=
  let was := s.ent.st
  let s := setEntropy (dropBlocks s) .failed
  if starting s then startFailed s 0x0A
  else if was ≠ .failed ∧ serving s then classB s 0x10 else s

/-- A source becomes FATAL (R341). -/
def sourceFatal (s : State) (n : Nat) (x : Source) : State :=
  let s := setSource s n { x with st := .fatal }
  notifyManager (writeLog { s with ent := { s.ent with fatalSource := true } } 0x0007 0xFFFF (leBytes 1 n)) 7

/-- ENTROPY_STARTUP_TEST_END (R338, R341): a source passes, starts its test again, or becomes FATAL at the third failure. -/
def execEntropyStartupTestEnd (source : Nat) (pass : Bool) (s : State) : Res :=
  let x := sourceOf s source
  if !mainOn s ∨ 8 ≤ source ∨ x.st ≠ .testing then .next s
  else
    let s :=
      if pass then setSource s source { testedSource x with st := .healthy, startFails := 0 }
      else if 3 ≤ x.startFails + 1 then sourceFatal s source { testedSource x with startFails := x.startFails + 1 }
      else setSource s source { testedSource x with startFails := x.startFails + 1, restarts := satInc 8 x.restarts }
    .next (settleEntropy s)

/-- A continuous test of a source fails: its bits are discarded and it starts its test again, at the fourth failure within a
second it becomes FATAL (R340, R341). -/
def continuousFailure (s : State) (n : Nat) : State :=
  let s := discardSource s n
  let x := sourceOf s n
  let recent := x.failTimes.filter (fun t => decide (now s < t + ms 1000)) ++ [now s]
  let x := { x with failTimes := recent, startFails := 0 }
  settleEntropy (if 4 ≤ recent.length then sourceFatal s n x
    else setSource s n { x with st := .testing, restarts := satInc 8 x.restarts })

/-- REPETITION_COUNT_FAILURE (R339, R340). -/
def execRepetitionCountFailure (source : Nat) (s : State) : Res :=
  let x := sourceOf s source
  if !mainOn s ∨ 8 ≤ source ∨ x.st ≠ .healthy then .next s
  else .next (continuousFailure (setSource s source { x with rctFails := satInc 8 x.rctFails }) source)

/-- ADAPTIVE_PROPORTION_FAILURE (R339, R340). -/
def execAdaptiveProportionFailure (source : Nat) (s : State) : Res :=
  let x := sourceOf s source
  if !mainOn s ∨ 8 ≤ source ∨ x.st ≠ .healthy then .next s
  else .next (continuousFailure (setSource s source { x with aptFails := satInc 8 x.aptFails }) source)

/-- The known-answer tests due before the first block and the first instantiation (R344, R353). -/
def runKats (s : State) (conditioner drbg : Bool) : State :=
  { s with ent := { s.ent with
    katConditioner := s.ent.katConditioner || !conditioner, katDrbg := s.ent.katDrbg || !drbg, katDue := !(conditioner && drbg) } }

/-- CONDITIONED_BLOCK (R342, R344): a block joins the buffer of four; a full buffer takes none. -/
def execConditionedBlock (katPass drbgKatPass : Bool) (s : State) : Res :=
  if !mainOn s ∨ !conditioning s then .next s
  else
    let due := s.ent.katDue
    let s := if due then recovered (runKats s katPass drbgKatPass) .entropy else s
    if due ∧ !(katPass && drbgKatPass) then .next (entropyFailed s)
    else .next (settleEntropy (finishBlock s))

/-- State in which the first instantiation leaves STARTING (R346). -/
def leaveStarting (s : State) : State :=
  if s.ent.st = .starting then setEntropy s (if s.ent.minSources ≤ healthySources s then .available else .unavailable) else s

/-- The internal instance may be instantiated or reseeded now: reseeded in AVAILABLE only, instantiated in a start or, after a
Class B alarm, once the tests of R350 have ended (R346, R348, R350). -/
def internalOpen (s : State) : Bool :=
  !s.ent.katDue && (s.ent.st == .available || ((drbgOf s 256).st == .uninstantiated && (s.ent.st == .starting ||
    (s.ent.st == .unavailable && countSources s (fun x => x == .testing) == 0 && decide (s.ent.minSources ≤ healthySources s)))))

/-- The internal instance takes a block and a serial, or waits for them as RESEEDING; an instantiation ends STARTING and the
restart of R350. -/
def reseedInternal (s : State) : State :=
  let d := drbgOf s 256
  if canSeed s then
    let s := leaveStarting (seedFrom s 256 [])
    let s := if d.st = .uninstantiated then refreshEntropy { s with ent := { s.ent with restarting := false } } else s
    { s with ent := { s.ent with mustReseed := s.ent.st != .available } }
  else
    let s := if d.st = .ready then setDrbg s 256 { d with st := .reseeding } else s
    if s.ent.serialEnd ≤ s.ent.serialNext then askSerials s else s

/-- Turns the masked sources OFF (R361). -/
def maskSources (s : State) : State :=
  (List.range 8).foldl (fun s n =>
    if s.ent.srcMask.getLsbD n then s else setSource s n { testedSource (sourceOf s n) with st := .off }) s

/-- ENT_SRC_MASK_WRITE (R361): the first write takes effect and locks the register. -/
def execEntSrcMaskWrite (value : W32) (s : State) : Res :=
  portAccess (.entSrcMaskWrite value) s (.next (regWrite s (fun s =>
    if s.ent.maskLocked then { s with glb := { s.glb with lockedWrite := true } }
    else settleEntropy (maskSources { s with ent := { s.ent with srcMask := value.extractLsb' 0 8, maskLocked := true } }))))

end Sys2Proof.Machine
end

