-- ==== Sys2Proof/Machine/KumBase.lean ====
section
/-! DEFINITION. Key update messages: form, officers, checks, and what each operation applies (R367, R369, R393 to R410,
R446, R451). -/
namespace Sys2Proof.Machine

/-! ## Identity (R366, R369) -/

/-- The DIK public keys of a root key: the P-384 point, then the ML-DSA-87 key. -/
def dikPublic (s : State) (rk : Bytes) : Bytes :=
  (p384Material (p384Scalar (derive s rk "DIK-ECDSA-P384" false 0 56))).drop 48 ++
    mldsa87Public (derive s rk "DIK-MLDSA87" false 0 32)
/-- The DID of a root secret (R369). -/
def didOf (s : State) (root : Bytes) : Bytes := sha384 (dikPublic s (rootKey root))

/-- A measurement slot after an extend (R250). -/
def extended (old d : Bytes) : Bytes := sha384 (old ++ d)

/-! ## The message (R396) -/

/-- A KUM cut into its parts. -/
structure Kum where
  op : Nat
  target : Bytes
  counter : Nat
  record : Nat
  owner : Nat
  template : Template
  policy : Nat
  header : Bytes
  signed : Bytes
  cipher : Bytes
  payload : Bytes
  roster : Bytes
  recovery : Bytes
  sigs : List (Nat × Bytes)
  deriving DecidableEq, Repr

def kumOps : List Nat := [0x01, 0x02, 0x03, 0x10, 0x11, 0x12, 0x13, 0x20, 0x21, 0x30]
/-- The bytes of a job's KUM. -/
def kumBytes (j : Job) : Bytes := (rangeData j .src).take (stepEff j).length
def kumOp (b : Bytes) : Nat := field b 0x0E 1

/-- Signature entries: n of them must fill the rest exactly, padding zero. -/
def parseSigs : Nat → Bytes → Option (List (Nat × Bytes))
  | 0, b => if b = [] then some [] else none
  | n + 1, b =>
    let len := field b 4 4
    let rest := b.drop 8
    if b.length < 8 ∨ !allZero (subBytes b 1 3) ∨ rest.length < up8 len ∨ !allZero (subBytes rest len (up8 len - len)) then none
    else (parseSigs n (rest.drop (up8 len))).map (fun l => (field b 0 1, rest.take len) :: l)

/-- A part of the body at an offset: its bytes, whether its padding is zero, and the offset after it. -/
def bodyPart (b : Bytes) (o len : Nat) : Bytes × Bool × Nat :=
  (subBytes b o len, allZero (subBytes b (o + len) (up8 len - len)), o + up8 len)

/-- Parts that an operation's body has (R400). -/
def bodyFits (op payload roster recovery : Nat) : Bool :=
  let p := op == 0x10 || op == 0x12 || op == 0x30
  let r := op == 0x01 || op == 0x03
  (p == (payload != 0)) && (r == (roster != 0)) && (op == 0x01 || recovery == 0) && (payload == 0 || decide (16 ≤ payload))

/-- The form check of R401 step 1. -/
def parseKum (b : Bytes) : Option Kum :=
  let signed := field b 8 4
  let op := kumOp b
  let pl := field b 0x80 4
  let rl := field b 0x84 4
  let vl := field b 0x88 4
  let c := bodyPart b 256 (if pl = 0 then 0 else 1665)
  let p := bodyPart b c.2.2 pl
  let r := bodyPart b p.2.2 rl
  let v := bodyPart b r.2.2 vl
  let zerosOk := allZero (subBytes b 0x4E 2) && allZero (subBytes b 0x53 1) && allZero (subBytes b 0x5A 2) &&
    allZero (subBytes b 0x68 24) && allZero (subBytes b 0x90 112)
  if b.length < 256 ∨ b.take 8 ≠ ascii "PRDKUM01" ∨ field b 0x0C 2 ≠ 1 ∨ !zerosOk ∨ v.2.2 ≠ signed ∨ b.length < signed ∨
      !(c.2.1 && p.2.1 && r.2.1 && v.2.1) ∨ field b 0x0F 1 = 0 ∨ field b 0x0F 1 > 32 ∨ (kumOps.contains op ∧ !bodyFits op pl rl vl) then
    none
  else
    (parseSigs (field b 0x0F 1) (b.drop signed)).map (fun sigs =>
      { op := op, target := subBytes b 0x10 48, counter := field b 0x40 8, record := field b 0x48 4, owner := field b 0x4C 2
        template := templateOf (subBytes b 0x50 48), policy := field b 0x8C 4, header := b.take 256, signed := b.take signed
        cipher := c.1, payload := p.1, roster := r.1, recovery := v.1, sigs := sigs })

/-! ## Rosters and officers (R393 to R395, R397) -/

def rosterCount (img : Bytes) : Nat := field img 0x0C 1
def rosterQuorum (img : Bytes) : Nat := field img 0x0D 1
def rosterGen (img : Bytes) : Nat := field img 8 4
/-- Entry i of an image. -/
def rosterEntry (img : Bytes) (i : Nat) : Bytes := subBytes img (512 + 2000 * i) 2000

/-- The public key of an officer's entry. -/
def officerKey (e : Bytes) : Bytes := subBytes e 0x30 (field e 4 4)

/-- An entry is well formed, and its key passes R277. -/
def entryOk (e : Bytes) : Bool :=
  let t := field e 0 1
  let n := field e 4 4
  let k := officerKey e
  allZero (subBytes e 1 3) && decide (n ≤ 1952) && allZero (subBytes e (0x30 + n) (1952 - n)) &&
    (match t with
     | 1 => n == 97 && (ecDecode curveP384 k).isSome
     | 2 => n == 1952
     | 3 => [48, 56, 52, 60].contains n && hssPublicOk k
     | _ => false)

/-- An image is well formed (R393); its generation does not lower counter 1 (R425). -/
def rosterOk (s : State) (img : Bytes) : Bool :=
  let n := rosterCount img
  let m := rosterQuorum img
  img.take 8 == ascii "PRDROST1" && decide (2 ≤ n) && decide (n ≤ 32) && decide (2 ≤ m) && decide (m ≤ n) &&
    img.length == 512 + 2000 * n && allZero (subBytes img 0x0E 498) && decide (counterOf s 1 ≤ rosterGen img) &&
    (List.range n).all (fun i => entryOk (rosterEntry img i))

/-- The domain string of a KUM (R397). -/
def kumLabel : Bytes := ascii "PERAND-KUM-V0001"

/-- Whether an officer's signature verifies, with a domain string: an ECDSA or LMS key signs the digest, an ML-DSA key the bytes
(R397). -/
def officerSigns (label e signed sig : Bytes) : Bool :=
  let k := officerKey e
  match field e 0 1 with
  | 1 => ecdsaVerify curveP384 k (sha384 (label ++ signed)) sig
  | 2 => mldsaVerify 0x12 k label signed sig
  | _ => hbsVerify 0x40 k (sha384 (label ++ signed)) sig

/-- Class of an officer's verification (R401). -/
def officerClass (e : Bytes) : Nat :=
  match field e 0 1 with
  | 1 => 80
  | 2 => 174
  | _ => hbsClass false 0x40 (hbsTypeShake 0x40 (officerKey e)) (hbsTypeW (officerKey e))

/-- The tag of a roster area: image, floors, STATUS and OWNER_DID (R394). -/
def rosterTag (r : Roster) : Bytes :=
  let code := match r.st with
    | .empty => 0
    | .active => 1
    | .pendingSt => 2
  kmac256 (fuseKey "ROSTER-TAG" 32) (r.image ++ (List.range 32).flatMap (fun i => leBytes 8 (look r.floors i 0)) ++ leBytes 8 code ++
    fit 48 r.ownerDid) 32 []
/-- A roster area as the core writes it. -/
def tagged (r : Roster) : Roster := { r with tag := rosterTag r }

/-- The tag of the recovery record (R409). -/
def recoveryTag (r : RecoveryRec) : Bytes :=
  kmac256 (fuseKey "RECOVERY-TAG" 32) (fit 48 r.did ++ leBytes 1 r.threshold ++ leBytes 1 r.shares ++ leBytes 4 r.recovered) 32 []
/-- The recovery record is there and its tag is valid. -/
def recoveryValid (s : State) : Bool := match s.keys.recovery with
  | some r => r.tag == recoveryTag r
  | none => false

/-- Checks the signature entries in turn: distinct officers of the image, each valid, none at or below its floor. -/
def sigFault (label img : Bytes) (floors : Tbl Nat) (signed : Bytes) : List Nat → List (Nat × Bytes) → Option Nat
  | _, [] => none
  | seen, (i, sig) :: r =>
    let e := rosterEntry img i
    if rosterCount img ≤ i ∨ seen.contains i ∨ !officerSigns label e signed sig then some 0x0140
    else if field e 0 1 = 3 ∧ usedIndex 0x40 (officerKey e) sig ≤ look floors i 0 then some 0x0143
    else sigFault label img floors signed (i :: seen) r

/-- Signers whose key stands in another image as well. -/
def signersIn (img other : Bytes) (sigs : List (Nat × Bytes)) : Nat :=
  sigs.countP (fun g => (List.range (rosterCount other)).any (fun k =>
    officerKey (rosterEntry other k) == officerKey (rosterEntry img g.1) &&
      field (rosterEntry other k) 0 1 == field (rosterEntry img g.1) 0 1))

/-- The image and floors that a KUM's signatures are checked against. -/
def kumRoster (s : State) (k : Kum) : Option Roster :=
  if k.op = 0x01 then some { image := k.roster } else activeRoster s

/-! ## Payloads (R399, R409, R410) -/

/-- The decrypted payload of a KUM. -/
def kumPayload (s : State) (k : Kum) : Option Bytes :=
  let t := if k.op = 0x30 then recoveryTransport else transportKey s k.counter
  match hykemOpen 0x34 t.1 t.2.1 t.2.2 k.cipher with
  | none => none
  | some sec =>
    let n := k.payload.length - 16
    let c := k.payload.take n
    let iv := leBytes 8 k.counter ++ zeros 4
    if gcmTag sec iv k.header c = k.payload.drop n then some (gcmCtr sec iv c) else none

/-- Product in GF(2^8) with the AES polynomial. -/
def gfMulFuel : Nat → BitVec 8 → BitVec 8 → BitVec 8 → BitVec 8
  | 0, _, _, r => r
  | n + 1, a, b, r =>
    gfMulFuel n (if a.getLsbD 7 then (a <<< 1) ^^^ 0x1B else a <<< 1) (b >>> 1) (if b.getLsbD 0 then r ^^^ a else r)
def gfMul (a b : BitVec 8) : BitVec 8 := gfMulFuel 8 a b 0
/-- Inverse, a to the power 254. -/
def gfPow : Nat → BitVec 8 → BitVec 8
  | 0, _ => 1
  | n + 1, a => gfMul a (gfPow n a)
def gfInv (a : BitVec 8) : BitVec 8 := gfPow 254 a

/-- Share x of a secret with threshold t; the coefficients are random bytes of a draw (R409). -/
def shareOf (secret : Bytes) (t n x : Nat) : Bytes :=
  (List.range 32).map (fun i =>
    (List.range (t - 1)).reverse.foldl (fun acc c => gfMul acc (BitVec.ofNat 8 x) ^^^ (randomAt n (64 + 32 * c + i) 1).headD 0)
        0 |> fun hi => gfMul hi (BitVec.ofNat 8 x) ^^^ secret.getD i 0)

/-- The secret that shares of the form x, 32 bytes give (R410). -/
def joinShares (shares : List Bytes) : Bytes :=
  let xs := shares.map (fun b => b.getD 0 0)
  (List.range 32).map (fun i =>
    shares.foldl (fun acc b =>
      let x := b.getD 0 0
      let w := (xs.filter (· != x)).foldl (fun p y => gfMul p (gfMul y (gfInv (y ^^^ x)))) 1
      acc ^^^ gfMul w (b.getD (i + 1) 0)) 0)

/-- The root that a RECOVER payload rebuilds, when its DID is the recorded one. -/
def recoveredRoot (s : State) (p : Bytes) : Option Bytes :=
  match s.keys.recovery with
  | none => none
  | some r =>
    let n := field p 0 1
    let shares := ((pieces 33 (p.drop 1)).take n).take r.threshold
    if p.length < 1 + 33 * n ∨ n < r.threshold then none
    else
      let root := joinShares shares
      if didOf s root = r.did then some root else none

/-- An ENROL recovery section is well formed. -/
def recoveryOk (b : Bytes) : Bool :=
  let t := field b 0 1
  let r := field b 1 1
  b == [] || (decide (2 ≤ t) && decide (t ≤ r) && decide (r ≤ 32) && b.length == 8 + 1680 * r && allZero (subBytes b 2 6) &&
    (List.range r).all (fun i =>
      let e := subBytes b (8 + 1680 * i) 1680
      allZero (subBytes e 1 7) && allZero (subBytes e 1673 7) && peerOk 0x34 (subBytes e 8 97)))

/-- The envelopes of the shares (R409). -/
def envelopes (s : State) (b : Bytes) (root : Bytes) (n : Nat) : Bytes :=
  (List.range (field b 1 1)).flatMap (fun i =>
    let e := subBytes b (8 + 1680 * i) 1680
    let share := BitVec.ofNat 8 (i + 1) :: shareOf root (field b 0 1) n (i + 1)
    match hykemEncaps 0x34 (subBytes e 8 1665) (laterNumber n (i + 1)) with
    | some (ct, sec) =>
      let (c, t) := gcmEnc sec (freeBytes (2 ^ 64 + s.drawn + i) 12) [] share
      e.take 1 ++ zeros 7 ++ ct ++ c ++ t ++ zeros 6
    | none => zeros 1728)

/-! ## Records (R372, R382 to R384, R404) -/

/-- A record number of R372 whose position is not retired. -/
def recordOk (s : State) (h : Nat) : Bool := (isMramHandle h && !s.keys.retiredPos.contains h) || isStoreHandle h

/-- The record that a number names, read from MRAM or the store. -/
inductive RecordFind where
  | have (r : KeyRec)
  | empty
  | fail (sub : Nat)
  | wait
  deriving DecidableEq, Repr

def findRecord (s : State) (h : Nat) : RecordFind × State :=
  if isMramHandle h then
    match look? s.keys.records h with
    | some r => (.have r, s)
    | none => (.empty, s)
  else match storeRead s h with
    | (.have b, s) => let r := recordFrom b; (if r.handle = h then .have r else .empty, s)
    | (.fail x, s) => (.fail x, s)
    | (.wait, s) => (.wait, s)

/-- Template of a record equals a KUM's. -/
def sameTemplate (r : KeyRec) (t : Template) : Bool :=
  r.alg == t.alg && r.use == t.use && r.flags % 32 == t.flags + 8 && r.param == t.param && r.matLen == t.matLen &&
    r.useLimit == t.useLimit && blockOf r.block == blockOf t.block

/-- The key of a KUM's template, for the record it makes. -/
def kumRecord (k : Kum) (owner attempt : Nat) : KeyRec :=
  { handle := k.record, alg := k.template.alg, use := k.template.use, flags := k.template.flags % 8 + 8, owner := owner
    param := k.template.param, useLimit := k.template.useLimit, generation := 256 * k.counter + attempt
    block := if bit k.template.flags 1 then blockOf k.template.block else 0, matLen := k.template.matLen }

/-! ## Tree images (R313, R314, R451) -/

/-- A key that has trees: a private stateful hash-based one. -/
def hasTrees (alg use : Nat) : Bool := isHbsAlg alg && use != 6

/-- Data index of the bitmap object that holds a page's bit. -/
def bitmapAt (page : Nat) : Nat := 0xF1000000 + page / 32768
def pageBit (b : Bytes) (page : Nat) : Bool := (b.getD (page % 32768 / 8) 0).getLsbD (page % 8)
def setPageBit (v : Bool) (b : Bytes) (page : Nat) : Bytes :=
  let x := b.getD (page % 32768 / 8) 0
  let m := (1 : BitVec 8) <<< (page % 8)
  overlay b (page % 32768 / 8) [if v then x ||| m else x &&& ~~~m]

/-- Outcome of the search for free pages. -/
inductive Pages where
  | first (p : Nat)
  | full
  | fail (sub : Nat)
  | wait
  deriving DecidableEq, Repr

/-- The lowest run of `n` clear bits in one bitmap object, continuing a run of `run` pages that ended before it: its end
page when found, else the run left at the object's end. -/
def scanObject (b : Bytes) (n base : Nat) : Nat → Nat → Nat → Option Nat × Nat
  | 0, _, run => (none, run)
  | k + 1, i, run =>
    if pageBit b i then scanObject b n base k (i + 1) 0
    else if run + 1 = n then (some (base + i), run + 1)
    else scanObject b n base k (i + 1) (run + 1)
/-- The lowest run of free pages (R451). -/
def scanBitmap : Nat → State → Nat → Nat → Nat → Pages × State
  | 0, s, _, _, _ => (.full, s)
  | f + 1, s, o, run, n =>
    match storeRead s (0xF1000000 + o) with
    | (.fail x, s) => (.fail x, s)
    | (.wait, s) => (.wait, s)
    | (.have b, s) =>
      match scanObject b n (32768 * o) 32768 0 run with
      | (some e, _) => (.first (e + 1 - n), s)
      | (none, run) => scanBitmap f s (o + 1) run n
def freeRun (s : State) (n : Nat) : Pages × State := scanBitmap 65536 s 0 0 n

/-- Sets or clears the bits of a run of pages in the open batch. -/
def markPages (v : Bool) (first n : Nat) (s : State) : State :=
  (List.range n).foldl (fun s i =>
    match storeSees s (bitmapAt (first + i)) with
    | .content b => changeObject s (bitmapAt (first + i)) (setPageBit v b (first + i))
    | _ => s) s

/-- Writes a key's directory entry in the open batch. -/
def writeDirectory (s : State) (h first n : Nat) : State :=
  match storeSees s (directoryAt h) with
  | .content b => changeObject s (directoryAt h) (overlay b (16 * (h % 256)) (leBytes 8 first ++ leBytes 4 n ++ zeros 4))
  | _ => s

/-- Pages of a tree of a key: data index and content. -/
def treeContent (t : Tree) (first : Nat) : List (Nat × Bytes) :=
  (List.range (treeSize t.alg t.param)).map (fun i => (imagePage (first + treePlace t.alg t.param t.layer t.tree + i), treePage t i))
/-- Writes objects in the open batch. -/
def changeObjects (s : State) (xs : List (Nat × Bytes)) : State := xs.foldl (fun s x => changeObject s x.1 x.2) s
/-- The first tree of every layer, the second places holding none (R313). -/
def firstTrees (alg p : Nat) (m : Bytes) (first : Nat) : List (Nat × Bytes) :=
  (List.range (hbsLayers p)).flatMap (fun l =>
    treeContent ⟨alg, p, m, l, 0⟩ first ++ [(imagePage (first + treePlace alg p l 1), zeros 4096)])

/-! ## The checks (R401) -/

/-- Lifecycle states of an operation (R400), with what RECOVER asks for beside (R410). -/
def kumState (s : State) (op : Nat) : Bool :=
  let x := s.keys.lifecycle
  match op with
  | 0x01 => x == .blank
  | 0x30 => x == .blank && recoveryValid s && (activeRoster s).isSome
  | 0x02 => x == .enrolled
  | 0x03 | 0x13 | 0x20 | 0x21 => x == .enrolled || x == .service
  | 0x10 | 0x11 | 0x12 => x == .service
  | _ => false

/-- A log that refuses KUMs (R442, R444). -/
def logRefuses (s : State) : Bool := ackPending s || (decide (12224 ≤ unarchived s) && counterOf s 10 % 2 == 0)

/-- A member of a group that is not its leader applies no KUM_SUBMIT (R566). -/
def offLeader (s : State) : Bool := inGroup s && s.mir.st != .leader

/-- Steps 2 to 5; no ROSTER once an update is ACTIVATED (R491). -/
def kumEarly (s : State) (k : Kum) : Option Ending :=
  let group := inGroup s && k.target == fit 48 s.mir.groupId
  firstEnd
    [failIf stBadParam [(k.target != fit 48 s.keys.did && !group, 0x0131)],
     failIf stNoRight
      [(!kumState s k.op || (rosterPending s && k.op != 0x13) || s.keys.sealMismatch || (k.op == 0x03 && s.mgmt.updSt == .activated), 0x0141),
       (logRefuses s && k.op != 0x20 && k.op != 0x21, 0x0142)],
     failIf stBadParam [(k.counter != keyAdmin s + 1, 0x0132)]]

/-- Step 6: images, then signatures. -/
def kumSigned (s : State) (k : Kum) : Option Ending :=
  if (k.op = 0x01 ∨ k.op = 0x03) ∧ !rosterOk s k.roster then some { status := stBadParam, sub := 0x0139 }
  else match kumRoster s k with
    | none => some { status := stNoRight, sub := 0x0140 }
    | some r =>
      match sigFault kumLabel r.image r.floors k.signed [] k.sigs with
      | some e => some { status := stNoRight, sub := e }
      | none =>
        failIf stNoRight
          [(decide (k.sigs.length < rosterQuorum r.image) ||
              (k.op == 0x03 && decide (signersIn r.image k.roster k.sigs < rosterQuorum k.roster)), 0x0140)]

/-- Step 7: the payload decrypts, and a RECOVER's shares give the recorded root. -/
def kumOpened (s : State) (k : Kum) : Option Ending :=
  if k.payload = [] then failIf stBadParam [(!recoveryOk k.recovery, 0x0130)]
  else match kumPayload s k with
    | none => some { status := stBadParam, sub := 0x0133 }
    | some p => failIf stBadParam [(k.op == 0x30 && (recoveredRoot s p).isNone, 0x0133)]

/-- Template checks of LOAD, GENERATE and REPLACE, and the room of an MRAM position. -/
def kumTemplate (s : State) (k : Kum) : Option Ending :=
  let t := k.template
  let len := match kumPayload s k with
    | some p => p.length
    | none => t.matLen
  firstEnd
    [failIf stBadParam
      [(k.op == 0x11 && t.alg == 0x20, 0x0106),
       (templateBad t || (k.op != 0x11 && (len != t.matLen || hasTrees t.alg t.use)), 0x0137), (isMramHandle k.record && decide (448 < t.matLen), 0x0138)],
     failIf stStoreUnavailable [((isStoreHandle k.record || hasTrees t.alg t.use) && !storeUp s, 0x0502)]]

/-- Key operations' checks of step 8. -/
def kumKeyCheck (s : State) (k : Kum) (again : Bool) : Check × State :=
  if !recordOk s k.record then (.fail { status := stBadParam, sub := 0x0136 }, s)
  else if isStoreHandle k.record ∧ !storeUp s then (.fail { status := stStoreUnavailable, sub := 0x0502 }, s)
  else match findRecord s k.record with
    | (.wait, s) => (.wait, s)
    | (.fail x, s) => (.fail (storeEnding x), s)
    | (r, s) =>
      let there := match r with
        | .have x => some x
        | _ => none
      let e := firstEnd
        [failIf stBadParam [(!again && (k.op == 0x10 || k.op == 0x11) && there.isSome, 0x0134)],
         failIf stKeyAbsent [((k.op == 0x12 || k.op == 0x13) && there.isNone, 0x0350)],
         failIf stBadParam
          [(k.op == 0x12 && !((there.map (sameTemplate · k.template)).getD false), 0x0135),
           ((k.op == 0x10 || k.op == 0x11) && (sliceOf s k.owner).st != .active, 0x0136)],
         if k.op = 0x13 then none else kumTemplate s k]
      match e with
      | some x => (.fail x, s)
      | none =>
        if k.op ≠ 0x13 ∧ hasTrees k.template.alg k.template.use then
          match freeRun s (imageSize k.template.alg k.template.param) with
          | (.first _, s) => (.pass, s)
          | (.full, s) => (.fail { status := stStoreUnavailable, sub := 0x0505 }, s)
          | (.fail x, s) => (.fail (storeEnding x), s)
          | (.wait, s) => (.wait, s)
        else (.pass, s)

/-- Bytes that a KUM will write at DST (R400, R409). -/
def kumOutput (s : State) (k : Kum) : Nat :=
  match k.op with
  | 0x01 => if k.recovery = [] then 0 else 1728 * field k.recovery 1 1
  | 0x11 =>
    let m := zeros k.template.matLen
    if isAsymmetric k.template.alg then (publicOf s (keyFrom 0 k.template m)).length else 0
  | _ => 0

/-- All checks of a KUM (R401), a repeated one's order in the counter only before its signatures (R429), with the classes of the verifications that ran. -/
def kumCheck (s : State) (j : Job) : Check × List Nat × State :=
  if offLeader s then (.fail { status := stNoRight, sub := 0x0144 }, [], s)
  else match parseKum (kumBytes j) with
  | none => (.fail { status := stBadParam, sub := 0x0130 }, [], s)
  | some k =>
    match if j.repeats.isSome then failIf stBadParam [(k.counter != keyAdmin s + 1, 0x0132)] else kumEarly s k with
    | some e => (.fail e, [], s)
    | none =>
      let img := match kumRoster s k with
        | some r => r.image
        | none => []
      let cls := k.sigs.map (fun g => officerClass (rosterEntry img g.1))
      let d := stepDesc j
      let out := d.dst != 0 && !inWindows (windowsOf (cfgOf s j.gen) j.slice) true d.dst (kumOutput s k)
      match firstEnd [kumSigned s k, kumOpened s k, failIf stWindow [(out, 0)]] with
      | some e => (.fail e, cls, s)
      | none =>
        if [0x10, 0x11, 0x12, 0x13].contains k.op then
          let (c, s) := kumKeyCheck s k j.repeats.isSome
          (c, cls, s)
        else (.pass, cls, s)

/-! ## Applying (R402, R403, R408 to R410, R444) -/

/-- A job under a destroyed key: not dispatched, it ends with KEY_ABSENT; on a lane it stops at its segment's end (R223,
R258, R391). -/
def keyGoneJob (sl h : Nat) (s : State) (id : Nat) : State :=
  let e : Ending := { status := stKeyAbsent }
  match jobOf s id with
  | none => s
  | some j =>
    if j.slice ≠ sl ∨ (stepDesc j).key ≠ h then s
    else match j.phase with
      | .stamping => if j.decided then s else setJob s { j with decided := true, ending := e }
      | .ready => failStep s j e
      | .fetching | .operands | .computed | .finished =>
        let s := revokeParts s j
        if onLane j then setJob s { j with bad := some e } else failStep s j e
      | _ => s
/-- A cached key is wiped and the lease of its slot taken back (R391, R550). -/
def revokeKey (s : State) (k : Key) : State := revoke (dropKey s k.slot) (.keySlot k.slot)
/-- Every job under a destroyed key but one ends. -/
def endKeyJobs (s : State) (sl h but : Nat) : State :=
  ((s.jobs.map (·.id)).filter (· != but)).foldl (keyGoneJob sl h) s

/-- Wipes every cached copy of a persistent key, with its jobs (R403 steps 1 and 2). -/
def wipeCopy (s : State) (h but : Nat) : State :=
  match cachedKey s h with
  | some k => endKeyJobs (revokeKey s k) k.owner h but
  | none => s

/-- Sets the PENDING roster area EMPTY. -/
def dropPending (s : State) : State :=
  let one := fun (r : Roster) => if r.st = .pendingSt then ({} : Roster) else r
  { s with keys := { s.keys with rosterA := one s.keys.rosterA, rosterB := one s.keys.rosterB } }

/-- Destroys a key record and every cached copy (R403), whatever state its KUM left it in. -/
def destroyRecord (s : State) (h : Nat) : State :=
  let s := match cachedKey s h with
    | some k => endKeyJobs (revokeKey s k) k.owner h s.nextJob
    | none => s
  if isMramHandle h then { s with keys := { s.keys with records := del s.keys.records h } }
  else if storeUp s then
    joinBatch (changeObject { s with keys := { s.keys with storeOwners := del s.keys.storeOwners h } } h (zeros 4096))
      (fun b => { b with urgent := true })
  else s

/-- The branch of R429 that needs no host data: the record is destroyed and the counter consumed, or the PENDING roster goes. -/
def resolveOtherwise (s : State) (opid : Nat) (p : LPayload) : State :=
  match p with
  | .intent 2 _ _ _ _ _ _ _ _ => enqueue (dropPending s) (.rollback opid) .nothing
  | .intent 3 op _ _ _ _ object counter _ =>
    let s := writeLog (destroyRecord s object) 0x0003 0xFFFF (leBytes 1 op ++ leBytes 4 object ++ leBytes 8 counter)
    enqueue s (.doneRec opid 0 (some (0, counter)) none) .nothing
  | _ => s

/-- The log record of an applied KUM: OP, RECORD, COUNTER, officers, whether it was repeated. -/
def kumLog (s : State) (k : Kum) (again : Bool) : State :=
  writeLog s 0x0002 0xFFFF
    (leBytes 1 k.op ++ leBytes 4 k.record ++ leBytes 8 k.counter ++ k.sigs.map (fun g => BitVec.ofNat 8 g.1) ++ leBytes 1 (b2n again))
/-- The second counter that its DONE record moves. -/
def kumMove (k : Kum) : Option (Nat × Nat) :=
  match k.op with
  | 0x01 | 0x03 => some (1, rosterGen k.roster)
  | 0x20 => some (12, k.counter)
  | 0x21 => some (10, 2 * k.counter + k.policy % 2)
  | _ => none

/-- The log record and the DONE record of an applied KUM; RESULT holds the counter (R402). -/
def kumDone (s : State) (j : Job) (k : Kum) (top : Nat) : State :=
  let s := kumLog s k j.repeats.isSome
  let s := setJob s { j with phase := .committing, result := k.counter + top }
  enqueue s (.doneRec (j.opid.getD 0) 0 (some (0, k.counter)) (kumMove k)) (.endJob j.id)

/-- Raises the floors of the LMS officers that signed (R395). -/
def raiseFloors (k : Kum) (r : Roster) : Roster :=
  tagged { r with floors := k.sigs.foldl (fun f g =>
      if field (rosterEntry r.image g.1) 0 1 = 3 then put f g.1 (max (look f g.1 0) (usedIndex 0x40 (officerKey (rosterEntry r.image g.1)) g.2)) else f) r.floors }
def raiseActive (s : State) (k : Kum) : State :=
  if s.keys.rosterA.st = .active then { s with keys := { s.keys with rosterA := raiseFloors k s.keys.rosterA } }
  else if s.keys.rosterB.st = .active then { s with keys := { s.keys with rosterB := raiseFloors k s.keys.rosterB } }
  else s

/-- The floors of a new image: an officer whose LMS key stands in the ACTIVE image keeps its floor (R395; log entry 183). -/
def carriedFloors (s : State) (img : Bytes) : Tbl Nat :=
  match activeRoster s with
  | none => []
  | some r =>
    (List.range (rosterCount img)).filterMap (fun i =>
      let e := rosterEntry img i
      ((List.range (rosterCount r.image)).find? (fun k =>
        field e 0 1 == 3 && field (rosterEntry r.image k) 0 1 == 3 && officerKey (rosterEntry r.image k) == officerKey e)).bind
          (fun k => if look r.floors k 0 = 0 then none else some (i, look r.floors k 0)))
/-- Puts a new image into the area that is not ACTIVE, as PENDING (R394). -/
def putPending (s : State) (r : Roster) : State :=
  if s.keys.rosterA.st = .active then { s with keys := { s.keys with rosterB := r } } else { s with keys := { s.keys with rosterA := r } }

/-- Measurements with the M3 that an image will give (R365). -/
def futureMeas (s : State) (img : Bytes) : Bytes :=
  measOf s 0 ++ measOf s 1 ++ measOf s 2 ++ extended (zeros 48) (sha384 img)
/-- The sealing entry of the store master keys for the M3 that an image will give. -/
def futureSeal (s : State) (img smk : Bytes) : SealEntry :=
  let m := futureMeas s img
  { mdigest := sha384 m, wrap := kwWrap (deriveWith (s.keys.rk.getD []) "STORE-SEAL" true m 0 32) smk }

/-- ENROL (R408, R409, R446). -/
def applyEnrol (s : State) (j : Job) (k : Kum) : State :=
  let n := j.draw - 1
  let smk := randomBytes n 64
  let r := raiseFloors k { st := .pendingSt, image := k.roster, floors := carriedFloors s k.roster, ownerDid := s.keys.did }
  let s := putPending s r
  let root := (rootOf s).getD []
  let rec1 : Option RecoveryRec := if k.recovery = [] then none
    else
      let x : RecoveryRec := { did := s.keys.did, threshold := field k.recovery 0 1, shares := field k.recovery 1 1 }
      some { x with tag := recoveryTag x }
  let env := if k.recovery = [] ∨ (stepDesc j).dst = 0 then [] else envelopes s k.recovery root n
  let keys : Keys := { s.keys with
    records := if s.per.otpEnrolled then [] else s.keys.records
    storeOwners := []
    sealA := futureSeal s k.roster smk, sealB := {}, recovery := rec1 }
  let s := { s with keys := keys, res := {}, per := { s.per with otpEnrolled := true }, drawn := s.drawn + 33 }
  let j := { j with out := if env = [] then [] else [((stepDesc j).dst, env)], resultLen := env.length }
  kumDone (setJob s j) j k 0

/-- ROSTER: the new image becomes PENDING, the store master keys are wrapped anew (R365, R385, R394, R400). -/
def installRoster (s : State) (k : Kum) : State :=
  let s := raiseActive s k
  let s := putPending s (tagged { st := .pendingSt, image := k.roster, floors := carriedFloors s k.roster, ownerDid := s.keys.did })
  let smk := match s.keys.smk with
    | some (a, b) => a ++ b
    | none => zeros 64
  let e := futureSeal s k.roster smk
  if s.keys.sealA.mdigest = s.keys.mdigest then { s with keys := { s.keys with sealB := e } }
  else { s with keys := { s.keys with sealA := e } }
def applyRoster (s : State) (j : Job) (k : Kum) : State := kumDone (installRoster s k) j k 0

/-- Puts the record of a key in the store, and its tree image, into the open batch. -/
def recordChanges (s : State) (r : KeyRec) (m : Bytes) (isNew : Bool) : State :=
  let s := if isStoreHandle r.handle then changeObject s r.handle (recordBytes r 0) else s
  let n := imageSize r.alg r.param
  if !hasTrees r.alg r.use then s
    else if isNew then
      match freeRun s n with
      | (.first p, s) => changeObjects (writeDirectory (markPages true p n s) r.handle p n) (firstTrees r.alg r.param m p)
      | (_, s) => s
    else match storeSees s (directoryAt r.handle) with
      | .content b => changeObjects s (firstTrees r.alg r.param m (directoryEntry b r.handle).1)
      | _ => s
/-- Puts a key's record and tree image into a batch; the KUM is done when it commits. -/
def storeRecord (s : State) (j : Job) (r : KeyRec) (m : Bytes) (isNew : Bool) : State :=
  joinBatch (recordChanges s r m isNew) (fun b => { b with jobs := b.jobs ++ [j.id], urgent := true })

/-- The record and the material that a LOAD, GENERATE or REPLACE gives, in an attempt (R384, R400). -/
def keyRecordOf (s : State) (j : Job) (k : Kum) (attempt : Nat) : KeyRec × Bytes :=
  let m := if k.op = 0x11 then
      (if k.template.use = 6 then randomBytes (j.draw - 1) k.template.matLen
       else freshMaterial k.template.alg k.template.param k.template.matLen (j.draw - 1))
    else fit k.template.matLen ((kumPayload s k).getD [])
  let owner := if k.op = 0x12 then
      (match (findRecord s k.record).1 with
       | .have r => r.owner
       | _ => k.owner)
    else k.owner
  let smk0 := match s.keys.smk with
    | some (a, _) => a
    | none => []
  (sealRecord smk0 (kumRecord k owner attempt) m, m)

/-- Writes an MRAM record in both banks. -/
def putRecord (s : State) (r : KeyRec) : State := { s with keys := { s.keys with records := put s.keys.records r.handle r } }

/-- LOAD, GENERATE and REPLACE (R384, R400, R451). The MRAM record of a key with a tree image is written when the batch of
its image has committed. -/
def applyKey (s : State) (j : Job) (k : Kum) (attempt : Nat) : State :=
  let s := raiseActive s k
  let (r, m) := keyRecordOf s j k attempt
  let s := if k.op = 0x12 then
      (match cachedKey s k.record with
       | some c => dropKey s c.slot
       | none => s)
    else s
  let pub := if k.op = 0x11 ∧ (stepDesc j).dst ≠ 0 ∧ isAsymmetric k.template.alg then publicOf s (keyFrom r.owner k.template m) else []
  let j := { j with out := if pub = [] then [] else [((stepDesc j).dst, pub)], resultLen := pub.length }
  let s := setJob s j
  if isStoreHandle k.record ∨ hasTrees r.alg r.use then storeRecord s j r m (k.op != 0x12)
  else kumDone (putRecord s r) j k 0

/-- Frees a key's tree image in the open batch (R451). -/
def freeImage (s : State) (h : Nat) : State :=
  match storeSees s (directoryAt h) with
  | .content b =>
    let e := directoryEntry b h
    if e.2 = 0 then s else writeDirectory (markPages false e.1 e.2 s) h 0 0
  | _ => s

/-- The core forgets the index state of a stateful key. -/
def forgetIndex (s : State) (h : Nat) : State :=
  let s := dropBuilds s h
  { s with res := { s.res with
    hbs := del s.res.hbs h, windowLru := s.res.windowLru.filter (· != h), fresh := s.res.fresh.filter (fun e => e.1 != h) } }

/-- Erases an MRAM record in both banks, with the readbacks of R404; a position that fails them is retired and RESULT bit 63
set. -/
def eraseMram (s : State) (h : Nat) : Bool × State :=
  let (n, s) := draw s
  let fails := Config.destroyFails n
  let s := { s with keys := { s.keys with
    records := del s.keys.records h
    retiredPos := if fails then s.keys.retiredPos ++ [h] else s.keys.retiredPos } }
  let s := forgetIndex s h
  (fails, if fails then writeLog s 0x0012 0xFFFF (leBytes 4 h) else s)
def eraseRecord (s : State) (j : Job) (k : Kum) : State :=
  let (fails, s) := eraseMram s k.record
  kumDone s j k (if fails then 2 ^ 63 else 0)

/-- A key has a tree image in the store. -/
def hasImage (s : State) (h : Nat) : Bool := storeUp s && match storeSees s (directoryAt h) with
  | .content b => (directoryEntry b h).2 != 0
  | _ => false

/-- DESTROY (R403, R404). The tree image of a key in MRAM is freed first, in a batch of its own; a store record gets a version
of random data, then in the next batch one of zeros. -/
def applyDestroy (s : State) (j : Job) (k : Kum) : State :=
  let s := wipeCopy (raiseActive s k) k.record j.id
  let wait := fun (s : State) => joinBatch (setJob s { j with segDone := 0 }) (fun b =>
    { b with jobs := b.jobs ++ [j.id], urgent := true })
  if isMramHandle k.record then
    if hasImage s k.record then wait (freeImage s k.record) else eraseRecord s j k
  else
    let (b, s) := eraseData s 4096
    wait (changeObject s k.record b)

/-- ATTEMPT of a job's open intent (R429). -/
def attemptOf (s : State) (j : Job) : Nat :=
  match j.opid.bind (look? s.per.openIntents) with
  | some (.intent _ _ _ _ _ _ _ _ a) => a
  | _ => 0

/-- The batch of a KUM has committed: a DESTROY goes on to its zero record, any other KUM is done. -/
def kumStored (s : State) (j : Job) : State :=
  match parseKum (kumBytes j) with
  | none => s
  | some k =>
    if k.op = 0x13 then
      if isMramHandle k.record then eraseRecord s j k
      else if j.segDone = 0 then
        let s := forgetIndex (freeImage (changeObject s k.record (zeros 4096)) k.record) k.record
        joinBatch (setJob s { j with segDone := 1 }) (fun b => { b with jobs := b.jobs ++ [j.id], urgent := true })
      else kumDone { s with keys := { s.keys with storeOwners := del s.keys.storeOwners k.record } } j k 0
    else if isMramHandle k.record then kumDone (putRecord s (keyRecordOf s j k (attemptOf s j)).1) j k 0
    else
      let owner := (keyRecordOf s j k (attemptOf s j)).1.owner
      kumDone { s with keys := { s.keys with storeOwners := put s.keys.storeOwners k.record owner } } j k 0

/-- RECOVER (R410). -/
def applyRecover (s : State) (j : Job) (k : Kum) : State :=
  let s := raiseActive s k
  match (kumPayload s k).bind (recoveredRoot s) with
  | none => kumDone s j k 0
  | some root =>
    let s := writeRoot s root
    let s := { s with keys := { s.keys with recovery := s.keys.recovery.map (fun r =>
      { r with recovered := r.recovered + 1, tag := recoveryTag { r with recovered := r.recovered + 1 } }) } }
    kumDone s j k 0

/-- Applies a KUM under its committed intent. -/
def applyKum (s : State) (j : Job) (attempt : Nat) : State :=
  match parseKum (kumBytes j) with
  | none => s
  | some k =>
    match k.op with
    | 0x01 => applyEnrol s j k
    | 0x02 => kumDone (enqueue (raiseActive s k) (.commission k.counter (s.keys.did.take 32)) .nothing) j k 0
    | 0x03 => applyRoster s j k
    | 0x10 | 0x11 | 0x12 => applyKey s j k attempt
    | 0x13 => applyDestroy s j k
    | 0x20 => kumDone { raiseActive s k with per := { (raiseActive s k).per with emgAcked := s.per.emgEntries } } j k 0
    | 0x21 => kumDone (raiseActive s k) j k 0
    | _ => applyRecover s j k

/-- A change of counter 1 makes the member leave its group (R569, R571). -/
def rosterChanged (s : State) (op : Nat) : State := if op = 0x01 ∨ op = 0x03 then leaveGroup s 1 else s

/-- A KUM's DONE is committed: the next may be applied, and a COMMISSION takes effect (R401, R406). -/
def kumFinished (s : State) (j : Job) : State :=
  let s := rosterChanged { s with keys := { s.keys with kumJob := none } } (kumOp (kumBytes j))
  if kumOp (kumBytes j) = 0x02 ∧ s.keys.lifecycle = .enrolled then { s with keys := { s.keys with lifecycle := .service } } else s

/-! ## Running a KUM (R255, R401) -/

/-- The row of an operation takes its own KUMs, and any KUM whose OP R400 does not list. -/
def kumMine (op : Nat) (j : Job) : Bool := kumOp (kumBytes j) == op || !kumOps.contains (kumOp (kumBytes j))

/-- No KUM accepted earlier is still to be applied. -/
def kumFirst (s : State) (j : Job) : Bool :=
  s.keys.kumJob.isNone && s.keys.journal.isNone && !s.jobs.any (fun q => q.id != j.id && (stepDesc q).opcode == 0x0808 && decide (q.acceptNo < j.acceptNo) &&
    !q.decided && match q.phase with
    | .stamping | .ready | .fetching | .operands | .computed | .committing => true
    | _ => false)

/-- Takes the checked KUM, its verification classes to be released one after another. -/
def takeKum (s : State) (j : Job) (w : Work) (cls : List Nat) : State :=
  updJob (takeWork s j (stepEff j) none w) j.id (fun j => { j with t1 := { j.t1 with classes := cls } })

/-- A KUM to be repeated is not present any more: its intent takes the other branch of R429. -/
def giveUpRepeat (s : State) (j : Job) : State :=
  match j.repeats, j.opid with
  | some _, some o =>
    match look? s.per.openIntents o with
    | some p => updJob (resolveOtherwise s o p) j.id (fun x => { x with opid := none })
    | none => s
  | _, _ => s

def startKum (s : State) (j : Job) : State :=
  match kumCheck s j with
  | (.wait, _, s) => s
  | (.fail e, cls, s) =>
    let s := if e.status = stWindow then countWindow s j.slice else s
    takeKum (giveUpRepeat s j) { j with opid := none } { ending := e } cls
  | (.pass, cls, s) =>
    let go := fun (s : State) (j : Job) => { takeKum s j { after := .kum } cls with
      keys := { (takeKum s j { after := .kum } cls).keys with kumJob := some j.id, before := viewNow s } }
    let op := kumOp (kumBytes j)
    if op = 0x01 ∨ op = 0x11 then
      if entropyDown s then failStep s j { status := stEntropy }
      else if internalReady s then
        let (n, s) := drawMany s (if op = 0x01 then 33 else 1)
        go s { j with draw := n + 1 }
      else s
    else go s j

/-- Runs one KUM operation for a submission. -/
def runKum (op id : Nat) (s : State) : Res :=
  match jobOf s id with
  | some j =>
    if canRun s 0x0808 j ∧ kumMine op j ∧ kumFirst s j then
      if kindGone s .saffron then .next (failStep s j { status := stNoRight, sub := 0x0146 }) else .next (startKum s j)
    else .next s
  | none => .next s

end Sys2Proof.Machine
end

