-- ==== Sys2Proof/Machine/Journal.lean ====
section
/-! DEFINITION. Applying the KUM of a JOURNAL_ENTRY with the carried state of its record (R29, R402, R567). -/
namespace Sys2Proof.Machine

/-- The log record and the DONE record. -/
def journalDone (s : State) (g : Journal) (k : Kum) : State :=
  enqueue (kumLog s k false) (.doneRec g.opid 0 (some (0, k.counter)) (kumMove k)) .journalDone

/-- The record that the carried state gives, with the GENERATION it had at the leader. -/
def journalRecord (s : State) (g : Journal) (k : Kum) : KeyRec :=
  let owner := match k.op, (findRecord s k.record).1 with
    | 0x12, .have r => r.owner
    | _, _ => k.owner
  let smk0 := match s.keys.smk with
    | some (a, _) => a
    | none => []
  sealRecord smk0 { kumRecord k owner 0 with generation := g.generation } g.material

/-- Waits for a batch that carries the KUM. -/
def journalBatch (s : State) : State := joinBatch s (fun b => { b with journal := true, urgent := true })

/-- Writes the carried state. -/
def journalWrite (s : State) (g : Journal) (k : Kum) : State :=
  let s := match cachedKey s k.record with
    | some c => dropKey s c.slot
    | none => s
  let r := journalRecord s g k
  if isStoreHandle k.record ∨ hasTrees r.alg r.use then journalBatch (recordChanges s r g.material (!hasImage s k.record))
  else journalDone (putRecord s r) g k

/-- Destroys the record as R403 states. -/
def journalErase (s : State) (g : Journal) (k : Kum) : State :=
  let s := wipeCopy s k.record s.nextJob
  if isMramHandle k.record then
    if hasImage s k.record then journalBatch (freeImage s k.record) else journalDone (eraseMram s k.record).2 g k
  else
    let (b, s) := eraseData s 4096
    journalBatch (changeObject s k.record b)

/-- Applies the KUM under its committed intent. -/
def applyJournal (s : State) (seq : Nat) : State :=
  match s.keys.journal with
  | none => enqueue s (.rollback seq) .nothing
  | some g =>
    let g := { g with opid := seq }
    let s := { s with keys := { s.keys with journal := some g } }
    match parseKum g.kum with
    | none => s
    | some k =>
      match k.op with
      | 0x03 => journalDone (installRoster s k) g k
      | 0x20 => journalDone { raiseActive s k with per := { (raiseActive s k).per with emgAcked := s.per.emgEntries } } g k
      | 0x10 | 0x11 | 0x12 => if g.present then journalWrite (raiseActive s k) g k else journalErase (raiseActive s k) g k
      | 0x13 => journalErase (raiseActive s k) g k
      | _ => journalDone (raiseActive s k) g k

/-- The batch has committed: an erased store record goes on to its zero version, anything else is done. -/
def journalStored (s : State) : State :=
  match s.keys.journal with
  | none => s
  | some g =>
    match parseKum g.kum with
    | none => s
    | some k =>
      if k.op ≠ 0x13 ∧ g.present then
        let r := journalRecord s g k
        if isMramHandle k.record then journalDone (putRecord s r) g k
        else journalDone { s with keys := { s.keys with storeOwners := put s.keys.storeOwners k.record r.owner } } g k
      else if isMramHandle k.record then journalDone (eraseMram s k.record).2 g k
      else if g.stage = 0 then
        let s := { s with keys := { s.keys with journal := some { g with stage := 1 } } }
        journalBatch (forgetIndex (freeImage (changeObject s k.record (zeros 4096)) k.record) k.record)
      else journalDone { s with keys := { s.keys with storeOwners := del s.keys.storeOwners k.record } } g k

/-- The batch has aborted: the intent is rolled back, and the member stays BEHIND. -/
def journalLost (s : State) : State :=
  match s.keys.journal with
  | none => s
  | some g => enqueue { s with keys := { s.keys with journal := none } } (.rollback g.opid) .nothing

/-- Its DONE is committed: the next KUM may follow, and a change of counter 1 ends the membership (R569). -/
def journalFinished (s : State) : State :=
  match s.keys.journal with
  | none => s
  | some g => judgeBehind (rosterChanged { s with keys := { s.keys with journal := none } } (kumOp g.kum))

/-! ## The checks (R401 without step 7, R567) -/

/-- Checks of the record that a key operation names; whether it is occupied decides nothing, because the carried state replaces
it. -/
def journalKeyCheck (s : State) (g : Journal) (k : Kum) : Check × State :=
  let t := k.template
  let writes : Bool := k.op != 0x13 && g.present
  let e := firstEnd
    [failIf stBadParam
      [(!recordOk s k.record, 0x0136), ((k.op == 0x10 || k.op == 0x11) && (sliceOf s k.owner).st != .active, 0x0136),
       (writes && templateBad t, 0x0137), (writes && isMramHandle k.record && decide (448 < max t.matLen g.material.length), 0x0138)],
     failIf stStoreUnavailable [((isStoreHandle k.record || (writes && hasTrees t.alg t.use)) && !storeUp s, 0x0502)]]
  match e with
  | some x => (.fail x, s)
  | none =>
    match findRecord s k.record with
    | (.wait, s) => (.wait, s)
    | (.fail x, s) => (.fail (storeEnding x), s)
    | (_, s) =>
      if !hasTrees t.alg t.use ∨ !storeUp s then (.pass, s)
      else match storeRead s (directoryAt k.record) with
        | (.wait, s) => (.wait, s)
        | (.fail x, s) => (.fail (storeEnding x), s)
        | (.have _, s) =>
          if !writes ∨ hasImage s k.record then (.pass, s)
          else match freeRun s (imageSize t.alg t.param) with
            | (.first _, s) => (.pass, s)
            | (.full, s) => (.fail { status := stStoreUnavailable, sub := 0x0505 }, s)
            | (.fail x, s) => (.fail (storeEnding x), s)
            | (.wait, s) => (.wait, s)

/-- All checks of the KUM of a JOURNAL_ENTRY. -/
def journalCheck (s : State) (g : Journal) (k : Kum) : Check × State :=
  match firstEnd [kumEarly s k, kumSigned s k] with
  | some e => (.fail e, s)
  | none => if [0x10, 0x11, 0x12, 0x13].contains k.op then journalKeyCheck s g k else (.pass, s)

/-- Takes a JOURNAL_ENTRY up: it waits for the key store and the ledger, is dropped when its KUM fails a check, and else gets its
intent. None while it waits. -/
def startJournal (s : State) (g : Journal) : Option State × State :=
  if s.keys.kumJob.isSome ∨ s.keys.journal.isSome ∨ orphanIntents s ≠ [] ∨ !ledgerOpen s ∨ !intentRoom s then (none, s)
  else match parseKum g.kum with
    | none => (some s, s)
    | some k =>
      match journalCheck s g k with
      | (.wait, s) => (none, s)
      | (.fail _, s) => (some s, s)
      | (.pass, s) =>
        let object := if k.op = 0x21 then k.policy % 2 else k.record
        let s := enqueue { s with keys := { s.keys with journal := some g, before := viewNow s } }
          (.intent (kumKind k.op) k.op 0xFFFF 0xFFFF 0 0 object k.counter 0) .applyJournal
        (some s, s)

end Sys2Proof.Machine
end

