-- ==== Sys2Proof/Machine/StoreEnd.lean ====
section
/-! DEFINITION. What answers from the host do to the store: responses, timeouts, aborted and committed batches, and the start
of a batch (R327, R328, R441, R451, R458 to R469). -/
namespace Sys2Proof.Machine

/-! ## Aborted batches (R463) -/

/-- The block size of a lost ORD_TARGET_CONFIG is no longer in force (R329). -/
def restoreBlock (s : State) (j : Job) : State :=
  match ordOf s j.slice (stepDesc j).key (stepDesc j).inline with
  | some e => if e.block = j.result then setOrd s { e with block := e.storedBlock } else s
  | none => s

/-- A job that waits for an aborted batch ends, its ledger intent rolled back. -/
def loseJob (sub : Nat) (s : State) (id : Nat) : State :=
  match jobOf s id with
  | some j =>
    if j.phase ≠ .committing then s
    else
      let s := if s.keys.kumJob = some id then { s with keys := { s.keys with kumJob := none } } else s
      let s := if (stepDesc j).opcode = 0x0902 then restoreBlock s j else s
      failStep (ledgerAbort s j) j (storeEnding sub)
  | none => s

/-- A waiting submission that needs a lost reservation is to be accepted and completed at once (R12, R465). -/
def loseWaiter (r : Nat × Nat × Nat) (sub : Nat) (j : Job) : Job :=
  let needs := fun (d : Desc) => d.key == r.1 &&
    (if r.2.1 = useTarget then usesCount d else d.opcode == 0x0601 || (d.opcode == 0x0900 && d.inline == r.2.1))
  if j.phase = .waiting ∧ j.descs.any needs then { j with bad := some (storeEnding sub) } else j

/-- A reservation of an aborted batch is lost, with the acknowledgements that waited for it; a leader's own goes out anew. -/
def loseReservation (sub : Nat) (s : State) (r : Nat × Nat × Nat) : State :=
  let mine := fun (x : Nat × Nat × Nat × Nat × Nat × Nat) => x.2.2.2.1 == r.1 && x.2.2.2.2.1 == r.2.1 && x.2.2.2.2.2 == r.2.2
  let s := clearReserving s r
  let s := { s with mir := { s.mir with
    acksDue := s.mir.acksDue.filter (fun x => !mine x)
    granting := s.mir.granting.map (fun (g : Granting) => if g.handle = r.1 ∧ g.target = r.2.1 then { g with sent := false } else g) } }
  { s with jobs := s.jobs.map (loseWaiter r sub) }

/-- A cache entry whose write-back was lost stays resident and is written back again. -/
def evictAgain (s : State) (p : Nat × Nat) : State :=
  match s.res.ordinals.find? (fun e => e.handle == p.1 && e.target == p.2) with
  | some e => (evictOrd (setOrd s { e with evicting := false }) { e with evicting := false }).2
  | none => s

/-- What carries into the next batch: ordinal write-backs, archive blocks, snapshots and trees. -/
def carryBatch (s : State) (b : Batch) : State :=
  let s := b.evicted.foldl evictAgain s
  let kept := b.changes.filter (fun c => b.kept.contains c.1)
  if kept = [] then s
  else joinBatch s (fun g => { g with
    changes := kept.foldl (fun t c => put t c.1 c.2) g.changes
    archive := match b.archive with
      | some a => some a
      | none => g.archive
    snapshot := match b.snapshot with
      | some a => some a
      | none => g.snapshot
    trees := g.trees ++ b.trees, kept := g.kept ++ b.kept })

/-- Ends what depends on a batch that does not commit. -/
def loseBatch (s : State) (b : Batch) (sub : Nat) : State :=
  let s := { s with store := { s.store with aborted := s.store.aborted + 1 } }
  let s := b.reservations.foldl (loseReservation sub) s
  let s := b.jobs.foldl (loseJob sub) (if b.journal then journalLost s else s)
  carryBatch s b

/-- Aborts the batch being committed: its WRITEs have no effect any more. -/
def abortBatch (s : State) (sub : Nat) : State :=
  match s.store.committing with
  | none => s
  | some b =>
    let s := { s with store := { s.store with
      committing := none
      outstanding := s.store.outstanding.map (fun r => if r.op = .write then { r with timedOut := true } else r)
      unissued := s.store.unissued.filter (fun r => r.op != .write) } }
    loseBatch (dropSeals s (fun t => t.req.op == .write)) b sub

/-- Aborts the batch that gathers changes. -/
def abortGathering (s : State) (sub : Nat) : State :=
  match s.store.gathering with
  | none => s
  | some b => loseBatch { s with store := { s.store with gathering := none } } b sub

/-! ## Committed batches (R462) -/

/-- A committed reservation: a use-count block, a group end, or this core's own block. -/
def reservationStored (s : State) (r : Nat × Nat × Nat) : State :=
  let (h, t, e) := r
  if t = useTarget then
    match cachedKey s h with
    | some k => putKey s { k with useEnd := e }
    | none => s
  else if s.mir.acksDue.any (fun x => x.2.2.2.1 == h && x.2.2.2.2.1 == t && x.2.2.2.2.2 == e) then endCommitted s h t e
  else
    let ordinals := s.res.ordinals.map (fun (o : OrdEntry) =>
      if o.handle = h ∧ o.target = t then
        { o with committedEnd := e, next := if inGroup s then e else o.next, reserving := false }
      else o)
    let hbs := s.res.hbs.map (fun (x : Nat × HbsState) =>
      if x.1 = h ∧ t = 0 then
        (x.1, { x.2 with committedEnd := e, next := if inGroup s then e else x.2.next, reserving := false })
      else x)
    { s with res := { s.res with ordinals := ordinals, hbs := hbs } }

/-- A tree of a stateful key is built and stored (R314): what stands on its place tells which. -/
def treeStored (changes : Tbl Bytes) (s : State) (p : Nat × Nat) : State :=
  let x := hbsOf s p.1
  let found := fun (place : Nat) => field (look changes (imagePage (x.first + treePlace x.alg x.param p.2 place)) []) 0 8
  setHbs s p.1 { x with built := x.built.set p.2 (max (found 0) (found 1)), building := x.building.filter (· != p.2) }

/-- A job that waited for the batch goes on. -/
def jobStored (s : State) (id : Nat) : State :=
  match jobOf s id with
  | none => s
  | some j =>
    if j.phase ≠ .committing then s
    else if (stepDesc j).opcode = 0x0808 then kumStored s j
    else
      let d := stepDesc j
      let s := match ordOf s j.slice d.key d.inline with
        | some e => setOrd s { e with storedBlock := j.result }
        | none => s
      startResults s j j.releaseTime

/-- The archive batch is stored: its DONE record moves counter 9 (R441). -/
def archiveStored (s : State) (first : Nat) : State :=
  match s.per.openIntents.find? (fun e => match e.2 with
      | .intent 6 .. => true
      | _ => false) with
  | some e =>
    enqueue (writeLog s 0x000D 0xFFFF (leBytes 8 first ++ leBytes 8 (first + 255))) (.doneRec e.1 0 (some (9, first + 256)) none)
      (.archived (first + 256))
  | none => s

/-- The ROOT record is committed: the batch's tree becomes the committed one, the old slots are trimmed, and what waited for
the batch goes on. -/
def batchCommitted (s : State) : State :=
  match s.store.committing with
  | none => s
  | some b =>
    let s := { s with store := { s.store with committing := none, root := b.root, committed := s.store.committed + 1 } }
    let s := b.nodes.foldl (fun s n => cacheNode s n.1 n.2) s
    let s := b.changes.foldl (fun s c => cacheObject s c.1 c.2) s
    let s := storeWant s (b.oldPhys.map (fun p => { op := .trim, phys := p }))
    let s := b.reservations.foldl reservationStored s
    let s := b.evicted.foldl (fun s p => dropOrd s p.1 p.2) s
    let s := b.trees.foldl (treeStored b.changes) s
    let s := match b.archive with
      | some a => archiveStored s a
      | none => s
    let s := match b.snapshot with
      | some n => { s with store := { s.store with snapshots := s.store.snapshots.filter (· != n) ++ [n] } }
      | none => s
    b.jobs.foldl jobStored (if b.journal then journalStored s else s)

/-! ## Answers (R459, R465, R466) -/

/-- A READ failed: the block is read once more; after a second failure the object is unavailable for the work that wants
it. -/
def readFailed (s : State) (r : StoreReq) (tag : Bool) : State :=
  if r.timedOut then s
  else if !r.second then
    storeWant s [{ op := .read, phys := r.phys, obj := r.obj, second := true, tagFailed := tag }]
  else
    let sub := if tag ∨ r.tagFailed then (if objLevel r.obj = 0 then 0x0510 else 0x0511) else 0x0503
    notifyManager { s with store := { s.store with
      failed := put s.store.failed r.obj sub
      tagFails := s.store.tagFails + b2n (tag || r.tagFailed) } } 10

/-- A READ's content: opened against the entry that names its block now, and cached. -/
def readAnswered (s : State) (r : StoreReq) (data : Bytes) : State :=
  let e := entryOf s r.obj
  if !e.present ∨ physOf r.obj e.slot ≠ r.phys then s
  else match openObject s r.obj e (fit 4096 data) with
    | none => readFailed s r true
    | some b =>
      let s := { s with store := { s.store with failed := del s.store.failed r.obj } }
      if objLevel r.obj = 0 then cacheObject s (objIndex r.obj) b else cacheNode s r.obj (nodeFrom b)

/-- A WRITE of the batch has its OK; after the last the ROOT record is due (R462). -/
def writeAnswered (s : State) (r : StoreReq) : State :=
  match s.store.committing with
  | none => s
  | some b =>
    if r.timedOut ∨ !b.writes.contains r.obj then s
    else
      let b := { b with writes := b.writes.filter (· != r.obj) }
      let s := { s with store := { s.store with committing := some b } }
      if b.writes = [] then enqueue s (.root (counterOf s 3 + 1) (entryBytes b.root)) .rootCommitted else s

/-- A TRIM of STORE_FORMAT has its response; after the ninth the DONE record is due (R469). -/
def trimAnswered (s : State) (r : StoreReq) : State :=
  match s.store.formatLeft with
  | some (n, opid) =>
    if !r.format then s
    else
      let s := { s with store := { s.store with formatLeft := some (n - 1, opid) } }
      if n ≤ 1 then enqueue s (.doneRec opid 0 none none) .formatDone else s
  | none => s

/-- Takes the response to a request (R459): a status outside the table counts as MEDIA_ERROR. -/
def storeAnswer (s : State) (rid : Nat) (status : Byte) (data : Bytes) : State :=
  match s.store.outstanding.find? (fun r => r.rid == rid) with
  | none => { s with glb := { s.glb with ridDiscards := satInc 8 s.glb.ridDiscards } }
  | some r =>
    let s := { s with store := { s.store with outstanding := s.store.outstanding.filter (fun x => x.rid != rid) } }
    let refused := status == 2 || status == 3
    let s := match r.op with
      | .read =>
        if status = 0 then sealWant s [{ req := r, data := data }]
        else if refused then
          (if r.timedOut then s else { s with store := { s.store with failed := put s.store.failed r.obj 0x0504 } })
        else readFailed s r false
      | .write =>
        if status = 0 then writeAnswered s r
        else if r.timedOut then s
        else abortBatch s (if refused then 0x0504 else 0x0503)
      | .trim => trimAnswered s r
    pumpGrants (storePump s)

/-- STORE_RESPONSE (R459): the next entry of the response ring is taken, and the consumer index written. -/
def execStoreResponse (rid : Nat) (status : Byte) (data : Bytes) (s : State) : Res :=
  if mainOn s ∧ s.store.attach.isSome then
    let s := { s with store := { s.store with respCons := s.store.respCons + 1 } }
    .next (storeIndices (storeAnswer s rid status data) rid)
  else .next s

/-- STORE_TIMEOUT (R465): a request has no response after TIMEOUT_MS; it stays outstanding. -/
def execStoreTimeout (rid : Nat) (s : State) : Res :=
  match s.store.attach, s.store.outstanding.find? (fun r => r.rid == rid) with
  | some a, some r =>
    if !mainOn s ∨ r.timedOut ∨ now s < r.issuedAt + ms a.timeoutMs then .next s
    else
      let late := s.store.outstanding.map (fun x => if x.rid = rid then { x with timedOut := true } else x)
      let s := { s with store := { s.store with outstanding := late, timeouts := s.store.timeouts + 1 } }
      .next (if r.op = .write then abortBatch s 0x0501 else s)
  | _, _ => .next s

/-- STORE_INTERRUPT_WINDOW (R458): 10 us after a message a deferred one is sent. -/
def execStoreInterruptWindow (s : State) : Res :=
  match s.store.lastMsg with
  | some t => if mainOn s ∧ s.store.msgDeferred ∧ t + us 10 ≤ now s then .next (storeMessage s) else .next s
  | none => .next s

/-! ## The start of a batch (R328, R454, R464) -/

/-- Loads the nodes above every object of a batch. -/
def loadPaths : List Nat → State → Got × State
  | [], s => (.have [], s)
  | i :: r, s =>
    match loadPath s i with
    | (.have _, s) => loadPaths r s
    | x => x

/-- The open batch is due: 4,096 requests, or 1 ms after its first; below shedding level Trim only an urgent one. -/
def batchDue (s : State) (b : Batch) : Bool :=
  s.store.committing.isNone && s.store.formatLeft.isNone && (decide (4096 ≤ b.requests) || decide (b.firstAt + ms 1 ≤ now s)) &&
    (s.pwr.level == .full || s.pwr.level == .trim || b.urgent)

/-- BATCH_START (R328): the open batch is sealed and its WRITEs are issued. -/
def execBatchStart (s : State) : Res :=
  match s.store.gathering with
  | none => .next s
  | some b =>
    if !mainOn s ∨ !batchDue s b then .next s
    else if !storeUp s then .next (abortGathering s 0x0502)
    else if versionsGone s then .next (abortGathering s 0x0506)
    else match loadPaths (b.changes.map (·.1)) s with
      | (.wait, s) => .next s
      | (.fail x, s) => .next (abortGathering s x)
      | (.have _, s) => .next (startBatch s b)

end Sys2Proof.Machine
end

