-- ==== Sys2Proof/Machine/UpdateBase.lean ====
section
/-! DEFINITION. Image banks and packages: header, manifest, the checks of a package, and the steps of an activation
(R365, R385, R430, R431, R485 to R491). -/
namespace Sys2Proof.Machine

/-- The bytes of an image bank. -/
def bankMem (s : State) (b : Nat) : Mem := if b = 0 then s.per.image0 else s.per.image1
def setBank (s : State) (b : Nat) (m : Mem) : State :=
  if b = 0 then { s with per := { s.per with image0 := m } } else { s with per := { s.per with image1 := m } }
def bankBytes (s : State) (b a n : Nat) : Bytes := memReadBytes (bankMem s b) a n
def writeBank (s : State) (b a : Nat) (x : Bytes) : State := setBank s b (memWriteBytes (bankMem s b) a x)

/-- TAG of a bank header (R485). -/
def headerTag (h : Bytes) : Bytes := kmac256 (fuseKey "LEDGER-TAG" 32) (h.take 0x38) 8 (ascii "PERAND-BANK-V1")
def bankHeader (s : State) (b : Nat) : Bytes := bankBytes s b 0 64
/-- A bank's header has a valid MAGIC and TAG (R485). -/
def headerValid (s : State) (b : Nat) : Bool :=
  let h := bankHeader s b
  h.take 8 == ascii "PRDBANK1" && h.drop 0x38 == headerTag h
/-- ACTIVATION of a bank's header; zero for an empty one. -/
def activationOf (s : State) (b : Nat) : Nat := if headerValid s b then field (bankHeader s b) 8 8 else 0

/-- The manifest region (R486). -/
def manifestRegion (s : State) (b : Nat) : Bytes := bankBytes s b 0x1000 0x4000
def manifestBody (s : State) (b : Nat) : Bytes := bankBytes s b 0x1000 512
def manSecVersion (m : Bytes) : Nat := field m 0x10 4
def manFloor (m : Bytes) : Nat := field m 0x14 2
def manImageLen (m : Bytes) : Nat := field m 0x18 4
def manConfigLen (m : Bytes) : Nat := field m 0x1C 4
def manImageDigest (m : Bytes) : Bytes := subBytes m 0x20 48
def manConfigDigest (m : Bytes) : Bytes := subBytes m 0x50 48

/-- The digests of what a bank holds as image and configuration. -/
def imageDigestOf (s : State) (b : Nat) : Bytes := sha384 (bankBytes s b 0x10000 (manImageLen (manifestBody s b)))
def configDigestOf (s : State) (b : Nat) : Bytes := sha384 (bankBytes s b 0x2D0000 (manConfigLen (manifestBody s b)))

/-- The vendor key digest in the boot ROM (R487). -/
def vendorDigest : Bytes := (List.range 48).map Config.vendorDigestByte
/-- The first twelve bytes of the vendor's HSS public key (R487): two levels, LMS_SHA256_M32_H10, LMOTS_SHA256_N32_W4. -/
def vendorTypes : Bytes := beBytes 4 2 ++ beBytes 4 6 ++ beBytes 4 3

/-- The reserved bytes of a manifest body are zero. -/
def manReserved (m : Bytes) : Bool :=
  allZero (subBytes m 0x0E 2) && allZero (subBytes m 0x16 2) && allZero (subBytes m 0xEC 4) && allZero (subBytes m 0x120 0xE0)

/-- The reason code of the first check that a bank's package fails, if any (R488). -/
def packageFault (s : State) (b : Nat) (did : Bytes) : Option Nat :=
  let r := manifestRegion s b
  let m := r.take 512
  let hss := subBytes r 512 60
  let dsa := subBytes r 572 2592
  let n := field r 3164 4
  let sigEnd := 3168 + n + 4627
  let imageBad := manImageLen m < 4096 ∨ 2883584 < manImageLen m ∨ imageDigestOf s b ≠ manImageDigest m
  let configBad := 262144 < manConfigLen m ∨ configDigestOf s b ≠ manConfigDigest m
  let zero48 := zeros 48
  if m.take 8 ≠ ascii "PRDMANI1" ∨ field m 8 4 ≠ 512 ∨ field m 0x0C 2 ≠ 1 ∨ !manReserved m ∨ !allZero (r.drop sigEnd) then some 0x01
  else if sha384 (hss ++ dsa) ≠ vendorDigest then some 0x02
  else if 0x4000 < sigEnd ∨ hss.take 12 ≠ vendorTypes ∨
      !hbsVerify 0x40 hss (sha384 (ascii "PERAND-FWMAN-V01" ++ m)) (subBytes r 3168 n) then some 0x03
  else if !mldsaVerify 0x13 dsa (ascii "PERAND-FWMAN-V01") m (subBytes r (3168 + n) 4627) then some 0x04
  else if imageBad then some 0x05
  else if configBad then some 0x06
  else if subBytes m 0x80 48 ≠ extended zero48 (manImageDigest m) ∨ subBytes m 0xB0 48 ≠ extended zero48 (manConfigDigest m) ∨
      manImageLen m ≤ field m 0xE0 8 then some 0x07
  else if !bit (field m 0xE8 4) 3 then some 0x08
  else if !allZero (subBytes m 0xF0 48) ∧ subBytes m 0xF0 48 ≠ did then some 0x09
  else none

/-- The security version of a package is at least counter 2 and the OTP floor (R430). -/
def versionOk (s : State) (v : Nat) : Bool := decide (counterOf s 2 ≤ v) && decide (s.per.otpFloor ≤ v)

/-! ## Activation (R491) -/

/-- Step 1: the store master keys are wrapped for the measurements of the next start; in BLANK there are none. -/
def wrapNext (s : State) (m : Bytes) : State :=
  match s.keys.smk, s.keys.rk with
  | some (a, c), some rk =>
    let meas := measOf s 0 ++ subBytes m 0x80 48 ++ subBytes m 0xB0 48 ++ measOf s 3
    let e : SealEntry := { mdigest := sha384 meas, wrap := kwWrap (deriveWith rk "STORE-SEAL" true meas 0 32) (a ++ c) }
    if s.keys.sealA.mdigest = s.keys.mdigest then { s with keys := { s.keys with sealB := e } }
    else { s with keys := { s.keys with sealA := e } }
  | _, _ => s

/-- Step 2: the bank's header, one above the other bank's ACTIVATION. -/
def headerFor (s : State) (b : Nat) (m : Bytes) : Bytes :=
  let h := ascii "PRDBANK1" ++ leBytes 8 (activationOf s (1 - b) + 1) ++ leBytes 4 (manSecVersion m) ++ zeros 4 ++ (sha384 m).take 32
  h ++ headerTag h

/-- Step 3: the OTP floor rises to the manifest's request, never above the security version or 256 (R430). -/
def raiseFloor (s : State) (m : Bytes) : State :=
  let want := min (manFloor m) (min (manSecVersion m) 256)
  { s with per := { s.per with otpFloor := max s.per.otpFloor want } }

/-- Steps 1 to 4 under the intent: the move of counter 2 is a record of its own. -/
def activateBank (s : State) (opid b v : Nat) : State :=
  let m := manifestBody s b
  let s := raiseFloor (writeBank (wrapNext s m) b 0 (headerFor s b m)) m
  enqueue s (.counter [(2, v)]) (.activateMoved opid b)

/-- Counter 2 has moved: both home rows are written at once, then the log record and DONE (R424, R436). -/
def activateMoved (s : State) (opid b : Nat) : State :=
  let s := { s with per := { s.per with homes := put s.per.homes 2 (homeNow s 2 (s.per.nextSeq - 1)) } }
  let s := writeLog s 0x0010 0xFFFF (leBytes 1 b ++ leBytes 8 (counterOf s 2))
  enqueue s (.doneRec opid 0 none none) (.activated b)

end Sys2Proof.Machine
end

