-- ==== Sys2Proof/Machine/LedgerBase.lean ====
section
/-! DEFINITION. What a committed ledger record starts, ledger snapshots, the audit archive, and what the log writes once it has
space again (R29, R416 to R425, R436 to R443, R452, R469, R491). -/
namespace Sys2Proof.Machine

/-! ## Rows as bytes (R416, R419, R423) -/

def moveBytes (m : Option (Nat × Nat)) : Bytes :=
  match m with
  | some (c, v) => leBytes 2 c ++ leBytes 8 v
  | none => leBytes 2 0xFFFF ++ zeros 8

/-- TYPE and the 40 bytes of PAYLOAD. -/
def payloadBytes (seq : Nat) : LPayload → Nat × Bytes
  | .intent k o sl r e q ob a t =>
    (0x01, leBytes 6 seq ++ leBytes 1 k ++ leBytes 1 o ++ leBytes 2 sl ++ leBytes 2 r ++ leBytes 2 e ++ leBytes 6 q ++ leBytes 4 ob ++
      leBytes 8 a ++ leBytes 1 t)
  | .doneRec o r a b => (0x02, leBytes 6 o ++ zeros 2 ++ leBytes 4 r ++ zeros 2 ++ moveBytes a ++ moveBytes b)
  | .rollback o => (0x03, leBytes 6 o)
  | .counter ms => (0x10, moveBytes ms[0]? ++ moveBytes ms[1]? ++ moveBytes ms[2]?)
  | .reserve h e => (0x11, [1] ++ zeros 3 ++ leBytes 4 h ++ leBytes 8 e)
  | .root v e => (0x12, leBytes 8 v ++ fit 32 e)
  | .start e m => (0x20, leBytes 8 e ++ fit 32 m)
  | .commission c d => (0x21, leBytes 8 c ++ fit 32 d)
  | .logmark l d => (0x22, leBytes 8 l ++ fit 32 d)

/-- SELF_DONE is set (R420). -/
def selfDone : LPayload → Bool
  | .intent .. | .doneRec .. | .rollback _ => false
  | _ => true

/-- CRC and TAG of a row. -/
def sealRow (b : Bytes) : Bytes :=
  let c := b ++ leBytes 4 (crc32c b).toNat
  c ++ kmac256 (fuseKey "LEDGER-TAG" 32) c 8 (ascii "PERAND-LEDGER-V1")

/-- The 64 bytes of a ledger row; a carried INTENT keeps its OPID, which is the SEQ of its first copy. -/
def rowBytes (opid : Nat) (r : LRec) : Bytes :=
  let p := payloadBytes opid r.payload
  sealRow (leBytes 6 r.seq ++ leBytes 1 p.1 ++ leBytes 1 (b2n r.carried + 2 * b2n (selfDone r.payload)) ++ fit 40 p.2) ++
    (leBytes 4 r.seq).map (fun x => ~~~x)

/-- OPID of a row's record: its own SEQ, or that of the open intent it carries. -/
def rowOpid (s : State) (r : LRec) : Nat :=
  match s.per.openIntents.find? (fun e => e.2 == r.payload) with
  | some e => if r.carried then e.1 else r.seq
  | none => r.seq

/-- A row of the ledger area of bank 2; what a failed write left there is free. -/
def ledgerRow (s : State) (k n : Nat) : Bytes :=
  match look? s.per.ledger n with
  | none => zeros 64
  | some x => if x.bank2 then rowBytes (rowOpid s x.record) x.record else freeBytes (k + n) 64

/-- A row of the counter area. -/
def counterRow (s : State) (c : Nat) : Bytes :=
  let h := look s.per.homes c {}
  sealRow (leBytes 8 h.value ++ leBytes 6 h.seq ++ leBytes 2 c ++ fit 32 h.aux) ++ zeros 4

/-- Block n of a ledger snapshot (R452). -/
def snapshotBlock (s : State) (k n : Nat) : Bytes :=
  (List.range 64).flatMap (fun i => if n < 256 then ledgerRow s k (64 * n + i) else counterRow s (64 * (n - 256) + i))

/-- Adds data objects to the open batch that carry over into the next if it aborts (R463). -/
def keepObjects (s : State) (first : Nat) (bs : List Bytes) (f : Batch → Batch) : State :=
  let ids := (List.range bs.length).map (first + ·)
  let s := (ids.zip bs).foldl (fun s x => changeObject s x.1 x.2) s
  joinBatch s (fun b => f { b with kept := b.kept ++ ids })

/-- A snapshot, each time SEQ reaches a multiple of 2^20 (R452). -/
def takeSnapshot (s : State) (seq : Nat) : State :=
  if seq = 0 ∨ seq % 2 ^ 20 ≠ 0 then s
  else
    let slot := seq / 2 ^ 20 % 3276
    let k := s.drawn
    keepObjects { s with drawn := s.drawn + 16384 } (0x1D0000000 + 320 * slot) ((List.range 320).map (snapshotBlock s k))
      (fun b => { b with snapshot := some slot })

/-! ## The audit archive (R438, R441, R452) -/

/-- The statement over a run of records (R438). -/
def batchStatement (s : State) (first last : Nat) : Bytes :=
  let d := match heldRecord s last with
    | some r => sha384 (auditBytes r)
    | none => zeros 48
  ascii "PRDAUDB1" ++ fit 48 s.keys.did ++ leBytes 8 first ++ leBytes 8 last ++ d ++ leBytes 8 (ledgerEpoch s)
def auditLabel : String := "PERAND-AUDIT-V01"

/-- First record that an archive batch takes: the archived end, or under the overwrite policy the first batch still held. -/
def archiveFirst (s : State) : Nat := 256 * max (counterOf s 9 / 256) (ceilDiv (s.per.nextLseq - 12288) 256)

/-- The bytes of an archive batch, six blocks. -/
def archiveBlocks (s : State) (first n : Nat) : List Bytes :=
  let records := (List.range 256).flatMap (fun i => match heldRecord s (first + i) with
    | some r => auditBytes r
    | none => zeros 64)
  let st := batchStatement s first (first + 255)
  pieces 4096 (fit 24576 (records ++ st ++ makSign s auditLabel st n))

/-- Some batch of the store carries an archive. -/
def archiveCarried (s : State) : Bool :=
  let on := fun (b : Option Batch) => match b with
    | some x => x.archive.isSome
    | none => false
  on s.store.gathering || on s.store.committing

/-- The batch of an archive intent, once the store answers and the statement can be signed; else it is tried again. -/
def makeArchive (s : State) (first : Nat) : State :=
  let s := { s with per := { s.per with archiveAt := now s } }
  if archiveCarried s ∨ !storeUp s ∨ s.keys.mak.isNone ∨ !internalReady s then s
  else
    let (n, s) := drawRandom s
    keepObjects s (0x190000000 + 6 * (first / 256)) (archiveBlocks s first n) (fun b => { b with archive := some first })

/-- Archiving is due: from 9,216 unarchived records on, until at most 3,072 are left. -/
def archiveDue (s : State) : Bool := decide (9216 ≤ unarchived s) || (s.per.archiveRun && decide (3072 < unarchived s))

/-- Starts the next archive batch under its intent. -/
def nextArchive (s : State) : State :=
  let first := archiveFirst s
  if s.per.archiving.isSome then s
  else if !archiveDue s then { s with per := { s.per with archiveRun := false } }
  else if !storeUp s ∨ s.keys.mak.isNone ∨ 178956969 < first / 256 ∨ !ledgerOpen s ∨ !intentRoom s then
    { s with per := { s.per with archiveRun := true, archiveAt := now s } }
  else
    enqueue { s with per := { s.per with archiveRun := true, archiving := some first, archiveAt := now s } }
      (.intent 6 0 0 0 0 0 0 first 0) (.archive first)

/-! ## Space in the log (R442, R443) -/

/-- One SUPPRESSED record a code with its count. -/
def writeSuppressed (s : State) (t : Tbl Nat) : State :=
  t.foldl (fun s e => if e.2 = 0 then s else appendLog s 0x000E 0xFFFF (leBytes 2 e.1 ++ leBytes 8 e.2)) s

/-- Space has returned: LOG_FULL goes, and what was suppressed is told. -/
def logSpace (s : State) : State :=
  if 12224 ≤ unarchived s then s
  else
    let t := s.per.suppressedFull
    writeSuppressed { s with per := { s.per with logFull := false, suppressedFull := [] } } t

/-! ## Effects of committed records (R29, R417) -/

/-- A volatile key or curve record of a job is made, and DONE is due with its handle (R271, R285, R392). -/
def makeKey (s : State) (j : Job) (k : Key) : Option (Nat × State) :=
  if k.alg = 0xFF then
    match makeRoom s j.slice 1 with
    | none => none
    | some (n, s) =>
      let g := s.keys.created + 1
      let c : Curve := { handle := volatileHandle g n, owner := j.slice, slot := n, block := k.material }
      some (c.handle, { s with keys := { s.keys with created := g, curves := s.keys.curves ++ [c] } })
  else (createVolatile s k).map (fun x => (x.1.handle, x.2))

/-- A volatile key or curve record goes, with the jobs under it (R391). -/
def removeKey (s : State) (j : Job) (h : Nat) : State :=
  let s := match cachedKey s h with
    | some k => revokeKey s k
    | none => s
  endKeyJobs { s with keys := { s.keys with curves := s.keys.curves.filter (fun c => c.handle != h) } } j.slice h j.id

/-- The INTENT of a volatile key's creation or destruction is committed (R29). -/
def keyIntent (s : State) (j : Job) (opid : Nat) : State :=
  let fin := fun (s : State) (r : Nat) =>
    enqueue (setJob s { j with opid := some opid, result := r }) (.doneRec opid r none none) (.endJob j.id)
  match j.after, j.newKey with
  | .destroyKey, _ => fin (removeKey s j (stepDesc j).key) 0
  | _, some k =>
    match makeKey s j k with
    | some (h, s) => fin s h
    | none => failStep (enqueue s (.rollback opid) .nothing) j { status := stKeyExhausted, sub := 0x0320 }
  | _, none => enqueue s (.rollback opid) .nothing

/-- A job that waits for a committed record goes on, if it still waits. -/
def withCommitting (s : State) (id : Nat) (f : Job → State) (other : State) : State :=
  match jobOf s id with
  | some j => if j.phase = .committing then f j else other
  | none => other

/-- The nine TRIMs of STORE_FORMAT (R469). -/
def formatTrims : List StoreReq :=
  (List.range 8).map (fun k => { op := .trim, phys := k * 2 ^ 31, count := 2 ^ 31, format := true }) ++
    [{ op := .trim, phys := 0x400000000, count := 0x08102042, format := true }]

/-- The empty root is committed: the tree is gone, and every block is trimmed. -/
def emptyTree (s : State) (opid : Nat) : State :=
  let st := { s.store with root := {}, nodes := [], nodeLru := [], objects := [], failed := [], snapshots := [], formatLeft := some (9, opid) }
  storeWant { s with store := st, keys := { s.keys with storeOwners := [] } } formatTrims

/-- What a record that has just been committed under SEQ starts. -/
def runEffect (s : State) (seq : Nat) : Effect → State
  | .nothing => s
  | .createKey id => withCommitting s id (fun j => keyIntent s j seq) (enqueue s (.rollback seq) .nothing)
  | .applyKum id =>
    withCommitting s id (fun j =>
      let j := { j with opid := some seq }
      applyKum (setJob s j) j (attemptOf (setJob s j) j)) s
  | .applyJournal => applyJournal s seq
  | .journalDone => logSpace (journalFinished s)
  | .endJob id =>
    withCommitting s id (fun j =>
      let s := if (stepDesc j).opcode = 0x0808 then logSpace (kumFinished s j) else s
      startResults s j j.releaseTime) s
  | .raised ids => ids.foldl (fun s id => withCommitting s id (fun j => startResults s j j.releaseTime) s) s
  | .useBlock h e =>
    match cachedKey s h with
    | some k => putKey s { k with useEnd := e }
    | none => s
  | .serialBlock e => { s with ent := { s.ent with serialEnd := e } }
  | .rootCommitted => batchCommitted s
  | .activate b v => activateBank s seq b v
  | .activateMoved o b => activateMoved s o b
  | .activated b =>
    finishParked { s with mgmt := { s.mgmt with updSt := .activated, updBank := b, updReason := 0, keypath := false } }
      (fun q => q.cmd == 0x0502) { code := rOk }
  | .formatRoot _ => enqueue s (.root (counterOf s 3 + 1) (zeros 32)) (.formatTrims seq)
  | .formatTrims o => emptyTree s o
  | .formatDone => finishParked { s with store := { s.store with formatLeft := none } } (fun q => q.cmd == 0x0403) { code := rOk }
  | .archive first => makeArchive s first
  | .archived e =>
    logSpace { s with per := { s.per with archiving := if s.per.archiving = some (e - 256) then none else s.per.archiving } }

/-- A KIND 6 intent is open: its batch is made again where none carries it. -/
def archiveAgain (s : State) : State :=
  match s.per.archiving with
  | some first =>
    if s.per.openIntents.any (fun e => match e.2 with
        | .intent 6 .. => true
        | _ => false) ∧ !closingArchive s then makeArchive s first else s
  | none => nextArchive s
where
  /-- Its DONE record is on its way. -/
  closingArchive (s : State) : Bool := s.per.queue.any (fun q => match q.2 with
    | .archived _ => true
    | _ => false)

end Sys2Proof.Machine
end

