-- ==== Sys2Proof/Machine/Intents.lean ====
section
/-! DEFINITION. Intents that no running job stands behind: how they are resolved without host data (R429, R512). -/
namespace Sys2Proof.Machine

/-- Intents of KIND 2 or 3 that wait for a ring to resume, chosen by slice and ring. -/
def waitingIntents (s : State) (f : Nat → Nat → Bool) : Tbl LPayload :=
  (orphanIntents s).filter (fun e => match e.2 with
    | .intent _ _ sl r _ _ _ _ _ => f sl r
    | _ => false)

/-- Gives up the intents that wait for a ring (R512). -/
def abandonIntents (s : State) (f : Nat → Nat → Bool) : State :=
  (waitingIntents s f).foldl (fun s e => resolveOtherwise s e.1 e.2) s

end Sys2Proof.Machine
end

