-- ==== Sys2Proof/Machine/Recover.lean ====
section
/-! DEFINITION. Recovery of accepted submissions after a restart: stamps, intents, and the walk of RING_RESUME (R28 to R31, R115, R123,
R429, R509 to R512, R552, R597). -/
namespace Sys2Proof.Machine

/-! ## Stamps (R115, R120, R123) -/

/-- Epoch and sequence of the descriptor at index i, from a recorded CIDX, NEXT_SEQ and EPOCH. -/
def seqAt (cidx i : W32) (next epoch : Nat) : Nat × Nat :=
  let back := (cidx - i).toNat
  if back = 0 then (epoch, next)
  else if back < 2 ^ 31 then
    if back ≤ next then (epoch, next - back) else ((if epoch = 1 then 32767 else epoch - 1), next + 2 ^ 48 - back)
  else
    let q := next + (i - cidx).toNat
    if q < 2 ^ 48 then (epoch, q) else (epochAfter epoch, q - 2 ^ 48)

/-- TAKEN of a descriptor's bytes. -/
def takenOf (b : Bytes) : Nat := field b 56 8

/-! ## The intent of a submission (R29, R429, R552) -/

/-- The latest INTENT in the ledger that names a submission. -/
def intentOf (s : State) (j : Job) : Option (Nat × LPayload) :=
  s.per.ledger.foldl (fun b e =>
    match e.2.record.payload with
    | .intent k _ sl r ep q _ _ _ =>
      if 1 ≤ k ∧ k ≤ 4 ∧ sl = j.slice ∧ r = j.ring ∧ ep = j.epoch ∧ q = j.seq ∧ !e.2.record.carried then
        (match b with
         | some x => if x.1 < e.2.record.seq then some (e.2.record.seq, e.2.record.payload) else b
         | none => some (e.2.record.seq, e.2.record.payload))
      else b
    | _ => b) none

/-- The DONE record of an intent: its result and first move. -/
def doneOf (s : State) (opid : Nat) : Option (Nat × Option (Nat × Nat)) :=
  s.per.ledger.foldl (fun b e =>
    match e.2.record.payload with
    | .doneRec o r m _ => if o = opid then some (r, m) else b
    | _ => b) none

/-- RESULT of a completion from a DONE record: the new key-admin counter of a KUM, else the record's own result. -/
def doneResult (d : Nat × Option (Nat × Nat)) : Nat :=
  match d.2 with
  | some (0, c) => c
  | _ => d.1

/-! ## One submission (R552) -/

/-- A submission as it stood before its first step ran, marked as recovered and retried. -/
def afresh (j : Job) : Job :=
  { id := j.id, ring := j.ring, slice := j.slice, epoch := j.epoch, seq := j.seq, idx := j.idx, cpl := j.cpl, descs := j.descs
    stamps := j.stamps, gen := j.gen, buf := j.buf, poolFail := j.poolFail, poolCause := j.poolCause, stamped := j.stamped, bufDue := j.bufDue, encaps := j.encaps
    recovered := true, retried := true }

/-- A submission that its DONE record completes; a chain once its earlier steps have run again (R159). -/
def finishDone (s : State) (j : Job) (r : Nat) : State :=
  if 2 ≤ j.descs.length then setJob s { afresh j with finish := some r }
  else endJob s { afresh j with ending := { status := stDone }, result := r, step := j.descs.length - 1, bufDue := false }

/-- Resolves the open intent of a submission whose descriptor and inputs are present, and runs it again (R429). -/
def repeatUnder (s : State) (j : Job) (opid : Nat) (p : LPayload) : State :=
  match p with
  | .intent 1 .. => setJob (enqueue s (.rollback opid) .nothing) (afresh j)
  | .intent 2 .. => setJob (dropPending s) { afresh j with opid := some opid, repeats := some 0 }
  | .intent 3 _ _ _ _ _ _ c a =>
    if a < 255 then setJob s { afresh j with opid := some opid, repeats := some (a + 1) }
    else finishDone (resolveOtherwise s opid p) j c
  | _ => setJob s { afresh j with opid := some opid, repeats := some 0 }

/-- Recovers a submission whose stamps match and whose slot shows no completion: from its intent, or by running it again. -/
def recoverAccepted (s : State) (j : Job) : State :=
  match intentOf s j with
  | none => setJob s (afresh j)
  | some (o, p) =>
    match doneOf s o, look? s.per.openIntents o with
    | some d, _ => finishDone s j (doneResult d)
    | none, some _ => repeatUnder s j o p
    | none, none => setJob s (afresh j)

/-! ## After a warm start (R509) -/

/-- The status with which the accepted work of a slice that takes none ends (R96, R100). -/
def stoppedStatus (x : Slice) : Nat := if x.st = .faulted ∨ x.faulting.isSome then stAbortFault else stAbortReset

/-- Reads the stamps of an accepted submission again. -/
def recheckStamps (s : State) (j : Job) : State :=
  let c := (ringOf s j.ring).ctx
  request (setJob s { j with phase := .recheck, stamped := if j.unsure then [] else List.range j.descs.length })
    ((List.range j.descs.length).map (fun i =>
      { addr := c.sqBase + 64 * ((j.idx.toNat + i) % 2 ^ c.sizeLog2) + 56, len := 8, slice := j.slice, purpose := .taken j.id i }))

/-- A submission none of whose stamps was there: it was not accepted before the restart, and is as one fetched anew (R123); in a slice
that takes no work it is dropped. -/
def notAccepted (s : State) (j : Job) : State :=
  if sliceServes (sliceOf s j.slice) then
    setJob s { afresh j with phase := .waiting, recovered := false, retried := false, stamped := [] }
  else dropWaiting s j

/-- After the last stamp has been read: the slot's PHASE is read (R27), or the submission turns out not to have been accepted. -/
def stampsRead (s : State) (id : Nat) : State :=
  let more := hasTxn s (fun p => match p with
    | .taken k _ => k == id
    | _ => false)
  match jobOf s id with
  | none => s
  | some j =>
    if more then s
    else if j.unsure ∧ j.stamped = [] then notAccepted s j
    else request s [{ addr := slotAddr (ringOf s j.ring).ctx j.cpl, len := 8, slice := j.slice, purpose := .phase id }]

/-- A stamp read again: another value ends the submission with ABORTED_DESCRIPTOR_CHANGED (R123), but where the restart came before
the responses to its stamp writes it only tells that this one is not there. -/
def takeTaken (s : State) (id i : Nat) (data : Bytes) : State :=
  match jobOf s id with
  | none => s
  | some j =>
    if j.phase ≠ .recheck then s
    else
      let here := field data 0 8 == j.stamps.getD i 0
      if !here ∧ !j.unsure then endWith s { j with retried := false } { status := stAbortChanged }
      else stampsRead (if here ∧ j.unsure then setJob s { j with stamped := j.stamped ++ [i] } else s) id

/-- The slot's PHASE of a submission being recovered: written already, or the submission is recovered; in a slice that takes no work
it ends (R509, R552). -/
def recheckPhase (s : State) (j : Job) (written : Bool) : State :=
  if written then release s { j with recovered := true }
  else if sliceServes (sliceOf s j.slice) then recoverAccepted s j
  else endWith s j { status := stoppedStatus (sliceOf s j.slice) }

/-! ## The walk of RING_RESUME (R511) -/

/-- Descriptors of the submission at index i, up to P: by their CHAIN flags, at most 16. -/
def walkChain (c : RingCtx) (w : WalkIo) (p : W32) : Nat → W32 → List Bytes
  | 0, _ => []
  | n + 1, i =>
    if i = p then []
    else
      let b := fit 64 (look w.descriptors (i.toNat % 2 ^ c.sizeLog2) [])
      if flagChain (descFrom b) then b :: walkChain c w p n (i + 1) else [b]

/-- The submission is whole: its last descriptor ends the chain, or is the sixteenth. -/
def wholeChain (bs : List Bytes) : Bool :=
  match bs.getLast? with
  | none => false
  | some b => bs.length == 16 || !flagChain (descFrom b)

/-- A submission of the walk. -/
def walkJob (s : State) (r : Nat) (x : Ring) (i c : W32) (bs : List Bytes) : Job :=
  let es := (List.range bs.length).map (fun k => seqAt x.cidx (i + BitVec.ofNat 32 k) x.nextSeq.toNat x.epoch)
  let stamps := es.map (fun e => stampWord e.1 e.2)
  let first := es.headD (0, 0)
  { id := s.nextJob, ring := r, slice := x.ctx.slice, epoch := first.1, seq := first.2, idx := i, cpl := c, descs := bs.map descFrom
    gen := s.cfg.cur.gen
    stamps := stamps, stamped := (List.range bs.length).filter (fun k => takenOf (bs.getD k []) == stamps.getD k 0)
    bufDue := x.ctx.rbpBase != 0 }

/-- The completion slot holds the submission's completion. -/
def slotComplete (x : Ring) (w : WalkIo) (j : Job) : Bool :=
  field (look w.completions (j.cpl.toNat % 2 ^ x.ctx.sizeLog2) []) 0 8 == headWord x.ctx j

/-- Adds a submission of the walk. -/
def addJob (s : State) (j : Job) : State := { s with jobs := s.jobs ++ [j], nextJob := s.nextJob + 1 }

/-- Takes a submission of the walk: recovered as accepted, or as fetched anew. -/
def walkTake (s : State) (j : Job) : State :=
  if j.stamped = [] then addJob s j
  else recoverAccepted (addJob s j) j

/-- The walk from descriptor index i and completion index c; `x` is the ring as its context recorded it. The indices where it
ended. -/
def walkFrom (r : Nat) (x : Ring) (w : WalkIo) (p : W32) : Nat → W32 → W32 → State → State × W32 × W32
  | 0, i, c, s => (s, i, c)
  | n + 1, i, c, s =>
    if i = p then (s, i, c)
    else
      let bs := walkChain x.ctx w p 16 i
      if !wholeChain bs then (s, i, c)
      else
        let j := walkJob s r x i c bs
        let s := if slotComplete x w j then s else walkTake s j
        walkFrom r x w p n (i + BitVec.ofNat 32 bs.length) (c + 1) s

end Sys2Proof.Machine
end

