-- ==== Sys2Proof/Machine/Responses.lean ====
section
/-! DEFINITION. Responses and fault events of the fabric ports: what each request of the core was for decides what follows
(R26, R27, R41 to R46, R60 to R64, R95 to R97, R110, R121, R126, R129, R131, R458, R587, R592, R594). -/
namespace Sys2Proof.Machine

/-! ## Quiescing ports (R60, R61) -/

/-- Re-arming reads for a port's watches are still under way. -/
def rearming (s : State) (k : Nat) : Bool :=
  hasTxn s (fun p => match p with
    | .rearm _ f => f == k
    | _ => false)

/-- With no port left to re-arm through, the doorbell words are to be read again later (R61). -/
def postponeRearm (s : State) (k : Nat) : State :=
  if (List.range 16).any (portUsable s) then s
  else
    let rings := s.fabric.unissued.filterMap (fun t => match t.purpose with
      | .rearm r f => if f = k then some r else none
      | _ => none)
    let s := dropUnissued s (fun p => match p with
      | .rearm _ f => f == k
      | _ => false)
    { s with fabric := { s.fabric with rereads := s.fabric.rereads ++ rings } }

/-- QACK rises once every response and every re-arming read's data is in; watches armed through the port are gone. -/
def advanceQuiesce (s : State) (k : Nat) : State :=
  let s := postponeRearm s k
  let p := portOf s k
  if p.qreq ∧ !p.qack ∧ !s.fabric.txns.any (fun t => t.port == k) ∧ !rearming s k then
    let s := setPort s k { p with qack := true }
    { s with fabric := { s.fabric with watches := s.fabric.watches.filter (fun w => w.port != k) } }
  else s

/-- Issues what the ports can take, and lets quiescing ports go on. -/
def settle (s : State) : State := (List.range 16).foldl advanceQuiesce (pump s)

/-! ## A port whose clock is lost (R64) -/

/-- The job that a request is for. -/
def purposeJob : Purpose → Option Nat
  | .operand j _ _ | .stamp j _ | .result j | .phase j | .body j | .head j | .taken j _ => some j
  | .doorbell .. | .rearm .. | .poolHeader .. | .poolIndex .. | .poolEntry _ | .fetch .. | .interrupt _ | .writeback _
  | .poolWrite .. | .storeBuffer _ | .storeBody _ | .storeHead _ | .storeIndex _ => none

/-- A read on a port is to be made again through another: its job has no write outstanding there. -/
def rerunnable (s : State) (k : Nat) (t : Txn) : Bool :=
  t.port == k && !t.isWrite && !t.sunk &&
    (match purposeJob t.purpose with
     | some j => !s.fabric.txns.any (fun x => x.port == k && x.isWrite && purposeJob x.purpose == some j)
     | none => true)

/-- Makes the reads of a lost port again elsewhere; their late data is sunk. -/
def rerunReads (s : State) (k : Nat) : State :=
  let again := (s.fabric.txns.filter (rerunnable s k)).map (fun t => { t with watch := match t.purpose with
    | .doorbell r _ | .rearm r _ => watched s r
    | _ => false })
  let txns := s.fabric.txns.map (fun t => if rerunnable s k t then { t with sunk := true } else t)
  request { s with fabric := { s.fabric with txns := txns } } again

/-! ## Outcomes of bad responses (R45, R95) -/

/-- A response code that faults the issuing slice (R45): the cause of R586. -/
def codeCause (t : Txn) (code : BitVec 3) : Nat :=
  if ownTraffic t.purpose then 0 else if code = 3 then 1 else if code = 4 then 2 else 0
/-- A bad response is a protection violation: PROT, COLOUR or a fault event. -/
def isProtection (t : Txn) (code : BitVec 3) : Bool := code == 3 || code == 4 || t.eventSeen
/-- Cause of the slice fault that a bad response brings. -/
def protCause (t : Txn) (code : BitVec 3) : Nat := if codeCause t code ≠ 0 then codeCause t code else if t.eventSeen then 3 else 0

/-- Outcome of a bad data read or write of a job. -/
def dataEnding (t : Txn) (code : BitVec 3) : Ending :=
  { status := if isProtection t code then stProtection else if t.isWrite then stDmaWrite else stDmaRead }

/-- Raises the slice fault that a bad response brings, none for cause zero. -/
def faultFor (s : State) (t : Txn) (cause : Nat) : State := if cause = 0 then s else sliceFault s t.slice cause

/-- Keeps the sequence and status of a completion that could not be written; of later ones only the count (R97, R587). -/
def loseCompletion (s : State) (j : Job) : State :=
  updSlice s j.slice (fun x => match x.record with
    | none => { x with record := some { status := finalStatus j, ring := j.ring, seq := j.seq, epoch := j.epoch } }
    | some _ => { x with errLost := satInc 8 x.errLost })

/-- A completion access of a job failed: the slice faults, the completion is recorded, and its entry freed. -/
def failCompletion (s : State) (t : Txn) (code : BitVec 3) (id : Nat) : State :=
  let s := sliceFault s t.slice (if protCause t code ≠ 0 then protCause t code else 5)
  match jobOf s id with
  | some j => release (loseCompletion s j) j
  | none => s

/-- The pool of a waiting submission cannot be read (R594); with no submission waiting any more the slice fault stands alone
(R95). -/
def poolUnread (s : State) (t : Txn) (code : BitVec 3) (ring : Option Nat) : State :=
  let st := if isProtection t code then stProtection else stDmaRead
  match ring with
  | some r => if wantsBuffer s r then failPool s r st (protCause t code) else faultFor s t (protCause t code)
  | none => faultFor s t (protCause t code)

/-- The ring whose request a pool serves, or would serve next. -/
def poolServed (s : State) (sl base : Nat) : Option Nat := (poolOf s sl base).bind (fun p => (servePool s p).arb.serving)

/-- A bad read response of the core, by purpose. -/
def badRead (s : State) (t : Txn) (code : BitVec 3) : State :=
  match t.purpose with
  | .doorbell r _ | .rearm r _ => faultFor (missDoorbell s r) t (codeCause t code)
  | .poolHeader sl b | .poolIndex sl b => poolUnread s t code (poolServed s sl b)
  | .poolEntry r => poolUnread s t code (some r)
  | .fetch r i => if isProtection t code then faultFor s t (codeCause t code) else missDescriptor s r i
  | .operand j _ _ => faultFor (badOperand s j (dataEnding t code)) t (codeCause t code)
  | .phase j => failCompletion s t code j
  | .taken id _ =>
    let s := match jobOf s id with
      | some j => if j.phase = .recheck then endWith s j (dataEnding t code) else s
      | none => s
    faultFor s t (codeCause t code)
  | _ => s

/-- The data of a read, by purpose. -/
def goodRead (s : State) (t : Txn) (data : Bytes) : State :=
  match t.purpose with
  | .doorbell r _ | .rearm r _ => takeDoorbell s r data
  | .poolHeader sl b => takePoolHeader s sl b data
  | .poolIndex sl b => takePoolIndex s sl b data
  | .poolEntry r => takePoolEntry s r data
  | .fetch r i => takeDescriptor s r i data
  | .operand j g o => takeOperand s j g o data
  | .phase id =>
    match jobOf s id with
    | some j =>
      let seen := bit (field data 0 8) 63 == phaseOf (ringOf s j.ring).ctx j.cpl
      if j.phase = .recheck then recheckPhase s j seen else if seen then release s j else writeBody s j
    | none => s
  | .taken id i => takeTaken s id i data
  | _ => s

/-- A result write has its response: the step or the whole submission may be over (R129). -/
def resultDone (s : State) (id : Nat) : State :=
  let s := stepOver s id
  match jobOf s id with
  | some j => sequencer s j.ring
  | none => s

/-- A response to a store-ring access (R95, R458): the next access of the request, or an answer as by MEDIA_ERROR. -/
def storeWritten (s : State) (rid : Nat) (bad : Bool) (next : State → StoreReq → Attach → State) : State :=
  match s.store.attach, s.store.outstanding.find? (fun r => r.rid == rid) with
  | some a, some r => if bad then storeAnswer s rid 1 [] else next s r a
  | _, _ => s

/-- A mailbox command whose reply waits for a ring's write-back: RING_ENABLE, RING_RESUME, and RING_DISABLE once the ring is closed
(R110, R111). -/
def awaitsContext (s : State) (r : Nat) (q : Req) : Bool :=
  q.target == r && (q.cmd == 0x0201 || q.cmd == 0x0203 || (q.cmd == 0x0202 && (ringOf s r).st == .disabled))

/-- Finishes the commands that wait for a ring's write-back. -/
def finishContext (s : State) (r : Nat) : State :=
  (List.range s.mgmt.requests.length).foldl (fun s _ => finishParked s (awaitsContext s r) { code := rOk }) s

/-- The last write-back of a ring under way has its response: what reports HEADs or answers a command may go out (R110, R141). -/
def writtenBack (s : State) (r : Nat) : State :=
  if hasTxn s (fun p => p == .writeback r) then s else finishContext (sendMessage s r) r

/-- A write response, by purpose. -/
def takeWrite (s : State) (t : Txn) (code : BitVec 3) : State :=
  let bad := code != 0 || t.eventSeen
  match t.purpose with
  | .stamp id _ =>
    let s := if bad then sliceFault s t.slice (if protCause t code ≠ 0 then protCause t code else 4) else s
    stampsDone s id
  | .result id =>
    if bad then
      let s := updJob s id (fun j => { j with bad := match j.bad with
        | some e => some e
        | none => some (dataEnding t code) })
      faultFor (resultDone s id) t (codeCause t code)
    else resultDone s id
  | .body id =>
    if bad then failCompletion s t code id
    else match jobOf s id with
      | some j => if j.phase = .bodyWrite then writeHead s j else s
      | none => s
  | .head id =>
    if bad then failCompletion s t code id
    else match jobOf s id with
      | some j => if j.phase = .headWrite then release s j else s
      | none => s
  | .interrupt _ =>
    let s := if bad then { s with irq := { s.irq with errCount := satInc 32 s.irq.errCount } } else s
    faultFor s t (codeCause t code)
  | .writeback r => writtenBack (if bad then updRing s r (fun x => { x with wbDue := true }) else s) r
  | .poolWrite sl b =>
    let s := match poolOf s sl b with
      | some p => if bad then setPool s { p with dirty := true } else s
      | none => s
    faultFor s t (codeCause t code)
  | .storeBuffer rid => storeWritten s rid bad (fun s r a =>
      request s (writeTxns 0 (requestAddr a r + 8) (requestBody r) 0 (.storeBody rid)))
  | .storeBody rid => storeWritten s rid bad (fun s r a =>
      request s (writeTxns 0 (requestAddr a r) (leBytes 8 (requestHead a r)) 0 (.storeHead rid)))
  | .storeHead rid => storeWritten s rid bad (fun s _ _ => storeIndices s rid)
  | .storeIndex rid => storeWritten s rid bad (fun s _ _ => storeMessage s)
  | _ => s

/-! ## The commands -/

/-- The outstanding request that a response names. -/
def findTxn (s : State) (port tag : Nat) (write : Bool) : Option Txn :=
  s.fabric.txns.find? (fun t => t.port == port && t.tag == tag && t.isWrite == write)
/-- Takes a request off a port, counting a bad response (R582). -/
def endTxn (s : State) (t : Txn) (code : BitVec 3) : State :=
  let s := { s with fabric := { s.fabric with
    txns := s.fabric.txns.filter (fun x => !(x.port == t.port && x.tag == t.tag && x.isWrite == t.isWrite)) } }
  let p := portOf s t.port
  if code = 0 then s
  else if t.isWrite then setPort s t.port { p with errWrite := satInc 16 p.errWrite }
  else setPort s t.port { p with errRead := satInc 16 p.errRead }
/-- A response that no request waits for (R578). -/
def strayResponse (s : State) : State := { s with glb := { s.glb with dupResponse := true } }

/-- FABRIC_READ_RESPONSE (R45): the data of a read, or a bad code. -/
def execFabricReadResponse (port tag : Nat) (code : BitVec 3) (data : Bytes) (s : State) : Res :=
  if !mainOn s then .next s
  else match findTxn s port tag false with
    | none => .next (strayResponse s)
    | some t =>
      let s := endTxn s t code
      if t.sunk then .next (settle s)
      else if code ≠ 0 ∨ t.eventSeen then .next (settle (badRead s t code))
      else .next (settle (goodRead s t (fit t.len data)))

/-- FABRIC_WRITE_RESPONSE (R45, R592): what waited for the write goes on, or fails. -/
def execFabricWriteResponse (port tag : Nat) (code : BitVec 3) (s : State) : Res :=
  if !mainOn s then .next s
  else match findTxn s port tag true with
    | none => .next (strayResponse s)
    | some t =>
      let s := takeWrite (endTxn s t code) t code
      let s := if (portOf s port).clockLost ∧ (portOf s port).fenced then rerunReads s port else s
      .next (settle s)

/-- Pool reads: their slice fault follows the submission they fail (R594). -/
def isPoolRead : Purpose → Bool
  | .poolHeader .. | .poolIndex .. | .poolEntry _ => true
  | _ => false

/-- A fault event for an outstanding request: the job's own access ends it with PROTECTION_VIOLATION, and the slice faults
(R46, R145). -/
def eventFor (s : State) (t : Txn) : State :=
  let e : Ending := { status := stProtection }
  let s := match t.purpose with
    | .operand id _ _ =>
      match jobOf s id with
      | some j => if j.phase = .fetching ∧ !t.sunk then failStep s j e else s
      | none => s
    | .result id => updJob s id (fun j => { j with bad := match j.bad with
        | some b => some b
        | none => some e })
    | _ => s
  if ownTraffic t.purpose ∨ isPoolRead t.purpose then s else sliceFault s t.slice 3

/-- Notes a fault event in the port's registers, with the slice it is attributed to. -/
def noteEvent (s : State) (port : Nat) (ev : FaultEv) (sl : Nat) : State :=
  let p := portOf s port
  setPort s port { p with feCount := satInc 32 p.feCount, fe := { ev := ev, slice := BitVec.ofNat 8 sl } }

/-- What a late event on the core's own traffic brings, as a bad response would have (R95): the write-back is due again (R110), a
store request still unanswered counts as answered with MEDIA_ERROR. -/
def lateOwn (s : State) (p : Purpose) : State :=
  match p with
  | .writeback r => updRing s r (fun x => { x with wbDue := true })
  | .storeBuffer rid | .storeBody rid | .storeHead rid | .storeIndex rid => storeWritten s rid true (fun s _ _ => s)
  | _ => s

/-- FAULT_EVENT (R46): attributed through its tag; after the response, to the slice that last used the tag. An event under a tag
never used is noted as slice 0's and as late (log entry 154). -/
def execFaultEvent (port : Nat) (ev : FaultEv) (s : State) : Res :=
  if !mainOn s ∨ port ≥ 16 then .next s
  else match findTxn s port ev.tag.toNat ev.write with
    | some t =>
      let s := noteEvent s port ev t.slice
      let txns := s.fabric.txns.map (fun x =>
        if x.port = port ∧ x.tag = t.tag ∧ x.isWrite = t.isWrite then { x with eventSeen := true } else x)
      .next (settle (eventFor { s with fabric := { s.fabric with txns := txns } } t))
    | none =>
      match look? s.fabric.lastTag (tagKey port ev.write ev.tag.toNat) with
      | some u =>
        let s := noteEvent s port ev u.slice
        let s := setPort s port { portOf s port with lateEvent := true }
        .next (settle (if ownTraffic u.purpose then lateOwn s u.purpose else sliceFault s u.slice 3))
      | none => .next (setPort (noteEvent s port ev 0) port { portOf (noteEvent s port ev 0) port with lateEvent := true })

end Sys2Proof.Machine
end

