-- ==== Sys2Proof/Machine/Ports.lean ====
section
/-! DEFINITION. Clock changes and clock monitoring of the fabric ports: QUIESCE_REQUEST, CLOCK_WINDOW_END and UNFENCE (R53, R60 to R64, R583). -/
namespace Sys2Proof.Machine

/-! ## Clock changes (R60, R61) -/

/-- Wants each watch of a port armed again through another, by an ordered WATCH read of its doorbell word. -/
def rearmElsewhere (s : State) (k : Nat) : State :=
  let rings := (s.fabric.watches.filter (fun w => w.port == k)).map (·.ring)
  request s (rings.map (fun r =>
    let x := ringOf s r
    { addr := x.ctx.dbAddr, len := 8, slice := x.ctx.slice, watch := true, ordered := true, purpose := .rearm r k }))

/-- QUIESCE_REQUEST (R60 steps 1 to 4): FPk_QREQ rises. A held main domain has nothing to finish. -/
def execQuiesceRequest (port : Nat) (s : State) : Res :=
  let p := portOf s port
  if port ≥ 16 ∨ p.qreq then .next s
  else if aonAbsent s then .next (setPort s port { p with qreq := true })
  else if !mainOn s then .next (setPort s port { p with qreq := true, qack := true })
  else .next (settle (rearmElsewhere (setPort s port { p with qreq := true }) port))

/-- A port has returned to service: postponed doorbell words are read again, and waiting requests go out (R61, R62). -/
def portReturns (s : State) : State :=
  if !(List.range 16).any (portUsable s) then s
  else
    let rings := s.fabric.rereads
    let s := { s with fabric := { s.fabric with rereads := [] } }
    settle (rings.foldl (fun s r => if (ringOf s r).st = .enabled then readDoorbell s r false false else s) s)

/-- Doorbells that the links of a port's cluster held during the change are answered now (R53). -/
def ringHeld (k : Nat) (s : State) (l : Nat) : State :=
  if l / 16 ≠ k then s
  else match (linkOf s l).held with
    | some (r, p) => ringLink (setLink s l { linkOf s l with held := none }) l r p
    | none => s

/-! ## Clock monitoring (R63, R64) -/

/-- More edges in a 10 us window than 1.03 times the limit allows. -/
def overLimit (p : Port) (edges : Nat) : Bool := decide (103 * p.fmaxInForce < 10 * edges)

/-- Fences a port: nothing more is issued on it, and vector 1 is raised. -/
def fencePort (s : State) (k : Nat) (f : Port → Port) : State :=
  notifyManager (setPort s k (f { portOf s k with fenced := true, okWindows := 0 })) 1

/-- Judges one window of a port. -/
def judgeWindow (s : State) (k edges : Nat) : State :=
  let p := portOf s k
  let isOver := overLimit p edges
  let lost := edges == 0 && !p.qack
  let s := setPort s k { p with
    clkCount := edges, fmaxInForce := p.fmax
    okWindows := if isOver || edges == 0 then 0 else min 3 (p.okWindows + 1) }
  if isOver then (if p.fenced && p.overFreq then s else fencePort s k (fun p => { p with overFreq := true }))
  else if lost then rerunReads (if p.fenced && p.clockLost then s else fencePort s k (fun p => { p with clockLost := true })) k
  else s

/-- CLOCK_WINDOW_END (R63, R64): the edges of a port clock over 1,000 TREF cycles are judged. -/
def execClockWindowEnd (port edges : Nat) (s : State) : Res :=
  if !mainOn s ∨ !s.clock.running ∨ port ≥ 16 then .next s else .next (settle (judgeWindow s port edges))

/-- A write of UNFENCE: after three windows in limit the port returns, earlier the write is only noted. -/
def unfencePort (s : State) (k : Nat) : State :=
  let p := portOf s k
  if !p.fenced then s
  else if p.okWindows < 3 then setPort s k { p with unfenceEarly := true }
  else portReturns (setPort s k { p with fenced := false })

/-- UNFENCE (R63): a write of FPn_CTRL through the register port. -/
def execUnfence (port : Nat) (value : W32) (s : State) : Res :=
  portAccess (.unfence port value) s
    (.next (regWrite s (fun s => if value.getLsbD 0 ∧ port < 16 then unfencePort s port else s)))

end Sys2Proof.Machine
end

