-- ==== Sys2Proof/Machine/LedgerCmds.lean ====
section
/-! DEFINITION. The ledger engine's commits and timers, and the mailbox commands of persistence (R413 to R422, R432, R436 to R443, R452). -/
namespace Sys2Proof.Machine

/-- A row of a bank did not compare after its writes (R413, R415). -/
def bankFault (s : State) (b : Nat) : State :=
  let p := if b = 2 then { s.per with bank2Fault := true } else { s.per with bank3Fault := true }
  notifyManager (writeLog { s with per := p } 0x000C 0xFFFF (leBytes 1 b)) 9
/-- The faults of one write in both banks. -/
def bankFaults (s : State) (b2 b3 : Bool) : State :=
  let s := if b2 then s else bankFault s 2
  if b3 then s else bankFault s 3

/-- The ledger engine ends the record at the head of its queue: committed where a bank took it, else it stays there. -/
def ledgerDone (s : State) (b2 b3 : Bool) : State :=
  match s.per.queue with
  | [] => s
  | (r, e) :: _ =>
    if 2 ^ 48 - 1 ≤ s.per.nextSeq then s
    else
      let s := bankFaults s b2 b3
      if !b2 ∧ !b3 then s
      else
        let seq := s.per.nextSeq
        let s := commitRecord (dequeue s) r b2 b3
        recovered (archiveAgain (takeSnapshot (runEffect s seq e) seq)) .ledger

/-- LEDGER_COMMIT_DONE (R417): body and markers of the next record are written and verified in the banks named. -/
def execLedgerCommitDone (bank2 bank3 : Bool) (s : State) : Res :=
  if mainOn s then .next (settle (ledgerDone s bank2 bank3)) else .next s

/-- A move of one counter, unless one is already queued. -/
def queuedMove (s : State) (c : Nat) : Bool := s.per.queue.any (fun q => match q.1.payload with
  | .counter ms => ms.any (fun m => m.1 == c)
  | _ => false)

/-- MRAM_REFRESH (R432): every 30 days of powered time the rows are rewritten, which changes no value, and counter 14 moves. -/
def execMramRefresh (s : State) : Res :=
  let t := counterOf s 13
  if mainOn s ∧ counterOf s 14 + 43200 ≤ t ∧ !queuedMove s 14 then .next (enqueue s (.counter [(14, t)]) .nothing) else .next s

/-- POWERED_TIME_MOVE (R424): counter 13 moves by 60 minutes each hour of powered time. -/
def execPoweredTimeMove (s : State) : Res :=
  if mainOn s ∧ s.per.poweredAt + 3600 * ms 1000 ≤ now s ∧ !queuedMove s 13 then
    .next (enqueue { s with per := { s.per with poweredAt := s.per.poweredAt + 3600 * ms 1000 } } (.counter [(13, counterOf s 13 + 60)])
      .nothing)
  else .next s

/-- ARCHIVE_RETRY (R441): a second after the last attempt, the archive is tried again. -/
def execArchiveRetry (s : State) : Res :=
  if mainOn s ∧ (s.per.archiving.isSome ∨ archiveDue s) ∧ s.per.archiveAt + ms 1000 ≤ now s then .next (settle (archiveAgain s))
  else .next s

/-- LOG_RATE_SECOND (R443): the second ends, and each code suppressed in it gets its SUPPRESSED record. -/
def execLogRateSecond (s : State) : Res :=
  if mainOn s ∧ s.per.rateAt + ms 1000 ≤ now s then
    let t := s.per.suppressedRate
    .next (writeSuppressed { s with per := { s.per with rate := [], suppressedRate := [], rateAt := now s } } t)
  else .next s

/-- LEDGER_CREDIT_GAIN (R422): 32,768 records a second of TREF time, to at most 2,097,152; THROTTLED goes with the first. -/
def execLedgerCreditGain (s : State) : Res :=
  let gain := (now s - s.per.creditAt) * 32768 / ms 1000
  if !mainOn s ∨ gain = 0 then .next s
  else
    .next { s with per := { s.per with
      credit := min 2097152 (s.per.credit + gain), creditAt := s.per.creditAt + ceilDiv (gain * ms 1000) 32768, throttled := false } }

/-! ## Mailbox commands (R438 to R440) -/

/-- The 64 bytes of the persistence status block (R440). -/
def persistBlock (s : State) : Bytes :=
  let flags := b2n s.per.throttled + 2 * b2n s.per.bank2Fault + 4 * b2n s.per.bank3Fault + 8 * b2n s.per.logFull +
    16 * b2n s.per.otpDegraded + 32 * b2n (ackPending s) + 64 * (counterOf s 10 % 2)
  leBytes 8 s.per.nextSeq ++ leBytes 8 (ledgerEpoch s) ++ leBytes 4 s.per.credit ++ leBytes 1 flags ++ zeros 3 ++
    leBytes 8 s.per.nextLseq ++ leBytes 8 (counterOf s 9) ++ leBytes 8 s.per.suppressed ++ leBytes 8 (counterOf s 11) ++
    leBytes 8 (counterOf s 13)

/-- PERSIST_STATUS (R439). -/
def execPersistStatus (io : MbxIo) (s : State) : Res :=
  runMailbox 0x0300 anyReq (fun q s => reportBlock q io 64 persistBlock s) s

/-- Writes COUNT records from FIRST, the statement and its signature. -/
def exportLog (s : State) (io : MbxIo) (first count buf : Nat) : Ran × State :=
  let held := (List.range count).map (fun i => heldRecord s (first + i))
  let len := 64 * count + 128 + 4723
  if buf % 64 ≠ 0 ∨ count = 0 ∨ 256 < count then (.reply { code := rBadParam }, s)
  else match outputFault s buf len with
    | some a => (.reply a, s)
    | none =>
      if held.any (·.isNone) ∨ s.keys.mak.isNone ∨ entropyDown s then (.reply { code := rWrongState }, s)
      else
        let (n, s) := drawRandom s
        let st := batchStatement s first (first + count - 1)
        writeOutput s buf ((held.flatMap (fun r => match r with
          | some x => auditBytes x
          | none => [])) ++ st ++ makSign s auditLabel st n) io.write { code := rOk }

/-- LOG_EXPORT (R438, R439). -/
def execLogExport (io : MbxIo) (s : State) : Res :=
  if seedPending s then .next s else runMailbox 0x0301 anyReq (fun q s =>
    if argsFrom q 0 then (.reply { code := rBadParam }, s)
    else match readInput s q.param 24 io.read with
      | (.fail a, s) => (.reply a, s)
      | (.data b, s) =>
        if !allZero (subBytes b 0x0A 6) then (.reply { code := rBadParam }, s)
        else exportLog s io (field b 0 8) (field b 8 2) (field b 0x10 8)) s

end Sys2Proof.Machine
end

