-- ==== Sys2Proof/Machine/Management.lean ====
section
/-! DEFINITION. Firmware updates and the sensor hub (R65, R484, R489 to R493, R540, R588). -/
namespace Sys2Proof.Machine

/-! ## Updates (R489 to R491) -/

/-- An update command's reply; REASON keeps the code of an IMAGE_INVALID reply only (R481). -/
def updReply (s : State) (a : Ans) : Ran × State :=
  let r := if a.code = rImageInvalid then (a.data.headD 0).toNat else 0
  (.reply a, { s with mgmt := { s.mgmt with updReason := r } })
def updCode (s : State) (c : Nat) : Ran × State := updReply s { code := c }
/-- Moves the update state. -/
def setUpd (s : State) (x : UpdSt) (bank : Nat) : State := { s with mgmt := { s.mgmt with updSt := x, updBank := bank } }
/-- The update state concerns another bank. -/
def updElsewhere (s : State) (bank : Nat) : Bool := s.mgmt.updSt != .idle && s.mgmt.updBank != bank

/-- Copies a part of a package to the idle bank; the first write zeroes the bank's header. -/
def writePart (s : State) (bank off : Nat) (b : Bytes) : State :=
  let s := if s.mgmt.updSt = .writing then s else writeBank s bank 0 (zeros 64)
  setUpd (writeBank s bank off b) .writing bank

/-- UPDATE_WRITE (R484, R489). -/
def execUpdateWrite (io : MbxIo) (s : State) : Res :=
  runMailbox 0x0500 anyReq (fun q s =>
    let bank := argOf q 0
    let off := argOf q 1
    let len := argOf q 2
    if s.mgmt.updSt = .activated then updCode s rWrongState
    else if 1 < bank ∨ off % 64 ≠ 0 ∨ off < 0x1000 ∨ len % 64 ≠ 0 ∨ len < 64 ∨ 65536 < len ∨ 0x400000 < off + len then updCode s rBadParam
    else if bank = s.mgmt.runningBank then updCode s rBankRunning
    else if updElsewhere s bank then updCode s rWrongState
    else match readInput s q.param len io.read with
      | (.fail a, s) => updReply s a
      | (.data b, s) => updCode (writePart s bank off b) rOk) s

/-- UPDATE_CHECK (R490). -/
def execUpdateCheck (s : State) : Res :=
  runMailbox 0x0501 anyReq (fun q s =>
    let bank := argOf q 0
    let m := manifestBody s bank
    let staged := s.mgmt.updBank == bank && (s.mgmt.updSt == .writing || s.mgmt.updSt == .checked)
    if s.mgmt.updSt = .activated then updCode s rWrongState
    else if bank = s.mgmt.runningBank then updCode s rBankRunning
    else if !staged then updCode s rWrongState
    else match packageFault s bank s.keys.did with
      | some e => updReply (setUpd s .writing bank) { code := rImageInvalid, data := [BitVec.ofNat 32 e] }
      | none =>
        if versionOk s (manSecVersion m) then
          updReply (setUpd s .checked bank)
            { code := rOk, data := [BitVec.ofNat 32 (manSecVersion m), BitVec.ofNat 32 (manImageLen m)] }
        else updCode (setUpd s .writing bank) rVersionLow) s

/-- UPDATE_ACTIVATE (R491): under its intent; the reply follows DONE. -/
def execUpdateActivate (s : State) : Res :=
  runMailbox 0x0502 anyReq (fun q s =>
    let bank := argOf q 0
    let v := manSecVersion (manifestBody s bank)
    if s.mgmt.updSt = .activated then updCode s rWrongState
    else if bank = s.mgmt.runningBank then updCode s rBankRunning
    else if s.mgmt.updSt ≠ .checked ∨ s.mgmt.updBank ≠ bank then updCode s rSequence
    else if rosterPending s then updCode s rWrongState
    else if (packageFault s bank s.keys.did).isSome then updCode s rSequence
    else
      let s := { s with mgmt := { s.mgmt with keypath := true } }
      (.park, enqueue s (.intent 5 0 0 0 0 0 bank v 0) (.activate bank v))) s

/-- UPDATE_ABANDON (R484). -/
def execUpdateAbandon (s : State) : Res :=
  runMailbox 0x0503 anyReq (fun q s =>
    let bank := argOf q 0
    if s.mgmt.updSt = .activated then updCode s rWrongState
    else if bank = s.mgmt.runningBank then updCode s rBankRunning
    else if 1 < bank ∨ updElsewhere s bank then updCode s rWrongState
    else updCode (setUpd (writeBank s bank 0 (zeros 64)) .idle 0) rOk) s

/-! ## Sensors (R492, R493) -/

/-- The supply VDD as it is now, and the lowest value since the last write of PWR_VDD_MIN (R540). -/
def setVdd (s : State) (mv : Nat) : State :=
  { s with pwr := { s.pwr with
    vdd := mv, vddMin := min s.pwr.vddMin mv, vddOver := s.pwr.vddOver && decide (900 < mv)
    coldNext := s.pwr.coldNext || decide (mv < 550) } }

/-- The highest of the junction temperatures, signed. -/
def tjMax (x : Sample) : BitVec 16 :=
  match x.temps with
  | [] => 0
  | t :: r => r.foldl (fun a b => if a.toInt < b.toInt then b else a) t

/-- Code of a shedding level. -/
def levelCode : Level → Nat
  | .full => 0
  | .trim => 1
  | .essential => 2
  | .finish => 3
  | .secure => 4

/-- A bit per number of a list, in n bytes. -/
def bitmap (n : Nat) (l : List Nat) : Bytes := leBytes n ((l.eraseDups.map (fun i => 2 ^ i)).sum)

/-- The block of SENSOR_READ (R493); zero values before the first sample after a start (R588). -/
def sensorBlock (s : State) : Bytes :=
  let tests := bitmap 12 s.pwr.lightPass ++ leBytes 4 s.pwr.monTest.toNat
  match s.mgmt.sample with
  | none => zeros 16 ++ leBytes 1 (levelCode s.pwr.level) ++ zeros 47 ++ tests ++ zeros 176
  | some x =>
    let two := fun (t : BitVec 16) => leBytes 2 t.toNat
    leBytes 8 s.mgmt.sampleAt ++ leBytes 2 x.vdd ++ leBytes 2 x.vddm ++ leBytes 2 x.vaon ++ leBytes 2 x.vbat ++
      leBytes 1 (levelCode s.pwr.level) ++ [0] ++ two (tjMax x) ++ zeros 12 ++ fit 32 (x.temps.flatMap two) ++ tests ++
      fit 64 (x.clocks.flatMap (leBytes 4)) ++ zeros 112

/-- SENSOR_READ (R493). -/
def execSensorRead (io : MbxIo) (s : State) : Res :=
  runMailbox 0x0600 anyReq (fun q s => reportBlock q io 256 sensorBlock s) s

/-- A rail lies beyond its absolute maximum (R65). -/
def beyondMaximum (vdd vddm vaon vbat : Nat) : Bool :=
  decide (1000 < vdd) || decide (2000 < vddm) || decide (1050 < vaon) || decide (3900 < vbat)

/-- SENSOR_SAMPLE (R492, R588): once a millisecond the firmware samples the hub; beyond an absolute maximum nothing is
guaranteed (R65). -/
def execSensorSample (sample : Sample) (s : State) : Res :=
  if beyondMaximum sample.vdd sample.vddm sample.vaon sample.vbat then .fault .beyondAbsoluteMaximum
  else if !mainOn s ∨ s.mgmt.st ≠ .running ∨ (s.mgmt.sample.isSome ∧ now s < s.mgmt.sampleAt + ms 1) then .next s
  else
    let s := setVdd s sample.vdd
    .next (aonDown { s with
      mgmt := { s.mgmt with sample := some sample, sampleAt := now s }
      pwr := { s.pwr with vddm := sample.vddm, vaon := sample.vaon, vbat := sample.vbat } })

/-- MBX_HEARTBEAT_INCREMENT (R477, R481): each millisecond the running firmware counts on and kicks its watchdog. -/
def execMbxHeartbeatIncrement (s : State) : Res :=
  if mainOn s ∧ s.mgmt.st = .running ∧ s.mgmt.beatAt + ms 1 ≤ now s then
    .next { s with mgmt := { s.mgmt with heartbeat := s.mgmt.heartbeat + 1, beatAt := now s, lastKick := now s } }
  else .next s

end Sys2Proof.Machine
end

