-- ==== Sys2Proof/Machine/PairMemory.lean ====
section
/-! DEFINITION. The memory of the management pair: its layout, its protection, the copy of the running image and the frame of a double
fault (R472, R474, R475, R478). -/
namespace Sys2Proof.Machine

/-! ## Layout (R472) -/

/-- First addresses of the image, the configuration, the data and the fault stack, and the end of the memory. -/
def pairImageAt : Nat := 0
def pairConfigAt : Nat := 0x2C0000
def pairDataAt : Nat := 0x300000
def faultStackAt : Nat := 0x3FF000
def pairEnd : Nat := 0x400000

/-- The entries that the boot ROM sets and locks: image, configuration, fault stack, and all that lies above the memory, which holds
the device window of R473 (log entry 182). -/
def bootPmp : List PmpEntry :=
  [{ first := pairImageAt, last := pairConfigAt - 1, read := true, exec := true, locked := true },
   { first := pairConfigAt, last := pairDataAt - 1, read := true, locked := true },
   { first := faultStackAt, last := pairEnd - 1, read := true, write := true, machineOnly := true, locked := true },
   { first := pairEnd, last := 2 ^ 64 - 1, read := true, write := true, machineOnly := true, locked := true }]
/-- All 16 entries at a release of the pair: those of the image, 4 to 15, are off. -/
def resetPmp : List PmpEntry := bootPmp ++ List.replicate 12 ({} : PmpEntry)

/-- The first entry that covers an address, if any. -/
def pmpAt (s : State) (a : Nat) : Option PmpEntry :=
  s.mgmt.pmp.find? (fun e => (e.read || e.write || e.exec) && decide (e.first ≤ a) && decide (a ≤ e.last))
/-- A write of the pair in a mode is let through; where no entry covers the address, machine mode's is. -/
def pairWrites (s : State) (machine : Bool) (a : Nat) : Bool :=
  match pmpAt s a with
  | some e => e.write && (machine || !e.machineOnly)
  | none => machine

/-- Stores bytes of the pair in machine mode, where the memory and its protection have them. -/
def pairStore (s : State) (a : Nat) (b : Bytes) : State :=
  if (List.range b.length).all (fun i => decide (a + i < pairEnd) && pairWrites s true (a + i)) then
    { s with mgmt := { s.mgmt with mem := memWriteBytes s.mgmt.mem a b } }
  else s

/-! ## Copy and frame (R475, R478) -/

/-- The memory is wiped, holds image and configuration of a bank, and is protected anew. -/
def loadPair (s : State) (bank : Nat) : State :=
  let m := manifestBody s bank
  let image := bankBytes s bank 0x10000 (manImageLen m)
  let config := bankBytes s bank 0x2D0000 (manConfigLen m)
  { s with mgmt := { s.mgmt with
    mem := memWriteBytes (memWriteBytes [] pairImageAt image) pairConfigAt config, pmp := resetPmp } }

/-- xCAUSE of a trap: the interrupt bit on top of its code. -/
def causeWord (c : Byte) : Nat := b2n (c.getLsbD 7) * 2 ^ 63 + (c.extractLsb' 0 7).toNat
/-- The 160-byte frame of a trap: sixteen saved registers, then the pc, the status, the cause and the value of the target
mode; what the commands do not tell is free (R474). -/
def trapFrame (n : Nat) (pc : W64) (cause : Byte) : Bytes :=
  freeBytes n 128 ++ leBytes 8 pc.toNat ++ (freeBytes n 144).drop 136 ++ leBytes 8 (causeWord cause) ++ (freeBytes n 160).drop 152

end Sys2Proof.Machine
end

