-- ==== Sys2Proof/Machine/PairCmds.lean ====
section
/-! DEFINITION. The management pair: its restarts, its double faults and what runs again after a restart (R471, R475 to R480). -/
namespace Sys2Proof.Machine

/-- MBX_MGMT_RESTART (R477): a write of 1 restarts the running pair. -/
def execMbxMgmtRestart (value : W32) (s : State) : Res :=
  portAccess (.mbxMgmtRestart value) s
    (.next (regWrite s (fun s => if value.getLsbD 0 ∧ s.mgmt.st = .running then restartUnseen s 5 else s)))

/-- WATCHDOG_EXPIRY (R477): the limit passes without a kick. -/
def execWatchdogExpiry (s : State) : Res :=
  if mainOn s ∧ s.mgmt.st = .running ∧ s.mgmt.lastKick + ms s.mgmt.wdtTimeout ≤ now s then .next (pairFault s (restartUnseen · 3))
  else .next s

/-- PAIR_HALT (R476): a trap finds the double-fault path closed; the watchdog restarts the pair at once. -/
def execPairHalt (pc sp : W64) (cause : Byte) (s : State) : Res :=
  if mainOn s ∧ s.mgmt.st = .running then .next (pairFault s (fun s => restartPair s 2 cause pc sp)) else .next s

/-- DOUBLE_FAULT (R474, R475): the frame goes onto the fault stack, and the pair enters the double-fault handler. -/
def execDoubleFault (pc sp : W64) (cause : Byte) (s : State) : Res :=
  if mainOn s ∧ s.mgmt.st = .running then
    let (n, s) := draw s
    let s := pairStore s (pairEnd - 160) (trapFrame n pc cause)
    .next { s with mgmt := { s.mgmt with
      mdfActive := true, trapKind := 1, trapInterrupt := cause.getLsbD 7, trapCause := cause.extractLsb' 0 7, trapPc := pc
      trapSp := sp, dfaultCount := satInc 32 s.mgmt.dfaultCount } }
  else .next s

/-- LOCKSTEP_MISMATCH (R471): in a key path a Class B alarm comes first. -/
def execLockstepMismatch (pc sp : W64) (s : State) : Res :=
  if mainOn s ∧ s.mgmt.st = .running then
    let s := { s with mgmt := { s.mgmt with lockstepCount := satInc 32 s.mgmt.lockstepCount } }
    let s := if keyPath s then classB s 0x11 else s
    .next (pairFault s (fun s => restartPair s 4 0 pc sp))
  else .next s

/-! ## The end of a restart (R478 to R480) -/

/-- Commands that only report: a finished one runs again for what it reports. -/
def reportCodes : List Nat := [0x0001, 0x0105, 0x0300, 0x0301, 0x0402, 0x0404, 0x0600, 0x0705]
/-- A finished report waits in the queue again; other started commands keep the outcome that running again gives. -/
def requeue (q : Req) : Req :=
  if q.st = .replyHeld ∧ reportCodes.contains q.cmd then { q with st := .queued, reply := none } else q

/-- A KUM that was being applied is resolved from its intent, as at a start, unless its DONE record is on its way (R429, R480). -/
def restartKum (s : State) : State :=
  match s.keys.kumJob with
  | none => s
  | some id =>
    match jobOf s id with
    | none => { s with keys := { s.keys with kumJob := none } }
    | some j =>
      match j.opid with
      | none => s
      | some o =>
        match look? s.per.openIntents o with
        | some p =>
          if j.phase ≠ .committing ∨ closing s o then s
          else repeatUnder { s with keys := { s.keys with kumJob := none } } j o p
        | none => s

/-- The pair runs again: its memory holds image and configuration, its CSRs are reset, held replies leave, and interrupted commands run again. -/
def pairRuns (s : State) : State :=
  let s := loadPair s s.mgmt.runningBank
  let m := s.mgmt
  let m := { m with st := .running, mdfvec := 0, mdfActive := false, mstack := 0, msbound := 0, sstack := 0, ssbound := 0
                    restartTime := (now s - m.restartBegan) / us 1, lastKick := now s, beatAt := now s
                    requests := m.requests.map requeue }
  flushReplies (restartKum (recovered { s with mgmt := m } .management))

/-- RESTART_COMPLETE (R478 to R480): a digest mismatch of the copied image ends in SAFE. -/
def execRestartComplete (digestsMatch : Bool) (s : State) : Res :=
  if !mainOn s ∨ s.mgmt.st ≠ .restarting then .next s
  else if digestsMatch then .next (pairRuns s)
  else
    let s := enterSafe { s with mgmt := { s.mgmt with st := .halted } }
    .next { s with pwr := { s.pwr with startFail := 0x0C } }

end Sys2Proof.Machine
end

