-- ==== Sys2Proof/Machine/StartSeq.lean ====
section
/-! DEFINITION. The steps of a start: what each kind of start keeps, the tamper steps, the choice of a bank, recovery of the ledger,
measurements, keys, lifecycle and the return to service (R362, R370, R386, R388, R405, R427 to R432, R485, R494 to R513, R532,
R533). -/
namespace Sys2Proof.Machine

/-! ## What a start keeps (R495) -/

/-- A port after a start: its pins, and FPn_FMAX with its lock. -/
def freshPort (p : Port) : Port :=
  { qreq := p.qreq, qack := p.qack, fmax := p.fmax, fmaxLocked := p.fmaxLocked, fmaxInForce := p.fmax }

/-- A retained submission: an accepted one waits for its recovery, which its stamps alone decide where their responses were still
awaited; any other goes through acceptance again (R121, R123, R509). -/
def heldJob (j : Job) : Job :=
  let j := { j with heldSince := none, blockSince := none }
  if accepted j then { j with phase := .recheck, part := none, more := [], unsure := j.unsure || j.phase == .stamping }
  else { j with phase := .waiting, part := none, more := [], value := none, stamped := [], decided := false, scratch := 0 }

/-- A retained ring: its context and positions; reads under way and the cadence are lost. -/
def heldRing (x : Ring) : Ring :=
  { x with fetching := false, poolWait := false, dbRetry := false, drainDue := false, wbDue := x.wbDue || x.msgDue
           cad := { staged := x.cad.staged } }

/-- A retained pool, its header read again if the read was under way. -/
def heldPools (s : State) : List Pool := s.pools.filter (fun p => p.ready)

/-- The staged configuration after a start: registers keep their values, what mailbox commands staged is lost. -/
def heldCfg (c : Cfg) : Cfg :=
  let cur := { c.cur with reseedLog2 := 20 }
  let zero := look c.staged.windows 0 []
  { cur := cur, old := c.old
    staged := { c.staged with reseedLog2 := 20, gen := c.cur.gen, allots := cur.allots, windows := put cur.windows 0 zero } }

/-- Persistence after a start: MRAM, OTP and battery-backed memory as they were, the engine's own state new (R422). -/
def freshPersist (s : State) : Persist :=
  { s.per with
    queue := [], credit := 32768, creditAt := now s, throttled := false, bank2Fault := false, bank3Fault := false, writeLock := false
    rate := [], suppressedRate := [], suppressedFull := [], suppressed := 0, logFull := decide (12224 ≤ unarchived s), logRowsFail := []
    rateAt := now s, poweredAt := now s, archiving := none, archiveRun := false, archiveAt := now s, canary := canaryBytes }

/-- Key store and identity after a start: records and rosters, and on a warm start the key cache. -/
def freshKeys (k : Keys) : Keys :=
  { k with rk := none, slotKey := none, storeSeal := none, mak := none, makCert := [], did := [], smk := none, sealMismatch := false
           lifecycle := .blank, mdigest := [], kumJob := none, journal := none }

/-- A cached persistent key after a warm start: the rest of its open block of uses is skipped (R30, R381). -/
def skipUses (s : State) (k : Key) : Key :=
  if k.persistent ∧ k.useLimit ≠ 0 then
    let k := { k with useCount := max k.useCount k.useEnd }
    { k with tag := keyTag s k }
  else k

/-- The entropy subsystem after a start: nothing but how far each source's noise has been used (R336, R361). -/
def freshEntropy (e : Entropy) : Entropy := { sources := e.sources.map (fun x => (x.1, { taken := x.2.taken + 8 * x.2.passed })) }

/-- The start sequencer in step 4, with what the always-on domain and the pins hold. -/
def freshPower (s : State) : Power :=
  let p := s.pwr
  { main := .precondition, rstAsserted := false, pwrGood := true, maceAsserted := p.maceAsserted, maceHeldEpisodes := p.maceHeldEpisodes
    longReset := p.longReset, coldNext := false, canaryLost := p.canaryLost || s.per.canary != canaryBytes, prevFail := p.startFail
    startLong := p.longReset, releasedAt := now s, startStep := 4, vdd := p.vdd, vddm := p.vddm, vaon := p.vaon, vbat := p.vbat
    onBattery := p.onBattery, aonSince := p.aonSince, maceCounted := p.maceCounted, vddOver := p.vddOver, bstState := 3 }

/-- The ordinal cache after a start: every pair skips the rest of its block, and what a batch was to store is as the table has it (R31,
R320, R495). -/
def freshReserve (s : State) : Reserve :=
  let os := s.res.ordinals.map (fun e => { skipOrdinal s.mir e with evicting := false, block := e.storedBlock })
  { ordinals := os, fresh := os.map (fun e => (e.handle, e.target, e.next)) }

/-- What every start leaves (R495): what a SLICE_MODIFY had staged is given back to the pools. -/
def freshState (s : State) : State :=
  { s with
    glb := { s0Bind := s.glb.s0Bind, s0Bound := s.glb.s0Bound, rctxLo := s.glb.rctxLo, rctxHi := s.glb.rctxHi
             rctxLoLocked := s.glb.rctxLoLocked, rctxHiLocked := s.glb.rctxHiLocked, cadT0 := s.glb.cadT0, cadSel := s.glb.cadSel
             gridSel := s.glb.gridSel, trefLost := !s.clock.running }
    fabric := { ports := s.fabric.ports.map (fun e => (e.1, freshPort e.2)) }
    irq := { table := s.irq.table }
    links := []
    slices := (s.slices.filter (fun e => e.2.st != .creating)).map (fun e => (e.1, { e.2 with held := allotOf s.cfg.cur e.1 }))
    rings := s.rings.map (fun e => (e.1, heldRing e.2))
    pools := (heldPools s).map (fun p => { p with arb := {} })
    jobs := s.jobs.map heldJob
    sched := { nextAccept := s.sched.nextAccept }
    cfg := heldCfg s.cfg
    keys := freshKeys { s.keys with slots := s.keys.slots.map (fun e => (e.1, skipUses s e.2)) }
    mdp := {}
    ent := freshEntropy s.ent
    per := freshPersist s
    store := { root := s.store.root, snapshots := s.store.snapshots }
    res := freshReserve s
    mgmt := {}
    mir := {}
    pwr := freshPower s }

/-- The allotment of slice 0 at a cold start (R81). -/
def slice0Allot : Allot :=
  { firstRing := 0, ringCount := 16, watchCount := 16, keySlots := 64, scratchGuarantee := 256, scratchLimit := 4096
    weights := [0, 16, 16, 16, 16], caps := [0, 0, 0, 0, 0] }

/-- A start that is or becomes cold loses the rest (R495, R496). -/
def goCold (s : State) : State :=
  let s := loseVolatile s
  let c : CfgImage := { allots := [(0, slice0Allot)] }
  { s with cfg := { cur := c, staged := c }, pwr := { s.pwr with startKind := 1 }, glb := { s.glb with trefLost := !s.clock.running } }

/-! ## Tamper steps (R497 step 2, R532) -/

/-- Programs one step of the tamper counter; the 256th makes the die RETIRED. -/
def tamperStep (s : State) : State :=
  let n := min 256 (s.per.otpTamper + 1)
  { s with per := { s.per with otpTamper := n, otpRetired := s.per.otpRetired || n == 256 } }

/-- Counts one latch. -/
def countLatch (s : State) (e : Nat × Latch) : State :=
  if 1 ≤ e.2.kind ∧ e.2.kind ≤ 4 ∧ !e.2.counted then
    tamperStep { s with per := { s.per with latches := put s.per.latches e.1 { e.2 with counted := true } } }
  else s

/-- Step 2: a step for each uncounted latch, and one for the lost canary of an enrolled die (R513, R528). -/
def countTamper (s : State) : State :=
  let s := s.per.latches.foldl countLatch s
  let lost := s.pwr.canaryLost && s.per.otpEnrolled
  let s := { s with pwr := { s.pwr with canaryLost := false, canaryStep := lost } }
  if lost then tamperStep s else s

/-- A latched entry into Secure, evidence that makes this start cold; it is read once (R494, R531). -/
def secureLatched (s : State) : Bool := s.per.latches.any (fun e => e.2.kind == 5)
def clearSecure (s : State) : State := { s with per := { s.per with latches := s.per.latches.filter (fun e => e.2.kind != 5) } }

/-! ## Measurements (R250, R497) -/

/-- The start sequencer or the firmware extends a slot. -/
def extendSlot (s : State) (n : Nat) (d : Bytes) : State :=
  { s with mdp := { s.mdp with
    meas := put s.mdp.meas n (extended (measOf s n) d), extCount := put s.mdp.extCount n (look s.mdp.extCount n 0 + 1) } }
def bootRomDigest : Bytes := (List.range 48).map Config.bootRomDigestByte

/-! ## Rows that no longer read (R413 to R415, R427) -/

/-- A row of banks 2 and 3, by its number from the start of the bank, reads in neither. -/
def rowLost (io : StartIo) (n : Nat) : Bool := io.unreadable2.contains n && io.unreadable3.contains n
def counterRowAt : Nat := 0x4000
def keyRowAt : Nat := 0x5000
def auditRowAt : Nat := 0xD000

/-- A row of the ledger that only the other bank holds is lost with that bank's row. -/
def ledgerRowLost (io : StartIo) (n : Nat) (x : LRow) : Bool :=
  (!x.bank2 || io.unreadable2.contains n) && (!x.bank3 || io.unreadable3.contains n)

/-- The window of recovery (R427): the newest record and those behind the clear zone. -/
def inWindowRow (s : State) (x : LRow) : Bool := decide (s.per.nextSeq - 15360 ≤ x.record.seq)

/-- The move of a counter that the window still gives. -/
def windowMoves (s : State) (c : Nat) : Bool :=
  s.per.ledger.any (fun e => inWindowRow s e.2 && (movesOf e.2.record.payload).any (fun m => m.1 == c))

/-- Counters whose home rows are gone in both banks and that no record in the window gives (R426). -/
def lostCounters (s : State) (io : StartIo) : List Nat :=
  (io.unreadable2.filter (fun n => decide (counterRowAt ≤ n) && decide (n < keyRowAt) && io.unreadable3.contains n &&
    !windowMoves s (n - counterRowAt))).map (· - counterRowAt)

/-- Recovery cannot be done (R427, R428). -/
def ledgerFails (s : State) (io : StartIo) : Bool :=
  (s.per.ledger == [] && s.per.otpEnrolled) ||
    s.per.ledger.any (fun e => inWindowRow s e.2 && ledgerRowLost io e.1 e.2) || (lostCounters s io).any (fun c => decide (c < 64))

/-- A row that reads in one bank only is served from the other, with its log record (R415). -/
def bankRows (s : State) (io : StartIo) : State :=
  let one := fun (b : Nat) (rows : List Nat) (s : State) => if rows = [] then s else bankFault s b
  one 3 io.unreadable3 (one 2 io.unreadable2 s)

/-- A key record with a lost row fails its GCM check when it is loaded (R387). -/
def spoilRecord (io : StartIo) (s : State) (e : Nat × KeyRec) : State :=
  if (List.range 8).any (fun i => rowLost io (keyRowAt + 8 * e.1 + i)) then
    let (n, s) := draw s
    { s with keys := { s.keys with records := put s.keys.records e.1 { e.2 with sealed := freeBytes n e.2.sealed.length } } }
  else s

/-- What is left of the key area: sealing record, recovery record and rosters with a lost row are not valid. -/
def keyRows (s : State) (io : StartIo) : State :=
  let lost := fun (a n : Nat) => (List.range n).any (fun i => rowLost io (keyRowAt + a + i))
  let k := s.keys
  let k := if lost 0 4 then { k with sealA := {}, sealB := {} } else k
  let k := if lost 4 4 then { k with recovery := none } else k
  let k := if lost (8 * 3840) 1024 then { k with rosterA := {} } else k
  let k := if lost (8 * 3968) 1024 then { k with rosterB := {} } else k
  s.keys.records.foldl (spoilRecord io) { s with keys := k }

/-- A record whose PREV matches its predecessor (R435, R436). -/
def auditLinked (s : State) (r : AuditRec) : Bool :=
  if r.lseq = 0 then r.prev == zeros 16
  else match heldRecord s (r.lseq - 1) with
    | some p => r.prev == (sha384 (auditBytes p)).take 16
    | none => false
/-- The log head: the highest LSEQ that is linked, where there is one (R436). -/
def auditHead (s : State) : Option Nat := (((s.per.audit.map (·.2)).filter (auditLinked s)).map (·.lseq)).max?

/-- Audit rows lost in both banks degrade the log (R415, R444); the log goes on from its head, and a break in the chain is itself
logged (R436). -/
def auditRows (s : State) (io : StartIo) : State :=
  let rows := (io.unreadable2.filter (fun n => decide (auditRowAt ≤ n) && io.unreadable3.contains n)).map (· - auditRowAt)
  let held := s.per.audit.any (fun e => rows.contains e.1)
  if rows = [] then s
  else
    let s := { s with per := { s.per with
      logRowsFail := rows, otpDegraded := true, audit := s.per.audit.filter (fun e => !rows.contains e.1) } }
    if !held then s
    else
      let s := match auditHead s with
        | some l => { s with per := { s.per with nextLseq := l + 1 } }
        | none => s
      writeLog s 0x0013 0xFFFF []

/-! ## The bank that starts (R430 to R432, R485) -/

/-- The version that the boot ROM holds an image against: the floor, and counter 2 in its home rows when they are valid (R431). -/
def bootVersion (s : State) (io : StartIo) : Nat :=
  if rowLost io (counterRowAt + 2) then s.per.otpFloor else max s.per.otpFloor (look s.per.homes 2 {}).value

/-- DID of the root that battery-backed memory holds. -/
def bootDid (s : State) : Bytes :=
  match rootOf s with
  | some r => didOf s r
  | none => zeros 48

/-- A bank may start. -/
def bankStarts (s : State) (io : StartIo) (b : Nat) : Bool :=
  headerValid s b && (packageFault s b (bootDid s)).isNone && decide (bootVersion s io ≤ field (bankHeader s b) 0x10 4)
/-- The bank chosen: of two that pass, that of the higher ACTIVATION. -/
def chooseBank (s : State) (io : StartIo) : Option Nat :=
  match bankStarts s io 0, bankStarts s io 1 with
  | true, true => some (if activationOf s 1 > activationOf s 0 then 1 else 0)
  | true, false => some 0
  | false, true => some 1
  | false, false => none

/-- The chosen bank is refreshed when its counter is 30 days behind; its counter moves once the ledger serves (R432). -/
def refreshBank (s : State) (b : Nat) : State :=
  if counterOf s (15 + b) + 43200 ≤ counterOf s 13 then commitNow s (.counter [(15 + b, counterOf s 13)]) else s

/-- The image runs: digests recorded, M1 and M2 extended, the pair is running. -/
def bootBank (s : State) (b : Nat) : State :=
  let m := manifestBody s b
  let s := loadPair (extendSlot (extendSlot s 1 (manImageDigest m)) 2 (manConfigDigest m)) b
  { s with mgmt := { s.mgmt with
    st := .running, runningBank := b, imageDigest := manImageDigest m, configDigest := manConfigDigest m, lastKick := now s
    beatAt := now s } }

/-! ## Intents that are resolved at the start (R429) -/

/-- The slots of a volatile key whose creation was open are wiped. -/
def wipeCreated (s : State) (opid : Nat) : State :=
  (s.jobs.filter (fun j => j.opid == some opid)).foldl (fun s j => match cachedKey s j.result with
    | some k => dropKey s k.slot
    | none => { s with keys := { s.keys with curves := s.keys.curves.filter (fun c => c.handle != j.result) } }) s

/-- The log record and DONE record of a KUM that is repeated without host data. -/
def repeatedKum (s : State) (opid op object c : Nat) (b : Option (Nat × Nat)) : State :=
  let s := writeLog s 0x0002 0xFFFF (leBytes 1 op ++ leBytes 4 object ++ leBytes 8 c ++ [1])
  commitNow s (.doneRec opid 0 (some (0, c)) b)

/-- KIND 4: COMMISSION, DESTROY of an MRAM record, ACK_LOG and POLICY take effect; a DESTROY of a store record waits for the
store. -/
def repeatKum (s : State) (opid op object c : Nat) : State :=
  match op with
  | 0x02 =>
    let s := match rootOf s with
      | some r => commitNow s (.commission c ((didOf s r).take 32))
      | none => s
    repeatedKum s opid op object c none
  | 0x13 =>
    if isMramHandle object then repeatedKum (forgetIndex (destroyRecord s object) object) opid op object c none else s
  | 0x20 => repeatedKum { s with per := { s.per with emgAcked := s.per.emgEntries } } opid op object c (some (12, c))
  | _ => repeatedKum s opid op object c (some (10, 2 * c + object % 2))

/-- One open intent at a start; KINDs 2 and 3 wait for their ring (R512), KIND 5 for the store master keys. Those of a JOURNAL_ENTRY
name no ring and are resolved at once, the entry being absent. -/
def resolveIntent (s : State) (e : Nat × LPayload) : State :=
  match e.2 with
  | .intent 1 _ _ _ _ _ object _ _ =>
    if object = 0 then commitNow (wipeCreated s e.1) (.rollback e.1)
    else
      let s := match cachedKey s object with
        | some k => dropKey s k.slot
        | none => s
      commitNow { s with keys := { s.keys with curves := s.keys.curves.filter (fun c => c.handle != object) } } (.doneRec e.1 0 none none)
  | .intent 2 _ 0xFFFF _ _ _ _ _ _ => commitNow (dropPending s) (.rollback e.1)
  | .intent 3 op 0xFFFF _ _ _ object c _ =>
    let s := writeLog (destroyRecord s object) 0x0003 0xFFFF (leBytes 1 op ++ leBytes 4 object ++ leBytes 8 c)
    commitNow s (.doneRec e.1 0 (some (0, c)) none)
  | .intent 4 op sl _ _ _ object c _ =>
    if sl = 0xFFFF ∧ op = 0x13 ∧ isStoreHandle object then commitNow s (.rollback e.1) else repeatKum s e.1 op object c
  | .intent 6 _ _ _ _ _ _ first _ => { s with per := { s.per with archiving := some first } }
  | .intent 7 _ _ _ _ _ _ v _ =>
    let s := if counterOf s 3 < v then commitNow s (.root v (zeros 32)) else s
    { s with store := { root := {}, formatLeft := some (9, e.1) }, keys := { s.keys with storeOwners := [] } }
  | _ => s

/-- Step 7: the ledger engine recovers up to its START record. -/
def recoverLedger (s : State) (io : StartIo) : State :=
  let s := auditRows (keyRows (bankRows { s with per := { s.per with broken := s.per.broken ++ lostCounters s io } } io) io) io
  let s := s.per.openIntents.foldl resolveIntent s
  if s.per.overwritten = 0 then s
  else commitNow { s with per := { s.per with overwritten := 0 } } (.counter [(11, counterOf s 11 + 1)])

/-! ## Step 8: roster, M3, START -/

/-- A PENDING roster becomes ACTIVE and the other area EMPTY, unless its intent waits (R394, R512). -/
def activateRoster (s : State) : State :=
  if s.per.openIntents.any (fun e => match e.2 with
      | .intent 2 .. => true
      | _ => false) then s
  else
    let due := fun (r : Roster) => r.st == .pendingSt && r.tag == rosterTag r
    let act := fun (r : Roster) => tagged { r with st := .active }
    if due s.keys.rosterA then { s with keys := { s.keys with rosterA := act s.keys.rosterA, rosterB := {} } }
    else if due s.keys.rosterB then { s with keys := { s.keys with rosterB := act s.keys.rosterB, rosterA := {} } }
    else s

/-- M3 is extended and M0 to M3 are closed. -/
def closeMeasurements (s : State) : State :=
  let s := match activeRoster s with
    | some r => extendSlot s 3 (sha384 r.image)
    | none => s
  { s with mdp := { s.mdp with closed := 0xF }, keys := { s.keys with mdigest := sha384 (measAll s) } }

/-- Volatile keys do not outlive a change of the measurements (R388). -/
def wipeVolatile (s : State) : State :=
  let gone := (s.keys.slots.filter (fun e => isVolatile e.2.handle)).map (·.1)
  { s with keys := { s.keys with
    slots := s.keys.slots.filter (fun e => !isVolatile e.2.handle), curves := []
    lru := s.keys.lru.filter (fun n => !gone.contains n), hmac := s.keys.hmac.filter (fun e => !gone.contains e.slot) } }

/-- The START record (R419, R424), after the MDIGEST of the start before has been held against this one's. -/
def commitStart (s : State) : State :=
  let prev := look s.per.aux 6 []
  let s := if prev ≠ [] ∧ prev ≠ s.keys.mdigest.take 32 then wipeVolatile s else s
  commitNow s (.start (counterOf s 5 + 1) s.keys.mdigest)

/-! ## Steps 9 to 11: root, entropy, keys -/

/-- A root that is there: its copies are made good, RK and the DID derived (R362, R363, R369). -/
def takeRoot (s : State) (r : Bytes) : State :=
  let s := loadRegisters (writeRoot s r) r
  { s with keys := { s.keys with did := didOf s r } }

/-- The start-up tests of the unmasked sources (R338, R341). -/
def testSources (s : State) (io : StartIo) : State :=
  (List.range 8).foldl (fun s n =>
    if !s.ent.srcMask.getLsbD n then s
    else
      let x := testedSource (sourceOf s n)
      if io.sourcesPass.getD n false then setSource s n { x with st := .healthy, restarts := 1 }
      else setSource s n { x with st := .testing, restarts := 2, startFails := 1 }) s

/-- The seeding-serial block of the start (R352). -/
def takeSerials (s : State) : State :=
  let a := counterOf s 4
  let s := commitNow s (.counter [(4, a + 1024)])
  { s with ent := { s.ent with serialNext := a, serialEnd := a + 1024 } }

/-- The start waits for a block where none is buffered, and takes a further block of serials where the last is used up. -/
def readySeed (s : State) : State :=
  let s := if s.ent.buffer = [] then finishBlock s else s
  if s.ent.serialNext < s.ent.serialEnd then s else takeSerials s

/-- The internal instance is instantiated from a block of its own, and the entropy state leaves STARTING (R346, R354, R355). -/
def instantiateInternal (s : State) : State :=
  let s := leaveStarting (seedFrom (readySeed s) 256 [])
  { s with ent := { s.ent with mustReseed := false } }

/-- The body of the MAK certificate (R370). -/
def makBody (s : State) : Bytes :=
  ascii "PRDMAKC1" ++ fit 48 s.keys.did ++ fit 48 s.keys.mdigest ++ leBytes 8 (ledgerEpoch s) ++ leBytes 4 (counterOf s 2) ++
    leBytes 2 s.per.otpTamper ++ zeros 2 ++ leBytes 8 (now s) ++ makPublic s ++ zeros 7

/-- Step 11: the DIK signs the certificate, and the sealing record is opened (R370, R385). -/
def certifyMak (s : State) : State :=
  match s.keys.rk with
  | none => s
  | some rk =>
    let (n, s) := drawRandom s
    let p := p384Material (p384Scalar (derive s rk "DIK-ECDSA-P384" false 0 56))
    let b := makBody s
    let c := b ++ hybridSignRaw p (derive s rk "DIK-MLDSA87" false 0 32) (ascii "PERAND-MAKCERT-1") b n
    { s with keys := { s.keys with makCert := c, smk := openSeal s } }

/-! ## Step 12: lifecycle and log (R388, R405, R533, R537, R538) -/

/-- The lifecycle that a start computes (R405). -/
def computeLifecycle (s : State) : Lifecycle :=
  if s.per.otpRetired then .retired
  else match activeRoster s with
    | none => .blank
    | some r =>
      if r.ownerDid ≠ s.keys.did then .blank
      else if look s.per.aux 7 [] = s.keys.did.take 32 then .service else .enrolled

/-- A Class A alarm left this latch: light, Mace, sensor self-test, or a gap of the AON clock that cost the root (R533). -/
def alarmLatch (absent : Bool) (l : Latch) : Bool := l.counted && (l.kind == 1 || l.kind == 2 || l.kind == 3 || (l.kind == 4 && absent))

/-- The log records of a start; the latches that were counted are cleared. -/
def startLogs (s : State) (rootAbsent : Bool) : State :=
  let counted := s.per.latches.filter (fun e => e.2.counted)
  let steps := counted.length + b2n s.pwr.canaryStep
  let s := writeLog s 0x0001 0xFFFF (leBytes 1 s.pwr.startKind)
  let s := (counted.filter (fun e => alarmLatch rootAbsent e.2)).foldl (fun s e =>
    writeLog s 0x0005 0xFFFF (leBytes 1 1 ++ leBytes 1 e.2.kind ++ leBytes 1 e.2.sensor ++ leBytes 1 e.2.again ++ leBytes 4 e.2.seconds)) s
  let s := (List.range steps).foldl (fun s _ => writeLog s 0x0011 0xFFFF []) s
  let s := if s.pwr.longReset then writeLog s 0x000A 0xFFFF [] else s
  let s := (List.range s.pwr.maceHeldEpisodes).foldl (fun s _ => writeLog s 0x000B 0xFFFF []) s
  { s with
    per := { s.per with latches := s.per.latches.filter (fun e => !e.2.counted) }
    pwr := { s.pwr with longReset := false, maceHeldEpisodes := 0, canaryStep := false } }

/-! ## Step 13: service (R497, R509) -/

/-- Slice 0 exists from the end of start-up (R79, R81); over a warm start its state is kept (R94, R495). -/
def openSlice0 (s : State) : State :=
  updSlice s 0 (fun x => if x.st = .free then { x with st := .active, saffron := true, privileged := true, held := slice0Allot } else x)

/-- A retained submission of a ring is recovered; in a slice that is being ended, or has faulted, it ends (R509, R552). -/
def recoverHeld (s : State) (id : Nat) : State :=
  match jobOf s id with
  | none => s
  | some j =>
    if j.phase ≠ .recheck then s
    else if sliceServes (sliceOf s j.slice) ∨ j.unsure then recheckStamps s j
    else endWith s j { status := stoppedStatus (sliceOf s j.slice) }

/-- After a warm start every enabled ring goes on. -/
def resumeRings (s : State) : State :=
  let s := (s.jobs.map (·.id)).foldl recoverHeld s
  let s := (enabledRings s).foldl (fun s r => readDoorbell s r false true) s
  fetchPump ((s.slices.map (·.1)).foldl settleFault s)

/-- DONE: links come up, vector 0 is raised. -/
def reachDone (s : State) : State :=
  let p := s.pwr
  let p := { p with main := .up, startStep := 13, startDone := true, startTime := min (2 ^ 32 - 1) ((now s - p.releasedAt) / us 1), bstState := 0 }
  let s := openSlice0 { s with pwr := p }
  let s := if s.pwr.startKind = 2 then resumeRings s else s
  settle (notifyManager s 0)

/-- A firmware activation that a restart interrupted is repeated (R429 KIND 5). -/
def resumeActivation (s : State) (e : Nat × LPayload) : State :=
  match e.2 with
  | .intent 5 _ _ _ _ _ bank v _ =>
    if s.mgmt.runningBank = bank then enqueue (raiseFloor s (manifestBody s bank)) (.counter [(2, v)]) (.activateMoved e.1 bank)
    else activateBank s e.1 bank v
  | _ => s

/-- Steps 11 to 13; `absent` where this start found no root. -/
def finishStart (s : State) (absent : Bool) : State :=
  let s := if s.per.otpRetired then s else certifyMak s
  let s := { s with keys := { s.keys with lifecycle := computeLifecycle s } }
  let blank := s.keys.lifecycle == .blank || s.keys.lifecycle == .retired
  let s := { s with keys := { s.keys with sealMismatch := s.keys.smk.isNone && !blank } }
  let s := startLogs s absent
  let s := s.per.openIntents.foldl resumeActivation s
  if s.per.otpRetired then { s with pwr := { s.pwr with main := .up, startStep := 12, bstState := 0 } } else reachDone s

end Sys2Proof.Machine
end

