-- ==== Sys2Proof/Machine/StartCmds.lean ====
section
/-! DEFINITION. RST_N and the events of a start: its self-test, the wait for its precondition, the entropy source and the root
(R68 to R70, R346, R355, R407, R494 to R509, R523, R528, R538, R539). -/
namespace Sys2Proof.Machine

/-! ## RST_N (R69, R70, R497) -/

/-- RST_N_ASSERT (R69): below 100 ns ignored, from 1 us on a reset, between them one or the other. -/
def execRstNAssert (ns : Nat) (s : State) : Res :=
  if s.pwr.rstAsserted ∨ ns < 100 then .next s
  else if 1000 ≤ ns then .next (enterReset s)
  else
    let (n, s) := draw s
    .next (if Config.freeNat n % 2 = 1 then enterReset s else s)

/-- LONG_RESET (R70): the assertion lasts longer than 60 s. -/
def execLongReset (s : State) : Res :=
  .next (if s.pwr.rstAsserted then { s with pwr := { s.pwr with longReset := true } } else s)

/-- Steps 1 to 3: latches are counted and the kind of the start is decided; step 4 waits for its precondition. -/
def beginStart (s : State) : State :=
  let cold := s.pwr.coldNext || secureLatched s
  let s := freshState s
  if s.pwr.maceAsserted then startFailed (atStep s 1) 0x0B
  else
    let s := clearSecure (countTamper s)
    if cold then goCold s else { s with pwr := { s.pwr with startKind := 2 } }

/-- RST_N_RELEASE (R68, R497): with PWR_GOOD high and a supply for the always-on domain a start begins. -/
def execRstNRelease (s : State) : Res :=
  if !s.pwr.rstAsserted ∨ aonAbsent s then .next s else .next (beginStart s)

/-! ## Step 4 (R501, R502, R505) -/

/-- SELF_TEST_TIMEOUT (R501): 10 s without the precondition. -/
def execSelfTestTimeout (s : State) : Res :=
  if s.pwr.main = .precondition ∧ s.pwr.releasedAt + ms 10000 ≤ now s then .next (startFailed s 0x01) else .next s

/-- A region goes to the save area for its test, and is restored (R502). -/
def saveRegion (s : State) (u : SramUse) : State := { s with pwr := { s.pwr with saved := some u } }
def restoreRegion (s : State) : State := { s with pwr := { s.pwr with saved := none } }

/-- The self-test passes or fails; a parity error found in it makes the start cold (R496). -/
def selfTest (s : State) (io : StartIo) : State :=
  let s := sramUses.foldl (fun s u => restoreRegion (saveRegion s u)) s
  let passed := fun (s : State) (n : Nat) => { s with pwr := { s.pwr with bstState := 0, bstStartPass := BitVec.ofNat 6 (2 ^ n - 1) } }
  let s := if io.parityError ∧ s.pwr.startKind = 2 then goCold s else s
  match io.testFail with
  | some 0x02 => holdBoundary { s with pwr := { (passed s 0).pwr with main := .resetHold, startFail := 0x02, coldNext := true } }
  | some c => if 0x03 ≤ c ∧ c ≤ 0x07 then startFailed (passed s (c - 2)) c else passed s 6
  | none => passed s 6

/-! ## Steps 5 to 13 -/

/-- Steps 9 and 10 of a core that is not RETIRED: the root, the sources and their tests, and where enough sources are HEALTHY the
internal instance. -/
def startEntropy (s : State) (io : StartIo) : State :=
  let s := match rootOf s with
    | some r => takeRoot s r
    | none => { s with keys := { s.keys with did := [] } }
  let s := runKats (testSources (atStep s 10) io) io.katPass io.drbgKatPass
  if !(io.katPass && io.drbgKatPass) ∨ countSources s (fun x => x == .healthy || x == .testing) < s.ent.minSources then
    startFailed (setEntropy s .failed) 0x0A
  else
    let s := takeSerials s
    let s := if s.ent.minSources ≤ healthySources s then instantiateInternal s else s
    if s.ent.st = .available ∧ (rootOf s).isSome then finishStart s false
    else { s with pwr := { s.pwr with main := .rootWait, waitSince := now s } }

/-- Steps 5 to 13 (R497). -/
def runStart (s : State) (io : StartIo) : State :=
  let s := extendSlot s 0 bootRomDigest
  match chooseBank s io with
  | none => startFailed (atStep s 6) 0x08
  | some b =>
    let s := bootBank s b
    if ledgerFails s io then startFailed (atStep s 7) 0x09
    else
      let s := refreshBank (recoverLedger s io) b
      let s := commitStart (closeMeasurements (activateRoster s))
      if s.per.otpRetired then finishStart s (rootOf s).isNone else startEntropy s io

/-- SELF_TEST_PRECONDITION_MET (R497, R501): the start goes on from its self-test. -/
def execSelfTestPreconditionMet (start : StartIo) (s : State) : Res :=
  if s.pwr.main ≠ .precondition then .next s
  else
    let s := selfTest s start
    .next (if s.pwr.main = .precondition then runStart s start else s)

/-! ## The wait in step 10 (R346, R355, R407, R505) -/

/-- ROOT_DRAW (R407): AVAILABLE is reached and the root is drawn; after 100 ms without it the start fails. -/
def execRootDraw (s : State) : Res :=
  if s.pwr.main ≠ .rootWait ∨ (rootOf s).isSome then .next s
  else if internalReady s then
    let (n, s) := drawRandom s
    let r := randomBytes n 32
    .next (finishStart (instantiateInternal (takeRoot (writeRoot (wipeDrbg s 256) r) r)) true)
  else .next (if s.pwr.waitSince + ms 100 ≤ now s then startFailed s 0x0A else s)

/-- INTERNAL_RESEED (R346, R350, R352, R355): the internal instance takes a block and a serial; a start that waited for it goes
on. -/
def execInternalReseed (s : State) : Res :=
  if !mainOn s ∨ !internalDue s ∨ !internalOpen s then .next s
  else
    let s := reseedInternal s
    .next (if s.pwr.main = .rootWait ∧ s.ent.st = .available ∧ (rootOf s).isSome then finishStart s false else s)

end Sys2Proof.Machine
end

