-- ==== Sys2Proof/Machine/PowerCmds.lean ====
section
/-! DEFINITION. Supplies, shedding levels, monitors, light sensors, Mace, the battery and the always-on clock (R65 to R72, R514 to
R540). -/
namespace Sys2Proof.Machine

/-! ## Level Secure (R68, R520, R521, R539) -/

/-- The supplies as reported hold up the final commit (R68, R76). -/
def heldUp (s : State) : Bool := decide (600 ≤ s.pwr.vdd) && decide (1550 ≤ s.pwr.vddm)

/-- The record in progress is completed; without the hold-up of R68 it may be torn, and recovery discards a torn record (R76). -/
def finalCommit (s : State) : State :=
  if heldUp s then commitHead s
  else
    let (n, s) := draw s
    if Config.freeNat n % 2 = 1 then commitHead s else s

/-- Entry to level Secure: the record in progress is completed, keys go, the main domain is held, and the entry is latched. -/
def enterSecure (s : State) : State :=
  let s := finalCommit s
  let s := wipeAllDrbgs (wipeAllKeys (wipeRegisters { s with jobs := s.jobs.map wipeHandles }))
  let s := latch s 5 0
  holdBoundary { s with pwr := { s.pwr with main := .secureHold, level := .secure, coldNext := true } }

/-- PWR_GOOD_FALL (R68, R539): level Secure at once; in reset the fall is latched alone. -/
def execPwrGoodFall (s : State) : Res :=
  if !s.pwr.pwrGood then .next s
  else
    let s := { s with pwr := { s.pwr with pwrGood := false } }
    if mainOn s then .next (enterSecure s)
    else .next { latch s 5 0 with pwr := { s.pwr with coldNext := true } }

/-! ## Shedding levels (R514 to R518) -/

/-- The level that falling rails enter: the lowest whose entry condition holds (R516). -/
def levelBelow (vdd vddm : Nat) : Level :=
  if vdd < 640 ∨ vddm < 1620 then .secure
  else if vdd < 670 then .finish
  else if vdd < 700 then .essential
  else if vdd < 720 then .trim
  else .full

/-- The level that a rising VDD supports, 15 mV above each threshold (R515, R516). -/
def levelAbove (vdd : Nat) : Level :=
  if 735 ≤ vdd then .full
  else if 715 ≤ vdd then .trim
  else if 685 ≤ vdd then .essential
  else .finish

/-- Changes the level: parts parked now stay off work accepted from now on (R517, R518). -/
def setLevel (s : State) (l : Level) : State :=
  let p := s.pwr
  let na := s.sched.nextAccept
  let p := if p.level = .full then { p with parkedTrim := na } else p
  let p := if levelCode p.level < 2 then { p with parkedEssential := na } else p
  let p := match l with
    | .trim => { p with trimCount := satInc 32 p.trimCount }
    | .essential => { p with essentialCount := satInc 32 p.essentialCount }
    | .finish => { p with finishCount := satInc 32 p.finishCount }
    | .full | .secure => p
  notifyManager { s with pwr := { p with level := l, levelChanged := true } } 12

/-- The supplies as the monitors of VDD and VDDM see them. -/
def setRails (s : State) (vdd vddm : Nat) : State :=
  let s := setVdd s vdd
  { s with pwr := { s.pwr with vddm := vddm } }

/-- SHEDDING_LEVEL_DOWN (R515, R516): a falling condition has held for 10 us. -/
def execSheddingLevelDown (vdd vddm : Nat) (s : State) : Res :=
  if beyondMaximum vdd vddm 0 0 then .fault .beyondAbsoluteMaximum
  else
    let s := setRails s vdd vddm
    let l := levelBelow vdd vddm
    if !mainOn s ∨ levelCode l ≤ levelCode s.pwr.level then .next s
    else if l = .secure then .next (enterSecure s) else .next (setLevel s l)

/-- SHEDDING_LEVEL_UP (R515, R516): VDD has stayed 15 mV above a threshold for 10 us. -/
def execSheddingLevelUp (vdd vddm : Nat) (s : State) : Res :=
  if beyondMaximum vdd vddm 0 0 then .fault .beyondAbsoluteMaximum
  else
    let s := setRails s vdd vddm
    let l := levelAbove vdd
    if !mainOn s ∨ levelCode s.pwr.level ≤ levelCode l then .next s else .next (setLevel s l)

/-! ## Supplies (R65, R67, R519, R527 to R529) -/

/-- VDD_HIGH (R65): VDD above 0.90 V for 10 us; the episode is logged once. -/
def execVddHigh (mv : Nat) (s : State) : Res :=
  if beyondMaximum mv 0 0 0 then .fault .beyondAbsoluteMaximum
  else if !mainOn s ∨ mv ≤ 900 then .next s
  else
    let s := setVdd s mv
    let s := if s.pwr.vddOver then s else writeLog s Config.vddHighCode.toNat 0xFFFF (leBytes 2 mv)
    .next { s with pwr := { s.pwr with vddHigh := true, vddOver := true } }

/-- VAON_CHANGEOVER (R67, R72): VAON crosses 0.82 V; on battery MACE_N is not observed. -/
def execVaonChangeover (mv : Nat) (s : State) : Res :=
  if beyondMaximum 0 0 mv 0 then .fault .beyondAbsoluteMaximum
  else
    let battery := decide (mv < 820)
    .next (aonDown { s with pwr := { s.pwr with
      vaon := mv, onBattery := battery, maceAsserted := s.pwr.maceAsserted && !battery, maceCounted := s.pwr.maceCounted && !battery } })

/-- Place of a rail's monitor in PWR_MON_TEST (R588). -/
def railBit : Rail → Nat
  | .vdd => 0
  | .vddm => 1
  | .vaon => 2
  | .vbat => 3

/-- A self-test is due: none since the start, or 10 s after the last. -/
def testDue (s : State) (t : Tbl Nat) (n : Nat) : Bool :=
  match look? t n with
  | some a => decide (a + ms 10000 ≤ now s)
  | none => true

/-- MONITOR_SELF_TEST (R519): a supply monitor's self-test in service. -/
def execMonitorSelfTest (rail : Rail) (pass : Bool) (s : State) : Res :=
  let n := railBit rail
  if !serving s ∨ !testDue s s.pwr.monTestAt n then .next s
  else
    let bits := s.pwr.monTest
    let one := BitVec.ofNat 4 (2 ^ n)
    let s := { s with pwr := { s.pwr with
      monTestAt := put s.pwr.monTestAt n (now s), monTest := if pass then bits ||| one else bits &&& ~~~one
      monFail := s.pwr.monFail || !pass } }
    .next (if pass then s else notifyManager (writeLog s 0x0009 0xFFFF (leBytes 1 n)) 12)

/-- VBAT_LOW (R527): VBAT below 2.0 V for 1 s while VAON is present. -/
def execVbatLow (s : State) : Res :=
  if s.pwr.onBattery then .next s
  else
    let s := { s with pwr := { s.pwr with vbatLow := true } }
    .next (if mainOn s then notifyManager s 13 else s)

/-- AON_GAP (R529): the AON clock stopped for more than 1 ms; on battery that is a Class A alarm. -/
def execAonGap (s : State) : Res :=
  let s := latch s 4 0
  .next (if s.pwr.onBattery then classA s 4 else s)

/-- BATTERY_REMOVAL (R528): battery-backed memory and the always-on domain lose what they hold; the main domain is held in reset
(R67). -/
def execBatteryRemoval (s : State) : Res :=
  let r : Persist := { s.per with
    rootA := zeros 32, rootB := zeros 32, rootCheck := zeros 8, canary := zeros 32, latches := [], emgEntries := 0, emgAcked := 0, emergency := [] }
  let p : Power := { s.pwr with
    main := .inReset, rstAsserted := true, vaon := 0, vbat := 0, onBattery := false, maceAsserted := false, maceCounted := false
    maceHeldEpisodes := 0, longReset := false, coldNext := true, canaryLost := false, startFail := 0, lightNow := [], aonSince := s.clock.aon }
  .next (holdBoundary { s with per := r, pwr := p })

/-! ## Light (R524 to R526) -/

/-- Light on a sensor: latched, and a Class A alarm. -/
def lightSeen (s : State) (n : Nat) : State := classA (latch s 1 n) 1

/-- LIGHT_EVENT (R524, R525): under main power one report of one sensor. -/
def execLightEvent (sensor : Nat) (s : State) : Res :=
  if 96 ≤ sensor ∨ s.pwr.onBattery then .next s
  else .next (lightSeen { s with pwr := { s.pwr with lightNow := s.pwr.lightNow.filter (· != sensor) ++ [sensor] } } sensor)

/-- LIGHT_SAMPLE_WINDOW (R524, R525): on battery the sensors are watched for 20 us in every 250 ms. -/
def execLightSampleWindow (sensors : List Nat) (s : State) : Res :=
  if !s.pwr.onBattery then .next s
  else
    let seen := sensors.filter (fun n => decide (n < 96))
    let s := { s with pwr := { s.pwr with lightNow := seen } }
    match seen with
    | [] => .next s
    | n :: _ => .next (lightSeen s n)

/-- LIGHT_SENSOR_SELF_TEST (R526): three consecutive failures raise a Class A alarm. -/
def execLightSensorSelfTest (sensor : Nat) (pass : Bool) (s : State) : Res :=
  if 96 ≤ sensor ∨ s.pwr.onBattery ∨ !mainOn s ∨ !testDue s s.pwr.lightTestAt sensor then .next s
  else
    let p := { s.pwr with lightTestAt := put s.pwr.lightTestAt sensor (now s) }
    let rest := p.lightPass.filter (· != sensor)
    if pass then .next { s with pwr := { p with lightTries := put p.lightTries sensor 0, lightPass := rest ++ [sensor] } }
    else
      let n := look p.lightTries sensor 0 + 1
      let p := { p with lightTries := put p.lightTries sensor n, lightPass := rest, sensorFail := true }
      if n = 3 then
        let p := { p with lightFail := p.lightFail.filter (· != sensor) ++ [sensor] }
        .next (classA (latch { s with pwr := p } 3 sensor) 3)
      else .next { s with pwr := p }

/-! ## Mace (R71, R72, R536, R537) -/

/-- MACE_ASSERT (R71, R536): the debounced assertion edge; Mace is carried out once. -/
def execMaceAssert (s : State) : Res :=
  if s.pwr.maceAsserted ∨ s.pwr.onBattery ∨ aonAbsent s then .next s
  else .next (classA (latch { s with pwr := { s.pwr with maceAsserted := true, maceCounted := false } } 2 0) 2)

/-- MACE_RELEASE (R71, R537): the debounced release; the core stays in SAFE. -/
def execMaceRelease (s : State) : Res := .next { s with pwr := { s.pwr with maceAsserted := false, maceCounted := false } }

/-- MACE_HELD_EPISODE (R537): MACE_N asserted for more than 60 s; one episode for each assertion. -/
def execMaceHeldEpisode (s : State) : Res :=
  if s.pwr.maceAsserted ∧ !s.pwr.maceCounted then
    .next { s with pwr := { s.pwr with maceCounted := true, maceHeldEpisodes := s.pwr.maceHeldEpisodes + 1 } }
  else .next s

end Sys2Proof.Machine
end

