-- ==== Sys2Proof/Machine/FaultCmds.lean ====
section
/-! DEFINITION. SRAM parity errors, faults of core-wide parts, and the self-test of parts in service (R368, R496, R501, R503, R504,
R533, R545, R547, R548). -/
namespace Sys2Proof.Machine

/-! ## Parity (R533) -/

/-- SRAM_PARITY_ERROR (R533): a Class C alarm of the slice. -/
def execSramParityError (slice : Nat) (place : ParityPlace) (s : State) : Res :=
  let cause := match place with
    | .scratch => 0x20
    | .keySlot => 0x21
  if !serving s ∨ (sliceOf s slice).st = .free then .next s else .next (classC s cause slice)

/-! ## Parts (R542, R543, R546) -/

/-- Without Saffron lanes the store's work ends with STORE_UNAVAILABLE (R546). -/
def storeGone (s : State) : State :=
  if !kindGone s .saffron then s
  else abortBatch (abortGathering (dropSeals s (fun _ => true)) 0x0502) 0x0502

/-- CODEWORD_FAULT (R542, R543): a stage of a part finds both rails high. -/
def execCodewordFault (kind : Engine) (part : Nat) (s : State) : Res :=
  .next (if canFault s kind part then storeGone (partFault s kind part .codeword) else s)

/-- STALL_FAULT (R542, R543): a part's handshake has made no progress for 1 ms. A part without a job has none to make, and
one that waits for release or for the fabric makes progress. -/
def execStallFault (kind : Engine) (part : Nat) (s : State) : Res :=
  let stalls : Bool := match (partOf s kind part).busy.bind (jobOf s) with
    | some j => (j.phase == .operands && (missingMore s j).isEmpty) || j.phase == .computed
    | none => (partOf s kind part).own
  .next (if canFault s kind part ∧ stalls then storeGone (partFault s kind part .stall) else s)

/-! ## Core-wide parts (R547) -/

/-- A job on the key store engine is run again; nothing of it has taken effect. -/
def repeatKeyJob (s : State) (id : Nat) : State :=
  match jobOf s id with
  | none => s
  | some j =>
    match j.phase, j.part with
    | .fetching, some (.keyStore, _) | .operands, some (.keyStore, _) | .computed, some (.keyStore, _) | .finished, some (.keyStore, _) =>
      rerunJob s { j with recovered := true }
    | _, _ => s

/-- The key store recomputes its registers, keeps cached keys and repeats what it was doing. -/
def keyStoreFault (s : State) : State :=
  let s := recomputeRegisters (wipeRegisters s)
  recovered (restartKum ((s.jobs.map (·.id)).foldl repeatKeyJob s)) .keyStore

/-- The ledger engine writes the record in progress again; with none in progress it has recovered. -/
def ledgerFault (s : State) : State := if s.per.queue = [] then recovered s .ledger else s

/-- The entropy engine runs its known-answer tests before anything else. -/
def entropyFault (s : State) : State := { s with ent := { s.ent with katDue := true } }

/-- The pair restarts; the KIND it records for such a fault is open. -/
def managementFault (s : State) : State :=
  if s.mgmt.st ≠ .running then s
  else
    let (n, s) := draw s
    restartUnseen s (Config.freeNat n % 16)

/-- The faulty port, or the register port's datapath, is fenced. -/
def boundaryFault (s : State) (port : Option Nat) : State :=
  let s := match port with
    | some k => if k < 16 then rerunReads (fencePort s k (fun p => { p with datapathFault := true })) k else s
    | none => { s with pwr := { s.pwr with regPortFenced := true } }
  recovered s (.boundary port)

/-- CORE_WIDE_PART_FAULT (R547, R548). -/
def execCoreWidePartFault (part : CorePart) (s : State) : Res :=
  if !pastStart s then .next s
  else
    .next (coreFault s part (fun s => match part with
      | .keyStore => keyStoreFault s
      | .ledger => ledgerFault s
      | .entropy => entropyFault s
      | .management => managementFault s
      | .boundary p => boundaryFault s p))

/-! ## The self-test in service (R501, R503) -/

/-- VDD and junction temperature allow a test (R501). -/
def testRange (s : State) : Bool :=
  match s.mgmt.sample with
  | none => false
  | some x => decide (760 ≤ s.pwr.vdd) && decide (s.pwr.vdd ≤ 880) && decide (-160 ≤ (tjMax x).toInt) && decide ((tjMax x).toInt ≤ 760)

/-- Kinds that the rotation visits. -/
def rotates : Engine → Bool
  | .pepper | .saffron | .hash | .bignum | .lattice => true
  | .stateful | .keyStore | .entropy => false

/-- PART_TEST_START (R503): the next part of the rotation is fenced for its test, or the test waits. -/
def execPartTestStart (kind : Engine) (part : Nat) (s : State) : Res :=
  let x := partOf s kind part
  if !serving s ∨ !s.pwr.bstEnable ∨ !rotates kind ∨ engCount kind ≤ part ∨ partOut x then .next s
  else if s.pwr.level ≠ .full ∨ !testRange s then
    .next { s with pwr := { s.pwr with bstState := 3, bstDeferred := true, bstDefer := satInc 32 s.pwr.bstDefer } }
  else .next { setPart s kind part { x with test := .underTest } with pwr := { s.pwr with bstState := 2 } }

/-- PART_TEST_END (R503, R545): a part that passes returns to service, one that fails stays fenced. -/
def execPartTestEnd (kind : Engine) (part : Nat) (pass : Bool) (s : State) : Res :=
  let x := partOf s kind part
  if !mainOn s ∨ x.test ≠ .underTest ∨ x.busy.isSome ∨ x.own then .next s
  else
    let s := { s with pwr := { s.pwr with bstState := 0 } }
    if pass then
      .next (setPart s kind part { x with test := .passed, mayReturn := false, fence := if x.mayReturn then .inService else x.fence })
    else
      let s := setPart s kind part { x with test := .failed, mayReturn := false, fence := .failed }
      let s := { s with pwr := { s.pwr with bstPartFailed := true, bstFenced := satInc 32 s.pwr.bstFenced } }
      .next (storeGone <| sweepKind (notifyManager (writeLog s 0x0009 0xFFFF (leBytes 1 (engCode kind) ++ leBytes 1 part)) 8) kind)

end Sys2Proof.Machine
end

