-- ==== Sys2Proof/Machine/KeyOps.lean ====
section
/-! DEFINITION. The key-store opcodes but for the key update messages (R389 to R392, R398, R411, R590, R591): each runs for a submission whose current step it is. -/
namespace Sys2Proof.Machine

/-- KEY_WRAP (R390): Exports an exportable key wrapped under a WRAP_ONLY key. -/
def execKeyWrap (job : Nat) (s : State) : Res := runOp 0x0800 job s

/-- KEY_UNWRAP (R591): Imports a wrapped blob as a new volatile key after integrity and header checks. -/
def execKeyUnwrap (job : Nat) (s : State) : Res := runOp 0x0801 job s

/-- KEY_DERIVE (R590): Derives a new volatile key by KMAC under a DERIVE_ONLY key. -/
def execKeyDerive (job : Nat) (s : State) : Res := runOp 0x0802 job s

/-- KEY_DESTROY (R391): Overwrites and frees a volatile key's slots and ends its jobs. -/
def execKeyDestroy (job : Nat) (s : State) : Res := runOp 0x0803 job s

/-- KEY_INFO (R389): Writes a key's header and public encoding. -/
def execKeyInfo (job : Nat) (s : State) : Res := runOp 0x0804 job s

/-- KEY_GENERATE (R389): Generates a new volatile symmetric or generic key. -/
def execKeyGenerate (job : Nat) (s : State) : Res := runOp 0x0805 job s

/-- TRANSPORT_OFFER (R398): Writes a signed transport offer for the next key-admin counter value. -/
def execTransportOffer (job : Nat) (s : State) : Res := runOp 0x0809 job s

/-- ATTEST (R411): Writes a MAK-signed attestation record. -/
def execAttest (job : Nat) (s : State) : Res := runOp 0x080A job s

end Sys2Proof.Machine
end

