-- ==== Sys2Proof/Machine/Kum.lean ====
section
/-! DEFINITION. The operations of KUM_SUBMIT, one meaning a row (R400 to R410, R442, R444). -/
namespace Sys2Proof.Machine

/-- ENROL: OP 0x01 (R408, R409). -/
def execEnrol (job : Nat) (s : State) : Res := runKum 0x01 job s
/-- COMMISSION: OP 0x02 (R400). -/
def execCommission (job : Nat) (s : State) : Res := runKum 0x02 job s
/-- ROSTER: OP 0x03 (R394, R400). -/
def execRoster (job : Nat) (s : State) : Res := runKum 0x03 job s
/-- LOAD: OP 0x10 (R400). -/
def execLoad (job : Nat) (s : State) : Res := runKum 0x10 job s
/-- GENERATE: OP 0x11 (R400). -/
def execGenerate (job : Nat) (s : State) : Res := runKum 0x11 job s
/-- REPLACE: OP 0x12 (R400). -/
def execReplace (job : Nat) (s : State) : Res := runKum 0x12 job s
/-- DESTROY: OP 0x13 (R403, R404). -/
def execDestroy (job : Nat) (s : State) : Res := runKum 0x13 job s
/-- ACK_LOG: OP 0x20 (R444). -/
def execAckLog (job : Nat) (s : State) : Res := runKum 0x20 job s
/-- POLICY: OP 0x21 (R442). -/
def execPolicy (job : Nat) (s : State) : Res := runKum 0x21 job s
/-- RECOVER: OP 0x30 (R410). -/
def execRecover (job : Nat) (s : State) : Res := runKum 0x30 job s

end Sys2Proof.Machine
end

