-- ==== Sys2Proof/Machine/Lattice.lean ====
section
/-! DEFINITION. The lattice opcodes (R298 to R311): each runs for a submission whose current step it is. -/
namespace Sys2Proof.Machine

/-- MLKEM_KEYGEN (R304): ML-KEM key generation creating a volatile key. -/
def execMlkemKeygen (job : Nat) (s : State) : Res := runOp 0x0500 job s

/-- MLKEM_ENCAPS (R305): ML-KEM encapsulation with input key check. -/
def execMlkemEncaps (job : Nat) (s : State) : Res := runOp 0x0501 job s

/-- MLKEM_DECAPS (R305): ML-KEM decapsulation with implicit rejection. -/
def execMlkemDecaps (job : Nat) (s : State) : Res := runOp 0x0502 job s

/-- MLDSA_KEYGEN (R304): ML-DSA key generation. -/
def execMldsaKeygen (job : Nat) (s : State) : Res := runOp 0x0510 job s

/-- MLDSA_SIGN (R306): Hedged ML-DSA signing in blocks of attempt slots. -/
def execMldsaSign (job : Nat) (s : State) : Res := runOp 0x0511 job s

/-- MLDSA_VERIFY (R298): ML-DSA verification. -/
def execMldsaVerify (job : Nat) (s : State) : Res := runOp 0x0512 job s

/-- SLHDSA_KEYGEN (R308): SLH-DSA key generation. -/
def execSlhdsaKeygen (job : Nat) (s : State) : Res := runOp 0x0520 job s

/-- SLHDSA_SIGN (R308): SLH-DSA signing on a lattice unit with four hash lanes. -/
def execSlhdsaSign (job : Nat) (s : State) : Res := runOp 0x0521 job s

/-- SLHDSA_VERIFY (R308): SLH-DSA verification. -/
def execSlhdsaVerify (job : Nat) (s : State) : Res := runOp 0x0522 job s

/-- HYKEM_KEYGEN (R309): Hybrid KEM key generation. -/
def execHykemKeygen (job : Nat) (s : State) : Res := runOp 0x0540 job s

/-- HYKEM_ENCAPS (R310): Hybrid KEM encapsulation with the KMAC combiner. -/
def execHykemEncaps (job : Nat) (s : State) : Res := runOp 0x0541 job s

/-- HYKEM_DECAPS (R310): Hybrid KEM decapsulation with the KMAC combiner. -/
def execHykemDecaps (job : Nat) (s : State) : Res := runOp 0x0542 job s

end Sys2Proof.Machine
end

