-- ==== Sys2Proof/Machine/MdpCmds.lean ====
section
/-! DEFINITION. The measurement digest port: claiming, feeding, finishing and reading it, its locks and its idle limit (R240 to R251). -/
namespace Sys2Proof.Machine

/-! ## Algorithms (R241, R244) -/

def mdpBlock (alg : Nat) : Nat := if alg = 1 ∨ alg = 5 then 64 else if alg = 4 then 104 else 128
def mdpKeyed (alg : Nat) : Bool := decide (5 ≤ alg)
/-- HASH code of R267 of an HMAC ALG. -/
def mdpHash (alg : Nat) : Nat := alg - 3

/-- The result over a message, under the key of an HMAC. -/
def mdpDigest (alg : Nat) (key m : Bytes) : Bytes :=
  match alg with
  | 1 => sha2 .s256 m
  | 2 => sha2 .s384 m
  | 3 => sha2 .s512 m
  | 4 => sha3 48 m
  | _ => hmac (sha2Of (mdpHash alg)) key m

/-! ## Commands and their fields -/

def cmdOp (c : W32) : Nat := (c.extractLsb' 28 4).toNat
def cmdAlg (c : W32) : Nat := (c.extractLsb' 24 4).toNat
def cmdOwner (c : W32) : Nat := (c.extractLsb' 16 8).toNat
def cmdExtend (c : W32) : Bool := c.getLsbD 15
def cmdSlot (c : W32) : Nat := (c.extractLsb' 12 3).toNat
def cmdValid (c : W32) : Nat := (c.extractLsb' 0 3).toNat

/-- An access through a path: the register port answers ABSENT while it is guarded, and an access of the pair needs the main
domain. -/
def mdpAccess (path : Path) (s : State) (f : State → State) : State :=
  match path with
  | .regPort => if regGuarded s then guardAnswer s else f s
  | .pair => if mainOn s then f s else s
/-- The normal response. -/
def mdpOk (path : Path) (s : State) : State :=
  match path with
  | .regPort => emit s .regOk
  | .pair => s
/-- The bus error that answers misuse; on the internal path it stays inside. -/
def mdpError (path : Path) (s : State) : State :=
  match path with
  | .regPort => emit s .regBusError
  | .pair => s

def setMdp (s : State) (m : Mdp) : State := { s with mdp := m }

/-- Misuse: the port clears itself (R245). -/
def mdpMisuse (path : Path) (s : State) : State :=
  mdpError path (setMdp s { clearPort s.mdp with misuse := true, misuses := satInc 16 s.mdp.misuses })
/-- A refused command, counted. -/
def mdpRefused (path : Path) (s : State) (f : Mdp → Mdp) : State :=
  mdpOk path (setMdp s { f s.mdp with refusals := satInc 16 s.mdp.refusals })

/-- A party owns the open message. -/
def mdpOwned (s : State) (path : Path) (code : Nat) : Bool := s.mdp.owner == code && s.mdp.path == path
def mdpOpen (s : State) : Bool := s.mdp.st == .opened || s.mdp.st == .busy

/-! ## START (R242, R243, R251) -/

/-- An owner code of a path. -/
def ownerOk (path : Path) (code : Nat) : Bool :=
  match path with
  | .regPort => code == 0x01 || code == 0x02
  | .pair => code == 0x10

/-- An extend that R251 refuses. -/
def extendRefused (s : State) (c : W32) : Bool :=
  let n := cmdSlot c
  cmdExtend c && (cmdAlg c != 2 || (decide (4 ≤ n) && (cmdOwner c != 0x01 || s.mdp.lockBits.getLsbD (n - 4))) ||
    (decide (n < 4) && (cmdOwner c != 0x10 || s.mdp.closed.getLsbD n)))

/-- Takes a key's states through the HMAC state cache, storing them on a miss (R235, R243). -/
def useHmac (s : State) (k : Key) (code : Nat) : State :=
  match findHmac s k code with
  | (true, s) => s
  | (false, s) => storeHmac s k code

/-- What looking up the key of an HMAC START gives. -/
inductive MdpKeyed where
  | have (k : Key)
  | refused
  | loading
  deriving DecidableEq, Repr

/-- The key of an HMAC START under a handle: slice 0's, for MAC only, of the algorithm, and intact (R243). -/
def mdpKey (s : State) (alg h : Nat) : MdpKeyed × State :=
  match findKey s 0 h with
  | (.have k, s) =>
    if k.bad ∨ k.use ≠ 0x08 ∨ k.alg ≠ 0x10 ∨ k.param % 256 ≠ mdpHash alg then (.refused, s)
    else if !keyIntact s k then (.refused, keyDamaged s k)
    else (.have k, useHmac s k (mdpHash alg))
  | (.wait, s) => (.loading, s)
  | (.fail _, s) => (.refused, s)

/-- The port opens for a new owner; BUSY for the reason given. -/
def mdpClaim (s : State) (path : Path) (c : W32) (busy : Option MdpBusy) (key : Bytes) : State :=
  let m := clearPort s.mdp
  setMdp s { m with
    st := if busy.isSome then .busy else .opened, why := busy.getD .block, alg := cmdAlg c, owner := cmdOwner c, path := path
    extend := cmdExtend c, slot := cmdSlot c, lastWrite := now s, hmacKey := key }

/-- The port's message as it stands. -/
def mdpSaved (m : Mdp) : MdpPrior :=
  { st := m.st, why := m.why, alg := m.alg, owner := m.owner, path := m.path, extend := m.extend, slot := m.slot, message := m.message
    hmacKey := m.hmacKey, count := m.count, result := m.result, lastWrite := m.lastWrite }
/-- The port as it was before. -/
def mdpRestored (m : Mdp) (p : MdpPrior) : Mdp :=
  { m with st := p.st, why := p.why, alg := p.alg, owner := p.owner, path := p.path, extend := p.extend, slot := p.slot
           message := p.message, hmacKey := p.hmacKey, count := p.count, result := p.result, lastWrite := p.lastWrite, prior := none }

/-- An HMAC START: refused for its key, or BUSY, until the key is there where its record has still to be read (R243; log entry
174). -/
def mdpKeyStart (path : Path) (c : W32) (s : State) : State :=
  match mdpKey s (cmdAlg c) s.mdp.key.toNat with
  | (.refused, s) => mdpRefused path s (fun m => { m with keyFault := true })
  | (.have k, s) => mdpOk path (mdpClaim s path c (some .hmacStart) k.material)
  | (.loading, s) =>
    let p := mdpSaved (if s.mdp.prior.isSome then clearPort s.mdp else s.mdp)
    let s := mdpClaim s path c (some (.keyLoad c)) []
    mdpOk path (setMdp s { s.mdp with prior := some p, keyRead := s.mdp.key })

/-- The key of a START has been read, or turns out not to serve: the START is accepted, or refused with the port as it was. -/
def mdpKeyRead (s : State) (c : W32) : State :=
  match mdpKey s (cmdAlg c) s.mdp.keyRead.toNat with
  | (.loading, s) => s
  | (.have k, s) => setMdp s { s.mdp with why := .hmacStart, hmacKey := k.material, prior := none }
  | (.refused, s) =>
    let m := match s.mdp.prior with
      | some p => mdpRestored s.mdp p
      | none => clearPort s.mdp
    setMdp s { m with keyFault := true, refusals := satInc 16 m.refusals }

/-- START, a command with an undefined ALG among the undefined ones. -/
def mdpStart (path : Path) (c : W32) (s : State) : State :=
  if !ownerOk path (cmdOwner c) then mdpRefused path s (fun m => { m with ownerInvalid := true })
  else if mdpOpen s ∧ !mdpOwned s path (cmdOwner c) then mdpRefused path s (fun m => { m with ownerBusy := true })
  else if extendRefused s c then mdpRefused path s (fun m => { m with extRefused := true })
  else if cmdAlg c = 0 ∨ 7 < cmdAlg c then mdpOk path (setMdp s { s.mdp with cmdInvalid := true })
  else if mdpKeyed (cmdAlg c) then mdpKeyStart path c s
  else mdpOk path (mdpClaim s path c none [])

/-- MDP_START (R242, R243, R251). -/
def execMdpStart (path : Path) (cmd : W32) (s : State) : Res :=
  pathAccess path (.mdpStart path cmd) s (.next (if cmdOp cmd = 1 then mdpAccess path s (mdpStart path cmd) else s))

/-! ## DATA, FINAL, ABORT (R244 to R247) -/

/-- Appends a word, which may complete a block. -/
def mdpAppend (s : State) (w : W32) : State :=
  let m := s.mdp
  let n := m.count + 4
  setMdp s { m with
    message := m.message ++ leBytes 4 w.toNat, count := n, lastWrite := now s, why := .block
    st := if n % mdpBlock m.alg = 0 then .busy else .opened }

/-- A write of MDP_DATA. -/
def mdpWrite (path : Path) (w : W32) (s : State) : State :=
  let m := s.mdp
  if mdpOpen s ∧ m.path ≠ path then mdpOk path (setMdp s { m with ownerBusy := true })
  else if m.st ≠ .opened ∨ 2 ^ 32 - 1 < m.count + 4 then mdpMisuse path s
  else mdpOk path (mdpAppend s w)

/-- MDP_DATA (R244, R245). -/
def execMdpData (path : Path) (word : W32) (s : State) : Res :=
  pathAccess path (.mdpData path word) s (.next (mdpAccess path s (mdpWrite path word)))

/-- FINAL; a proper one has no effect in BUSY. -/
def mdpFinal (path : Path) (c : W32) (s : State) : State :=
  let m := s.mdp
  let v := cmdValid c
  if !mdpOpen s ∨ !mdpOwned s path (cmdOwner c) then mdpRefused path s (fun m => { m with ownerBusy := true })
  else if 4 < v ∨ (v = 0 ∧ m.count ≠ 0) ∨ (v ≠ 0 ∧ m.count = 0) then mdpMisuse path s
  else if m.st = .busy then mdpOk path s
  else mdpOk path (setMdp s { m with st := .busy, why := .final v, lastWrite := now s })

/-- MDP_FINAL (R245 to R247). -/
def execMdpFinal (path : Path) (cmd : W32) (s : State) : Res :=
  pathAccess path (.mdpFinal path cmd) s (.next (if cmdOp cmd = 2 then mdpAccess path s (mdpFinal path cmd) else s))

/-- ABORT: without effect in IDLE; in DONE the message has no owner any more. -/
def mdpAbort (path : Path) (c : W32) (s : State) : State :=
  if s.mdp.st = .idle then mdpOk path s
  else if mdpOpen s ∧ !mdpOwned s path (cmdOwner c) then mdpRefused path s (fun m => { m with ownerBusy := true })
  else mdpOk path (setMdp s (clearPort s.mdp))

/-- MDP_ABORT (R246). -/
def execMdpAbort (path : Path) (cmd : W32) (s : State) : Res :=
  pathAccess path (.mdpAbort path cmd) s (.next (if cmdOp cmd = 3 then mdpAccess path s (mdpAbort path cmd) else s))

/-- CMD_INVALID (R240, R241): an undefined CMD. -/
def execCmdInvalid (word : PathWord) (s : State) : Res :=
  pathAccess word.path (.cmdInvalid word.value) s (.next (if [1, 2, 3].contains (cmdOp word.value) then s
    else pathWrite word.path s (fun s => setMdp s { s.mdp with cmdInvalid := true })))

/-! ## The end of BUSY (R244, R247, R250, R251) -/

/-- Extends a measurement slot, unless it has been locked or closed meanwhile. -/
def mdpExtend (m : Mdp) (d : Bytes) : Mdp :=
  let n := m.slot
  if (decide (4 ≤ n) && m.lockBits.getLsbD (n - 4)) || (decide (n < 4) && m.closed.getLsbD n) then { m with extRefused := true }
  else
    { m with
      meas := put m.meas n (sha384 (fit 48 (look m.meas n []) ++ d))
      extCount := bump m.extCount n (2 ^ 32 - 1) }

/-- The message is finished: the result stands, and the owner is released. -/
def mdpDone (m : Mdp) (valid : Nat) : Mdp :=
  let n := if m.count = 0 then 0 else m.count - 4 + valid
  let d := mdpDigest m.alg m.hmacKey (m.message.take n)
  let x := if m.extend then mdpExtend m d else m
  { x with st := .done, owner := 0, path := .regPort, message := [], hmacKey := [], count := n, result := d, extend := false }

/-- MDP_BUSY_END (R244, R247). -/
def execMdpBusyEnd (s : State) : Res :=
  let m := s.mdp
  if !mainOn s ∨ m.st ≠ .busy then .next s
  else match m.why with
    | .block | .hmacStart => .next (setMdp s { m with st := .opened })
    | .final v => .next (setMdp s (mdpDone m v))
    | .keyLoad c => .next (mdpKeyRead s c)

/-- MDP_IDLE_LIMIT (R249): the owner has written nothing for the limit. -/
def execMdpIdleLimit (s : State) : Res :=
  let m := s.mdp
  if mainOn s ∧ mdpOpen s ∧ m.idleLimit ≠ 0 ∧ m.lastWrite + us m.idleLimit ≤ now s then
    .next (setMdp s { clearPort m with idleAbort := true })
  else .next s

/-! ## Locks and reads (R248, R251) -/

/-- MDP_EXT_LOCK_WRITE (R251): the first write sets the LOCK bits, a later one only LOCKED_WRITE. -/
def execMdpExtLockWrite (word : PathWord) (s : State) : Res :=
  pathAccess word.path (.mdpExtLockWrite word.value) s (.next (pathWrite word.path s (fun s =>
    if s.mdp.extLocked then { s with glb := { s.glb with lockedWrite := true } }
    else setMdp s { s.mdp with lockBits := word.value.extractLsb' 4 4, extLocked := true })))

/-- Word i of the result. -/
def resultAt (m : Mdp) (i : Nat) : W32 := BitVec.ofNat 32 (field m.result (4 * i) 4)

/-- MDP_RESULT_READ (R248): too early a read gives zero and sets EARLY_READ. -/
def execMdpResultRead (path : Path) (index : Nat) (s : State) : Res :=
  let early : Bool := mdpOpen s
  let s1 := if early then setMdp s { s.mdp with earlyRead := true } else s
  let v := if s.mdp.st = .done then resultAt s.mdp index else 0
  pathAccess path (.mdpResultRead path index) s (.next (mdpAccess path s (fun _ => match path with
    | .regPort => emit s1 (.regValue v)
    | .pair => s1)))

end Sys2Proof.Machine
end

