-- ==== Sys2Proof/Machine/MirrorMsg.lean ====
section
/-! DEFINITION. Mirror messages received: their form, their tags and signatures, joining, and which row of the table takes which
message (R555 to R560, R569). -/
namespace Sys2Proof.Machine

/-! ## The charter (R555) -/

/-- A charter cut into its parts. -/
structure Charter where
  body : Bytes
  rosterGen : Nat
  n : Nat
  align : Bool
  leaseMs : Nat
  dids : List Bytes
  sigs : List (Nat × Bytes)
  deriving DecidableEq, Repr

/-- Byte strings in ascending order. -/
def ascending : List Bytes → Bool
  | a :: b :: r => decide (beNat a < beNat b) && ascending (b :: r)
  | _ => true

/-- Signature entries that fill a section exactly, 1 to 32 of them. -/
def sigSection (b : Bytes) : Option (List (Nat × Bytes)) := (List.range 32).findSome? (fun i => parseSigs (i + 1) b)

def parseCharter (b : Bytes) : Option Charter :=
  let c := b.take 448
  let n := field c 0x0C 1
  let fl := field c 0x0D 1
  let lease := field c 0x0E 2
  let all := (List.range 8).map (fun i => subBytes c (0x40 + 48 * i) 48)
  if b.length < 448 ∨ c.take 8 ≠ ascii "PRDMGRP1" ∨ n < 2 ∨ 8 < n ∨ 1 < fl ∨ lease < 50 ∨ 5000 < lease ∨
      !allZero (subBytes c 0x10 48) ∨ !ascending (all.take n) ∨ !(all.drop n).all allZero then none
  else (sigSection (b.drop 448)).map (fun sigs =>
    { body := c, rosterGen := field c 8 4, n := n, align := bit fl 0, leaseMs := lease, dids := all.take n, sigs := sigs })

/-- M officers of the ACTIVE roster have signed the charter. -/
def charterSigned (s : State) (c : Charter) : Bool :=
  match activeRoster s with
  | none => false
  | some r =>
    (sigFault (ascii "PERAND-MIRGRP-V1") r.image r.floors c.body [] c.sigs).isNone && decide (rosterQuorum r.image ≤ c.sigs.length)

/-! ## Offers (R556, R557) -/

/-- The offered KEM pair of set 0x34 from its 120 random bytes. -/
def offerPair (b : Bytes) : Bytes × Bytes × Bytes := transportPair (b.take 56) (b.drop 56)
/-- CONFIG_DIGEST of this core. -/
def groupConfig (s : State) : Bytes := sha384 (measOf s 2 ++ measOf s 3 ++ s.mir.groupId)

/-- Body of a JOIN_OFFER. -/
def offerBody (s : State) (key : Bytes) (n : Nat) : Bytes :=
  attestRecord s {} (attestView s) n ++ zeros 5 ++ groupConfig s ++ leBytes 4 (counterOf s 2) ++ zeros 4 ++ (offerPair key).2.2 ++ zeros 7

/-- Sends a JOIN_OFFER with a body, and remembers its digest. -/
def offerAgain (s : State) (i : Nat) (body : Bytes) : State :=
  let d := sha384 (mirHeader s 0x01 i body.length ((peerOf s i).ctrOut + 1) ++ body)
  let s := noteAsk (mirSendSigned s i 0x01 body) i 0x01 body
  setPeer s i { peerOf s i with offerDigests := (peerOf s i).offerDigests ++ [d] }

/-- Sends a JOIN_OFFER with a fresh key. -/
def sendOffer (s : State) (i : Nat) : State :=
  let (n, s) := drawRandom s
  let (m, s) := drawRandom s
  let key := randomBytes n 120
  let s := setPeer s i { peerOf s i with offerKey := key, offerDigests := [] }
  offerAgain s i (offerBody s key m)

/-- The pair key of two members from the secret of their encapsulation (R557). -/
def pairKey (s : State) (i : Nat) (secret : Bytes) : Bytes :=
  let did := fun (k : Nat) => s.mir.dids.getD k []
  kmac256 secret (did (min s.mir.own i) ++ did (max s.mir.own i) ++ s.mir.groupId) 32 (ascii "PERAND-MIRPAIR-1")

/-- A pair key is formed: the counters of the pair begin, and the first one makes the core a member. -/
def formPair (s : State) (i : Nat) (key : Bytes) : State :=
  let s := setPeer s i { peerOf s i with
    key := some key, ctrOut := 0, ctrIn := 0, offerKey := [], offerDigests := [], unanswered := [] }
  if s.mir.st = .joining then
    setMirror { s with mir := { s.mir with joinedAt := now s, lastHeartbeat := now s } } .member
  else s

/-! ## The form of a message (R558 to R560) -/

/-- A received message cut into its parts. -/
structure Msg where
  type : Nat
  sender : Nat
  ctr : Nat
  term : Nat
  group : Bytes
  body : Bytes
  /-- Header and body, as the tag or signature covers them. -/
  signed : Bytes
  tag : Bytes
  deriving DecidableEq, Repr

def msgTypes : List Nat := [0x01, 0x02, 0x03, 0x10, 0x11, 0x12, 0x20, 0x21, 0x22, 0x23, 0x24, 0x25, 0x30, 0x31, 0x40, 0x50]

/-- BODY_LEN of a type (R560). -/
def bodyLen (type : Nat) (body : Bytes) : Nat :=
  match type with
  | 0x01 => 14536
  | 0x02 => 1720
  | 0x03 => 56
  | 0x10 | 0x25 => 16
  | 0x11 | 0x12 | 0x22 | 0x23 | 0x24 | 0x40 => 24
  | 0x20 => 32
  | 0x21 => 40
  | 0x30 | 0x50 => 8
  | _ => 8 + up8 (field body 0 4) + field body 4 4

/-- Reserved bytes of a body, offset and length. -/
def reservedBytes (type : Nat) (body : Bytes) : List (Nat × Nat) :=
  match type with
  | 0x01 => [(0x3203, 5), (0x323C, 4), (0x38C1, 7)]
  | 0x02 => [(0x681, 7)]
  | 0x03 | 0x22 | 0x50 => [(1, 7)]
  | 0x11 | 0x12 => [(0x11, 7)]
  | 0x20 => [(1, 3), (0x14, 4)]
  | 0x21 => [(2, 2), (0x14, 4)]
  | 0x24 => [(1, 3)]
  | 0x31 => [(8 + field body 0 4, up8 (field body 0 4) - field body 0 4)]
  | _ => []

/-- The MAK signs JOIN_OFFER and JOIN_REFUSED; every other message has a tag. -/
def isSigned (type : Nat) : Bool := type == 0x01 || type == 0x03

/-- A message for this core whose form is right; none for one to be discarded. -/
def parseMsg (s : State) (b : Bytes) : Option Msg :=
  let type := field b 8 1
  let sender := field b 9 1
  let len := field b 0x0C 4
  let body := subBytes b 64 len
  if b.length < 64 ∨ b.take 8 ≠ ascii "PRDMIRR1" ∨ !msgTypes.contains type ∨ field b 0x0B 1 ≠ 0 ∨ !allZero (subBytes b 0x30 16) ∨
      b.length ≠ 64 + len + (if isSigned type then 4723 else 32) ∨ len ≠ bodyLen type body ∨
      !(reservedBytes type body).all (fun r => allZero (subBytes body r.1 r.2)) ∨
      field b 0x0A 1 ≠ s.mir.own ∨ sender = s.mir.own ∨ s.mir.n ≤ sender then none
  else some { type := type, sender := sender, ctr := field b 0x10 8, term := field b 0x18 8, group := subBytes b 0x20 16, body := body
              signed := b.take (64 + len), tag := b.drop (64 + len) }

/-- What becomes of a message. -/
inductive Heard where
  /-- Accepted and processed. -/
  | taken
  /-- Accepted, with a disagreement of R569. -/
  | refused (reason : Nat)
  /-- Discarded and counted. -/
  | dropped (reason : Nat)
  /-- It waits for the store, the ledger or the key store. -/
  | stay
  deriving DecidableEq, Repr

def countTaken (s : State) : State := { s with mir := { s.mir with accepted := s.mir.accepted + 1 } }
def countDropped (s : State) : State := { s with mir := { s.mir with discarded := s.mir.discarded + 1 } }

/-- The tag, the counter and the term let a tagged message be accepted (R558). -/
def tagAccepts (s : State) (m : Msg) : Bool :=
  let p := peerOf s m.sender
  (match p.key with
   | some k => mirTag k m.signed == m.tag
   | none => false) && decide (p.ctrIn < m.ctr) && decide (s.mir.term ≤ m.term) && m.group == fit 16 s.mir.groupId
/-- An accepted message moves the counter of its direction and the highest term. -/
def noteMsg (s : State) (m : Msg) : State :=
  let s := setPeer s m.sender { peerOf s m.sender with ctrIn := m.ctr }
  countTaken { s with mir := { s.mir with term := max s.mir.term m.term } }

/-- Hears a tagged message. -/
def hearTagged (f : State → Msg → Heard × State) (s : State) (m : Msg) : Heard × State :=
  if !tagAccepts s m then (.dropped 0, s)
  else match f (noteMsg s m) m with
    | (.stay, t) => (.stay, { t with mir := s.mir })
    | r => r

/-! ## Which row takes a message (R559, R561) -/

/-- Runs the next MIRROR_GIVE for the row of a message type; one that no row's type matches is discarded by any row. -/
def giveRow (type : Nat) (f : State → Msg → Heard × State) (io : MbxIo) (s : State) : Res :=
  match mbxNext s with
  | none => .next s
  | some (i, q) =>
    let bad := fun (n : Nat) => ({ code := rBadParam, data := [BitVec.ofNat 32 n] } : Ans)
    if q.cmd ≠ 0x0703 then .next s
    else if reportsOnly s then .next (finishReq s i { code := rWrongState })
    else if argsFrom q 1 then .next (finishReq s i (bad 0))
    else match readInput s q.param (argOf q 0) io.read with
      | (.fail a, s) => .next (finishReq s i a)
      | (.data b, t) =>
        if msgTypes.contains (field b 8 1) ∧ field b 8 1 ≠ type then .next s
        else match if inGroup s then parseMsg s b else none with
          | none => .next (finishReq (countDropped t) i (bad 0))
          | some m =>
            match f t m with
            | (.taken, s) => .next (finishReq s i { code := rOk })
            | (.refused n, s) => .next (finishReq s i (bad n))
            | (.dropped n, s) => .next (finishReq (countDropped s) i (bad n))
            | (.stay, _) => .next s

end Sys2Proof.Machine
end

