-- ==== Sys2Proof/Machine/MirrorJoin.lean ====
section
/-! DEFINITION. Joining a mirror group: the join messages, and the mirror mailbox commands (R555 to R557, R561, R567, R569, R571). -/
namespace Sys2Proof.Machine

/-! ## MIRROR_JOIN (R556) -/

/-- The group that a charter makes, on a core that joins it; what stood before in the outbound queue and the counts stays. -/
def joinMirror (s : State) (c : Charter) (own : Nat) : Mirror :=
  { st := .joining, own := own, n := c.n, leaseMs := c.leaseMs, cadAlign := c.align, rosterGen := c.rosterGen
    groupId := sha384 c.body, dids := c.dids, joinedAt := now s, lastHeartbeat := now s, outbound := s.mir.outbound
    accepted := s.mir.accepted, discarded := s.mir.discarded, blocksGranted := s.mir.blocksGranted, lastVector := s.mir.lastVector }

/-- Joins a group: values are issued from granted blocks only from now on, and every other member gets a JOIN_OFFER. -/
def joinGroup (s : State) (c : Charter) (own : Nat) : State :=
  let s := skipBlocks s
  let s := notifyManager { s with mir := joinMirror s c own } 14
  (others s).foldl sendOffer s

/-- Checks and runs a MIRROR_JOIN. -/
def mirrorJoin (io : MbxIo) (q : Req) (s : State) : Ran × State :=
  if argsFrom q 1 then (.reply { code := rBadParam }, s)
  else match readInput s q.param (argOf q 0) io.read with
    | (.fail a, s) => (.reply a, s)
    | (.data b, s) =>
      match parseCharter b with
      | none => (.reply { code := rBadParam }, s)
      | some c =>
        match c.dids.findIdx? (· == fit 48 s.keys.did) with
        | none => (.reply { code := rBadParam }, s)
        | some own =>
          if s.keys.lifecycle ≠ .service ∨ inGroup s ∨ counterOf s 1 ≠ c.rosterGen ∨ !charterSigned s c then
            (.reply { code := rBadParam }, s)
          else if entropyDown s then (.reply { code := rWrongState }, s)
          else (.reply { code := rOk }, joinGroup s c own)

/-- MIRROR_JOIN (R555, R556). -/
def execMirrorJoin (io : MbxIo) (s : State) : Res :=
  if seedPending s then .next s else runMailbox 0x0700 anyReq (mirrorJoin io) s

/-! ## MIRROR_LEAVE, MIRROR_TAKE, MIRROR_STATUS (R561, R571) -/

/-- MIRROR_LEAVE (R561, R571). -/
def execMirrorLeave (s : State) : Res :=
  runMailbox 0x0701 anyReq (fun q s =>
    if argsFrom q 0 then (.reply { code := rBadParam }, s)
    else if !inGroup s then (.reply { code := rWrongState }, s)
    else (.reply { code := rOk }, leaveGroup s 0)) s

/-- The first messages that fit a buffer whole, and how many bytes they take. -/
def fitting : Nat → List Bytes → List Bytes
  | _, [] => []
  | n, m :: r => if m.length ≤ n then m :: fitting (n - m.length) r else []

/-- Runs a MIRROR_TAKE; messages stay after a failed write. -/
def mirrorTake (io : MbxIo) (q : Req) (s : State) : Ran × State :=
  if argsFrom q 1 then (.reply { code := rBadParam }, s)
  else match outputFault s q.param (argOf q 0) with
    | some a => (.reply a, s)
    | none =>
      let ms := fitting (argOf q 0) s.mir.outbound
      let b := ms.flatten
      match writeOutput s q.param b io.write { code := rOk, data := [BitVec.ofNat 32 ms.length, BitVec.ofNat 32 b.length] } with
      | (r, t) =>
        if io.write = .ok then (r, { t with mir := { t.mir with outbound := t.mir.outbound.drop ms.length } }) else (r, t)

/-- MIRROR_TAKE (R561). -/
def execMirrorTake (io : MbxIo) (s : State) : Res := runMailbox 0x0702 anyReq (mirrorTake io) s

/-- Code of the group state (R561). -/
def mirrorCode : MirSt → Nat
  | .none => 0
  | .joining => 1
  | .member => 2
  | .leader => 3

/-- The status block of 64 bytes. -/
def mirrorStatus (s : State) : Bytes :=
  let m := s.mir
  let leader := match m.leader with
    | some l => l
    | none => 0xFF
  let flags := b2n m.skew + 2 * b2n m.behind + 4 * b2n (inGroup s && m.cadAlign && !m.skew)
  let c0 := if m.st = .leader then keyAdmin s else m.leaderCounter0
  leBytes 1 (mirrorCode m.st) ++ leBytes 1 m.own ++ leBytes 1 (joinedMap s) ++ leBytes 1 leader ++ leBytes 1 flags ++ zeros 3 ++
    leBytes 8 m.term ++ leBytes 8 c0 ++ leBytes 8 (m.offset % (2 : Int) ^ 64).toNat ++ leBytes 8 m.accepted ++ leBytes 8 m.discarded ++
    leBytes 8 m.blocksGranted ++ zeros 8

/-- MIRROR_STATUS (R561). -/
def execMirrorStatus (io : MbxIo) (s : State) : Res :=
  runMailbox 0x0705 anyReq (fun q s => reportBlock q io 64 mirrorStatus s) s

/-! ## MIRROR_JOURNAL (R567) -/

/-- The state of a record as the leader holds it: PRESENT, GENERATION, MAT_LEN, material. None while the store is read. -/
def carriedState (s : State) (k : Kum) : Option Bytes × State :=
  let absent := [0] ++ zeros 23
  if !([0x10, 0x11, 0x12, 0x13].contains k.op) then (some absent, s)
  else match findRecord s k.record with
    | (.wait, s) => (none, s)
    | (.have r, s) =>
      let smk0 := match s.keys.smk with
        | some (a, _) => a
        | none => []
      match if bit r.flags 4 then none else openRecord smk0 r with
      | some m => (some ([1] ++ zeros 7 ++ leBytes 8 r.generation ++ leBytes 2 m.length ++ zeros 6 ++ m), s)
      | none => (some absent, s)
    | (_, s) => (some absent, s)

/-- The key under which the state is encrypted. -/
def journalKey (pair : Bytes) : Bytes := kmac256 pair [] 32 (ascii "PERAND-MIRENC-V1")
/-- The IV of a message. -/
def journalIv (ctr : Nat) : Bytes := leBytes 8 ctr ++ zeros 4

/-- Queues a JOURNAL_ENTRY for a member. -/
def sendJournal (s : State) (i : Nat) (kum state : Bytes) : State :=
  let p := peerOf s i
  match p.key with
  | none => s
  | some k =>
    let n := up8 kum.length
    let h := mirHeader s 0x31 i (8 + n + state.length + 16) (p.ctrOut + 1)
    let (c, t) := gcmEnc (journalKey k) (journalIv (p.ctrOut + 1)) h state
    mirSend s i 0x31 (leBytes 4 kum.length ++ leBytes 4 (state.length + 16) ++ fit n kum ++ c ++ t)

/-- Checks and runs a MIRROR_JOURNAL; none while the store is read. -/
def mirrorJournal (io : MbxIo) (q : Req) (s : State) : Option Ans × State :=
  if argsFrom q 2 ∨ 262144 < argOf q 0 then (some { code := rBadParam }, s)
  else if s.mir.st ≠ .leader then (some { code := rWrongState }, s)
  else match readInput s q.param (argOf q 0) io.read with
    | (.fail a, s) => (some a, s)
    | (.data b, s) =>
      match parseKum b with
      | none => (some { code := rBadParam }, s)
      | some k =>
        if !(joinedPeers s).contains (argOf q 1) ∨ keyAdmin s < k.counter then (some { code := rBadParam }, s)
        else match carriedState s k with
          | (none, s) => (none, s)
          | (some st, s) => (some { code := rOk }, sendJournal s (argOf q 1) b st)

/-- MIRROR_JOURNAL (R561, R567). -/
def execMirrorJournal (io : MbxIo) (s : State) : Res :=
  match mbxNext s with
  | none => .next s
  | some (i, q) =>
    if q.cmd ≠ 0x0704 then .next s
    else if reportsOnly s then .next (finishReq s i { code := rWrongState })
    else match mirrorJournal io q s with
      | (some a, s) => .next (finishReq s i a)
      | (none, s) => .next s

/-! ## Join messages (R556, R557, R569) -/

/-- The KEM public key of a JOIN_OFFER's body. -/
def offeredKey (body : Bytes) : Bytes := subBytes body 0x3240 1665
/-- The MAK certificate of a JOIN_OFFER's body, and the DID of its attestation record. -/
def offeredCert (body : Bytes) : Bytes := subBytes body 0x210 7547
def offeredDid (body : Bytes) : Bytes := subBytes body 0x10 48
/-- The MAK public key of a certificate. -/
def certMak (c : Bytes) : Bytes := subBytes c 0x80 2689

def joinLabel : Bytes := ascii "PERAND-MIRJOIN-1"
/-- Both parts of a MAK signature on a join message verify. -/
def joinSigned (pub : Bytes) (m : Msg) : Bool :=
  let p := hybridParts pub joinLabel m.signed m.tag
  p.1 && p.2

/-- The offer's signature and its MAK certificate hold. -/
def offerVerifies (m : Msg) : Bool :=
  let c := offeredCert m.body
  c.take 8 == ascii "PRDMAKC1" && subBytes c 8 48 == offeredDid m.body && Config.makCertOk (offeredDid m.body) c && joinSigned (certMak c) m

/-- The disagreement of a verified offer, if any. -/
def offerReason (s : State) (m : Msg) : Option Nat :=
  if m.group ≠ fit 16 s.mir.groupId ∨ s.mir.dids.getD m.sender [] ≠ offeredDid m.body then some 3
  else if subBytes m.body 0x3208 48 ≠ groupConfig s then some 1
  else if field m.body 0x3238 4 ≠ counterOf s 2 % 2 ^ 32 then some 2
  else none

/-- Answers with JOIN_REFUSED. -/
def refuseOffer (s : State) (m : Msg) (reason : Nat) : State :=
  mirSendSigned s m.sender 0x03 (leBytes 1 reason ++ zeros 7 ++ sha384 m.signed)

/-- Answers with JOIN_ACCEPT: a repeated offer gets the ciphertext it had, a new one a fresh pair key; none for a key that the core
rejects. -/
def acceptOffer (s : State) (m : Msg) : Option State :=
  let p := peerOf s m.sender
  let pub := offeredKey m.body
  let answer := fun (s : State) (ct : Bytes) => mirSend s m.sender 0x02 (fit 1665 ct ++ zeros 7 ++ sha384 m.signed)
  if p.key.isSome ∧ p.offerSeen = pub then some (answer s p.acceptCt)
  else
    let (n, s) := drawRandom s
    match hykemEncaps 0x34 pub n with
    | none => none
    | some (ct, sec) =>
      let s := setPeer s m.sender { peerOf s m.sender with offerSeen := pub, acceptCt := ct }
      some (answer (formPair s m.sender (pairKey s m.sender sec)) ct)

/-- The offer of a lower index is answered by this core's own offer: a new key means that the member joined anew. -/
def meetOffer (s : State) (m : Msg) : State :=
  let p := peerOf s m.sender
  let pub := offeredKey m.body
  if p.offerSeen = pub then s
  else
    let s := setPeer s m.sender { p with offerSeen := pub, key := if p.offerSeen = [] then p.key else none }
    let q := peerOf s m.sender
    if q.key.isSome ∨ q.unanswered.any (fun a => a.type == 0x01) then s else sendOffer s m.sender

/-- A JOIN_OFFER. -/
def hearOffer (s : State) (m : Msg) : Heard × State :=
  if !offerVerifies m then (.dropped 4, s)
  else if entropyDown s then (.dropped 0, s)
  else if seedPending s then (.stay, s)
  else
    let t := countTaken (setPeer s m.sender { peerOf s m.sender with makPub := certMak (offeredCert m.body) })
    match offerReason s m with
    | some r => (.refused r, refuseOffer t m r)
    | none =>
      if s.mir.own < m.sender then
        match acceptOffer t m with
        | some t => (.taken, t)
        | none => (.dropped 0, s)
      else (.taken, meetOffer t m)

/-- JOIN_OFFER (R556, R569). -/
def execJoinOffer (io : MbxIo) (s : State) : Res := giveRow 0x01 hearOffer io s

/-- A JOIN_ACCEPT: the secret gives the pair key, under which its own tag must verify. -/
def hearAccept (s : State) (m : Msg) : Heard × State :=
  let p := peerOf s m.sender
  if s.mir.own ≤ m.sender ∨ p.offerKey = [] ∨ !p.offerDigests.contains (subBytes m.body 0x688 48) ∨ m.group ≠ fit 16 s.mir.groupId then
    (.dropped 0, s)
  else
    let o := offerPair p.offerKey
    match hykemOpen 0x34 o.1 o.2.1 o.2.2 (m.body.take 1665) with
    | none => (.dropped 0, s)
    | some sec =>
      let t := formPair s m.sender (pairKey s m.sender sec)
      if tagAccepts t m then (.taken, noteMsg t m) else (.dropped 0, s)

/-- JOIN_ACCEPT (R557). -/
def execJoinAccept (io : MbxIo) (s : State) : Res := giveRow 0x02 hearAccept io s

/-- A JOIN_REFUSED: the pair is not formed, and the offer is not repeated. -/
def hearRefused (s : State) (m : Msg) : Heard × State :=
  let p := peerOf s m.sender
  if p.makPub = [] ∨ !joinSigned p.makPub m ∨ !p.offerDigests.contains (subBytes m.body 8 48) then (.dropped 0, s)
  else (.taken, countTaken (dropAsks s m.sender (fun a => a.type == 0x01)))

/-- JOIN_REFUSED (R569). -/
def execJoinRefused (io : MbxIo) (s : State) : Res := giveRow 0x03 hearRefused io s

end Sys2Proof.Machine
end

