-- ==== Sys2Proof/Machine/MirrorLease.lean ====
section
/-! DEFINITION. Leadership in a mirror group: leases, heartbeats, time offsets, and the group's timers (R558, R560 to R563, R569,
R571). -/
namespace Sys2Proof.Machine

/-! ## Times (R562) -/

/-- LEASE_MS, and its eighths and quarters, in TREF units. -/
def leaseTicks (s : State) : Nat := ms s.mir.leaseMs
/-- 0.999 of LEASE_MS. -/
def leaseHeld (s : State) : Nat := 99900 * s.mir.leaseMs
/-- The grant this core holds out, while it lasts. -/
def grantHeld (s : State) : Option (Nat × Nat × Nat) :=
  match s.mir.grant with
  | some g => if now s < g.2.2 then some g else none
  | none => none
/-- LEASE_MS has passed since the core joined. -/
def settledIn (s : State) : Bool := decide (s.mir.joinedAt + leaseTicks s ≤ now s)

/-! ## Claims and leases (R562, R563) -/

/-- Starts a round of LEASE_REQUESTs, with this core's own vote. -/
def requestLeases (s : State) : State :=
  let s := { s with mir := { s.mir with requestedAt := now s, votes := [s.mir.own] } }
  (joinedPeers s).foldl (fun s i =>
    let s := setPeer s i { peerOf s i with leaseCtr := (peerOf s i).ctrOut + 1 }
    mirAsk s i 0x10 (leBytes 8 (keyAdmin s) ++ leBytes 8 (now s))) s

/-- Sends a HEARTBEAT to every joined member. -/
def sendHeartbeats (s : State) : State :=
  (joinedPeers s).foldl (fun s i =>
    mirSend s i 0x12 (leBytes 8 (keyAdmin s) ++ leBytes 8 (now s) ++ leBytes 1 (joinedMap s) ++ zeros 7)) s

/-- Gives up a claim. -/
def withdrawClaim (s : State) : State := dropAllAsks { s with mir := { s.mir with candidate := false, votes := [] } } [0x10]

/-- The leader's lease ends. -/
def stepDown (s : State) : State :=
  if s.mir.st ≠ .leader then s
  else
    let s := setMirror { s with mir := { s.mir with leader := .none, votes := [], granters := [], granting := [], lastHeartbeat := now s } } .member
    dropAllAsks s [0x10, 0x21, 0x24]

/-- A counter 0 is heard: a leader that sees one above its own ends its lease at once (R563). -/
def hearCounter (s : State) (i c : Nat) : State :=
  let s := setPeer s i { peerOf s i with counter0 := c }
  if keyAdmin s < c then stepDown s else s

/-- A candidate with a majority becomes the leader; its own requests for blocks are granted by itself. -/
def becomeLeader (s : State) (leaseEnd : Nat) : State :=
  let jobs := s.jobs.map (fun (j : Job) => { j with heldSince := none })
  let m : Mirror := { s.mir with
    candidate := false, leader := some s.mir.own, leaseEnd := leaseEnd, granters := s.mir.votes, looked := [], granting := []
    leaderCounter0 := keyAdmin s, behind := false, offset := 0, skew := false }
  let s := setMirror { s with jobs := jobs, mir := m } .leader
  let s := sendHeartbeats (dropAllAsks s [0x20, 0x30, 0x40])
  s.mir.asking.foldl (fun s a => startGrant s s.mir.own a.1 a.2.1 a.2.2.1 a.2.2.2.1 a.2.2.2.2) s

/-- A majority of votes gives or renews the lease, until 0.999 LEASE_MS after the request was sent. -/
def countVotes (s : State) : State :=
  let e := s.mir.requestedAt + leaseHeld s
  if s.mir.votes.length < majority s ∨ e ≤ now s then s
  else if s.mir.st = .leader then { s with mir := { s.mir with leaseEnd := e, granters := s.mir.votes } }
  else becomeLeader s e

/-- A member follows a leader: requests that waited for one go to it. -/
def followLeader (s : State) (l : Nat) : State :=
  if s.mir.leader = some l then s
  else
    let s := dropAllAsks { s with mir := { s.mir with leader := some l } } [0x20, 0x30, 0x40]
    s.mir.asking.foldl (fun s a =>
      mirAsk s l 0x20 (leBytes 1 a.2.1 ++ zeros 3 ++ leBytes 4 a.2.2.1 ++ leBytes 8 a.2.2.2.1 ++ leBytes 4 a.2.2.2.2 ++ zeros 4 ++
        leBytes 8 a.1)) s

/-- Answers a LEASE_REQUEST. -/
def answerLease (s : State) (m : Msg) (yes : Bool) : State :=
  let s := if yes then
      { s with mir := { s.mir with grant := some (m.term, m.sender, now s + leaseTicks s), grantedTerm := m.term } }
    else s
  mirSend s m.sender 0x11 (leBytes 8 (keyAdmin s) ++ leBytes 8 m.ctr ++ leBytes 1 (b2n yes) ++ zeros 7)

/-- The lease may be granted: one a term, none beside another grant, to no candidate below this core's counter 0, and not before
LEASE_MS after joining. -/
def mayGrant (s : State) (m : Msg) : Bool :=
  let same : Bool := match grantHeld s with
    | some g => g.2.1 == m.sender
    | none => false
  settledIn s && decide (keyAdmin s ≤ field m.body 0 8) && (same || (grantHeld s).isNone) &&
    (decide (s.mir.grantedTerm < m.term) || (same && s.mir.grantedTerm == m.term))

/-- A LEASE_REQUEST (R562, R563). -/
def hearLeaseRequest (s : State) (m : Msg) : Heard × State :=
  let s := hearCounter s m.sender (field m.body 0 8)
  if s.mir.st = .leader then (.taken, answerLease s m false)
  else if s.mir.candidate then
    if m.sender < s.mir.own ∧ s.mir.grantedTerm ≤ m.term then
      let s := withdrawClaim s
      let s := { s with mir := { s.mir with
        grantedTerm := min s.mir.grantedTerm (m.term - 1), noClaimUntil := now s + 2 * leaseTicks s } }
      (.taken, answerLease s m (mayGrant s m))
    else (.taken, answerLease s m false)
  else (.taken, answerLease s m (mayGrant s m))

/-- LEASE_REQUEST (R562). -/
def execLeaseRequest (io : MbxIo) (s : State) : Res := giveRow 0x10 (hearTagged hearLeaseRequest) io s

/-- A LEASE_GRANT for a request of the present round. -/
def hearLeaseGrant (s : State) (m : Msg) : Heard × State :=
  let s := hearCounter s m.sender (field m.body 0 8)
  let current : Bool := (s.mir.candidate || s.mir.st == .leader) && decide ((peerOf s m.sender).leaseCtr ≤ field m.body 8 8)
  if !current then (.taken, s)
  else
    let s := dropAsks s m.sender (fun a => a.type == 0x10)
    if field m.body 0x10 1 ≠ 1 ∨ s.mir.votes.contains m.sender then (.taken, s)
    else (.taken, countVotes { s with mir := { s.mir with votes := s.mir.votes ++ [m.sender] } })

/-- LEASE_GRANT (R562). -/
def execLeaseGrant (io : MbxIo) (s : State) : Res := giveRow 0x11 (hearTagged hearLeaseGrant) io s

/-- A HEARTBEAT: its sender is the leader, unless this core holds the lease of a later term itself. -/
def hearHeartbeat (s : State) (m : Msg) : Heard × State :=
  let s := hearCounter s m.sender (field m.body 0 8)
  let s := if s.mir.st = .leader ∧ s.mir.grantedTerm < m.term then stepDown s else s
  if s.mir.st = .leader then (.taken, s)
  else
    let s := if s.mir.candidate then withdrawClaim s else s
    let s := { s with mir := { s.mir with lastHeartbeat := now s, leaderCounter0 := field m.body 0 8 } }
    (.taken, judgeBehind (followLeader s m.sender))

/-- HEARTBEAT (R562, R568, R569). -/
def execHeartbeat (io : MbxIo) (s : State) : Res := giveRow 0x12 (hearTagged hearHeartbeat) io s

/-! ## TIME and LEAVE (R560, R569, R571) -/

/-- Takes a reply's offset; above 1 ms sets SKEW, with a log record and vector 14. -/
def takeOffset (s : State) (t1 t2 t3 : Nat) : State :=
  let t4 := now s
  let o : Int := ((t2 : Int) - t1 + ((t3 : Int) - t4)) / 2
  let skew : Bool := decide (ms 1 < o.natAbs)
  let s := { s with mir := { s.mir with offset := o, skew := skew } }
  if skew then notifyManager (writeLog s Config.skewCode.toNat 0xFFFF (leBytes 8 o.natAbs)) 14 else s

/-- A TIME request on the leader, or a reply on the member that asked. -/
def hearTime (s : State) (m : Msg) : Heard × State :=
  let t1 := field m.body 0 8
  let t2 := field m.body 8 8
  let t3 := field m.body 16 8
  if s.mir.st = .leader then
    if t2 = 0 ∧ t3 = 0 then (.taken, mirSend s m.sender 0x40 (leBytes 8 t1 ++ leBytes 8 (now s) ++ leBytes 8 (now s))) else (.taken, s)
  else if s.mir.leader = some m.sender ∧ (t2 ≠ 0 ∨ t3 ≠ 0) then
    (.taken, takeOffset (dropAsks s m.sender (fun a => a.type == 0x40)) t1 t2 t3)
  else (.taken, s)

/-- TIME (R560, R569). -/
def execTime (io : MbxIo) (s : State) : Res := giveRow 0x40 (hearTagged hearTime) io s

/-- A LEAVE: the pair is gone, with what the leader was granting to that member. -/
def hearLeave (s : State) (m : Msg) : Heard × State :=
  let s := setPeer s m.sender {}
  let leader := if s.mir.leader = some m.sender then none else s.mir.leader
  (.taken, { s with mir := { s.mir with
    leader := leader, granting := s.mir.granting.filter (fun (g : Granting) => g.requester != m.sender) } })

/-- LEAVE (R571). -/
def execLeave (io : MbxIo) (s : State) : Res := giveRow 0x50 (hearTagged hearLeave) io s

/-! ## Timers -/

/-- Time after which a member claims: LEASE_MS and an eighth for each index, from the last heartbeat or its own last claim. -/
def claimAt (s : State) : Nat :=
  max s.mir.lastHeartbeat (if s.mir.candidate then s.mir.requestedAt else 0) + leaseTicks s + 12500 * s.mir.leaseMs * s.mir.own

/-- HEARTBEAT_TIMEOUT (R562): a member that has seen no heartbeat becomes a candidate for a higher term. -/
def execHeartbeatTimeout (s : State) : Res :=
  if !serving s ∨ s.mir.st ≠ .member ∨ now s < claimAt s ∨ !settledIn s ∨ now s < s.mir.noClaimUntil ∨ (grantHeld s).isSome then .next s
  else
    let t := s.mir.term + 1
    .next (requestLeases { s with mir := { s.mir with term := t, grantedTerm := t, candidate := true, leader := .none } })

/-- LEASE_RENEWAL (R562): the leader renews its lease every LEASE_MS / 4, and sends its heartbeats. -/
def execLeaseRenewal (s : State) : Res :=
  if !serving s ∨ s.mir.st ≠ .leader ∨ now s < s.mir.requestedAt + 25000 * s.mir.leaseMs then .next s
  else .next (sendHeartbeats (requestLeases s))

/-- LEASE_EXPIRY (R562): the core stops acting as leader. -/
def execLeaseExpiry (s : State) : Res :=
  if s.mir.st = .leader ∧ s.mir.leaseEnd ≤ now s then .next (stepDown s) else .next s

/-- GRANT_EXPIRY (R562): a grant lapses. -/
def execGrantExpiry (s : State) : Res :=
  if s.mir.grant.isSome ∧ (grantHeld s).isNone then .next { s with mir := { s.mir with grant := .none } } else .next s

/-- Sends one request again; times and counters in it are those of now. -/
def repeatAsk (i : Nat) (s : State) (a : Ask) : State :=
  match a.type with
  | 0x01 => if internalReady s then offerAgain s i a.body else s
  | 0x10 => mirAsk s i 0x10 (leBytes 8 (keyAdmin s) ++ leBytes 8 (now s))
  | 0x30 => mirAsk s i 0x30 (leBytes 8 (keyAdmin s))
  | 0x40 => mirAsk s i 0x40 (leBytes 8 (now s) ++ zeros 16)
  | t => mirAsk s i t a.body

/-- MESSAGE_REPEAT (R558): requests to a peer unanswered for LEASE_MS / 4 go out again. -/
def execMessageRepeat (peer : Nat) (s : State) : Res :=
  if !serving s ∨ !inGroup s then .next s
  else .next (((peerOf s peer).unanswered.filter (fun a => decide (a.sentAt + 25000 * s.mir.leaseMs ≤ now s))).foldl (repeatAsk peer) s)

/-- TIME_REQUEST_TIMER (R560): once per second a member asks the leader for its time. -/
def execTimeRequestTimer (s : State) : Res :=
  match s.mir.leader with
  | none => .next s
  | some l =>
    if !serving s ∨ s.mir.st ≠ .member ∨ now s < s.mir.timeAskedAt + ms 1000 then .next s
    else .next (mirAsk { s with mir := { s.mir with timeAskedAt := now s } } l 0x40 (leBytes 8 (now s) ++ zeros 16))

/-- MIRROR_VECTOR_WINDOW (R561): 10 us after vector 14, messages still wait. -/
def execMirrorVectorWindow (s : State) : Res :=
  match s.mir.lastVector with
  | none => .next s
  | some t => if mainOn s ∧ s.mir.outbound ≠ [] ∧ t + us 10 ≤ now s then .next (mirrorVector s) else .next s

end Sys2Proof.Machine
end

