-- ==== Sys2Proof/Machine/MirrorBlocks.lean ====
section
/-! DEFINITION. Reserve blocks and key administration in a mirror group: the block and journal messages, and descriptors that waited
too long (R564, R565, R567, R568). -/
namespace Sys2Proof.Machine

/-! ## Blocks (R564, R565) -/

/-- The leader's lease stands. -/
def leads (s : State) : Bool := s.mir.st == .leader && decide (now s < s.mir.leaseEnd)

/-- KIND of a block message. -/
def blockKind (k : Nat) : Bool := k == 1 || k == 2

/-- A BLOCK_REQUEST on the leader. -/
def hearBlockRequest (s : State) (m : Msg) : Heard × State :=
  let b := m.body
  if leads s ∧ blockKind (field b 0 1) ∧ field b 0x10 4 ≠ 0 then
    (.taken, startGrant s m.sender (field b 0x18 8) (field b 0 1) (field b 4 4) (field b 8 8) (field b 0x10 4))
  else (.taken, s)

/-- BLOCK_REQUEST (R564). -/
def execBlockRequest (io : MbxIo) (s : State) : Res := giveRow 0x20 (hearTagged hearBlockRequest) io s

/-- A BLOCK_RECORD: the new end goes into this core's next batch; a repeat of one that waits changes nothing. -/
def hearBlockRecord (s : State) (m : Msg) : Heard × State :=
  let b := m.body
  let due : Bool := s.mir.acksDue.any (fun x => x.1 == m.sender && x.2.1 == field b 1 1 && x.2.2.1 == field b 0x18 8)
  if due ∨ !blockKind (field b 0 1) then (.taken, s)
  else match findPair s (field b 4 4) (field b 8 8) with
    | (.wait, s) => (.stay, s)
    | (.fail _, s) => (.taken, s)
    | (.at p, s) =>
      if versionsGone s then (.taken, s)
      else if !batchRoom s p.index then (.stay, s)
      else (.taken, commitEnd s m.sender (field b 1 1) (field b 0x18 8) (field b 0 1) (field b 4 4) (field b 8 8) (field b 0x10 4)
        (field b 0x20 8))

/-- BLOCK_RECORD (R564). -/
def execBlockRecord (io : MbxIo) (s : State) : Res := giveRow 0x21 (hearTagged hearBlockRecord) io s

/-- A BLOCK_ACK on the leader. -/
def hearBlockAck (s : State) (m : Msg) : Heard × State :=
  let b := m.body
  let s := dropAsks s m.sender (fun a => a.type == 0x21 && field a.body 1 1 == field b 0 1 && field a.body 0x18 8 == field b 8 8)
  if leads s then (.taken, ackGrant s m.sender (field b 0 1) (field b 8 8) (field b 16 8)) else (.taken, s)

/-- BLOCK_ACK (R564). -/
def execBlockAck (io : MbxIo) (s : State) : Res := giveRow 0x22 (hearTagged hearBlockAck) io s

/-- A BLOCK_GRANT for a request of this member opens the block. -/
def hearBlockGrant (s : State) (m : Msg) : Heard × State :=
  let b := m.body
  let id := field b 0 8
  match s.mir.asking.find? (fun x => x.1 == id) with
  | none => (.taken, s)
  | some x =>
    let s := dropAsks s m.sender (fun a => a.type == 0x20 && field a.body 0x18 8 == id)
    let s := { s with mir := { s.mir with asking := s.mir.asking.filter (fun x => x.1 != id) } }
    (.taken, blockOpens s x.2.2.1 x.2.2.2.1 (field b 8 8) (field b 16 8))

/-- BLOCK_GRANT (R564). -/
def execBlockGrant (io : MbxIo) (s : State) : Res := giveRow 0x23 (hearTagged hearBlockGrant) io s

/-- An END_LOOKUP: the member answers with its committed end, zero for none. -/
def hearEndLookup (s : State) (m : Msg) : Heard × State :=
  let b := m.body
  match findPair s (field b 4 4) (field b 8 8) with
  | (.wait, s) => (.stay, s)
  | (.fail _, s) => (.taken, s)
  | (.at p, s) =>
    let e := max p.committedEnd (groupEnd s.mir (field b 0 1) (field b 4 4) (field b 8 8))
    (.taken, mirSend s m.sender 0x25 (leBytes 8 (field b 16 8) ++ leBytes 8 e))

/-- END_LOOKUP (R565). -/
def execEndLookup (io : MbxIo) (s : State) : Res := giveRow 0x24 (hearTagged hearEndLookup) io s

/-- An END_REPLY on the leader. -/
def hearEndReply (s : State) (m : Msg) : Heard × State :=
  let id := field m.body 0 8
  let s := dropAsks s m.sender (fun a => a.type == 0x24 && field a.body 16 8 == id)
  if leads s then (.taken, endHeard s m.sender id (field m.body 8 8)) else (.taken, s)

/-- END_REPLY (R565). -/
def execEndReply (io : MbxIo) (s : State) : Res := giveRow 0x25 (hearTagged hearEndReply) io s

/-! ## The journal (R567) -/

/-- A JOURNAL_REQUEST: the leader hears the member's counter 0. -/
def hearJournalRequest (s : State) (m : Msg) : Heard × State := (.taken, hearCounter s m.sender (field m.body 0 8))

/-- JOURNAL_REQUEST (R567). -/
def execJournalRequest (io : MbxIo) (s : State) : Res := giveRow 0x30 (hearTagged hearJournalRequest) io s

/-- The KUM and the carried state of a JOURNAL_ENTRY, decrypted under the pair key. -/
def openJournal (s : State) (m : Msg) : Option Journal :=
  let n := field m.body 0 4
  let l := field m.body 4 4
  let x := subBytes m.body (8 + up8 n) l
  match (peerOf s m.sender).key with
  | none => none
  | some k =>
    let key := journalKey k
    let c := x.take (l - 16)
    let iv := journalIv m.ctr
    if l < 40 ∨ gcmTag key iv (m.signed.take 64) c ≠ x.drop (l - 16) then none
    else
      let b := gcmCtr key iv c
      let p := field b 0 1
      if 1 < p ∨ !allZero (subBytes b 1 7) ∨ !allZero (subBytes b 0x12 6) ∨ b.length ≠ 24 + p * field b 0x10 2 then none
      else some { kum := subBytes m.body 8 n, present := p == 1, generation := field b 8 8, material := b.drop 24 }

/-- A JOURNAL_ENTRY from the leader. -/
def hearJournalEntry (s : State) (m : Msg) : Heard × State :=
  if s.mir.leader ≠ some m.sender ∨ s.mir.st = .leader then (.taken, s)
  else match openJournal s m with
    | none => (.taken, s)
    | some g =>
      match startJournal s g with
      | (none, s) => (.stay, s)
      | (some s, _) => (.taken, dropAsks s m.sender (fun a => a.type == 0x30))

/-- JOURNAL_ENTRY (R567). -/
def execJournalEntry (io : MbxIo) (s : State) : Res := giveRow 0x31 (hearTagged hearJournalEntry) io s

/-! ## Descriptors that waited for 1 s (R565, R568) -/

/-- A held submission ends: one not yet accepted is accepted and completed at once (R12), a recovered one whose step waits fails
there. -/
def endHeld (s : State) (j : Job) : State :=
  let e : Ending := { status := stNoRight, sub := 0x0145 }
  if j.phase = .waiting then
    let j := { j with bad := some e }
    tryAdmit (setJob s j) j
  else failStep s j e

/-- One second has passed. -/
def heldLong (s : State) (since : Option Nat) : Bool :=
  match since with
  | some t => decide (t + ms 1000 ≤ now s)
  | none => false

/-- BLOCK_GRANT_TIMEOUT (R565). -/
def execBlockGrantTimeout (job : Nat) (s : State) : Res :=
  match jobOf s job with
  | some j =>
    if serving s ∧ heldLong s j.blockSince ∧ (j.phase = .waiting ∨ j.phase = .operands) then .next (endHeld s j) else .next s
  | none => .next s

/-- BEHIND_HOLD_TIMEOUT (R568). -/
def execBehindHoldTimeout (job : Nat) (s : State) : Res :=
  match jobOf s job with
  | some j => if serving s ∧ heldLong s j.heldSince ∧ j.phase = .waiting then .next (endHeld s j) else .next s
  | none => .next s

end Sys2Proof.Machine
end

