-- ==== Sys2Proof/Machine/Ordinal.lean ====
section
/-! DEFINITION. The stateful and ordinal opcodes (R312 to R331): each runs for a submission whose current step it is. -/
namespace Sys2Proof.Machine

/-- HBS_SIGN (R319): Stateful hash-based signing under an index from a committed reserve block. -/
def execHbsSign (job : Nat) (s : State) : Res := runOp 0x0601 job s

/-- HBS_VERIFY (R316): Stateful hash-based signature verification. -/
def execHbsVerify (job : Nat) (s : State) : Res := runOp 0x0602 job s

/-- HBS_STATUS (R315): Reports a stateful key's index state. -/
def execHbsStatus (job : Nat) (s : State) : Res := runOp 0x0603 job s

/-- ORD_SIGN (R325): Builds and signs an ordinal record under the next ordinal of the pair. -/
def execOrdSign (job : Nat) (s : State) : Res := runOp 0x0900 job s

/-- ORD_QUERY (R323): Returns the next ordinal of a pair. -/
def execOrdQuery (job : Nat) (s : State) : Res := runOp 0x0901 job s

/-- ORD_TARGET_CONFIG (R329): Sets a pair's block size through the next store batch. -/
def execOrdTargetConfig (job : Nat) (s : State) : Res := runOp 0x0902 job s

/-- ORD_CHECK (R330): Checks an ordinal record and raises a monotonic counter to its ordinal. -/
def execOrdCheck (job : Nat) (s : State) : Res := runOp 0x0903 job s

end Sys2Proof.Machine
end

