-- ==== Sys2Proof/Machine/Registers.lean ====
section
/-! DEFINITION. The register port: which offsets hold registers, what each register reads, what a write to each does, and the reads
that latch (R8, R49, R79, R182, R241, R361, R481, R504, R508, R540, R554, R572 to R588). -/
namespace Sys2Proof.Machine

/-! ## The window (R572) -/

/-- Spans of the window: first offset and the offset after the last. -/
def regSpans : List (Nat × Nat) :=
  [(0x0000, 0x0280), (0x1000, 0x1300), (0x2000, 0x2800), (0x3000, 0x30C0), (0x3100, 0x3160), (0x3200, 0x32A0), (0x3300, 0x33A0),
   (0x3400, 0x3480), (0x3500, 0x3560), (0x4000, 0x5800)]

/-- An offset lies in a span. -/
def inSpan (off : Nat) : Bool := regSpans.any (fun r => decide (r.1 ≤ off) && decide (off < r.2))
/-- An offset holds a register: an aligned slot of a span (R573). -/
def holdsReg (off : Nat) : Bool := off % 4 == 0 && inSpan off

/-- A word from field values and their lowest bits. -/
def wordOf (l : List (Nat × Nat)) : W32 := BitVec.ofNat 32 ((l.map (fun x => x.1 * 2 ^ x.2)).sum)
/-- A word from single bits and their places. -/
def bitsOf (l : List (Bool × Nat)) : W32 := wordOf (l.map (fun x => (b2n x.1, x.2)))
def lo32 (n : Nat) : W32 := BitVec.ofNat 32 n
def hi32 (n : Nat) : W32 := BitVec.ofNat 32 (n / 2 ^ 32)
/-- Replaces one half of a 64-bit value. -/
def setLo (n : Nat) (v : W32) : Nat := n / 2 ^ 32 * 2 ^ 32 + v.toNat
def setHi (n : Nat) (v : W32) : Nat := n % 2 ^ 32 + v.toNat * 2 ^ 32
/-- A bit that a W1C write leaves. -/
def keeps (b : Bool) (v : W32) (i : Nat) : Bool := b && !v.getLsbD i
/-- A fixed part of a word as a number. -/
def part (v : W32) (start len : Nat) : Nat := (v.extractLsb' start len).toNat

/-! ## _LO and _HI pairs (R576) -/

/-- Value of an RO pair by the offset of its _LO register; none where the offset is no such register. -/
def pairValue (s : State) (off : Nat) : Option Nat :=
  if off = 0x80 then some (now s)
  else if off = 0x3010 then some s.mdp.count
  else if off = 0x313C then some s.ent.blocks
  else if off = 0x3268 then some s.mgmt.trapPc.toNat
  else if off = 0x3270 then some s.mgmt.trapSp.toNat
  else if off = 0x342C then
    let l : Latch := look s.per.latches s.pwr.latchSel {}
    some (l.kind + 2 ^ 8 * b2n l.counted + 2 ^ 16 * l.again + 2 ^ 24 * l.sensor + 2 ^ 32 * l.seconds)
  else if 0x4000 ≤ off ∧ off < 0x5800 ∧ (off - 0x4000) % 0x18 = 0x10 then
    match (sliceOf s ((off - 0x4000) / 0x18)).record with
    | some r => some (r.seq + 2 ^ 48 * r.epoch)
    | none => some 0
  else none

/-- The latched upper half for a path. -/
def latchedHi (s : State) (path : Path) (off : Nat) : W32 :=
  match path with
  | .regPort => look s.glb.hiPort off 0
  | .pair => look s.glb.hiPair off 0
/-- Latches the upper half of a pair for a path. -/
def latchHi (s : State) (path : Path) (off n : Nat) : State :=
  match path with
  | .regPort => { s with glb := { s.glb with hiPort := put s.glb.hiPort off (hi32 n) } }
  | .pair => { s with glb := { s.glb with hiPair := put s.glb.hiPair off (hi32 n) } }

/-! ## What registers read -/

/-- Jobs of the older generation remain (CFG_STATUS.OLD_DRAINING). -/
def oldDraining (s : State) : Bool := s.cfg.old.isSome && olderJobs s

def cadCode : CadSt → Nat
  | .stopped => 0
  | .waiting => 1
  | .running => 2
  | .late => 3

def startStatus (p : Power) : W32 :=
  wordOf [(p.startKind, 30), (p.startStep, 24), (p.startFail, 16), (p.prevFail, 8), (b2n p.startLong, 1), (b2n p.startDone, 0)]

/-- The kind and number of a part register's selection. -/
def selectedPart (s : State) (sel : Nat) : Option Part :=
  ([Engine.pepper, .saffron, .hash, .bignum, .lattice].find? (fun e => engCode e == sel / 256 && decide (sel % 256 < engCount e))).map
    (fun e => partOf s e (sel % 256))

def fenceCode : FenceSt → Nat
  | .inService => 0
  | .codeword => 1
  | .stall => 2
  | .failed => 3
def testCode : TestSt → Nat
  | .untested => 0
  | .passed => 1
  | .failed => 2
  | .underTest => 3
/-- Fenced parts of a kind. -/
def fencedOf (s : State) (e : Engine) : Nat := (List.range (engCount e)).countP (fun n => (partOf s e n).fence != .inService)

/-- Slice 0's window k in the staged configuration. -/
def stagedWindow (s : State) (k : Nat) : Window := (look s.cfg.staged.windows 0 []).getD k {}

/-- GLB_, CFG_ and TB_ registers. -/
def readGlb (s : State) (path : Path) (off : Nat) : W32 :=
  let g := s.glb
  let c := (ringOf s g.cadSel).cad
  match off with
  | 0x00 => 0x50441000
  | 0x04 => 0x10000100
  | 0x08 => 0x01000020
  | 0x0C => 0x00800080
  | 0x10 => 0x00200100
  | 0x14 => 0x10000100
  | 0x18 => wordOf [(lifecycleCode s.keys.lifecycle, 29), (b2n g.s0Bound, 5), (b2n s.keys.sealMismatch, 4), (b2n (pollStretched s), 3),
                    (b2n g.trefLost, 2)]
  | 0x1C => wordOf [(g.hmacTagFails, 24), (g.ridDiscards, 16), (b2n g.dupResponse, 2), (b2n g.unmapped, 1), (b2n g.lockedWrite, 0)]
  | 0x20 => lo32 s.irq.mgrEvent.toNat
  | 0x24 => lo32 g.s0Bind.toNat
  | 0x28 => lo32 s.cfg.staged.vecBase
  | 0x2C => hi32 s.cfg.staged.vecBase
  | 0x30 => g.rctxLo
  | 0x34 => g.rctxHi
  | 0x38 => lo32 s.irq.errCount
  | 0x64 => bitsOf [(s.cfg.commitRefused, 4), (s.cfg.commitError, 3), (oldDraining s, 2), (s.cfg.pendingCommit.isSome, 1)]
  | 0x68 => s.cfg.cur.gen
  | 0x6C => s.cfg.errOffset
  | 0x80 => lo32 (now s)
  | 0x84 => latchedHi s path 0x80
  | 0x8C => lo32 g.cadT0
  | 0x90 => hi32 g.cadT0
  | 0x94 => lo32 g.cadSel
  | 0x98 => wordOf [(cadCode c.st, 30), (b2n c.cmdIgnored, 3), (b2n c.startRepeated, 2), (b2n c.stopWithoutStart, 1), (b2n c.cadenceLost, 0)]
  | 0x9C => lo32 c.periods
  | 0xA0 => lo32 (c.debt / us 1)
  | 0xA4 => lo32 c.lost
  | 0xA8 => lo32 g.gridSel
  | 0xAC => lo32 (gridEntry s.cfg.staged g.gridSel)
  | 0xB0 => lo32 (look s.sched.gridOvr g.gridSel 0)
  | 0xC0 => startStatus s.pwr
  | 0xC4 => lo32 s.pwr.startTime
  | 0x100 => lo32 g.partSel
  | 0x104 =>
    match selectedPart s g.partSel with
    | some p => wordOf [(fenceCode p.fence, 30), (p.faults, 0)]
    | none => 0
  | 0x108 => wordOf [(fencedOf s .pepper, 16), (fencedOf s .saffron, 8), (fencedOf s .hash, 0)]
  | 0x10C => wordOf [(fencedOf s .bignum, 8), (fencedOf s .lattice, 0)]
  | 0x110 => lo32 s.sched.leaseRevoked
  | 0x114 => lo32 s.sched.recovered
  | _ =>
    if 0x140 ≤ off ∧ off < 0x240 then
      let w := stagedWindow s ((off - 0x140) / 16)
      match off % 16 with
      | 0x0 => lo32 w.base
      | 0x4 => hi32 w.base
      | 0x8 => lo32 w.pages
      | _ => wordOf [(b2n w.write, 31), (b2n w.read, 30), (w.pages / 2 ^ 32 % 256, 0)]
    else 0


/-- FPn_ registers of port k at a block offset. -/
def readPort (s : State) (k off : Nat) : W32 :=
  let p := portOf s k
  let e := p.feLatch.ev
  match off with
  | 0x00 => bitsOf [(p.fenced, 31), (p.qack, 30), (p.lateEvent, 4), (p.datapathFault, 3), (p.unfenceEarly, 2), (p.clockLost, 1), (p.overFreq, 0)]
  | 0x08 => lo32 p.fmax
  | 0x0C => lo32 p.clkCount
  | 0x10 => wordOf [(outstanding s k true, 16), (outstanding s k false, 0)]
  | 0x14 => wordOf [(p.errRead, 16), (p.errWrite, 0)]
  | 0x18 => lo32 p.feCount
  | 0x1C => lo32 p.fe.ev.addr.toNat
  | 0x20 => hi32 e.addr.toNat
  | 0x24 => wordOf [(e.master.toNat, 16), (e.region.toNat, 8), (b2n e.write, 6), (e.tag.toNat, 0)]
  | 0x28 => wordOf [(p.feLatch.slice.toNat, 16), (e.expected.toNat, 8), (e.found.toNat, 0)]
  | 0x2C => bitsOf [(p.qack, 2), (p.qreq, 1), (Config.snCapable k, 0)]
  | _ => 0

/-- AL_k registers at window offset 0x2000 + off. -/
def readLink (s : State) (off : Nat) : W32 :=
  let k := off / 8
  if off % 8 = 0 then look s.cfg.staged.alCfg k 0
  else
    let l := linkOf s k
    wordOf [(b2n (serving s), 31), (b2n l.offered.isSome, 30), (l.refusedDisabled, 8), (l.refusedRing, 0)]

def mdpCode : MdpSt → Nat
  | .idle => 0
  | .opened => 1
  | .busy => 2
  | .done => 3

/-- MDP_ registers. -/
def readMdp (s : State) (path : Path) (off : Nat) : W32 :=
  let m := s.mdp
  match off with
  | 0x04 => wordOf [(mdpCode m.st, 30), (b2n m.idleAbort, 9), (b2n m.alarmClear, 8), (b2n m.misuse, 7), (b2n m.ownerBusy, 6),
                    (b2n m.ownerInvalid, 5), (b2n m.earlyRead, 4), (b2n m.cmdInvalid, 3), (b2n m.keyFault, 2), (b2n m.extRefused, 1)]
  | 0x0C => m.key
  | 0x10 => lo32 m.count
  | 0x14 => latchedHi s path 0x3010
  | 0x18 => wordOf [(b2n (m.path == .pair), 8), (m.owner, 0)]
  | 0x1C => lo32 m.idleLimit
  | 0x20 => lo32 m.measSel
  | 0x24 => wordOf [(m.lockBits.toNat, 4), (m.closed.toNat, 0)]
  | 0x28 => wordOf [(m.refusals, 16), (m.misuses, 0)]
  | 0x2C => 0xFE
  | _ =>
    if 0x30 ≤ off ∧ off < 0x70 then (if m.st = .done then resultAt m ((off - 0x30) / 4) else 0)
    else if 0x70 ≤ off ∧ off < 0xA0 then lo32 (field (measOf s m.measSel) (off - 0x70) 4)
    else if 0xA0 ≤ off then lo32 (look m.extCount ((off - 0xA0) / 4) 0)
    else 0

def srcCode : SrcSt → Nat
  | .off => 0
  | .testing => 1
  | .healthy => 2
  | .fatal => 3
def entCode : EntSt → Nat
  | .starting => 0
  | .available => 1
  | .unavailable => 2
  | .failed => 3
def drbgCode : DrbgSt → Nat
  | .uninstantiated => 0
  | .ready => 1
  | .reseeding => 2

/-- ENT_ registers. -/
def readEnt (s : State) (path : Path) (off : Nat) : W32 :=
  let e := s.ent
  match off with
  | 0x00 => wordOf [(entCode e.st, 30), (b2n e.stale, 2), (b2n e.fatalSource, 1), (b2n e.stateChanged, 0)]
  | 0x04 => lo32 e.minSources
  | 0x08 => lo32 e.srcMask.toNat
  | 0x0C => bitsOf ((List.range 8).map (fun n => ((sourceOf s n).st == .healthy, n)))
  | 0x30 => 0x29
  | 0x34 => 0x320
  | 0x38 => lo32 s.cfg.staged.reseedLog2
  | 0x3C => lo32 e.blocks
  | 0x40 => latchedHi s path 0x313C
  | 0x44 => lo32 e.staleCount
  | 0x48 => lo32 e.unavailCount
  | 0x4C =>
    let spell := match e.unavailSince with
      | some t => now s - t
      | none => 0
    lo32 (min (2 ^ 32 - 1) ((e.unavailTime + spell) / us 1))
  | 0x50 => lo32 e.drbgSel
  | 0x54 => wordOf [(drbgCode (drbgOf s e.drbgSel).st, 30)]
  | 0x58 => lo32 (drbgOf s e.drbgSel).reqs
  | 0x5C => bitsOf [(e.katDrbg, 1), (e.katConditioner, 0)]
  | _ =>
    if 0x10 ≤ off ∧ off < 0x30 then
      let x := sourceOf s ((off - 0x10) / 4)
      wordOf [(srcCode x.st, 30), (x.restarts, 16), (x.rctFails, 8), (x.aptFails, 0)]
    else 0

def pairCode : PairSt → Nat
  | .booting => 0
  | .running => 1
  | .restarting => 2
  | .halted => 3
def updStCode : UpdSt → Nat
  | .idle => 0
  | .writing => 1
  | .checked => 2
  | .activated => 3

/-- MBX_BANKb_STATUS. -/
def bankStatus (s : State) (b : Nat) : W32 :=
  let m := s.mgmt
  wordOf [(b2n (headerValid s b), 31), (b2n (m.runningBank == b && m.st != .booting), 30), (b2n (m.updSt != .idle && m.updBank == b), 29),
          (activationOf s b % 2 ^ 24, 0)]

/-- MBX_ registers. -/
def readMbx (s : State) (path : Path) (off : Nat) : W32 :=
  let m := s.mgmt
  let r := m.replies.head?
  match off with
  | 0x00 => m.reqCmd
  | 0x04 => m.reqTarget
  | 0x08 => m.reqParamLo
  | 0x0C => m.reqParamHi
  | 0x24 => wordOf [(queuedCount s, 16), (b2n m.queueFull, 1), (b2n (m.st != .running), 0)]
  | 0x28 =>
    match r with
    | some r => wordOf [(1, 31), (b2n r.repeated, 30), (r.tag, 16), (r.code, 0)]
    | none => 0
  | 0x2C =>
    match r with
    | some r => lo32 r.cmd
    | none => 0
  | 0x54 => wordOf [(pairCode m.st, 30), (m.runningBank, 1), (b2n (keyPath s), 0)]
  | 0x5C => lo32 m.wdtTimeout
  | 0x60 => lo32 m.restartCount
  | 0x64 => wordOf [(m.trapKind, 28), (b2n m.trapInterrupt, 7), (m.trapCause.toNat, 0)]
  | 0x68 => lo32 m.trapPc.toNat
  | 0x6C => latchedHi s path 0x3268
  | 0x70 => lo32 m.trapSp.toNat
  | 0x74 => latchedHi s path 0x3270
  | 0x78 => m.heartbeat
  | 0x7C => lo32 m.restartTime
  | 0x80 => wordOf [(updStCode m.updSt, 30), (if m.updSt = .idle then 0 else m.updBank, 29), (m.updReason, 0)]
  | 0x84 => wordOf [(m.errFull, 16), (m.errUnknown, 0)]
  | 0x88 => lo32 (counterOf s 2)
  | 0x8C => lo32 s.per.otpFloor
  | 0x90 => bankStatus s 0
  | 0x94 => bankStatus s 1
  | 0x98 => lo32 m.dfaultCount
  | 0x9C => lo32 m.lockstepCount
  | _ =>
    if 0x10 ≤ off ∧ off < 0x20 then m.reqArgs.getD ((off - 0x10) / 4) 0
    else if 0x30 ≤ off ∧ off < 0x50 then
      (match r with
       | some r => r.data.getD ((off - 0x30) / 4) 0
       | none => 0)
    else 0

/-- PWR_ registers; the readings are zero until the first sample (R588). -/
def readPwr (s : State) (off : Nat) : W32 :=
  let p := s.pwr
  let x := s.mgmt.sample
  let of := fun (f : Sample → W32) => match x with
    | some x => f x
    | none => 0
  match off with
  | 0x00 => bitsOf [(p.vddHigh, 5), (p.monFail, 4), (p.levelChanged, 3), (p.pwrGood, 2)]
  | 0x04 => lo32 (levelCode p.level)
  | 0x08 => lo32 p.trimCount
  | 0x0C => lo32 p.essentialCount
  | 0x10 => lo32 p.finishCount
  | 0x14 => lo32 p.vddMin
  | 0x18 => of (fun x => wordOf [(x.vddm, 16), (x.vdd, 0)])
  | 0x1C => of (fun x => wordOf [(x.vbat, 16), (x.vaon, 0)])
  | 0x20 => of (fun x => lo32 (tjMax x).toNat)
  | 0x24 => lo32 p.monTest.toNat
  | _ =>
    if 0x28 ≤ off ∧ off < 0x48 then
      let i := 2 * ((off - 0x28) / 4)
      of (fun x => wordOf [((x.temps.getD (i + 1) 0).toNat, 16), ((x.temps.getD i 0).toNat, 0)])
    else 0

/-- A word of sensor bits: bit n for sensor 32 i + n. -/
def sensorWord (l : List Nat) (i : Nat) : W32 := bitsOf ((List.range 32).map (fun n => (l.contains (32 * i + n), n)))

/-- TMP_ registers. -/
def readTmp (s : State) (path : Path) (off : Nat) : W32 :=
  let p := s.pwr
  match off with
  | 0x00 => bitsOf [(p.maceAsserted, 31), (p.onBattery, 30), (p.vbatLow, 2), (p.sensorFail, 1), (p.alarmFlag, 0)]
  | 0x04 => lo32 s.per.otpTamper
  | 0x08 => wordOf [(p.alarmClass, 30), (p.alarmCause, 16), (p.alarmSlice, 0)]
  | 0x0C => wordOf [(p.countA, 16), (p.countB, 8), (p.countC, 0)]
  | 0x10 | 0x14 | 0x18 => sensorWord p.lightNow ((off - 0x10) / 4)
  | 0x1C | 0x20 | 0x24 => sensorWord p.lightFail ((off - 0x1C) / 4)
  | 0x28 => lo32 p.latchSel
  | 0x2C => lo32 ((pairValue s 0x342C).getD 0)
  | 0x30 => latchedHi s path 0x342C
  | _ => 0

/-- BST_ registers. -/
def readBst (s : State) (off : Nat) : W32 :=
  let p := s.pwr
  match off with
  | 0x00 => wordOf [(p.bstPeriod, 8), (b2n p.bstEnable, 0)]
  | 0x04 => wordOf [(p.bstState, 30), (b2n p.bstPartFailed, 7), (b2n p.bstDeferred, 6), (p.bstStartPass.toNat, 0)]
  | 0x08 => lo32 p.bstFenced
  | 0x0C => lo32 p.bstDefer
  | 0x10 => lo32 p.bstSel
  | 0x14 =>
    match selectedPart s p.bstSel with
    | some x => wordOf [(testCode x.test, 30)]
    | none => 0
  | _ => 0

/-- SLC_n registers at window offset 0x4000 + off. -/
def readSlice (s : State) (path : Path) (off : Nat) : W32 :=
  let n := off / 0x18
  let x := sliceOf s n
  match off % 0x18 with
  | 0x00 =>
    let rings := s.rings.countP (fun e => e.2.st == .enabled && e.2.ctx.slice == n)
    wordOf [(sliceCode x.st, 29), (b2n x.privileged, 28), (b2n x.saffron, 27), (rings, 0)]
  | 0x04 => if n = 0 then lo32 s.glb.s0Bind.toNat else if x.st = .free then 0 else wordOf [(x.colour.toNat, 20), (x.pasid.toNat, 0)]
  | 0x08 => wordOf [(x.errLost, 24), (x.errNotice, 16), (x.errDoorbell, 8), (x.errWindow, 0)]
  | 0x0C =>
    match x.record with
    | some r => wordOf [(x.faultCause, 28), (1, 27), (r.status, 16), (r.ring, 0)]
    | none => wordOf [(x.faultCause, 28)]
  | 0x10 => lo32 ((pairValue s (0x4000 + off)).getD 0)
  | _ => latchedHi s path (0x4000 + off - 4)

/-- What a read of a window offset returns through a path, without the latching that some reads do; none where no register is. -/
def readReg (s : State) (path : Path) (off : Nat) : Option W32 :=
  if !holdsReg off then none
  else some (
    if off < 0x1000 then readGlb s path off
    else if off < 0x2000 then readPort s ((off - 0x1000) / 0x30) ((off - 0x1000) % 0x30)
    else if off < 0x3000 then readLink s (off - 0x2000)
    else if off < 0x3100 then readMdp s path (off - 0x3000)
    else if off < 0x3200 then readEnt s path (off - 0x3100)
    else if off < 0x3300 then readMbx s path (off - 0x3200)
    else if off < 0x3400 then readPwr s (off - 0x3300)
    else if off < 0x3500 then readTmp s path (off - 0x3400)
    else if off < 0x4000 then readBst s (off - 0x3500)
    else readSlice s path (off - 0x4000))

/-! ## What writes do (R8, R573 to R575) -/

/-- A write reached a locked register. -/
def lockedWrite (s : State) : State := { s with glb := { s.glb with lockedWrite := true } }

def setGlb (s : State) (g : Glb) : State := { s with glb := g }
def setStaged (s : State) (c : CfgImage) : State := { s with cfg := { s.cfg with staged := c } }

/-- Writes a slice 0 window register in the staged configuration. -/
def writeWindow (s : State) (off : Nat) (v : W32) : State :=
  let k := (off - 0x140) / 16
  let c := s.cfg.staged
  let ws := look c.windows 0 []
  let ws := ws ++ List.replicate (16 - ws.length) ({} : Window)
  let w := ws.getD k ({} : Window)
  let w := match off % 16 with
    | 0x0 => { w with base := setLo w.base v }
    | 0x4 => { w with base := setHi w.base v }
    | 0x8 => { w with pages := setLo w.pages v }
    | _ => { w with pages := w.pages % 2 ^ 32 + part v 0 8 * 2 ^ 32, read := v.getLsbD 30, write := v.getLsbD 31 }
  setStaged s { c with windows := put c.windows 0 (ws.set k w) }

/-- GLB_, CFG_ and TB_ registers. -/
def writeGlb (s : State) (off : Nat) (v : W32) : State :=
  let g := s.glb
  let c := s.cfg.staged
  match off with
  | 0x1C => setGlb s { g with dupResponse := keeps g.dupResponse v 2, unmapped := keeps g.unmapped v 1, lockedWrite := keeps g.lockedWrite v 0 }
  | 0x20 => { s with irq := { s.irq with mgrEvent := s.irq.mgrEvent &&& ~~~ v.extractLsb' 0 15 } }
  | 0x28 => setStaged s { c with vecBase := setLo c.vecBase v }
  | 0x2C => setStaged s { c with vecBase := setHi c.vecBase v }
  | 0x30 =>
    if g.rctxLoLocked then lockedWrite s
    else if part v 0 12 ≠ 0 then s
    else setGlb s { g with rctxLo := v, rctxLoLocked := true }
  | 0x34 => if g.rctxHiLocked then lockedWrite s else setGlb s { g with rctxHi := v, rctxHiLocked := true }
  | 0x64 => { s with cfg := { s.cfg with commitRefused := keeps s.cfg.commitRefused v 4, commitError := keeps s.cfg.commitError v 3 } }
  | 0x8C => setGlb s { g with cadT0 := setLo g.cadT0 v }
  | 0x90 => setGlb s { g with cadT0 := setHi g.cadT0 v }
  | 0x94 => setGlb s { g with cadSel := part v 0 12 }
  | 0x98 =>
    if (look? s.rings g.cadSel).isNone then s
    else updRing s g.cadSel (fun x =>
      let c := x.cad
      { x with cad := { c with
        cmdIgnored := keeps c.cmdIgnored v 3, startRepeated := keeps c.startRepeated v 2
        stopWithoutStart := keeps c.stopWithoutStart v 1, cadenceLost := keeps c.cadenceLost v 0 } })
  | 0xA8 => setGlb s { g with gridSel := part v 0 8 }
  | 0xAC => setStaged s { c with grid := put c.grid g.gridSel v.toNat }
  | 0x100 => setGlb s { g with partSel := part v 0 11 }
  | _ => if 0x140 ≤ off ∧ off < 0x240 then writeWindow s off v else s

/-- FPn_ registers. -/
def writePort (s : State) (k off : Nat) (v : W32) : State :=
  let p := portOf s k
  match off with
  | 0x00 => setPort s k { p with
      lateEvent := keeps p.lateEvent v 4, datapathFault := keeps p.datapathFault v 3, unfenceEarly := keeps p.unfenceEarly v 2
      clockLost := keeps p.clockLost v 1, overFreq := keeps p.overFreq v 0 }
  | 0x08 =>
    let n := part v 0 11
    if p.fmaxLocked then lockedWrite s
    else if n = 0 ∨ 1600 < n then s
    else setPort s k { p with fmax := n, fmaxLocked := true }
  | _ => s

/-- AL_k_CFG is staged. -/
def writeLink (s : State) (off : Nat) (v : W32) : State :=
  if off % 8 = 0 then
    let c := s.cfg.staged
    setStaged s { c with alCfg := put c.alCfg (off / 8) (v &&& 0x800000FF) }
  else s

/-- MDP_ registers. -/
def writeMdp (s : State) (off : Nat) (v : W32) : State :=
  let m := s.mdp
  match off with
  | 0x04 => setMdp s { m with
      idleAbort := keeps m.idleAbort v 9, alarmClear := keeps m.alarmClear v 8, misuse := keeps m.misuse v 7
      ownerBusy := keeps m.ownerBusy v 6, ownerInvalid := keeps m.ownerInvalid v 5, earlyRead := keeps m.earlyRead v 4
      cmdInvalid := keeps m.cmdInvalid v 3, keyFault := keeps m.keyFault v 2, extRefused := keeps m.extRefused v 1 }
  | 0x0C => setMdp s { m with key := v }
  | 0x1C => setMdp s { m with idleLimit := part v 0 16 }
  | 0x20 => setMdp s { m with measSel := part v 0 3 }
  | _ => s

/-- ENT_ registers. -/
def writeEnt (s : State) (off : Nat) (v : W32) : State :=
  let e := s.ent
  match off with
  | 0x00 => { s with ent := { e with
      stale := keeps e.stale v 2, fatalSource := keeps e.fatalSource v 1, stateChanged := keeps e.stateChanged v 0 } }
  | 0x04 =>
    let n := part v 0 4
    if e.minLocked then lockedWrite s
    else if n < 2 ∨ 8 < n then s
    else settleEntropy { s with ent := { e with minSources := n, minLocked := true } }
  | 0x38 => setStaged s { s.cfg.staged with reseedLog2 := part v 0 5 }
  | 0x50 => { s with ent := { e with drbgSel := part v 0 9 } }
  | _ => s

/-- MBX_ registers. -/
def writeMbx (s : State) (off : Nat) (v : W32) : State :=
  let m := s.mgmt
  match off with
  | 0x00 => { s with mgmt := { m with reqCmd := v &&& 0xFF00FFFF } }
  | 0x04 => { s with mgmt := { m with reqTarget := v &&& 0x0000FFFF } }
  | 0x08 => { s with mgmt := { m with reqParamLo := v } }
  | 0x0C => { s with mgmt := { m with reqParamHi := v } }
  | 0x24 => { s with mgmt := { m with queueFull := keeps m.queueFull v 1 } }
  | 0x5C =>
    let n := part v 0 10
    if m.wdtLocked then lockedWrite s
    else if n = 0 ∨ 1000 < n then s
    else { s with mgmt := { m with wdtTimeout := n, wdtLocked := true } }
  | _ => if 0x10 ≤ off ∧ off < 0x20 then { s with mgmt := { m with reqArgs := m.reqArgs.set ((off - 0x10) / 4) v } } else s

/-- PWR_ registers. -/
def writePwr (s : State) (off : Nat) (v : W32) : State :=
  let p := s.pwr
  if off = 0 then
    { s with pwr := { p with
      vddHigh := keeps p.vddHigh v 5, monFail := keeps p.monFail v 4, levelChanged := keeps p.levelChanged v 3 } }
  else s

/-- TMP_ registers. -/
def writeTmp (s : State) (off : Nat) (v : W32) : State :=
  let p := s.pwr
  match off with
  | 0x00 => { s with pwr := { p with
      vbatLow := keeps p.vbatLow v 2, sensorFail := keeps p.sensorFail v 1, alarmFlag := keeps p.alarmFlag v 0 } }
  | 0x28 => { s with pwr := { p with latchSel := part v 0 4 } }
  | _ => s

/-- BST_ registers. -/
def writeBst (s : State) (off : Nat) (v : W32) : State :=
  let p := s.pwr
  match off with
  | 0x00 =>
    let n := part v 8 8
    { s with pwr := { p with bstEnable := v.getLsbD 0, bstPeriod := if 1 ≤ n ∧ n ≤ 168 then n else p.bstPeriod } }
  | 0x04 => { s with pwr := { p with bstPartFailed := keeps p.bstPartFailed v 7, bstDeferred := keeps p.bstDeferred v 6 } }
  | 0x10 => { s with pwr := { p with bstSel := part v 0 11 } }
  | _ => s

/-- A write to a register without a row of its own. -/
def writeReg (s : State) (off : Nat) (v : W32) : State :=
  if off < 0x1000 then writeGlb s off v
  else if off < 0x2000 then writePort s ((off - 0x1000) / 0x30) ((off - 0x1000) % 0x30) v
  else if off < 0x3000 then writeLink s (off - 0x2000) v
  else if off < 0x3100 then writeMdp s (off - 0x3000) v
  else if off < 0x3200 then writeEnt s (off - 0x3100) v
  else if off < 0x3300 then writeMbx s (off - 0x3200) v
  else if off < 0x3400 then writePwr s (off - 0x3300) v
  else if off < 0x3500 then writeTmp s (off - 0x3400) v
  else if off < 0x4000 then writeBst s (off - 0x3500) v
  else s

/-- Writes that another row of the table states: CFG_COMMIT, TB_CAD_CMD with START or STOP, TB_GRID_DEFAULT, GLB_S0_BIND, FPn_CTRL,
MDP_CMD, MDP_DATA, MDP_EXT_LOCK, ENT_SRC_MASK, the mailbox's commands, PWR_VDD_MIN. -/
def ownRow (off : Nat) (v : W32) : Bool :=
  [0x24, 0x60, 0xB4, 0x3000, 0x3008, 0x3024, 0x3108, 0x3220, 0x3250, 0x3258, 0x3314].contains off ||
    (off == 0x88 && (part v 30 2 == 1 || part v 30 2 == 2)) || (decide (0x1000 ≤ off) && decide (off < 0x1300) && (off - 0x1000) % 0x30 == 4)

/-! ## The rows -/

/-- REGISTER_WRITE (R8, R473, R573 to R575): a write with no row of its own, by either path. -/
def execRegisterWrite (place : RegPlace) (value : W32) (s : State) : Res :=
  if !holdsReg place.offset ∨ ownRow place.offset value then .next s
  else pathAccess place.path (.registerWrite place.offset value) s
    (.next (pathWrite place.path s (fun s => writeReg s place.offset value)))

/-- The bus error of R49: UNMAPPED for an offset without a register, misuse of the measurement digest port within its span (R245). -/
def busError (s : State) (off : Nat) : State :=
  if !inSpan off then emit { s with glb := { s.glb with unmapped := true } } .regBusError
  else if 0x3000 ≤ off ∧ off < 0x30C0 then mdpMisuse .regPort s
  else emit s .regBusError

/-- The access is one that R49 answers with a bus error. -/
def badShape (off : Nat) (shape : AccessShape) : Bool :=
  match shape with
  | .subWord | .burst => true
  | .unaligned => off % 4 != 0
  | .unmapped => off % 4 == 0 && !inSpan off

/-- BAD_REGISTER_ACCESS (R49, R73). -/
def execBadRegisterAccess (offset : Nat) (shape : AccessShape) (s : State) : Res :=
  if !badShape offset shape then .next s
  else portAccess (.badRegisterAccess offset shape) s (.next (if regGuarded s then guardAnswer s else busError s offset))

/-- LO_REGISTER_READ (R576): the _HI half is latched for the path. -/
def execLoRegisterRead (path : Path) (offset : Nat) (s : State) : Res :=
  match pairValue s offset with
  | none => .next s
  | some n => pathAccess path (.loRegisterRead path offset) s (.next (mdpAccess path s (fun s =>
    match path with
    | .regPort => emit (latchHi s .regPort offset n) (.regValue (lo32 n))
    | .pair => latchHi s .pair offset n)))

/-- FE_ADDR_LO_READ (R583): the other registers of the latest event are latched. -/
def execFeAddrLoRead (port : Nat) (s : State) : Res :=
  if 16 ≤ port then .next s
  else portAccess (.feAddrLoRead port) s (.next (if regGuarded s then guardAnswer s else
    let p := portOf s port
    emit (setPort s port { p with feLatch := p.fe }) (.regValue (lo32 p.fe.ev.addr.toNat))))

/-- Slice 0 is bound: what waited for it goes out. -/
def bindSlice0 (s : State) (v : W32) : State :=
  settle (pumpVectors (setGlb s { s.glb with s0Bind := v.extractLsb' 0 28, s0Bound := true }))

/-- S0_BIND_WRITE (R79, R575): the first write binds and locks, a later one only sets LOCKED_WRITE. -/
def execS0BindWrite (value : W32) (s : State) : Res :=
  portAccess (.s0BindWrite value) s
    (.next (regWrite s (fun s => if s.glb.s0Bound then lockedWrite s else bindSlice0 s value)))

/-- PWR_VDD_MIN_WRITE (R540). -/
def execPwrVddMinWrite (value : W32) (s : State) : Res :=
  portAccess (.pwrVddMinWrite value) s
    (.next (regWrite s (fun s => { s with pwr := { s.pwr with vddMin := s.pwr.vdd } })))

end Sys2Proof.Machine
end

