-- ==== Sys2Proof/Machine/PortReturn.lean ====
section
/-! DEFINITION. The end of a clock change: QUIESCE_RELEASE, with the doorbells and register-port accesses that were held (R51, R53,
R60 to R62). -/
namespace Sys2Proof.Machine

/-- The access that a held command makes, once FP0 resumes (R51). -/
def heldRow (c : Held) (s : State) : Res :=
  match c with
  | .cadenceStart ring => execCadenceStart ring s
  | .cadenceStop ring => execCadenceStop ring s
  | .cfgCommit value contexts => execCfgCommit value contexts s
  | .tbGridDefault value => execTbGridDefault value s
  | .entSrcMaskWrite value => execEntSrcMaskWrite value s
  | .mbxReqSubmit value => execMbxReqSubmit value s
  | .mbxRplPop value => execMbxRplPop value s
  | .mdpStart path cmd => execMdpStart path cmd s
  | .mdpData path word => execMdpData path word s
  | .mdpFinal path cmd => execMdpFinal path cmd s
  | .mdpAbort path cmd => execMdpAbort path cmd s
  | .cmdInvalid value => execCmdInvalid ⟨.regPort, value⟩ s
  | .mdpExtLockWrite value => execMdpExtLockWrite ⟨.regPort, value⟩ s
  | .mdpResultRead path index => execMdpResultRead path index s
  | .mbxMgmtRestart value => execMbxMgmtRestart value s
  | .unfence port value => execUnfence port value s
  | .registerWrite offset value => execRegisterWrite ⟨.regPort, offset⟩ value s
  | .badRegisterAccess offset shape => execBadRegisterAccess offset shape s
  | .loRegisterRead path offset => execLoRegisterRead path offset s
  | .feAddrLoRead port => execFeAddrLoRead port s
  | .s0BindWrite value => execS0BindWrite value s
  | .pwrVddMinWrite value => execPwrVddMinWrite value s

/-- The state that an access leaves. -/
def afterRow (s : State) (c : Held) : State :=
  match heldRow c s with
  | .next t => t
  | .fault _ | .refused _ => s

/-- The accesses that the chip held are made in the order in which they came (R50, R51). -/
def answerHeld (s : State) : State :=
  let cs := s.fabric.heldAccess
  cs.foldl afterRow { s with fabric := { s.fabric with heldAccess := [] } }

/-- QUIESCE_RELEASE (R60 steps 6 and 7): FPk_QREQ falls after FPk_QACK. -/
def execQuiesceRelease (port : Nat) (s : State) : Res :=
  let p := portOf s port
  if !p.qreq then .next s
  else if !mainOn s then .next (setPort s port { p with qreq := false, qack := false })
  else if !p.qack then .next s
  else
    let s := setPort s port { p with qreq := false, qack := false }
    let s := portReturns ((s.links.map (·.1)).foldl (ringHeld port) s)
    .next (if port = 0 then answerHeld s else s)

end Sys2Proof.Machine
end

