-- ==== Sys2Proof/Machine/PubKey.lean ====
section
/-! DEFINITION. The big-number and public-key opcodes (R259 to R291): each runs for a submission whose current step it is. -/
namespace Sys2Proof.Machine

/-- MULACC (R259): Big-number primitive computing A·B + C. -/
def execMulacc (job : Nat) (s : State) : Res := runOp 0x0300 job s

/-- MULACC_VEC (R261): Vector of up to 64 MULACC elements on one unit. -/
def execMulaccVec (job : Nat) (s : State) : Res := runOp 0x0301 job s

/-- RSA_PSS_SIGN (R264): RSA-PSS signing of a digest. -/
def execRsaPssSign (job : Nat) (s : State) : Res := runOp 0x0401 job s

/-- RSA_V15_SIGN (R270): RSA PKCS #1 v1.5 signing of a digest. -/
def execRsaV15Sign (job : Nat) (s : State) : Res := runOp 0x0402 job s

/-- RSA_PSS_VERIFY (R264): RSA-PSS verification. -/
def execRsaPssVerify (job : Nat) (s : State) : Res := runOp 0x0403 job s

/-- RSA_V15_VERIFY (R270): RSA PKCS #1 v1.5 verification. -/
def execRsaV15Verify (job : Nat) (s : State) : Res := runOp 0x0404 job s

/-- RSA_OAEP_ENCRYPT (R264): RSA-OAEP encryption. -/
def execRsaOaepEncrypt (job : Nat) (s : State) : Res := runOp 0x0405 job s

/-- RSA_OAEP_DECRYPT (R278): RSA-OAEP decryption reporting any decoding failure only as DONE_VERIFY_FALSE. -/
def execRsaOaepDecrypt (job : Nat) (s : State) : Res := runOp 0x0406 job s

/-- ECDSA_SIGN (R264): ECDSA signing of a digest. -/
def execEcdsaSign (job : Nat) (s : State) : Res := runOp 0x0410 job s

/-- ECDSA_VERIFY (R264): ECDSA verification. -/
def execEcdsaVerify (job : Nat) (s : State) : Res := runOp 0x0411 job s

/-- EC_KEYGEN (R271): EC key generation creating a volatile key. -/
def execEcKeygen (job : Nat) (s : State) : Res := runOp 0x0412 job s

/-- ECDH (R277): ECDH agreement with peer checks, optionally into a key. -/
def execEcdh (job : Nat) (s : State) : Res := runOp 0x0413 job s

/-- EDDSA_SIGN (R264): EdDSA signing. -/
def execEddsaSign (job : Nat) (s : State) : Res := runOp 0x0420 job s

/-- EDDSA_VERIFY (R281): EdDSA verification under the cofactored equation. -/
def execEddsaVerify (job : Nat) (s : State) : Res := runOp 0x0421 job s

/-- EDDSA_BATCH_VERIFY (R283): Batch EdDSA verification returning a validity bitmap. -/
def execEddsaBatchVerify (job : Nat) (s : State) : Res := runOp 0x0422 job s

/-- EDDSA_KEYGEN (R271): EdDSA key generation creating a volatile key. -/
def execEddsaKeygen (job : Nat) (s : State) : Res := runOp 0x0423 job s

/-- XDH (R264): X25519 or X448 agreement. -/
def execXdh (job : Nat) (s : State) : Res := runOp 0x0428 job s

/-- XDH_KEYGEN (R271): X25519 or X448 key generation. -/
def execXdhKeygen (job : Nat) (s : State) : Res := runOp 0x0429 job s

/-- CURVE_LOAD (R286): Checks and loads a short Weierstrass curve as a curve record. -/
def execCurveLoad (job : Nat) (s : State) : Res := runOp 0x0430 job s

/-- CURVE_UNLOAD (R287): Removes a loaded curve record not in use. -/
def execCurveUnload (job : Nat) (s : State) : Res := runOp 0x0431 job s

/-- HYBRID_SIGN (R288): ECDSA P-384 plus ML-DSA-87 hybrid signing. -/
def execHybridSign (job : Nat) (s : State) : Res := runOp 0x0440 job s

/-- HYBRID_VERIFY (R290): Hybrid signature verification of both parts. -/
def execHybridVerify (job : Nat) (s : State) : Res := runOp 0x0441 job s

/-- HYBRID_KEYGEN (R289): Hybrid signature key generation. -/
def execHybridKeygen (job : Nat) (s : State) : Res := runOp 0x0442 job s

end Sys2Proof.Machine
end

