-- ==== Sys2Proof/Machine/Random.lean ====
section
/-! DEFINITION. The random opcodes (R351 to R360): each runs for a submission whose current step it is. -/
namespace Sys2Proof.Machine

/-- RANDOM (R357): Generates bytes from the slice DRBG instance. -/
def execRandom (job : Nat) (s : State) : Res := runOp 0x0700 job s

/-- RANDOM_PR (R357): Reseeds then generates bytes with prediction resistance. -/
def execRandomPr (job : Nat) (s : State) : Res := runOp 0x0701 job s

/-- RESEED (R357): Reseeds the slice DRBG instance. -/
def execReseed (job : Nat) (s : State) : Res := runOp 0x0702 job s

end Sys2Proof.Machine
end

