-- ==== Sys2Proof/Machine/Slices.lean ====
section
/-! DEFINITION. Slices: the creation block, the pools, and the commands SLICE_CREATE to SLICE_QUERY with the ends of a reset and a
release (R77 to R107, R587, R596). -/
namespace Sys2Proof.Machine

/-! ## The creation block (R107) -/

/-- A creation block. -/
structure Creation where
  slice : Nat
  cls : Nat
  flags : Nat
  colour : Nat
  pasid : Nat
  allot : Allot
  windows : List Window
  deriving DecidableEq, Repr

def windowFrom (b : Bytes) : Window :=
  let z := field b 8 8
  { base := field b 0 8, pages := z % 2 ^ 40, read := bit z 62, write := bit z 63 }

def creationFrom (b : Bytes) : Creation :=
  { slice := field b 0 1, cls := field b 1 1, flags := field b 2 1, colour := field b 3 1, pasid := field b 4 4
    allot :=
      { firstRing := field b 0x08 2, ringCount := field b 0x0A 2, firstVector := field b 0x0C 2
        vectorCount := field b 0x0E 2, firstCounter := field b 0x10 2, counterCount := field b 0x12 2
        watchCount := field b 0x14 2, keySlots := field b 0x16 2, ordinalEntries := field b 0x18 4
        scratchGuarantee := field b 0x1C 4, scratchLimit := field b 0x20 4
        weights := (List.range 5).map (fun i => field b (0x24 + i) 1)
        caps := (List.range 5).map (fun i => field b (0x2C + 2 * i) 2) }
    windows := (List.range 16).map (fun i => windowFrom (subBytes b (0x40 + 16 * i) 16)) }

/-- A window entry is well formed. -/
def windowOk (b : Bytes) : Bool :=
  let w := windowFrom b
  w.base % 4096 == 0 && bits (field b 8 8) 61 40 == 0 && decide (w.base + 4096 * w.pages ≤ 2 ^ 64)

/-- A contiguous range of a pool; one that runs past the pool's end is out of range, which gives BAD_PARAM (log entry 158). -/
def rangeOk (first count low high : Nat) : Bool := count == 0 || (decide (low ≤ first) && decide (first + count ≤ high))

/-- Minimum and maximum amounts of R85, and R84. -/
def allotOk (cls flags : Nat) (a : Allot) : Bool :=
  decide (1 ≤ a.ringCount) && rangeOk a.firstRing a.ringCount 0 4096 &&
    rangeOk a.firstVector a.vectorCount 16 1024 && rangeOk a.firstCounter a.counterCount 64 4096 &&
    decide (a.watchCount ≤ a.ringCount) && decide (16 ≤ a.keySlots) && decide (a.keySlots ≤ 15872) &&
    decide (a.ordinalEntries ≤ 262144) && (a.ordinalEntries == 0 || bit flags 0) &&
    decide (64 ≤ a.scratchGuarantee) && decide (a.scratchGuarantee ≤ 19456) && a.scratchGuarantee % 4 == 0 &&
    decide (a.scratchGuarantee ≤ a.scratchLimit) && decide (a.scratchLimit ≤ 19456) && a.scratchLimit % 4 == 0 &&
    (List.zip a.caps [256, 32, 128, 128, 32]).all (fun c => decide (c.1 ≤ c.2)) &&
    (cls == 0 || a.weights.getD 1 0 != 0)

/-- Content of a creation block (R84, R85, R107); slice 0's windows are not looked at (R81). -/
def creationOk (b : Bytes) : Bool :=
  let c := creationFrom b
  decide (c.cls ≤ 1) && decide (c.flags ≤ 1) && decide (c.pasid < 2 ^ 20) && allZero (subBytes b 0x29 3) &&
    allZero (subBytes b 0x36 10) && allotOk c.cls c.flags c.allot &&
    (c.slice == 0 || (List.range 16).all (fun i => windowOk (subBytes b (0x40 + 16 * i) 16)))

/-! ## The pools (R85) -/

/-- A counted pool has the amount free beside the other slices' claims. -/
def poolLacks (s : State) (n want total : Nat) (f : Allot → Nat) : Bool :=
  decide (total < want + (((liveSlices s).filter (· != n)).map (fun m => claimOf s m f)).sum)
/-- A range meets one that another slice claims. -/
def rangeTaken (s : State) (n first count : Nat) (f : Allot → Nat × Nat) : Bool :=
  ((liveSlices s).filter (· != n)).any (fun m => (claims s m).any (fun a => overlaps first count (f a).1 (f a).2))

/-- The refusal NO_RESOURCE for an allotment (R85). -/
def noResource (s : State) (n : Nat) (a : Allot) : Bool :=
  rangeTaken s n a.firstRing a.ringCount (fun x => (x.firstRing, x.ringCount)) ||
    rangeTaken s n a.firstVector a.vectorCount (fun x => (x.firstVector, x.vectorCount)) ||
    rangeTaken s n a.firstCounter a.counterCount (fun x => (x.firstCounter, x.counterCount)) ||
    poolLacks s n a.watchCount 4096 (·.watchCount) || poolLacks s n a.keySlots 15872 (·.keySlots) ||
    poolLacks s n a.ordinalEntries 262144 (·.ordinalEntries) || poolLacks s n a.scratchGuarantee 19456 (·.scratchGuarantee)

/-- Privileged slices, slice 0 included (R80). -/
def privilegedCount (s : State) : Nat := s.slices.countP (fun e => e.2.st != .free && e.2.privileged)

/-- PASID of a slice that is not FREE, slice 0's from GLB_S0_BIND (R78). -/
def pasidOf (s : State) (n : Nat) : Nat := (identOf s n).1.toNat
def pasidTaken (s : State) (p : Nat) : Bool := (liveSlices s).any (fun n => pasidOf s n == p)

/-- Rings of a slice that are enabled or draining. -/
def sliceRings (s : State) (n : Nat) : List Nat :=
  (s.rings.filter (fun e => e.2.st != .disabled && e.2.ctx.slice == n)).map (·.1)

/-- Slots that a slice's volatile keys and curve records occupy. -/
def volatileSlots (s : State) (n : Nat) : Nat :=
  ((s.keys.slots.filter (fun e => e.2.owner == n && !e.2.persistent)).map (fun e => e.2.span)).sum +
    s.keys.curves.countP (fun c => c.owner == n)

/-- What R106 and R92 forbid a SLICE_MODIFY to leave. -/
def modifyInUse (s : State) (n : Nat) (c : Creation) : Bool :=
  let rs := sliceRings s n
  decide (c.allot.keySlots < volatileSlots s n) || decide (c.allot.ringCount < rs.length) ||
    rs.any (fun r => !(decide (c.allot.firstRing ≤ r) && decide (r < c.allot.firstRing + c.allot.ringCount))) ||
    (n != 0 && rs.any (fun r => !insideWindows c.windows (ringOf s r).ctx))

/-! ## SLICE_CREATE and SLICE_MODIFY -/

/-- Stages an allotment and windows for the next commit; slice 0 keeps its window registers. -/
def stageSlice (s : State) (c : Creation) : State :=
  let t := s.cfg.staged
  let t := { t with allots := put t.allots c.slice c.allot }
  let t := if c.slice = 0 then t else { t with windows := put t.windows c.slice c.windows }
  { s with cfg := { s.cfg with staged := t } }

/-- Reads the creation block of a command (R596 steps 2 to 4). -/
def creationInput (q : Req) (io : MbxIo) (s : State) : Input × State :=
  if argsFrom q 0 ∨ 255 < q.target then (.fail { code := rBadParam }, s)
  else match readInput s q.param 320 io.read with
    | (.fail a, s) => (.fail a, s)
    | (.data b, s) => (if creationOk b ∧ (creationFrom b).slice = q.target then .data b else .fail { code := rBadParam }, s)

/-- The creation itself, once its block is good. -/
def createSlice (c : Creation) (s : State) : Ran × State :=
  let n := c.slice
  if noResource s n c.allot ∨ (bit c.flags 0 ∧ 16 ≤ privilegedCount s) then (.reply { code := rNoResource }, s)
  else if pasidTaken s c.pasid then (.reply { code := rInUse }, s)
  else
    let x : Slice :=
      { st := .creating, pasid := BitVec.ofNat 20 c.pasid, colour := BitVec.ofNat 8 c.colour, saffron := c.cls == 1
        privileged := bit c.flags 0, held := c.allot }
    (.reply { code := rOk }, stageSlice (setSlice s n x) c)

/-- SLICE_CREATE (R94, R104, R596): resources are held at once; the slice becomes ACTIVE with the next commit. -/
def execSliceCreate (io : MbxIo) (s : State) : Res :=
  runMailbox 0x0101 anyReq (fun q s =>
    if q.target = 0 ∨ (sliceOf s q.target).st ≠ .free ∨ !s.glb.s0Bound then (.reply { code := rWrongState }, s)
    else match creationInput q io s with
      | (.fail a, s) => (.reply a, s)
      | (.data b, s) => createSlice (creationFrom b) s) s

/-- Bytes 0x00 to 0x07 of the block equal the slice's present values (R81, R104). -/
def sameIdentity (s : State) (c : Creation) : Bool :=
  let x := sliceOf s c.slice
  c.cls == b2n x.saffron && c.flags == b2n x.privileged && c.colour == (identOf s c.slice).2.toNat && c.pasid == pasidOf s c.slice

/-- SLICE_MODIFY (R81, R104, R106, R596): new allotments and windows are staged for the next commit. -/
def execSliceModify (io : MbxIo) (s : State) : Res :=
  runMailbox 0x0102 anyReq (fun q s =>
    let st := (sliceOf s q.target).st
    if (q.target ≤ 255 ∧ st ≠ .active ∧ st ≠ .faulted) ∨ !s.glb.s0Bound then (.reply { code := rWrongState }, s)
    else match creationInput q io s with
      | (.fail a, s) => (.reply a, s)
      | (.data b, s) =>
        let c := creationFrom b
        if !sameIdentity s c then (.reply { code := rBadParam }, s)
        else if noResource s q.target c.allot then (.reply { code := rNoResource }, s)
        else if modifyInUse s q.target c then (.reply { code := rInUse }, s)
        else (.reply { code := rOk }, stageSlice (updSlice s q.target (fun x => { x with held := c.allot })) c)) s

/-! ## SLICE_RESET and SLICE_DESTROY -/

/-- Unsent interrupt events of a slice's vectors are lost (R102). -/
def dropVectors (s : State) (n : Nat) : State :=
  let a := allotOf s.cfg.cur n
  { s with irq := { s.irq with pendingVectors := s.irq.pendingVectors.filter (fun v =>
      !(decide (a.firstVector ≤ v) && decide (v < a.firstVector + a.vectorCount))) } }

/-- Interrupt messages of a slice's vectors that no port has taken are lost with the events (R102). -/
def dropMessages (s : State) (n : Nat) : State :=
  let a := allotOf s.cfg.cur n
  dropUnissued (dropVectors s n) (fun p => match p with
    | .interrupt v => decide (a.firstVector ≤ v) && decide (v < a.firstVector + a.vectorCount)
    | _ => false)

/-- Stops a slice's work: its jobs end, its cadences stop, the intents that waited for its rings are given up (R100, R101,
R181, R512). -/
def haltSlice (s : State) (n : Nat) : State :=
  let s := stopSlice s n stAbortReset
  let s := (sliceRings s n).foldl stopCadence s
  abandonIntents (dropMessages s n) (fun sl _ => sl == n)

/-- SLICE_RESET (R100 to R103): the slice's uncommitted work ends; the reply waits for the completions. -/
def execSliceReset (s : State) : Res :=
  runMailbox 0x0103 anyReq (fun q s =>
    let st := (sliceOf s q.target).st
    if q.target ≤ 255 ∧ st ≠ .active ∧ st ≠ .faulted then (.reply { code := rWrongState }, s)
    else if argsFrom q 0 ∨ 255 < q.target then (.reply { code := rBadParam }, s)
    else
      let s := updSlice s q.target (fun x => { x with st := .resetting, faulting := none })
      (.park, haltSlice s q.target)) s

/-- Nothing of a slice is under way any more: no job, and no fetch, pool read or job access on a port. -/
def sliceQuiet (s : State) (n : Nat) : Bool :=
  let mine := fun (t : Txn) => t.slice == n && match t.purpose with
    | .fetch .. | .poolHeader .. | .poolIndex .. | .poolEntry _ | .operand .. | .stamp .. | .result _ | .phase _ | .body _
    | .head _ | .taken .. => true
    | .doorbell .. | .rearm .. | .interrupt _ | .writeback _ | .poolWrite .. | .storeBuffer _ | .storeBody _ | .storeHead _
    | .storeIndex _ => false
  !s.jobs.any (fun j => j.slice == n) && !s.fabric.txns.any mine && !s.fabric.unissued.any mine

/-- A draining ring of a slice with nothing left. -/
def drained (s : State) (r : Nat) : Bool := (ringOf s r).st == .draining && !ringBusy s r && ringReadsDone s r

/-- SLICE_RESET_DONE (R100, R101, R587): every completion has its response; rings restart at the next epoch. -/
def execSliceResetDone (slice : Nat) (s : State) : Res :=
  if pastStart s ∧ (sliceOf s slice).st = .resetting ∧ sliceQuiet s slice then
    let rs := sliceRings s slice
    let s := rs.foldl (fun s r => if (ringOf s r).st = .enabled then writeBack (updRing s r restartRing) r else s) s
    let s := updSlice (dropMessages s slice) slice (fun x => { x with st := .active, faultCause := 0, record := none })
    .next (finishParked s (fun q => q.cmd == 0x0103 && q.target == slice) { code := rOk })
  else .next s

/-- Takes a slice out of a configuration. -/
def forgetIn (c : CfgImage) (n : Nat) : CfgImage := { c with allots := del c.allots n, windows := del c.windows n }
/-- Releases every allotment of a slice (R94, R104); with its windows gone no request of it goes out any more (R43, R89). -/
def freeSlice (s : State) (n : Nat) : State :=
  let s := { s with fabric := { s.fabric with unissued := s.fabric.unissued.filter (fun t => t.slice != n) } }
  let cfg := { s.cfg with
    cur := forgetIn s.cfg.cur n, staged := forgetIn s.cfg.staged n
    pendingCommit := s.cfg.pendingCommit.map (forgetIn · n), old := s.cfg.old.map (forgetIn · n) }
  let res := { s.res with ordinals := s.res.ordinals.filter (fun e => e.slice != n) }
  setSlice { s with cfg := cfg, res := res } n { sliceOf s n with
    st := .free, pasid := 0, colour := 0, saffron := false, privileged := false, held := {}, faultCause := 0, record := none
    faulting := none }

/-- A slice owns a persistent key record in MRAM or the store (R105). -/
def ownsRecords (s : State) (n : Nat) : Bool :=
  s.keys.records.any (fun e => e.2.owner == n) || s.keys.storeOwners.any (fun e => e.2 == n)

/-- SLICE_DESTROY (R94, R104, R105, R596): a creation is dropped at once; else a reset, then the release. -/
def execSliceDestroy (s : State) : Res :=
  runMailbox 0x0104 anyReq (fun q s =>
    let st := (sliceOf s q.target).st
    if q.target = 0 ∨ (q.target ≤ 255 ∧ st ≠ .active ∧ st ≠ .faulted ∧ st ≠ .creating) then (.reply { code := rWrongState }, s)
    else if argsFrom q 0 ∨ 255 < q.target then (.reply { code := rBadParam }, s)
    else if ownsRecords s q.target then (.reply { code := rKeysPresent }, s)
    else if st = .creating then (.reply { code := rOk }, freeSlice s q.target)
    else
      let s := updSlice s q.target (fun x => { x with st := .destroying, faulting := none })
      (.park, haltSlice s q.target)) s

/-- SLICE_RELEASE_DONE (R94): a destroying slice has nothing under way; its rings close and its allotments are released. -/
def execSliceReleaseDone (slice : Nat) (s : State) : Res :=
  if pastStart s ∧ (sliceOf s slice).st = .destroying ∧ sliceQuiet s slice then
    let s := (sliceRings s slice).foldl closeRing s
    .next (finishParked (freeSlice s slice) (fun q => q.cmd == 0x0104 && q.target == slice) { code := rOk })
  else .next s

/-- The amounts of an allotment, 4 bytes each, weights and caps last. -/
def allotBytes (a : Allot) : Bytes :=
  ([a.firstRing, a.ringCount, a.firstVector, a.vectorCount, a.firstCounter, a.counterCount, a.watchCount, a.keySlots, a.ordinalEntries,
    a.scratchGuarantee, a.scratchLimit] ++ a.weights ++ a.caps).flatMap (leBytes 4)

/-- What a slice uses of its allotment now: rings, watch entries, key slots, ordinal entries, scratch. -/
def useBytes (s : State) (n : Nat) : Bytes :=
  [(sliceRings s n).length, s.rings.countP (fun e => e.2.ctx.slice == n && e.2.watchEntry), volatileSlots s n,
   s.res.ordinals.countP (fun e => e.slice == n), scratchUsed s n].flatMap (leBytes 4)

/-- The SLC_n_FAULT record: the cause, and the completion that could not be written (R97). -/
def faultBytes (x : Slice) : Bytes :=
  leBytes 1 x.faultCause ++ (match x.record with
    | some r => [1] ++ leBytes 1 r.status ++ leBytes 2 r.ring ++ leBytes 2 r.epoch ++ leBytes 6 r.seq
    | none => zeros 12)

/-- What SLICE_QUERY tells (R97, R104): state, allotments, current use and the SLC_n_FAULT record. -/
def queryFacts (s : State) (n : Nat) : Bytes :=
  let x := sliceOf s n
  leBytes 1 (sliceCode x.st) ++ allotBytes (allotOf s.cfg.cur n) ++ allotBytes x.held ++ useBytes s n ++ faultBytes x

/-- SLICE_QUERY (R104): the block's layout is not given, so its bytes are a free function of what it tells (log entry 33). -/
def execSliceQuery (io : MbxIo) (s : State) : Res :=
  runMailbox 0x0105 anyReq (fun q s =>
    if argsFrom q 0 ∨ 255 < q.target then (.reply { code := rBadParam }, s)
    else match outputFault s q.param 256 with
      | some a => (.reply a, s)
      | none => writeOutput s q.param ((List.range 256).map (Config.queryByte (queryFacts s q.target))) io.write { code := rOk }) s

end Sys2Proof.Machine
end

