-- ==== Sys2Proof/Machine/RingCmds.lean ====
section
/-! DEFINITION. RING_ENABLE, RING_DISABLE with the end of its drain, and RING_RESUME (R92, R108 to R112, R115, R127, R181, R510 to R512,
R580, R594, R595, R597). -/
namespace Sys2Proof.Machine

/-- The ring's state and surroundings refuse RING_ENABLE and RING_RESUME (R111). -/
def ringRefused (s : State) (r : Nat) : Bool :=
  (ringOf s r).st != .disabled || !s.glb.s0Bound || !s.glb.rctxLoLocked || !s.glb.rctxHiLocked ||
    (match ringOwner s r with
     | some n => decide (4096 ≤ r) || (sliceOf s n).st != .active
     | none => true)

/-- The ring's context entry, read through slice 0. -/
def readContext (s : State) (r : Nat) (out : ReadOutcome) : Input × State :=
  let a := rctxBase s + 256 * r
  if !inWindows (windowsOf s.cfg.cur 0) true a 256 then (.fail { code := rBadParam }, s) else readInput s a 256 out

/-- Field checks of a context. -/
def contextFault (s : State) (r : Nat) (b : Bytes) : Bool :=
  let n := (ringOwner s r).getD 0
  !ctxInRange b n (allotOf s.cfg.cur n) || ownOverlap s (ctxFrom b)

/-- A ring as its context records it. -/
def recordedRing (s : State) (r : Nat) (b : Bytes) : Ring :=
  { ctx := ctxFrom b, st := .enabled, epoch := field b 0x80 2 % 2 ^ 15, cidx := BitVec.ofNat 32 (field b 0x84 4)
    nextSeq := BitVec.ofNat 48 (field b 0x88 8), cqidx := BitVec.ofNat 32 (field b 0x90 4), dbErr := field b 0x94 4
    cad := { (ringOf s r).cad with lost := 0, staged := none } }

/-- Enables a ring in its next epoch; what accepted work it had is abandoned (R111, R510, R512). -/
def enableRing (s : State) (r : Nat) (b : Bytes) : State :=
  let x := recordedRing s r b
  let s := abandonIntents s (fun _ q => q == r)
  openRingNow s r { x with epoch := epochAfter x.epoch, cidx := 0, nextSeq := 0, cqidx := 0, prod := 0, nextCpl := 0 }

/-- RING_ENABLE (R109, R111): the reply waits for the response to its context write-back (R110). -/
def execRingEnable (io : MbxIo) (s : State) : Res :=
  runMailbox 0x0201 anyReq (fun q s =>
    if ringRefused s q.target then (.reply { code := rWrongState }, s)
    else if argsFrom q 0 then (.reply { code := rBadParam }, s)
    else match readContext s q.target io.read with
      | (.fail a, s) => (.reply a, s)
      | (.data b, s) =>
        if contextFault s q.target b ∨ !allZero (subBytes b 0xA0 96) then (.reply { code := rBadParam }, s)
        else if ctxInUse s q.target (ctxFrom b) then (.reply { code := rInUse }, s)
        else (.park, enableRing s q.target b)) s

/-- Sets a ring draining: it fetches no more and its cadence stops (R111, R181). What it drops before acceptance may leave a slice
fault behind (R95). -/
def drainRing (s : State) (r : Nat) : State :=
  let c := droppedCause s r
  let s := stopFetching (stopCadence s r) r
  let s := writeBack (updRing s r (fun x => { x with st := .draining })) r
  if c = 0 then s else sliceFault s (ringOf s r).ctx.slice c

/-- RING_DISABLE (R111): the reply waits for the drain. -/
def execRingDisable (s : State) : Res :=
  runMailbox 0x0202 anyReq (fun q s =>
    match (ringOf s q.target).st with
    | .disabled => (.reply { code := rWrongState }, s)
    | .draining => if argsFrom q 0 then (.reply { code := rBadParam }, s) else (.park, s)
    | .enabled => if argsFrom q 0 then (.reply { code := rBadParam }, s) else (.park, drainRing s q.target)) s

/-- RING_DRAIN_DONE (R111, R509): a draining ring has nothing left; it takes STATE 0 with a write-back, whose response releases the
reply. -/
def execRingDrainDone (ring : Nat) (s : State) : Res :=
  if pastStart s ∧ drained s ring then .next (closeRing s ring) else .next s

/-- Descriptor and completion indices of a RING_RESUME: H, D and P. -/
def resumeArg (q : Req) (n : Nat) : W32 := BitVec.ofNat 32 (argOf q n)

/-- The checks of RING_RESUME on a context that has been read. -/
def resumeFault (s : State) (q : Req) (b : Bytes) : Option Ans :=
  let c := ctxFrom b
  if field b 0x82 2 = 0 then some { code := rWrongState }
  else if contextFault s q.target b ∨ 2 ^ c.sizeLog2 < (resumeArg q 2 - resumeArg q 1).toNat then some { code := rBadParam }
  else if ctxInUse s q.target c then some { code := rInUse }
  else none

/-- The reads of the walk go out with the values of the ring's slice (R42, R597), one for each slot that the command's operand holds. -/
def walkNotes (s : State) (c : RingCtx) (w : WalkIo) : State :=
  let s := w.descriptors.foldl (fun s e => emit s (readNote s c.slice (c.sqBase + 64 * e.1) 64)) s
  w.completions.foldl (fun s e => emit s (readNote s c.slice (c.cqBase + slotSize c * e.1) (slotSize c))) s

/-- What a failed read of the walk replies (R597). -/
def walkFault (w : WalkIo) : Option Ans :=
  match w.failed with
  | some (.bad c) => some (dmaFault c.toNat)
  | some .event => some (dmaFault 8)
  | _ => none

/-- Submissions at the front of the walk whose completions host software still reads. -/
def leftCount (r : Nat) (x : Ring) (w : WalkIo) (p : W32) : Nat → W32 → W32 → State → Nat
  | 0, _, _, _ => 0
  | n + 1, i, c, s =>
    let bs := walkChain x.ctx w p 16 i
    if i = p ∨ !wholeChain bs ∨ !slotComplete x w (walkJob s r x i c bs) then 0
    else 1 + leftCount r x w p n (i + BitVec.ofNat 32 bs.length) (c + 1) s

/-- Resumes a ring in its recorded epoch (R510, R511). -/
def resumeRing (s : State) (q : Req) (b : Bytes) (w : WalkIo) : State :=
  let r := q.target
  let x := recordedRing s r b
  let p := resumeArg q 2
  let h := resumeArg q 0
  let n := leftCount r x w p 65536 (resumeArg q 1) h s
  let s := setRing s r { x with cqidx := h + BitVec.ofNat 32 n }
  let (s, i, c) := walkFrom r x w p 65536 (resumeArg q 1) h s
  let e := seqAt x.cidx i x.nextSeq.toNat x.epoch
  let s := openRingNow s r { ringOf s r with
    cidx := i, epoch := e.1, nextSeq := BitVec.ofNat 48 e.2, prod := p, nextCpl := c }
  fetchPump (sequencer (abandonIntents s (fun _ k => k == r)) r)

/-- RING_RESUME (R510, R511, R595, R597): only after a cold start; the reply waits for the response to its write-back (R110). -/
def execRingResume (io : MbxIo) (walk : WalkIo) (s : State) : Res :=
  runMailbox 0x0203 anyReq (fun q s =>
    if ringRefused s q.target ∨ s.pwr.startKind ≠ 1 then (.reply { code := rWrongState }, s)
    else if argsFrom q 3 then (.reply { code := rBadParam }, s)
    else match readContext s q.target io.read with
      | (.fail a, s) => (.reply a, s)
      | (.data b, s) =>
        match resumeFault s q b with
        | some a => (.reply a, s)
        | none =>
          let s := walkNotes s (ctxFrom b) walk
          match walkFault walk with
          | some a => (.reply a, s)
          | none => (.park, resumeRing s q b walk)) s

end Sys2Proof.Machine
end

