-- ==== Sys2Proof/Machine/Timing.lean ====
section
/-! DEFINITION. The ends of engine work: segments of lanes, engines, the Anise grid (R167, R183 to R188, R283, R289, R306,
R310). -/
namespace Sys2Proof.Machine

/-! ## Segments (R101, R167, R210, R220) -/

/-- Output of the segment just ended that may be written, after what earlier segments wrote. -/
def segmentOutput (j : Job) (d : Desc) (key : Bytes) : List (Nat × Bytes) :=
  let a := dstAddr j
  if family d.opcode ≠ 0x01 ∨ isHandle a then []
  else
    let b := (cipherPrefix { j with segDone := j.segDone + 1 } d key).drop j.written
    if b = [] then [] else [(a + j.written, b)]

/-- A segment that is not the last ends: its output goes out, the lane is freed, and the next segment waits for a lane of
its own, unless the job is to stop here. -/
def endSegment (s : State) (j : Job) : State :=
  let d := stepEff j
  let key := match j.loaded with
    | some k => k.material
    | none => []
  let ws := segmentOutput j d key
  match issueResults s j ws with
  | none => failStep (countWindow s j.slice) j { status := stWindow }
  | some s =>
    let s := freeParts (chargeRest s j d ([], [])) j
    let j : Job := { j with
      charged := (0, 0), part := none, more := [], written := j.written + (ws.map (fun w => w.2.length)).sum, segDone := j.segDone + 1
      asked := j.asked.filter (· != .src), loaded := none }
    match j.abort, j.bad with
    | some e, _ => endWith s j e
    | none, some e => failStep s j e
    | none, none => makeReady s j

/-! ## Engines' ends and the grid -/

/-- ENGINE_FINISH: the engine of a computed step ends. Without grid timing its results are due at once; with it, the end
of the check in progress on the first or the second part is noted (R185). -/
def execEngineFinish (job : Nat) (second : Bool) (s : State) : Res :=
  match jobOf s job with
  | none => .next s
  | some j =>
    if !mainOn s ∨ j.phase ≠ .computed then .next s
    else if !timed j then (if second then .next s else .next (afterRelease s j (now s)))
    else if second then
      if j.t2.classes ≠ [] ∧ j.t2.ended = none then .next (setJob s { j with t2 := { j.t2 with ended := some (now s) } }) else .next s
    else if j.t1.classes ≠ [] ∧ j.t1.ended = none then .next (setJob s { j with t1 := { j.t1 with ended := some (now s) } })
    else .next s

/-- Grid point of a check: the smallest m of at least `blocks` for which start + m G is no earlier than the end (R185,
R306). -/
def gridPoint (start g blocks ended : Nat) : Nat := max blocks (max 1 (ceilDiv (ended - start) (max 1 g)))

/-- One part's share when its grid point has come: the class released, whether it overran, and the release time. -/
structure Released where
  timed : Timed
  cls : Nat
  overrun : Bool
  time : Nat
  deriving DecidableEq, Repr

def releaseOf (cfg : CfgImage) (t : Nat) (x : Timed) : Option Released :=
  match x.classes, x.ended with
  | c :: rest, some e =>
    let g := gridEntry cfg c
    let m := gridPoint x.start g x.blocks e
    let r := x.start + m * g
    if r ≤ t then some ⟨{ classes := rest, start := r, blocks := 1 }, c, decide (x.blocks < m), r⟩ else none
  | _, _ => none

/-- Counts an overrun of a class (R186). -/
def countOverrun (s : State) (r : Released) : State :=
  if r.overrun then { s with sched := { s.sched with gridOvr := bump s.sched.gridOvr r.cls (2 ^ 32 - 1) } } else s

/-- Releases the first part's check if its point has come. -/
def releaseFirst (s : State) (j : Job) : State × Job × Nat :=
  match releaseOf (cfgOf s j.gen) (now s) j.t1 with
  | some r => (countOverrun s r, { j with t1 := r.timed, gridOverrun := j.gridOverrun || r.overrun }, r.time)
  | none => (s, j, 0)
/-- Releases the second part's check if its point has come. -/
def releaseSecond (s : State) (j : Job) : State × Job × Nat :=
  match releaseOf (cfgOf s j.gen) (now s) j.t2 with
  | some r => (countOverrun s r, { j with t2 := r.timed, gridOverrun := j.gridOverrun || r.overrun }, r.time)
  | none => (s, j, 0)

/-- GRID_RELEASE (R185): at its grid point a check is released; the next check of the part begins there (R283), and after
the last of both parts the results are due. -/
def execGridRelease (job : Nat) (s : State) : Res :=
  match jobOf s job with
  | none => .next s
  | some j =>
    if !mainOn s ∨ j.phase ≠ .computed ∨ !timed j then .next s
    else
      let (s, j, r1) := releaseFirst s j
      let (s, j, r2) := releaseSecond s j
      if r1 = 0 ∧ r2 = 0 then .next s
      else
        let j := { j with releaseTime := max j.releaseTime (max r1 r2) }
        let s := setJob s j
        if timed j then .next s else .next (afterRelease s j j.releaseTime)

end Sys2Proof.Machine
end

