-- ==== Sys2Proof/Machine/SealLanes.lean ====
section
/-! DEFINITION. The ends of lane segments, those of the core's own store blocks among them (R167, R204, R205, R454, R466). -/
namespace Sys2Proof.Machine

/-! ## Store blocks (R454, R459, R466) -/

/-- A lane has sealed or opened its block: a WRITE goes out, a READ's content is taken. -/
def endSeal (s : State) (n : Nat) : State :=
  match s.store.sealing.find? (fun t => t.lane == some n) with
  | none => s
  | some t =>
    let s := updPart s .saffron n (fun p => { p with own := false })
    let s := { s with store := { s.store with sealing := s.store.sealing.filter (fun x => x.lane != some n) } }
    if t.dropped then s
    else match t.req.op with
      | .read => pumpGrants (storePump (readAnswered s t.req t.data))
      | .write | .trim => storeWant s [t.req]

/-! ## Segments (R167) -/

/-- SEGMENT_END (R167): a lane reaches the end of a segment that is not its job's last, or of a store block. -/
def execSegmentEnd (kind : Engine) (part : Nat) (s : State) : Res :=
  if kind = .saffron ∧ (partOf s kind part).own then .next (if mainOn s then endSeal s part else s)
  else match (partOf s kind part).busy.bind (jobOf s) with
  | some j =>
    if mainOn s ∧ j.part = some (kind, part) ∧ j.phase = .operands ∧ isSegmented (stepDesc j).opcode ∧ !lastSegment j then
      .next (endSegment s j)
    else .next s
  | none => .next s

end Sys2Proof.Machine
end

