-- ==== Sys2Proof/Machine/StoreCmds.lean ====
section
/-! DEFINITION. The mailbox commands of the store (R452, R457, R468, R469). -/
namespace Sys2Proof.Machine

/-! ## STORE_ATTACH (R457) -/

/-- The attach parameter block. -/
def attachFrom (b : Bytes) : Attach :=
  let t := field b 0x30 4
  { rqBase := field b 0 8, rsBase := field b 8 8, rsDb := field b 0x10 8, coreIdx := field b 0x18 8, bufBase := field b 0x20 8
    bufCount := field b 0x28 4, rqLog2 := field b 0x2C 1, watch := bit (field b 0x2D 1) 0, vector := field b 0x2E 2
    timeoutMs := if t = 0 then 100 else t, pollUs := field b 0x34 2 }

/-- Every field is in range, and every range lies in slice 0's windows. -/
def attachOk (s : State) (b : Bytes) (a : Attach) : Bool :=
  let w := windowsOf s.cfg.cur 0
  let fields := decide (6 ≤ a.rqLog2) && decide (a.rqLog2 ≤ 16) && decide (256 ≤ a.bufCount) && decide (a.bufCount ≤ 65536) &&
    decide (field b 0x2D 1 ≤ 1) && (decide (a.vector ≤ 15) || a.vector == 0xFFFF) && decide (a.timeoutMs ≤ 60000) &&
    decide (1 ≤ a.pollUs) && decide (a.pollUs ≤ 1000) && allZero (subBytes b 0x36 10)
  let aligned := a.rqBase % 4096 == 0 && a.rsBase % 4096 == 0 && a.rsDb % 8 == 0 && a.coreIdx % 8 == 0 && a.bufBase % 4096 == 0
  fields && aligned && inWindows w true a.rqBase (64 * 2 ^ a.rqLog2) && inWindows w false a.rsBase (16 * 2 ^ a.rqLog2) &&
    inWindows w false a.rsDb 8 && inWindows w true a.coreIdx 8 && inWindowsRW w a.bufBase (4096 * a.bufCount)

/-- Attaches the store: earlier requests and their buffers are dropped; the TRIMs of a format in progress are issued again. -/
def attachStore (s : State) (a : Attach) : State :=
  let st := { s.store with attach := some a, nextRid := 0, respCons := 0, outstanding := [], unissued := [], bufsUsed := []
                           lastMsg := none, msgDeferred := false, failed := [] }
  let s := { s with store := st }
  match s.store.formatLeft with
  | some (_, o) => if o = 0 then s else storeWant { s with store := { s.store with formatLeft := some (9, o) } } formatTrims
  | none => archiveAgain s

/-- STORE_ATTACH (R457, R468). -/
def execStoreAttach (io : MbxIo) (s : State) : Res :=
  runMailbox 0x0400 anyReq (fun q s =>
    if s.store.attach.isSome then (.reply { code := rWrongState }, s)
    else if argsFrom q 0 then (.reply { code := rBadParam }, s)
    else match readInput s q.param 64 io.read with
      | (.fail a, s) => (.reply a, s)
      | (.data b, s) =>
        if attachOk s b (attachFrom b) then (.reply { code := rOk }, attachStore s (attachFrom b))
        else (.reply { code := rBadParam }, s)) s

/-! ## STORE_DETACH (R468) -/

/-- A batch has all its WRITEs answered: its ROOT record is being committed. -/
def rootPending (s : State) : Bool :=
  match s.store.committing with
  | some b => b.writes == []
  | none => false

/-- Aborts the open batch, and the one being written unless its ROOT record is on its way (R463). -/
def abortOpen (s : State) (sub : Nat) : State :=
  let s := abortGathering s sub
  if rootPending s then s else abortBatch s sub

/-- Stops issuing and drops the attach. -/
def detachStore (s : State) : State :=
  let s := { s with store := { s.store with attach := none, unissued := [], msgDeferred := false } }
  abortOpen s 0x0502

/-- STORE_DETACH (R468). -/
def execStoreDetach (s : State) : Res :=
  runMailbox 0x0401 anyReq (fun q s =>
    if s.store.attach.isNone then (.reply { code := rWrongState }, s)
    else if argsFrom q 0 then (.reply { code := rBadParam }, s)
    else (.reply { code := rOk }, detachStore s)) s

/-! ## STORE_STATUS (R468) -/

/-- The 64 bytes of the store's status. -/
def storeBlock (s : State) : Bytes :=
  [b2n s.store.attach.isSome, counterOf s 3, s.store.outstanding.length, s.store.committed, s.store.aborted, s.store.timeouts,
    s.store.tagFails, s.store.misses].flatMap (leBytes 8)

def execStoreStatus (io : MbxIo) (s : State) : Res :=
  runMailbox 0x0402 anyReq (fun q s => reportBlock q io 64 storeBlock s) s

/-! ## STORE_FORMAT (R469) -/

/-- A format starts under its KIND 7 intent, whose argument is the new root version; open batches end. -/
def startFormat (s : State) : State :=
  let s := { s with store := { s.store with formatLeft := some (9, 0) } }
  enqueue (abortOpen s 0x0502) (.intent 7 0 0 0 0 0 0 (counterOf s 3 + 1) 0) (.formatRoot 0)

/-- STORE_FORMAT (R468, R469): it starts once no ROOT record is on its way, and replies when its DONE is committed. -/
def execStoreFormat (s : State) : Res :=
  if rootPending s then .next s
  else runMailbox 0x0403 anyReq (fun q s =>
    let outside := s.keys.lifecycle != .blank && s.keys.lifecycle != .enrolled
    if outside ∨ s.store.attach.isNone then (.reply { code := rWrongState }, s)
    else if argsFrom q 0 then (.reply { code := rBadParam }, s)
    else if s.store.formatLeft.isSome then (.reply { code := rWrongState }, s)
    else (.park, startFormat s)) s

/-! ## STORE_SNAPSHOT (R452, R468) -/

/-- STORE_SNAPSHOT: `content` is the slot's 320 blocks as the core opened them. -/
def execStoreSnapshot (io : MbxIo) (content : Bytes) (s : State) : Res :=
  runMailbox 0x0404 anyReq (fun q s =>
    if argsFrom q 0 then (.reply { code := rBadParam }, s)
    else match readInput s q.param 16 io.read with
      | (.fail a, s) => (.reply a, s)
      | (.data b, s) =>
        let slot := field b 0 4
        let buf := field b 8 8
        if 3276 ≤ slot then (.reply { code := rBadParam }, s)
        else match outputFault s buf (1280 * 1024) with
          | some a => (.reply a, s)
          | none =>
            if !s.store.snapshots.contains slot ∨ !storeUp s then (.reply { code := rWrongState }, s)
            else writeOutput s buf (fit (1280 * 1024) content) io.write { code := rOk }) s

end Sys2Proof.Machine
end

