-- ==== Sys2Proof/Machine/TreeCmds.lean ====
section
/-! DEFINITION. The ends of background builds of the trees of stateful keys (R313, R314, R463). -/
namespace Sys2Proof.Machine

/-- The record of a stateful key and its material. -/
def treeKey (s : State) (h : Nat) : Option (KeyRec × Bytes) :=
  match s.keys.smk, (findRecord s h).1 with
  | some (k, _), .have r => (openRecord k r).map (fun m => (r, m))
  | _, _ => none

/-- The pages of a built tree, with the parent's signature of its root, go into the open batch (R314). -/
def storeTree (s : State) (r : KeyRec) (m : Bytes) (h l : Nat) : State :=
  let x := hbsOf s h
  let pages := treeContent ⟨r.alg, r.param, m, l, buildTree x l⟩ x.first
  joinBatch (changeObjects s pages) (fun b => { b with trees := b.trees ++ [(h, l)], kept := b.kept ++ pages.map (·.1) })

/-- A tree whose lane has reached the end of its last leaf is stored, and the lane is free; without the store or the key's record it is
built again. -/
def endBuild (s : State) (b : TreeBuild) (n : Nat) : State :=
  let s := freeBuildLane s n
  if !storeUp s then abandonBuild s n
  else match treeKey s b.handle with
    | none => abandonBuild (findRecord s b.handle).2 n
    | some (r, m) =>
      let s := setBuilds s (s.res.builds.filter (fun q => q.handle != b.handle || q.layer != b.layer))
      storeTree s r m b.handle b.layer

/-- TREE_BUILD_DONE (R314): a background build ends on its hash lane, and its tree is stored before its first use. -/
def execTreeBuildDone (handle layer : Nat) (s : State) : Res :=
  match s.res.builds.find? (fun b => b.handle == handle && b.layer == layer) with
  | some b =>
    (match b.lane with
     | some n => .next (if mainOn s then noteWork (endBuild s b n) else s)
     | none => .next s)
  | none => .next s

end Sys2Proof.Machine
end

