-- ==== Sys2Proof/Machine/Dispatch.lean ====
section
/-! DEFINITION. One arm for each command: a direct call of its meaning. -/
namespace Sys2Proof.Machine

/-- The effect of a command on everything but the queue. -/
def exec (i : Instr) (s : State) : Host.Outcome State Fault Refusal :=
  match i with
  | .fabricReadResponse port tag code data => Sys2Proof.Machine.execFabricReadResponse port tag code data s
  | .fabricWriteResponse port tag code => Sys2Proof.Machine.execFabricWriteResponse port tag code s
  | .faultEvent port ev => Sys2Proof.Machine.execFaultEvent port ev s
  | .snoopNotification port line => Sys2Proof.Machine.execSnoopNotification port line s
  | .pollIntervalExpiry ring => Sys2Proof.Machine.execPollIntervalExpiry ring s
  | .poolPollExpiry ring => Sys2Proof.Machine.execPoolPollExpiry ring s
  | .admission job => Sys2Proof.Machine.execAdmission job s
  | .jobDispatch kind part => Sys2Proof.Machine.execJobDispatch kind part s
  | .segmentEnd kind part => Sys2Proof.Machine.execSegmentEnd kind part s
  | .engineFinish job second => Sys2Proof.Machine.execEngineFinish job second s
  | .gridRelease job => Sys2Proof.Machine.execGridRelease job s
  | .coalesceTimeout ring => Sys2Proof.Machine.execCoalesceTimeout ring s
  | .contextWritebackTimer ring => Sys2Proof.Machine.execContextWritebackTimer ring s
  | .agentDoorbell link ring pidx => Sys2Proof.Machine.execAgentDoorbell link ring pidx s
  | .completionNoticeTaken link => Sys2Proof.Machine.execCompletionNoticeTaken link s
  | .quiesceRequest port => Sys2Proof.Machine.execQuiesceRequest port s
  | .quiesceRelease port => Sys2Proof.Machine.execQuiesceRelease port s
  | .clockWindowEnd port edges => Sys2Proof.Machine.execClockWindowEnd port edges s
  | .unfence port value => Sys2Proof.Machine.execUnfence port value s
  | .registerWrite place value => Sys2Proof.Machine.execRegisterWrite place value s
  | .badRegisterAccess offset shape => Sys2Proof.Machine.execBadRegisterAccess offset shape s
  | .loRegisterRead path offset => Sys2Proof.Machine.execLoRegisterRead path offset s
  | .feAddrLoRead port => Sys2Proof.Machine.execFeAddrLoRead port s
  | .s0BindWrite value => Sys2Proof.Machine.execS0BindWrite value s
  | .pwrVddMinWrite value => Sys2Proof.Machine.execPwrVddMinWrite value s
  | .vddHigh mv => Sys2Proof.Machine.execVddHigh mv s
  | .pwrGoodFall => Sys2Proof.Machine.execPwrGoodFall s
  | .rstNAssert ns => Sys2Proof.Machine.execRstNAssert ns s
  | .rstNRelease => Sys2Proof.Machine.execRstNRelease s
  | .longReset => Sys2Proof.Machine.execLongReset s
  | .maceAssert => Sys2Proof.Machine.execMaceAssert s
  | .maceRelease => Sys2Proof.Machine.execMaceRelease s
  | .maceHeldEpisode => Sys2Proof.Machine.execMaceHeldEpisode s
  | .vaonChangeover mv => Sys2Proof.Machine.execVaonChangeover mv s
  | .sliceCreate io => Sys2Proof.Machine.execSliceCreate io s
  | .sliceModify io => Sys2Proof.Machine.execSliceModify io s
  | .sliceReset => Sys2Proof.Machine.execSliceReset s
  | .sliceResetDone slice => Sys2Proof.Machine.execSliceResetDone slice s
  | .sliceDestroy => Sys2Proof.Machine.execSliceDestroy s
  | .sliceReleaseDone slice => Sys2Proof.Machine.execSliceReleaseDone slice s
  | .sliceQuery io => Sys2Proof.Machine.execSliceQuery io s
  | .ringEnable io => Sys2Proof.Machine.execRingEnable io s
  | .ringDisable => Sys2Proof.Machine.execRingDisable s
  | .ringDrainDone ring => Sys2Proof.Machine.execRingDrainDone ring s
  | .ringResume io walk => Sys2Proof.Machine.execRingResume io walk s
  | .cadenceStart ring => Sys2Proof.Machine.execCadenceStart ring s
  | .cadenceStop ring => Sys2Proof.Machine.execCadenceStop ring s
  | .cadenceOrigin ring => Sys2Proof.Machine.execCadenceOrigin ring s
  | .periodEnd ring => Sys2Proof.Machine.execPeriodEnd ring s
  | .cadenceLost ring => Sys2Proof.Machine.execCadenceLost ring s
  | .trefStop => Sys2Proof.Machine.execTrefStop s
  | .trefReturn => Sys2Proof.Machine.execTrefReturn s
  | .cfgCommit value contexts => Sys2Proof.Machine.execCfgCommit value contexts s
  | .commitTakesEffect table => Sys2Proof.Machine.execCommitTakesEffect table s
  | .tbGridDefault value => Sys2Proof.Machine.execTbGridDefault value s
  | .nop job => Sys2Proof.Machine.execNop job s
  | .fence job => Sys2Proof.Machine.execFence job s
  | .cbcEnc job => Sys2Proof.Machine.execCbcEnc job s
  | .cbcDec job => Sys2Proof.Machine.execCbcDec job s
  | .cfbEnc job => Sys2Proof.Machine.execCfbEnc job s
  | .cfbDec job => Sys2Proof.Machine.execCfbDec job s
  | .ofbEnc job => Sys2Proof.Machine.execOfbEnc job s
  | .ofbDec job => Sys2Proof.Machine.execOfbDec job s
  | .ctrEnc job => Sys2Proof.Machine.execCtrEnc job s
  | .ctrDec job => Sys2Proof.Machine.execCtrDec job s
  | .gcmEnc job => Sys2Proof.Machine.execGcmEnc job s
  | .gcmDec job => Sys2Proof.Machine.execGcmDec job s
  | .ccmEnc job => Sys2Proof.Machine.execCcmEnc job s
  | .ccmDec job => Sys2Proof.Machine.execCcmDec job s
  | .xtsEnc job => Sys2Proof.Machine.execXtsEnc job s
  | .xtsDec job => Sys2Proof.Machine.execXtsDec job s
  | .kwWrap job => Sys2Proof.Machine.execKwWrap job s
  | .kwUnwrap job => Sys2Proof.Machine.execKwUnwrap job s
  | .kwpWrap job => Sys2Proof.Machine.execKwpWrap job s
  | .kwpUnwrap job => Sys2Proof.Machine.execKwpUnwrap job s
  | .sha224 job => Sys2Proof.Machine.execSha224 job s
  | .sha256 job => Sys2Proof.Machine.execSha256 job s
  | .sha384 job => Sys2Proof.Machine.execSha384 job s
  | .sha512 job => Sys2Proof.Machine.execSha512 job s
  | .sha512_256 job => Sys2Proof.Machine.execSha512_256 job s
  | .sha3_224 job => Sys2Proof.Machine.execSha3_224 job s
  | .sha3_256 job => Sys2Proof.Machine.execSha3_256 job s
  | .sha3_384 job => Sys2Proof.Machine.execSha3_384 job s
  | .sha3_512 job => Sys2Proof.Machine.execSha3_512 job s
  | .shake128 job => Sys2Proof.Machine.execShake128 job s
  | .shake256 job => Sys2Proof.Machine.execShake256 job s
  | .cshake128 job => Sys2Proof.Machine.execCshake128 job s
  | .cshake256 job => Sys2Proof.Machine.execCshake256 job s
  | .kmac128 job => Sys2Proof.Machine.execKmac128 job s
  | .kmac256 job => Sys2Proof.Machine.execKmac256 job s
  | .kmac128Verify job => Sys2Proof.Machine.execKmac128Verify job s
  | .kmac256Verify job => Sys2Proof.Machine.execKmac256Verify job s
  | .hmacSha224 job => Sys2Proof.Machine.execHmacSha224 job s
  | .hmacSha256 job => Sys2Proof.Machine.execHmacSha256 job s
  | .hmacSha384 job => Sys2Proof.Machine.execHmacSha384 job s
  | .hmacSha512 job => Sys2Proof.Machine.execHmacSha512 job s
  | .hmacSha512_256 job => Sys2Proof.Machine.execHmacSha512_256 job s
  | .hmacSha224Verify job => Sys2Proof.Machine.execHmacSha224Verify job s
  | .hmacSha256Verify job => Sys2Proof.Machine.execHmacSha256Verify job s
  | .hmacSha384Verify job => Sys2Proof.Machine.execHmacSha384Verify job s
  | .hmacSha512Verify job => Sys2Proof.Machine.execHmacSha512Verify job s
  | .hmacSha512_256Verify job => Sys2Proof.Machine.execHmacSha512_256Verify job s
  | .mulacc job => Sys2Proof.Machine.execMulacc job s
  | .mulaccVec job => Sys2Proof.Machine.execMulaccVec job s
  | .rsaPssSign job => Sys2Proof.Machine.execRsaPssSign job s
  | .rsaV15Sign job => Sys2Proof.Machine.execRsaV15Sign job s
  | .rsaPssVerify job => Sys2Proof.Machine.execRsaPssVerify job s
  | .rsaV15Verify job => Sys2Proof.Machine.execRsaV15Verify job s
  | .rsaOaepEncrypt job => Sys2Proof.Machine.execRsaOaepEncrypt job s
  | .rsaOaepDecrypt job => Sys2Proof.Machine.execRsaOaepDecrypt job s
  | .ecdsaSign job => Sys2Proof.Machine.execEcdsaSign job s
  | .ecdsaVerify job => Sys2Proof.Machine.execEcdsaVerify job s
  | .ecKeygen job => Sys2Proof.Machine.execEcKeygen job s
  | .ecdh job => Sys2Proof.Machine.execEcdh job s
  | .eddsaSign job => Sys2Proof.Machine.execEddsaSign job s
  | .eddsaVerify job => Sys2Proof.Machine.execEddsaVerify job s
  | .eddsaBatchVerify job => Sys2Proof.Machine.execEddsaBatchVerify job s
  | .eddsaKeygen job => Sys2Proof.Machine.execEddsaKeygen job s
  | .xdh job => Sys2Proof.Machine.execXdh job s
  | .xdhKeygen job => Sys2Proof.Machine.execXdhKeygen job s
  | .curveLoad job => Sys2Proof.Machine.execCurveLoad job s
  | .curveUnload job => Sys2Proof.Machine.execCurveUnload job s
  | .hybridSign job => Sys2Proof.Machine.execHybridSign job s
  | .hybridVerify job => Sys2Proof.Machine.execHybridVerify job s
  | .hybridKeygen job => Sys2Proof.Machine.execHybridKeygen job s
  | .mlkemKeygen job => Sys2Proof.Machine.execMlkemKeygen job s
  | .mlkemEncaps job => Sys2Proof.Machine.execMlkemEncaps job s
  | .mlkemDecaps job => Sys2Proof.Machine.execMlkemDecaps job s
  | .mldsaKeygen job => Sys2Proof.Machine.execMldsaKeygen job s
  | .mldsaSign job => Sys2Proof.Machine.execMldsaSign job s
  | .mldsaVerify job => Sys2Proof.Machine.execMldsaVerify job s
  | .slhdsaKeygen job => Sys2Proof.Machine.execSlhdsaKeygen job s
  | .slhdsaSign job => Sys2Proof.Machine.execSlhdsaSign job s
  | .slhdsaVerify job => Sys2Proof.Machine.execSlhdsaVerify job s
  | .hykemKeygen job => Sys2Proof.Machine.execHykemKeygen job s
  | .hykemEncaps job => Sys2Proof.Machine.execHykemEncaps job s
  | .hykemDecaps job => Sys2Proof.Machine.execHykemDecaps job s
  | .hbsSign job => Sys2Proof.Machine.execHbsSign job s
  | .hbsVerify job => Sys2Proof.Machine.execHbsVerify job s
  | .hbsStatus job => Sys2Proof.Machine.execHbsStatus job s
  | .treeBuildDone handle layer => Sys2Proof.Machine.execTreeBuildDone handle layer s
  | .ordSign job => Sys2Proof.Machine.execOrdSign job s
  | .ordQuery job => Sys2Proof.Machine.execOrdQuery job s
  | .ordTargetConfig job => Sys2Proof.Machine.execOrdTargetConfig job s
  | .ordCheck job => Sys2Proof.Machine.execOrdCheck job s
  | .random job => Sys2Proof.Machine.execRandom job s
  | .randomPr job => Sys2Proof.Machine.execRandomPr job s
  | .reseed job => Sys2Proof.Machine.execReseed job s
  | .keyWrap job => Sys2Proof.Machine.execKeyWrap job s
  | .keyUnwrap job => Sys2Proof.Machine.execKeyUnwrap job s
  | .keyDerive job => Sys2Proof.Machine.execKeyDerive job s
  | .keyDestroy job => Sys2Proof.Machine.execKeyDestroy job s
  | .keyInfo job => Sys2Proof.Machine.execKeyInfo job s
  | .keyGenerate job => Sys2Proof.Machine.execKeyGenerate job s
  | .transportOffer job => Sys2Proof.Machine.execTransportOffer job s
  | .attest job => Sys2Proof.Machine.execAttest job s
  | .enrol job => Sys2Proof.Machine.execEnrol job s
  | .commission job => Sys2Proof.Machine.execCommission job s
  | .roster job => Sys2Proof.Machine.execRoster job s
  | .load job => Sys2Proof.Machine.execLoad job s
  | .generate job => Sys2Proof.Machine.execGenerate job s
  | .replace job => Sys2Proof.Machine.execReplace job s
  | .destroy job => Sys2Proof.Machine.execDestroy job s
  | .ackLog job => Sys2Proof.Machine.execAckLog job s
  | .policy job => Sys2Proof.Machine.execPolicy job s
  | .recover job => Sys2Proof.Machine.execRecover job s
  | .mdpStart path cmd => Sys2Proof.Machine.execMdpStart path cmd s
  | .mdpData path word => Sys2Proof.Machine.execMdpData path word s
  | .mdpFinal path cmd => Sys2Proof.Machine.execMdpFinal path cmd s
  | .mdpAbort path cmd => Sys2Proof.Machine.execMdpAbort path cmd s
  | .mdpBusyEnd => Sys2Proof.Machine.execMdpBusyEnd s
  | .mdpIdleLimit => Sys2Proof.Machine.execMdpIdleLimit s
  | .mdpExtLockWrite word => Sys2Proof.Machine.execMdpExtLockWrite word s
  | .mdpResultRead path index => Sys2Proof.Machine.execMdpResultRead path index s
  | .entropyStartupTestEnd source pass => Sys2Proof.Machine.execEntropyStartupTestEnd source pass s
  | .repetitionCountFailure source => Sys2Proof.Machine.execRepetitionCountFailure source s
  | .adaptiveProportionFailure source => Sys2Proof.Machine.execAdaptiveProportionFailure source s
  | .conditionedBlock katPass drbgKatPass => Sys2Proof.Machine.execConditionedBlock katPass drbgKatPass s
  | .internalReseed => Sys2Proof.Machine.execInternalReseed s
  | .entSrcMaskWrite value => Sys2Proof.Machine.execEntSrcMaskWrite value s
  | .ledgerCommitDone bank2 bank3 => Sys2Proof.Machine.execLedgerCommitDone bank2 bank3 s
  | .mramRefresh => Sys2Proof.Machine.execMramRefresh s
  | .poweredTimeMove => Sys2Proof.Machine.execPoweredTimeMove s
  | .archiveRetry => Sys2Proof.Machine.execArchiveRetry s
  | .logRateSecond => Sys2Proof.Machine.execLogRateSecond s
  | .persistStatus io => Sys2Proof.Machine.execPersistStatus io s
  | .logExport io => Sys2Proof.Machine.execLogExport io s
  | .storeAttach io => Sys2Proof.Machine.execStoreAttach io s
  | .storeDetach => Sys2Proof.Machine.execStoreDetach s
  | .storeStatus io => Sys2Proof.Machine.execStoreStatus io s
  | .storeFormat => Sys2Proof.Machine.execStoreFormat s
  | .storeSnapshot io content => Sys2Proof.Machine.execStoreSnapshot io content s
  | .batchStart => Sys2Proof.Machine.execBatchStart s
  | .storeResponse rid status data => Sys2Proof.Machine.execStoreResponse rid status data s
  | .storeTimeout rid => Sys2Proof.Machine.execStoreTimeout rid s
  | .mbxReqSubmit value => Sys2Proof.Machine.execMbxReqSubmit value s
  | .mbxRplPop value => Sys2Proof.Machine.execMbxRplPop value s
  | .unknownCommand => Sys2Proof.Machine.execUnknownCommand s
  | .ping => Sys2Proof.Machine.execPing s
  | .updateWrite io => Sys2Proof.Machine.execUpdateWrite io s
  | .updateCheck => Sys2Proof.Machine.execUpdateCheck s
  | .updateActivate => Sys2Proof.Machine.execUpdateActivate s
  | .updateAbandon => Sys2Proof.Machine.execUpdateAbandon s
  | .sensorRead io => Sys2Proof.Machine.execSensorRead io s
  | .sensorSample sample => Sys2Proof.Machine.execSensorSample sample s
  | .mbxMgmtRestart value => Sys2Proof.Machine.execMbxMgmtRestart value s
  | .watchdogExpiry => Sys2Proof.Machine.execWatchdogExpiry s
  | .pairHalt pc sp cause => Sys2Proof.Machine.execPairHalt pc sp cause s
  | .doubleFault pc sp cause => Sys2Proof.Machine.execDoubleFault pc sp cause s
  | .lockstepMismatch pc sp => Sys2Proof.Machine.execLockstepMismatch pc sp s
  | .restartComplete digestsMatch => Sys2Proof.Machine.execRestartComplete digestsMatch s
  | .selfTestPreconditionMet start => Sys2Proof.Machine.execSelfTestPreconditionMet start s
  | .selfTestTimeout => Sys2Proof.Machine.execSelfTestTimeout s
  | .rootDraw => Sys2Proof.Machine.execRootDraw s
  | .partTestStart kind part => Sys2Proof.Machine.execPartTestStart kind part s
  | .partTestEnd kind part pass => Sys2Proof.Machine.execPartTestEnd kind part pass s
  | .sheddingLevelDown vdd vddm => Sys2Proof.Machine.execSheddingLevelDown vdd vddm s
  | .sheddingLevelUp vdd vddm => Sys2Proof.Machine.execSheddingLevelUp vdd vddm s
  | .monitorSelfTest rail pass => Sys2Proof.Machine.execMonitorSelfTest rail pass s
  | .lightEvent sensor => Sys2Proof.Machine.execLightEvent sensor s
  | .lightSampleWindow sensors => Sys2Proof.Machine.execLightSampleWindow sensors s
  | .lightSensorSelfTest sensor pass => Sys2Proof.Machine.execLightSensorSelfTest sensor pass s
  | .vbatLow => Sys2Proof.Machine.execVbatLow s
  | .aonGap => Sys2Proof.Machine.execAonGap s
  | .sramParityError slice place => Sys2Proof.Machine.execSramParityError slice place s
  | .codewordFault kind part => Sys2Proof.Machine.execCodewordFault kind part s
  | .stallFault kind part => Sys2Proof.Machine.execStallFault kind part s
  | .coreWidePartFault part => Sys2Proof.Machine.execCoreWidePartFault part s
  | .mirrorJoin io => Sys2Proof.Machine.execMirrorJoin io s
  | .mirrorLeave => Sys2Proof.Machine.execMirrorLeave s
  | .mirrorTake io => Sys2Proof.Machine.execMirrorTake io s
  | .mirrorJournal io => Sys2Proof.Machine.execMirrorJournal io s
  | .mirrorStatus io => Sys2Proof.Machine.execMirrorStatus io s
  | .joinOffer io => Sys2Proof.Machine.execJoinOffer io s
  | .joinAccept io => Sys2Proof.Machine.execJoinAccept io s
  | .joinRefused io => Sys2Proof.Machine.execJoinRefused io s
  | .leaseRequest io => Sys2Proof.Machine.execLeaseRequest io s
  | .leaseGrant io => Sys2Proof.Machine.execLeaseGrant io s
  | .heartbeat io => Sys2Proof.Machine.execHeartbeat io s
  | .blockRequest io => Sys2Proof.Machine.execBlockRequest io s
  | .blockRecord io => Sys2Proof.Machine.execBlockRecord io s
  | .blockAck io => Sys2Proof.Machine.execBlockAck io s
  | .blockGrant io => Sys2Proof.Machine.execBlockGrant io s
  | .endLookup io => Sys2Proof.Machine.execEndLookup io s
  | .endReply io => Sys2Proof.Machine.execEndReply io s
  | .journalRequest io => Sys2Proof.Machine.execJournalRequest io s
  | .journalEntry io => Sys2Proof.Machine.execJournalEntry io s
  | .time io => Sys2Proof.Machine.execTime io s
  | .leave io => Sys2Proof.Machine.execLeave io s
  | .heartbeatTimeout => Sys2Proof.Machine.execHeartbeatTimeout s
  | .leaseRenewal => Sys2Proof.Machine.execLeaseRenewal s
  | .messageRepeat peer => Sys2Proof.Machine.execMessageRepeat peer s
  | .timeRequestTimer => Sys2Proof.Machine.execTimeRequestTimer s
  | .blockGrantTimeout job => Sys2Proof.Machine.execBlockGrantTimeout job s
  | .behindHoldTimeout job => Sys2Proof.Machine.execBehindHoldTimeout job s
  | .batteryRemoval => Sys2Proof.Machine.execBatteryRemoval s
  | .ledgerCreditGain => Sys2Proof.Machine.execLedgerCreditGain s
  | .cmdInvalid word => Sys2Proof.Machine.execCmdInvalid word s
  | .leaseExpiry => Sys2Proof.Machine.execLeaseExpiry s
  | .grantExpiry => Sys2Proof.Machine.execGrantExpiry s
  | .storeInterruptWindow => Sys2Proof.Machine.execStoreInterruptWindow s
  | .mirrorVectorWindow => Sys2Proof.Machine.execMirrorVectorWindow s
  | .mbxHeartbeatIncrement => Sys2Proof.Machine.execMbxHeartbeatIncrement s

end Sys2Proof.Machine
end

