-- ==== Sys2Proof/Safety.lean ====
section
/-! DEFINITION. What counts as a safe run of the block: the legal values that every step keeps, and what no step undoes. -/
namespace Sys2Proof.Machine

/-- Registers whose rules let only some values in hold one of them: MBX_WDT_TIMEOUT (R477), ENT_MIN_SOURCES (R345),
BST_CTRL.PERIOD (R504) the selection registers (R182, R241, R361, R504,
R540, R554) and the 256 bits of the OTP tamper thermometer (R25). -/
structure LegalRegisters (s : State) : Prop where
  watchdog : 1 ≤ s.mgmt.wdtTimeout ∧ s.mgmt.wdtTimeout ≤ 1000
  sources : 2 ≤ s.ent.minSources ∧ s.ent.minSources ≤ 8
  testPeriod : 1 ≤ s.pwr.bstPeriod ∧ s.pwr.bstPeriod ≤ 168
  drbgSelect : s.ent.drbgSel < 512
  latchSelect : s.pwr.latchSel < 16
  testSelect : s.pwr.bstSel < 2048
  cadenceSelect : s.glb.cadSel < 4096
  gridSelect : s.glb.gridSel < 256
  partSelect : s.glb.partSel < 2048
  measureSelect : s.mdp.measSel < 8
  tamper : s.per.otpTamper ≤ 256

/-- The image banks and the pair's memory are in canonical form (R23, R472, log entry 8). -/
def MemoriesCanonical (s : State) : Prop := memWf s.per.image0 = true ∧ memWf s.per.image1 = true ∧ memWf s.mgmt.mem = true

/-- No channel of a port has more requests outstanding than R44 allows: 32 reads, 64 writes. -/
def ChannelsFit (s : State) : Prop := ∀ (port : Nat) (write : Bool), outstanding s port write ≤ channelRoom write

/-- The reply queue holds at most 16 replies (R482). -/
def RepliesFit (s : State) : Prop := s.mgmt.replies.length ≤ 16

/-- The invariant of the block: every step from a state that has it leads to one that has it. -/
structure Legal (s : State) : Prop where
  registers : LegalRegisters s
  memories : MemoriesCanonical s
  channels : ChannelsFit s
  replies : RepliesFit s

/-- OTP bits only ever become programmed: what is programmed in one state is programmed in the other (R25, R405, R444). -/
structure OtpKept (s t : State) : Prop where
  enrolled : s.per.otpEnrolled = true → t.per.otpEnrolled = true
  retired : s.per.otpRetired = true → t.per.otpRetired = true
  degraded : s.per.otpDegraded = true → t.per.otpDegraded = true
  tamper : min 256 s.per.otpTamper ≤ t.per.otpTamper
  floor : s.per.otpFloor ≤ t.per.otpFloor

/-- No counter falls (R34, R425). -/
def CountersKept (s t : State) : Prop := ∀ c, counterOf s c ≤ counterOf t c

/-- What running a command never undoes: the queue's rest stays as it is, TREF does not move, OTP bits stay programmed, no
counter falls, and a legal state stays legal. -/
structure Kept (s t : State) : Prop where
  queue : t.pending = s.pending
  clock : now t = now s
  otp : OtpKept s t
  counters : CountersKept s t
  legal : Legal s → Legal t

/-! ## Where a command has its effect, and what its step leaves -/

/-- Submission `j`, number `id`, stands at an opcode that may run now: dispatched with all its parts, operands read, on a lane
the last segment in progress; a signature's value is settled unless the start recovered the submission (R158, R167). -/
structure Stands (s : State) (op id : Nat) (j : Job) : Prop where
  found : jobOf s id = some j
  ready : canRun s op j = true
  settled : valueLater j (stepEff j) = true → j.value.isSome = true

/-- The work of a step is in its submission: computed, not yet released. -/
def Took (t : State) (id : Nat) (j : Job) (w : Work) : Prop :=
  ∃ u, jobOf t id = some u ∧ u.phase = .computed ∧ u.ending = w.ending ∧ u.result = w.result ∧ u.resultLen = w.len ∧
    u.unverified = w.unverified ∧ u.out = w.writes.filter (fun x => !isHandle x.1) ∧ u.newKey = w.newKey ∧
    (isDone w.ending.status = true → u.after = w.after) ∧
    (∀ h, w.handle = some h → look u.handles ((stepEff j).dst - handleBase) [] = h)

/-- Host memory, the store, persistent state, the registers of management, power and group, slices, rings, pools, ports, links
and the other submissions are as they were. -/
structure OutsideKept (s t : State) (id : Nat) : Prop where
  others : ∀ i, i ≠ id → jobOf t i = jobOf s i
  fabric : t.fabric = s.fabric
  per : t.per = s.per
  store : t.store = s.store
  res : t.res = s.res
  mgmt : t.mgmt = s.mgmt
  pwr : t.pwr = s.pwr
  mir : t.mir = s.mir
  slices : t.slices = s.slices
  rings : t.rings = s.rings
  pools : t.pools = s.pools
  links : t.links = s.links
  irq : t.irq = s.irq
  mdp : t.mdp = s.mdp
  cfg : t.cfg = s.cfg
  clock : t.clock = s.clock
  pending : t.pending = s.pending
  outbox : t.outbox = s.outbox

/-- Fabric requests, interrupt messages and free values aside, the state is as it was. -/
def OnlyTraffic (s t : State) : Prop := t = { s with fabric := t.fabric, irq := t.irq, drawn := t.drawn }

/-- Beside that traffic only persistent state has changed: what writing a log record does. -/
def OnlyLogged (s t : State) : Prop := t = { s with fabric := t.fabric, irq := t.irq, drawn := t.drawn, per := t.per }

/-- What a run draws: a value of the internal instance where the opcode takes one, else the next free value; a one-time
signature and an encapsulation made again keep their first (R28, R255, R316). -/
def drawn (s : State) (j : Job) : Nat × State :=
  if opRandom s (stepEff j) (j.part.map (·.1)) j.loaded then
    match keptDraw j (stepEff j) with
    | some n => (n, s)
    | none => drawRandom s
  else draw s

/-- The values that the opcode takes are there: drawn before, or the internal instance supplies them (R201, R348, R355). -/
def RandomReady (s : State) (j : Job) : Prop :=
  opRandom s (stepEff j) (j.part.map (·.1)) j.loaded = true →
    (keptDraw j (stepEff j)).isSome = true ∨ internalReady s = true

/-- The submission as its step computes: one that draws keeps what it drew. -/
def drawnJob (s : State) (j : Job) : Job :=
  if opRandom s (stepEff j) (j.part.map (·.1)) j.loaded then
    { j with draw := (drawn s j).1 + 1
             encaps := if isEncaps (stepEff j).opcode then put j.encaps j.step (drawn s j).1 else j.encaps }
  else j

/-- The additional input of a random step (R357). -/
def additionalInput (j : Job) : Bytes := if (stepEff j).aux = 0 then [] else fit (stepEff j).aux (rangeData j .param)

/-- The register port answers from the registers: no guard in front of it, and FP0 is not quiesced (R51, R73). -/
structure PortServes (s : State) : Prop where
  answered : regGuarded s = false
  free : portHeld s = false

/-- A command that puts a supply beyond its absolute maximum (R65). -/
def overRatings : Instr → Bool
  | .vddHigh mv => beyondMaximum mv 0 0 0
  | .sheddingLevelDown vdd vddm | .sheddingLevelUp vdd vddm => beyondMaximum vdd vddm 0 0
  | .vaonChangeover mv => beyondMaximum 0 0 mv 0
  | .sensorSample x => beyondMaximum x.vdd x.vddm x.vaon x.vbat
  | _ => false

/-- Aligned slots from an offset up to another. -/
def slotsFrom (a b : Nat) : List Nat := (List.range ((b - a) / 4)).map (fun i => a + 4 * i)
/-- Slots of the register window that the manual gives no name (R573), from the tables of R182, R504, R508, R540, R554, R578, R588. -/
def spareSlots : List Nat :=
  slotsFrom 0x3C 0x60 ++ slotsFrom 0x70 0x80 ++ slotsFrom 0xB8 0xC0 ++ slotsFrom 0xC8 0x100 ++ slotsFrom 0x118 0x140 ++
    slotsFrom 0x240 0x280 ++ slotsFrom 0x3348 0x33A0 ++ slotsFrom 0x3434 0x3480 ++ slotsFrom 0x3518 0x3560

/-! ## Rows of the opcode families: opcode, command, and what the standard computes -/

/-- Bulk ciphers: the output for a descriptor, a key, a parameter block and a message (R206 to R217). -/
def bulkRows : List (Nat × (Nat → Instr) × (Desc → Bytes → Bytes → Bytes → Bytes)) :=
  [(0x0101, .cbcEnc, fun _ k b m => cbcEnc k (fit 16 b) m), (0x0102, .cbcDec, fun _ k b m => cbcDec k (fit 16 b) m),
   (0x0103, .cfbEnc, fun _ k b m => cfbEnc k (fit 16 b) m), (0x0104, .cfbDec, fun _ k b m => cfbDec k (fit 16 b) m),
   (0x0105, .ofbEnc, fun _ k b m => ofb k (fit 16 b) m), (0x0106, .ofbDec, fun _ k b m => ofb k (fit 16 b) m),
   (0x0107, .ctrEnc, fun _ k b m => ctr k (field b 0x32 1) (fit 16 b) m),
   (0x0108, .ctrDec, fun _ k b m => ctr k (field b 0x32 1) (fit 16 b) m),
   (0x0109, .gcmEnc, fun _ k b m => gcmCtr k (b.take 12) m), (0x010A, .gcmDec, fun _ k b m => gcmCtr k (b.take 12) m),
   (0x010B, .ccmEnc, fun _ k b m => ccmCrypt k (b.take (field b 0x30 1)) m),
   (0x010C, .ccmDec, fun _ k b m => ccmCrypt k (b.take (field b 0x30 1)) m),
   (0x010D, .xtsEnc, fun d k _ m => xtsUnits k false d.inline 0 (pieces d.aux m)),
   (0x010E, .xtsDec, fun d k _ m => xtsUnits k true d.inline 0 (pieces d.aux m))]

/-- Key wrapping: the output for a key and the input, none where the check fails (R218, R219). -/
def wrapRows : List (Nat × (Nat → Instr) × (Bytes → Bytes → Option Bytes)) :=
  [(0x0110, .kwWrap, fun k m => some (kwWrap k m)), (0x0111, .kwUnwrap, kwUnwrap),
   (0x0112, .kwpWrap, fun k m => some (kwpWrap k m)), (0x0113, .kwpUnwrap, kwpUnwrap)]

/-- Digests and XOFs: the output for N, S, a message and OUT_LEN (R225, R227). -/
def digestRows : List (Nat × (Nat → Instr) × (Bytes → Bytes → Bytes → Nat → Bytes)) :=
  [(0x0200, .sha224, fun _ _ m _ => sha2 .s224 m), (0x0201, .sha256, fun _ _ m _ => sha2 .s256 m),
   (0x0202, .sha384, fun _ _ m _ => sha2 .s384 m), (0x0203, .sha512, fun _ _ m _ => sha2 .s512 m),
   (0x0204, .sha512_256, fun _ _ m _ => sha2 .s512_256 m), (0x0210, .sha3_224, fun _ _ m _ => sha3 28 m),
   (0x0211, .sha3_256, fun _ _ m _ => sha3 32 m), (0x0212, .sha3_384, fun _ _ m _ => sha3 48 m),
   (0x0213, .sha3_512, fun _ _ m _ => sha3 64 m), (0x0218, .shake128, fun _ _ m n => shake128 m n),
   (0x0219, .shake256, fun _ _ m n => shake256 m n), (0x021A, .cshake128, fun x y m n => cshake 168 x y m n),
   (0x021B, .cshake256, fun x y m n => cshake 136 x y m n)]

/-- MACs: the full MAC for a key, S, a message and OUT_LEN, HMAC's OUT_LEN zero being its whole digest (R227, R229). -/
def macRows : List (Nat × (Nat → Instr) × (Bytes → Bytes → Bytes → Nat → Bytes)) :=
  let h : ShaAlg → Nat → Bytes → Bytes → Bytes → Nat → Bytes := fun a n k _ m o => (hmac a k m).take (if o = 0 then n else o)
  [(0x0220, .kmac128, fun k y m n => kmac128 k m n y), (0x0221, .kmac256, fun k y m n => kmac256 k m n y),
   (0x0230, .hmacSha224, h .s224 28), (0x0231, .hmacSha256, h .s256 32), (0x0232, .hmacSha384, h .s384 48),
   (0x0233, .hmacSha512, h .s512 64), (0x0234, .hmacSha512_256, h .s512_256 32)]

/-- MAC verifications, by the MAC they compute. -/
def macVerifyRows : List (Nat × (Nat → Instr) × (Bytes → Bytes → Bytes → Nat → Bytes)) :=
  let h : ShaAlg → Nat → Bytes → Bytes → Bytes → Nat → Bytes := fun a n k _ m o => (hmac a k m).take (if o = 0 then n else o)
  [(0x0222, .kmac128Verify, fun k y m n => kmac128 k m n y), (0x0223, .kmac256Verify, fun k y m n => kmac256 k m n y),
   (0x0238, .hmacSha224Verify, h .s224 28), (0x0239, .hmacSha256Verify, h .s256 32), (0x023A, .hmacSha384Verify, h .s384 48),
   (0x023B, .hmacSha512Verify, h .s512 64), (0x023C, .hmacSha512_256Verify, h .s512_256 32)]

/-- Classical public-key operations (R264 to R288). -/
def pubRows : List (Nat × (Nat → Instr)) :=
  [(0x0401, .rsaPssSign), (0x0402, .rsaV15Sign), (0x0403, .rsaPssVerify), (0x0404, .rsaV15Verify), (0x0405, .rsaOaepEncrypt),
   (0x0406, .rsaOaepDecrypt), (0x0410, .ecdsaSign), (0x0411, .ecdsaVerify), (0x0412, .ecKeygen), (0x0413, .ecdh),
   (0x0420, .eddsaSign), (0x0421, .eddsaVerify), (0x0422, .eddsaBatchVerify), (0x0423, .eddsaKeygen), (0x0428, .xdh),
   (0x0429, .xdhKeygen), (0x0430, .curveLoad), (0x0431, .curveUnload), (0x0440, .hybridSign), (0x0441, .hybridVerify),
   (0x0442, .hybridKeygen)]

/-- Lattice, hash-based and hybrid KEM operations (R295 to R311). -/
def latticeRows : List (Nat × (Nat → Instr)) :=
  [(0x0500, .mlkemKeygen), (0x0501, .mlkemEncaps), (0x0502, .mlkemDecaps), (0x0510, .mldsaKeygen), (0x0511, .mldsaSign),
   (0x0512, .mldsaVerify), (0x0520, .slhdsaKeygen), (0x0521, .slhdsaSign), (0x0522, .slhdsaVerify), (0x0540, .hykemKeygen),
   (0x0541, .hykemEncaps), (0x0542, .hykemDecaps)]

/-- Stateful signatures and ordinals (R312 to R333). -/
def statefulRows : List (Nat × (Nat → Instr)) :=
  [(0x0601, .hbsSign), (0x0602, .hbsVerify), (0x0603, .hbsStatus), (0x0900, .ordSign), (0x0901, .ordQuery),
   (0x0902, .ordTargetConfig), (0x0903, .ordCheck)]

/-- Key operations (R389 to R392, R398, R411). -/
def keyOpRows : List (Nat × (Nat → Instr)) :=
  [(0x0800, .keyWrap), (0x0801, .keyUnwrap), (0x0802, .keyDerive), (0x0803, .keyDestroy), (0x0804, .keyInfo),
   (0x0805, .keyGenerate), (0x0809, .transportOffer), (0x080A, .attest)]

/-- Every operation that may draw, with the work it computes. -/
def drawnRows : List (Nat × (Nat → Instr) × (State → Job → Desc → Option Key → Nat → Work)) :=
  pubRows.map (fun e => (e.1, e.2, pubWork)) ++ (latticeRows ++ statefulRows).map (fun e => (e.1, e.2, latWork)) ++
    keyOpRows.map (fun e => (e.1, e.2, keyOpWork))

/-- KUM operations: OP and command (R400). -/
def kumRows : List (Nat × (Nat → Instr)) :=
  [(0x01, .enrol), (0x02, .commission), (0x03, .roster), (0x10, .load), (0x11, .generate), (0x12, .replace), (0x13, .destroy),
   (0x20, .ackLog), (0x21, .policy), (0x30, .recover)]

/-- The firmware starts this request next, and nothing but reports is not the rule now (R406, R483, R506). -/
structure Starts (s : State) (code i : Nat) (q : Req) : Prop where
  next : mbxNext s = some (i, q)
  command : q.cmd = code
  allowed : reportsOnly s = false

/-- The firmware's request waits on the datapath. -/
def parkReq (s : State) (i : Nat) (q : Req) : State :=
  { s with mgmt := { s.mgmt with requests := s.mgmt.requests.set i { q with st := .parked } } }

/-! ## Mirror messages (R560) -/

/-- The reply to a message given to the core, by what became of it; one that waits stays queued (R558, R561, R569). -/
def heardReply (i : Nat) (h : Heard × State) : State :=
  let bad := fun (n : Nat) => ({ code := rBadParam, data := [BitVec.ofNat 32 n] } : Ans)
  match h with
  | (.taken, t) => finishReq t i { code := rOk }
  | (.refused n, t) => finishReq t i (bad n)
  | (.dropped n, t) => finishReq { t with mir := { t.mir with discarded := t.mir.discarded + 1 } } i (bad n)
  | (.stay, t) => t

end Sys2Proof.Machine
end

