-- ==== Sys2Proof/Certificates/Slice0/Obligations.lean ====
section
/-! DEFINITION. The statements about the block, one for each group of rules: what every command completes with, what it leaves
unchanged, and what every step keeps. -/
open Sys2Proof Sys2Proof.Machine

/-- For every state and every command at the front of its queue, the step answers what exec answers for that command on the state
with the rest of the queue. First in, first out is the model's form of taking commands (log entry 9). (spec/00_scope.md,
spec/95_what_each_step_holds.md) -/
def Obligations.StepRunsTheCommand : Prop :=
  ∀ (s : State) (c : Instr) (rest : List Instr), s.pending = c :: rest → step s = exec c { s with pending := rest }

/-- With an empty queue the step answers a next state in which only the clocks have moved: the TREF count is one higher while TREF
runs and the same while it is stopped, and the always-on clock goes on by 32,768 over 10^8 of its own tick, or stands still
where the always-on supplies are gone. That an idle step is one tick is the model's choice (log entry 9). (R76,
spec/02_boundary.md) -/
def Obligations.EmptyQueueTicks : Prop :=
  ∀ s : State, s.pending = [] → ∃ t, step s = .next t ∧ t = { s with clock := t.clock } ∧ t.clock.running = s.clock.running ∧
    now t = (if s.clock.running then now s + 1 else now s) ∧ (aonAbsent s = true → t.clock.aon = s.clock.aon) ∧
    (aonAbsent s = false →
      10 ^ 8 * t.clock.aon + t.clock.aonPhase = 10 ^ 8 * s.clock.aon + s.clock.aonPhase + 32768 ∧ t.clock.aonPhase < 10 ^ 8)

/-- Right after reset no command, submission, slice, ring, key slot or fabric request is held, the main domain does not run, and
through either path each of the listed registers reads the listed value, which is the value of its table's reset column. (R573,
R574, R578, R582, R588) -/
def Obligations.ResetState : Prop :=
  State.reset.pending = [] ∧ State.reset.jobs = [] ∧ State.reset.slices = [] ∧ State.reset.rings = [] ∧
  State.reset.keys.slots = [] ∧ State.reset.fabric.txns = [] ∧ mainOn State.reset = false ∧
  (∀ p, ∀ e ∈ ([(0x0000, 0x50441000), (0x0004, 0x10000100), (0x0008, 0x01000020), (0x000C, 0x00800080), (0x0010, 0x00200100),
      (0x0014, 0x10000100), (0x001C, 0), (0x0020, 0), (0x0024, 0), (0x0038, 0), (0x0064, 0), (0x0068, 1), (0x1008, 1600), (0x1014, 0),
      (0x3004, 0), (0x302C, 0xFE), (0x3104, 4), (0x3108, 0xFF), (0x3138, 20), (0x325C, 10), (0x3314, 0xFFFF), (0x3404, 0),
      (0x3500, 0x1801)] : List (Nat × W32)), readReg State.reset p e.1 = some e.2)

/-- The invariant Legal holds at State.reset: registers with a restricted range are inside it, both image banks and the memory of
the management pair are canonical, no port channel has more requests outstanding than allowed and the reply queue has at most 16
replies. (R44, R345, R477, R482, R504) -/
def Obligations.LegalAtReset : Prop :=
  Legal State.reset

/-- For every state that satisfies Legal and every step that answers a next state, the next state satisfies Legal: MBX_WDT_TIMEOUT
stays in 1 to 1000, ENT_MIN_SOURCES in 2 to 8, BST_CTRL.PERIOD in 1 to 168, the selection registers in their ranges, the tamper
thermometer within 256 bits, the image banks and the memory of the management pair in canonical form, no channel of a port above
32 reads or 64 writes, and the reply queue within 16 entries. (R44, R345, R477, R482, R504, R25, R361, R540, R554) -/
def Obligations.StepKeepsLegal : Prop :=
  ∀ s t : State, Legal s → step s = .next t → Legal t

/-- Whatever the command and whatever the state, when exec answers a next state: the queue's rest is as it was, the time count is as
it was, every programmed OTP bit (enrolled, retired, degraded, tamper thermometer, version floor) is still programmed, no
counter has fallen, and a legal state stays legal. (R25, R34, R405, R425, R444) -/
def Obligations.CommandsKeep : Prop :=
  ∀ (c : Instr) (s t : State), exec c s = .next t → Kept s t

/-- A command that puts a supply beyond its absolute maximum ends in the fault beyondAbsoluteMaximum in every state, because R65
guarantees no behaviour there; every other command answers a next state in every state. (R65) -/
def Obligations.OnlyRatingsStop : Prop :=
  ∀ (c : Instr) (s : State),
    (overRatings c = true → exec c s = .fault .beyondAbsoluteMaximum) ∧ (overRatings c = false → ∃ t, exec c s = .next t)

/-- Where a bulk cipher opcode stands at its step with its key loaded, it answers a next state in which the submission is computed
with the cipher's work, the keys are as they were and everything outside the submission is as it was. On the first output of a
step whose destination is no handle and whose output is not empty, the submission holds for its destination the standard's
output for the key, the parameter block and the message, padded to 16 bytes. Commands whose completion is stated: CBC_ENC,
CBC_DEC, CFB_ENC, CFB_DEC, OFB_ENC, OFB_DEC, CTR_ENC, CTR_DEC, GCM_ENC, GCM_DEC, CCM_ENC, CCM_DEC, XTS_ENC, XTS_DEC. (R206,
R207, R208, R209, R210, R211, R212, R214, R215, R216, R217) -/
def Obligations.BulkCiphers : Prop :=
  ∀ e ∈ bulkRows, ∀ (s : State) (id : Nat) (j : Job) (k : Key), Stands s e.1 id j → j.loaded = some k →
    let d := stepEff j
    let out := e.2.2 d k.material (fit 64 (rangeData j .param)) (cipherSource j d).2
    ∃ t, exec (e.2.1 id) s = .next t ∧ Took t id j (cipherWork j d k.material) ∧ OutsideKept s t id ∧ t.keys = s.keys ∧
      (j.written = 0 → out ≠ [] → isHandle (dstAddr j) = false →
        ∃ u, jobOf t id = some u ∧ (dstAddr j, padMul 16 out) ∈ u.out)

/-- Where a key wrapping opcode stands at its step with its key loaded, it answers a next state that changes only its submission,
whose work is to write the wrapped or unwrapped bytes; where the unwrapping check fails the work is to end with VERIFY_FALSE and
no output. The keys are as they were. Commands whose completion is stated: KW_WRAP, KW_UNWRAP, KWP_WRAP, KWP_UNWRAP. (R218,
R219) -/
def Obligations.KeyWrapping : Prop :=
  ∀ e ∈ wrapRows, ∀ (s : State) (id : Nat) (j : Job) (k : Key), Stands s e.1 id j → j.loaded = some k →
    ∃ t, exec (e.2.1 id) s = .next t ∧ OutsideKept s t id ∧ t.keys = s.keys ∧
      Took t id j (match e.2.2 k.material (cipherSource j (stepEff j)).2 with
        | some out => outputAt j 16 out
        | none => workFail stVerifyFalse 0)

/-- Where a digest opcode stands at its step, it answers a next state that changes only its submission, whose work is to write the
digest of the first LENGTH bytes of the source: SHA-2, SHA-3, SHAKE with OUT_LEN, and cSHAKE with N and S taken from the
context. The keys are as they were. Commands whose completion is stated: SHA224, SHA256, SHA384, SHA512, SHA512_256, SHA3_224,
SHA3_256, SHA3_384, SHA3_512, SHAKE128, SHAKE256, CSHAKE128, CSHAKE256. (R225, R227) -/
def Obligations.Digests : Prop :=
  ∀ e ∈ digestRows, ∀ (s : State) (id : Nat) (j : Job), Stands s e.1 id j →
    let d := stepEff j
    let x := rangeData j .context
    ∃ t, exec (e.2.1 id) s = .next t ∧ OutsideKept s t id ∧ t.keys = s.keys ∧
      Took t id j (outputAt j 1
        (e.2.2 (x.take (nLen j)) ((x.drop (nLen j)).take (sLen j)) ((rangeData j .src).take d.length) (outLen d)))

/-- Where a MAC opcode stands at its step with a key loaded, it answers a next state that changes only its submission, and the keys
are as they were. The work of the computing forms is to write the MAC of the message; a verifying form writes nothing, leaves
RESULT and the result length zero, and ends with DONE where the MAC equals the parameter block's bytes and with VERIFY_FALSE
where it does not. Commands whose completion is stated: KMAC128, KMAC256, KMAC128_VERIFY, KMAC256_VERIFY, HMAC_SHA224,
HMAC_SHA256, HMAC_SHA384, HMAC_SHA512, HMAC_SHA512_256, HMAC_SHA224_VERIFY, HMAC_SHA256_VERIFY, HMAC_SHA384_VERIFY,
HMAC_SHA512_VERIFY, HMAC_SHA512_256_VERIFY. (R227, R229, R231) -/
def Obligations.Macs : Prop :=
  (∀ e ∈ macRows, ∀ (s : State) (id : Nat) (j : Job) (k : Key), Stands s e.1 id j → j.loaded = some k →
    let d := stepEff j
    ∃ t, exec (e.2.1 id) s = .next t ∧ OutsideKept s t id ∧ t.keys = s.keys ∧
      Took t id j (outputAt j 1 (e.2.2 k.material (((rangeData j .context).drop (nLen j)).take (sLen j))
        ((rangeData j .src).take d.length) (outLen d)))) ∧
  (∀ e ∈ macVerifyRows, ∀ (s : State) (id : Nat) (j : Job) (k : Key), Stands s e.1 id j → j.loaded = some k →
    let d := stepEff j
    let mac := e.2.2 k.material (((rangeData j .context).drop (nLen j)).take (sLen j)) ((rangeData j .src).take d.length) (outLen d)
    ∃ t, exec (e.2.1 id) s = .next t ∧ OutsideKept s t id ∧ t.keys = s.keys ∧
      ∃ u, jobOf t id = some u ∧ u.phase = .computed ∧ u.result = 0 ∧ u.resultLen = 0 ∧ u.out = [] ∧
        u.ending.status = (if mac = paramBytes j 0 (hashOut d) then stDone else stVerifyFalse))

/-- R259, word for word: “MULACC computes A·B + C, where A and B are unsigned integers of W bytes and C is an unsigned integer of 2W
bytes.” Where MULACC stands at its step with operands of W bytes, it answers a next state that changes only its submission: the
2W bytes of its output, read little-endian, are A*B + C modulo 2^(16W), RESULT is the carry out of them, and the status is DONE;
the output goes to the destination address, or into the handle that the destination names. W is the operand size exactly where
LENGTH is 4W and W is a multiple of 32 from 32 to 1,024. Commands whose completion is stated: MULACC. -/
def Obligations.Mulacc : Prop :=
  (∀ (s : State) (id w : Nat) (j : Job), Stands s 0x0300 id j → mulaccW (stepEff j) = some w → (rangeData j .src).length = 4 * w →
    let x := rangeData j .src
    let r := leNat (x.take w) * leNat (subBytes x w w) + leNat (subBytes x (2 * w) (2 * w))
    ∃ t u b, exec (.mulacc id) s = .next t ∧ OutsideKept s t id ∧ jobOf t id = some u ∧ u.phase = .computed ∧
      b.length = 2 * w ∧ leNat b = r % 2 ^ (16 * w) ∧ u.result = r / 2 ^ (16 * w) ∧ u.ending.status = stDone ∧
      (isHandle (dstAddr j) = false → u.out = [(dstAddr j, b)]) ∧
      (isHandle (dstAddr j) = true → look u.handles ((stepEff j).dst - handleBase) [] = b)) ∧
  (∀ (d : Desc) (w : Nat), d.opcode = 0x0300 → (mulaccW d = some w ↔ d.length = 4 * w ∧ w % 32 = 0 ∧ 32 ≤ w ∧ w ≤ 1024))

/-- Where MULACC_VEC stands at its step, it answers a next state that changes only its submission: the result length is that of all
elements' results joined, and bit i of RESULT is the carry of element i. Commands whose completion is stated: MULACC_VEC. (R261) -/
def Obligations.MulaccVector : Prop :=
  ∀ (s : State) (id w : Nat) (j : Job), Stands s 0x0301 id j → mulaccW (stepEff j) = some w →
    let rs := (pieces (4 * w) (rangeData j .src)).map (mulaccOne w)
    ∃ t u, exec (.mulaccVec id) s = .next t ∧ OutsideKept s t id ∧ jobOf t id = some u ∧ u.phase = .computed ∧
      u.resultLen = (rs.flatMap (·.1)).length ∧
      (∀ i, i < rs.length → u.result.testBit i = (rs.getD i ([], false)).2)

/-- Where one of these opcodes stands at its step, the internal instance can give the value it takes, and for an ordinal opcode its
counter is not broken, it answers a next state. Where the result is unchecked, or right and not spoilt by the part, the
submission is computed with the opcode's work and nothing else outside it differs from the state after the draw of its value
and, for KEY_WRAP, after the use of the exported key. Where the check of the result finds it wrong (the computed result does not
check under the key, or the part spoilt it, which the model leaves free: log entry 4), the failed result check is taken instead.
Only KEY_WRAP uses a second key. Commands whose completion is stated: RSA_PSS_SIGN, RSA_V15_SIGN, RSA_PSS_VERIFY,
RSA_V15_VERIFY, RSA_OAEP_ENCRYPT, RSA_OAEP_DECRYPT, ECDSA_SIGN, ECDSA_VERIFY, EC_KEYGEN, ECDH, EDDSA_SIGN, EDDSA_VERIFY,
EDDSA_BATCH_VERIFY, EDDSA_KEYGEN, XDH, XDH_KEYGEN, CURVE_LOAD, CURVE_UNLOAD, HYBRID_SIGN, HYBRID_VERIFY, HYBRID_KEYGEN,
MLKEM_KEYGEN, MLKEM_ENCAPS, MLKEM_DECAPS, MLDSA_KEYGEN, MLDSA_SIGN, MLDSA_VERIFY, SLHDSA_KEYGEN, SLHDSA_SIGN, SLHDSA_VERIFY,
HYKEM_KEYGEN, HYKEM_ENCAPS, HYKEM_DECAPS, HBS_SIGN, HBS_VERIFY, HBS_STATUS, ORD_SIGN, ORD_QUERY, ORD_TARGET_CONFIG, ORD_CHECK,
KEY_WRAP, KEY_UNWRAP, KEY_DERIVE, KEY_DESTROY, KEY_INFO, KEY_GENERATE, TRANSPORT_OFFER, ATTEST. (R255, R256, R264, R284, R295,
R312, R322, R389, R398, R411) -/
def Obligations.KeyedComputations : Prop :=
  ∀ e ∈ drawnRows, ∀ (s : State) (id : Nat) (j : Job), Stands s e.1 id j → RandomReady s j →
    (e.1 = 0x0903 → s.per.broken.contains (ordCounter j) = false) →
    let n := (drawn s j).1
    let s1 := (drawn s j).2
    let w := e.2.2 s1 (drawnJob s j) (stepEff j) j.loaded n
    let s2 := exportLoaded s1 (drawnJob s j) (stepEff j)
    ((w.checked = false ∨ (w.wrong = false ∧ Config.resultCheckFails n = false)) →
      ∃ t, exec (e.2.1 id) s = .next t ∧ Took t id j w ∧ OutsideKept s2 t id ∧ t.keys = s2.keys ∧
        (s2 = s1 → OutsideKept s t id ∧ t.keys = s.keys)) ∧
    (w.checked = true → (w.wrong = true ∨ Config.resultCheckFails n = true) →
      exec (e.2.1 id) s = .next (checkFails s2 (drawnJob s j) j.loaded)) ∧
    (e.1 ≠ 0x0800 → s2 = s1)

/-- Where RANDOM or RANDOM_PR stands at its step and the instance can be made ready, it answers a next state in which the
submission's work is to write LENGTH bytes of CTR_DRBG output of the instance as made ready, and the instance has moved on as
CTR_DRBG's generation does; RESEED ends with the instance as made ready and no output. An instance that needs no reseed is ready
as it stands, with the additional input; one that must be reseeded takes one conditioned block and one serial number and is
reseeded with the additional input; an uninstantiated one takes one of each and is instantiated with its personalisation string.
Commands whose completion is stated: RANDOM, RANDOM_PR, RESEED. (R348, R349, R351, R352, R354, R357) -/
def Obligations.RandomOutput : Prop :=
  (∀ (s : State) (id : Nat) (j : Job) (s1 s2 : State) (extra : Bytes), entropyDown s = false →
    readyInstance s j (stepEff j) = (some (s1, extra), s2) →
    let x := drbgOf s1 j.slice
    let n := (stepEff j).length
    (Stands s 0x0700 id j → ∃ t, exec (.random id) s = .next t ∧ Took t id j (outputAt j 1 (drbgOutput x extra n)) ∧
      drbgOf t j.slice = drbgAfter x extra n) ∧
    (Stands s 0x0701 id j → ∃ t, exec (.randomPr id) s = .next t ∧ Took t id j (outputAt j 1 (drbgOutput x extra n)) ∧
      drbgOf t j.slice = drbgAfter x extra n) ∧
    (Stands s 0x0702 id j → ∃ t, exec (.reseed id) s = .next t ∧ Took t id j {} ∧ drbgOf t j.slice = x)) ∧
  (∀ (s : State) (j : Job), (drbgOf s j.slice).st ≠ .uninstantiated → wantsReseed s j (stepEff j) = false →
    readyInstance s j (stepEff j) = (some (s, additionalInput j), s)) ∧
  (∀ (s : State) (j : Job), (drbgOf s j.slice).st ≠ .uninstantiated → s.ent.st = .available → internalDue s = false →
    canSeed s = true → wantsReseed s j (stepEff j) = true →
    ∃ s1 s2, readyInstance s j (stepEff j) = (some (s1, []), s2) ∧ s1.ent.buffer = s.ent.buffer.drop 1 ∧
      s1.ent.serialNext = s.ent.serialNext + 1 ∧ s1 = { s with ent := s1.ent } ∧
      drbgOf s1 j.slice = { drbgReseed (drbgOf s j.slice) (s.ent.buffer.headD []) (reseedString (additionalInput j) s.ent.serialNext)
        with seededAt := now s }) ∧
  (∀ (s : State) (j : Job), (drbgOf s j.slice).st = .uninstantiated → s.ent.st = .available → internalDue s = false →
    canSeed s = true → (stepEff j).opcode = 0x0700 → ∃ s1 s2, readyInstance s j (stepEff j) = (some (s1, additionalInput j), s2) ∧
      s1.ent.buffer = s.ent.buffer.drop 1 ∧ s1.ent.serialNext = s.ent.serialNext + 1 ∧ s1 = { s with ent := s1.ent } ∧
      drbgOf s1 j.slice = { drbgInstantiate (s.ent.buffer.headD []) (personalString s j.slice s.ent.serialNext)
        with seededAt := now s })

/-- A key update message that stands at its step for the first time answers a next state: where its checks pass (and, for a roster
OP, the internal instance can give a value) it is computed with status DONE and its application still to come; where a check
fails otherwise than by a window it is computed with that failure and nothing to apply, and the keys are as the checks left
them. Applied, OP 0x20 acknowledges the emergency entries, 0x02 and 0x21 queue their ledger records, 0x01 and 0x03 hold the
roster as pending (0x01 with the core marked as enrolled), 0x10 to 0x12 put the record of a handle outside the store that has no
trees, 0x13 removes such a record, and 0x30 restores the root. When a commissioning is finished an ENROLLED core goes to
SERVICE; no other OP changes the life cycle; and no KUM is then in progress. Commands whose completion is stated: ENROL,
COMMISSION, ROSTER, LOAD, GENERATE, REPLACE, DESTROY, ACK_LOG, POLICY, RECOVER. (R400, R401, R402, R404, R405) -/
def Obligations.Kums : Prop :=
  (∀ e ∈ kumRows, ∀ (s u : State) (id : Nat) (j : Job) (cls : List Nat), jobOf s id = some j → canRun s 0x0808 j = true →
    kumOp (kumBytes j) = e.1 → kumFirst s j = true → kindGone s .saffron = false → jobOf u id = some j →
    (kumCheck s j = (.pass, cls, u) → ((e.1 = 0x01 ∨ e.1 = 0x11) → internalReady u = true) →
      ∃ t w, exec (e.2 id) s = .next t ∧ jobOf t id = some w ∧ w.phase = .computed ∧ w.after = .kum ∧ w.ending.status = stDone ∧
        w.t1.classes = cls ∧ t.keys.kumJob = some id ∧ t.keys.before = viewNow u) ∧
    (∀ x, kumCheck s j = (.fail x, cls, u) → x.status ≠ stWindow → j.repeats = none → isDone x.status = false →
      ∃ t w, exec (e.2 id) s = .next t ∧ jobOf t id = some w ∧ w.phase = .computed ∧ w.ending = x ∧ w.after = .nothing ∧
        w.t1.classes = cls ∧ t.keys = u.keys)) ∧
  (∀ (s : State) (j : Job) (k : Kum) (a : Nat), parseKum (kumBytes j) = some k →
    (k.op = 0x20 → (applyKum s j a).per.emgAcked = s.per.emgEntries) ∧
    (k.op = 0x02 → ∃ r e, (r, e) ∈ (applyKum s j a).per.queue ∧ r.payload = .commission k.counter (s.keys.did.take 32)) ∧
    (k.op = 0x01 → (applyKum s j a).per.otpEnrolled = true ∧
      ∃ r, (r = (applyKum s j a).keys.rosterA ∨ r = (applyKum s j a).keys.rosterB) ∧ r.st = .pendingSt ∧ r.image = k.roster) ∧
    (k.op = 0x03 → ∃ r, (r = (applyKum s j a).keys.rosterA ∨ r = (applyKum s j a).keys.rosterB) ∧ r.st = .pendingSt ∧
      r.image = k.roster) ∧
    ((k.op = 0x10 ∨ k.op = 0x11 ∨ k.op = 0x12) → isStoreHandle k.record = false →
      hasTrees (keyRecordOf (raiseActive s k) j k a).1.alg (keyRecordOf (raiseActive s k) j k a).1.use = false →
      look? (applyKum s j a).keys.records k.record = some (keyRecordOf (raiseActive s k) j k a).1) ∧
    (k.op = 0x13 → isMramHandle k.record = true → hasImage (wipeCopy (raiseActive s k) k.record j.id) k.record = false →
      look? (applyKum s j a).keys.records k.record = none) ∧
    (k.op = 0x21 → ∃ r e, (r, e) ∈ (applyKum s j a).per.queue ∧
      r.payload = .doneRec (j.opid.getD 0) 0 (some (0, k.counter)) (some (10, 2 * k.counter + k.policy % 2))) ∧
    (k.op = 0x30 → ∀ root, (kumPayload (raiseActive s k) k).bind (recoveredRoot (raiseActive s k)) = some root →
      rootOf (applyKum s j a) = some root) ∧
    (kumOp (kumBytes j) = 0x02 → s.keys.lifecycle = .enrolled → (kumFinished s j).keys.lifecycle = .service) ∧
    (kumOp (kumBytes j) ≠ 0x02 → (kumFinished s j).keys.lifecycle = s.keys.lifecycle) ∧ (kumFinished s j).keys.kumJob = none)

/-- While the main domain runs: a good read response delivers its data and a bad one its error, each then lets what waits on the
fabric go on, and a response to a read whose waiting submission has gone only ends it. A write response is taken; on a fenced
port that lost its clock the reads are then run again. In each case the request that the response names is no longer
outstanding. A response that names no outstanding request only sets GLB_ERR_STATUS.DUP_RESPONSE. Commands whose completion is
stated: FABRIC_READ_RESPONSE, FABRIC_WRITE_RESPONSE. (R45, R73, R592) -/
def Obligations.FabricResponses : Prop :=
  ∀ (s : State) (port tag : Nat) (code : BitVec 3) (data : Bytes), mainOn s = true →
    (∀ t, findTxn s port tag false = some t → t.sunk = false → t.eventSeen = false →
      (code = 0 → exec (.fabricReadResponse port tag code data) s = .next (settle (goodRead (endTxn s t code) t (fit t.len data)))) ∧
      (code ≠ 0 → exec (.fabricReadResponse port tag code data) s = .next (settle (badRead (endTxn s t code) t code)))) ∧
    (∀ t, findTxn s port tag false = some t → t.sunk = true →
      exec (.fabricReadResponse port tag code data) s = .next (settle (endTxn s t code))) ∧
    (∀ t, findTxn s port tag true = some t →
      let v := takeWrite (endTxn s t code) t code
      ((portOf v port).clockLost = false → exec (.fabricWriteResponse port tag code) s = .next (settle v)) ∧
      ((portOf v port).clockLost = true → (portOf v port).fenced = true →
        exec (.fabricWriteResponse port tag code) s = .next (settle (rerunReads v port)))) ∧
    (∀ t w, findTxn s port tag w = some t → ∀ x ∈ (endTxn s t code).fabric.txns,
      ¬ (x.port = port ∧ x.tag = tag ∧ x.isWrite = w)) ∧
    (findTxn s port tag false = none →
      exec (.fabricReadResponse port tag code data) s = .next { s with glb := { s.glb with dupResponse := true } }) ∧
    (findTxn s port tag true = none →
      exec (.fabricWriteResponse port tag code) s = .next { s with glb := { s.glb with dupResponse := true } })

/-- While the main domain runs, a fault event that names an outstanding request is kept as the port's latest with the request's
slice, is counted, marks the request and has the effect of R95 on it. One that names a request already ended sets LATE_EVENT, is
kept with that request's slice and counted, and has the late effect: for the core's own traffic its repetition or failure, else
a slice fault of cause 3. One whose tag was never used sets LATE_EVENT and is kept for slice 0, the model's choice (log entry
154), and nothing but the port changes. While the always-on supplies are present every snoop notification is answered; a serving
core on a port that can watch drops the watches of the line and reads the doorbells of the enabled rings among them, and
otherwise nothing else changes. Commands whose completion is stated: FAULT_EVENT, SNOOP_NOTIFICATION. (R46, R47, R48) -/
def Obligations.EventsAndSnoops : Prop :=
  (∀ (s : State) (port : Nat) (ev : FaultEv) (x : Txn), mainOn s = true → port < 16 →
    findTxn s port ev.tag.toNat ev.write = some x →
    ∃ u, exec (.faultEvent port ev) s = .next (settle (eventFor u x)) ∧ (portOf u port).fe = { ev := ev, slice := BitVec.ofNat 8 x.slice } ∧
      (portOf u port).feCount = satInc 32 (portOf s port).feCount ∧ u = { s with fabric := u.fabric } ∧
      (∀ y ∈ u.fabric.txns, y.port = port → y.tag = x.tag → y.isWrite = x.isWrite → y.eventSeen = true)) ∧
  (∀ (s : State) (port : Nat) (ev : FaultEv) (p : LastUse), mainOn s = true → port < 16 → findTxn s port ev.tag.toNat ev.write = none →
    look? s.fabric.lastTag (tagKey port ev.write ev.tag.toNat) = some p →
    ∃ u, exec (.faultEvent port ev) s = .next (settle (if ownTraffic p.purpose then lateOwn u p.purpose else sliceFault u p.slice 3)) ∧
      (portOf u port).lateEvent = true ∧ (portOf u port).feCount = satInc 32 (portOf s port).feCount ∧
      (portOf u port).fe = { ev := ev, slice := BitVec.ofNat 8 p.slice } ∧ u = { s with fabric := u.fabric } ∧
      u.fabric.txns = s.fabric.txns) ∧
  (∀ (s : State) (port : Nat) (ev : FaultEv), mainOn s = true → port < 16 → findTxn s port ev.tag.toNat ev.write = none →
    look? s.fabric.lastTag (tagKey port ev.write ev.tag.toNat) = none →
    ∃ t, exec (.faultEvent port ev) s = .next t ∧ (portOf t port).lateEvent = true ∧
      (portOf t port).feCount = satInc 32 (portOf s port).feCount ∧ (portOf t port).fe = { ev := ev, slice := 0 } ∧
      t = { s with fabric := t.fabric } ∧ t.fabric.txns = s.fabric.txns) ∧
  (∀ (s : State) (port line : Nat), aonAbsent s = false →
    let hit := s.fabric.watches.filter (fun w => w.port == port && w.line == line)
    let rest := s.fabric.watches.filter (fun w => !(w.port == port && w.line == line))
    let u := { s with outbox := .snoopAnswer port line :: s.outbox }
    (serving s = true → Config.snCapable port = true → exec (.snoopNotification port line) s =
      .next ((hit.map (·.ring)).foldl (fun s r => if (ringOf s r).st = .enabled then readDoorbell s r false false else s)
        { u with fabric := { s.fabric with watches := rest } })) ∧
    ((serving s = false ∨ Config.snCapable port = false) → exec (.snoopNotification port line) s = .next u))

/-- For a serving core: a poll interval that has passed arms the ring again, which reads its doorbell; a pool's interval that has
passed, for a waiting ring that has not asked, reads the producer index. Past the start: a coalescing time other than zero
announces the pending completions; a write-back that is due, or a millisecond of work, writes the ring context back where none
is outstanding. Commands whose completion is stated: POLL_INTERVAL_EXPIRY, POOL_POLL_EXPIRY, COALESCE_TIMEOUT,
CONTEXT_WRITEBACK_TIMER. (R110, R134, R144, R594) -/
def Obligations.RingTimers : Prop :=
  ∀ (s : State) (r : Nat),
    (serving s = true → isPolled s r = true → (ringOf s r).polledAt + pollTicks s (ringOf s r).ctx.pollInterval ≤ now s →
      exec (.pollIntervalExpiry r) s = .next (armRing s r)) ∧
    (∀ n, serving s = true → poolInterval s (ringOf s r).ctx.slice (ringOf s r).ctx.rbpBase = some n → (ringOf s r).poolWait = true →
      poolAsking s r (ringOf s r).ctx.slice (ringOf s r).ctx.rbpBase = false → (ringOf s r).poolPolledAt + pollTicks s n ≤ now s →
      exec (.poolPollExpiry r) s = .next (request (updRing s r (fun x => { x with poolPolledAt := now s }))
        [{ addr := (ringOf s r).ctx.rbpBase, len := 4, slice := (ringOf s r).ctx.slice, ordered := true,
           purpose := .poolIndex (ringOf s r).ctx.slice (ringOf s r).ctx.rbpBase }])) ∧
    (pastStart s = true → (ringOf s r).coalPending ≠ 0 → (ringOf s r).ctx.coalTime ≠ 0 →
      (ringOf s r).coalSince + us (ringOf s r).ctx.coalTime ≤ now s → exec (.coalesceTimeout r) s = .next (announce s r)) ∧
    (pastStart s = true → hasTxn s (fun p => p == .writeback r) = false →
      ((ringOf s r).wbDue = true ∨ (ringWork s r = true ∧ (ringOf s r).wbAt + ms 1 ≤ now s)) →
      exec (.contextWritebackTimer r) s = .next (writeBack s r))

/-- While the main domain runs, a doorbell is held while the port of its cluster is asked to quiesce or quiesced. Otherwise: with
the always-on supplies present and the core not serving it is answered as absent; a serving core accepts it for an enabled link
and an enabled ring that allows agent doorbells and has the link's slice, and takes the producer index; it refuses it as
disabled for a disabled link and as a wrong ring where the ring is not so, each with its counter and nothing else changed. When
the agent takes an offered notice and none waits none is offered; and where the first that waits is for a ring of the link's
slice, it is offered next. Commands whose completion is stated: AGENT_DOORBELL, COMPLETION_NOTICE_TAKEN. (R53, R54, R55, R60) -/
def Obligations.AgentLinks : Prop :=
  ∀ (s : State) (k r : Nat) (p : W32),
    (mainOn s = true → ((portOf s (k / 16)).qreq = true ∨ (portOf s (k / 16)).qack = true) →
      exec (.agentDoorbell k r p) s = .next (setLink s k { linkOf s k with held := some (r, p) })) ∧
    (mainOn s = false ∨ ((portOf s (k / 16)).qreq = false ∧ (portOf s (k / 16)).qack = false) →
      (serving s = false → aonAbsent s = false →
        exec (.agentDoorbell k r p) s = .next { s with outbox := .dbAck k .refusedAbsent :: s.outbox }) ∧
      (serving s = true → linkEnabled s k = true → (ringOf s r).st = .enabled → (ringOf s r).ctx.agentDb = true →
        (ringOf s r).ctx.slice = linkSlice s k →
        exec (.agentDoorbell k r p) s = .next (takeProducer { s with outbox := .dbAck k .accepted :: s.outbox } r p)) ∧
      (serving s = true → linkEnabled s k = false → ∃ t, exec (.agentDoorbell k r p) s = .next t ∧
        t.outbox = .dbAck k .refusedDisabled :: s.outbox ∧ (linkOf t k).refusedDisabled = satInc 8 (linkOf s k).refusedDisabled ∧
        t = { s with outbox := t.outbox, links := t.links }) ∧
      (serving s = true → linkEnabled s k = true →
        ((ringOf s r).st ≠ .enabled ∨ (ringOf s r).ctx.agentDb = false ∨ (ringOf s r).ctx.slice ≠ linkSlice s k) →
        ∃ t, exec (.agentDoorbell k r p) s = .next t ∧
          t.outbox = .dbAck k .refusedRing :: s.outbox ∧ (linkOf t k).refusedRing = satInc 8 (linkOf s k).refusedRing ∧
          t = { s with outbox := t.outbox, links := t.links })) ∧
    (mainOn s = true → (linkOf s k).offered.isSome = true → (linkOf s k).waiting = [] → ∃ t, exec (.completionNoticeTaken k) s = .next t ∧
      (linkOf t k).offered = none ∧ (linkOf t k).waiting = [] ∧ t = { s with links := t.links }) ∧
    (∀ c w, mainOn s = true → (linkOf s k).offered.isSome = true → (linkOf s k).waiting = (r, c) :: w →
      (ringOf s r).ctx.slice = linkSlice s k → ∃ t, exec (.completionNoticeTaken k) s = .next t ∧
        (linkOf t k).offered = some (r, c) ∧ (linkOf t k).waiting = w ∧ t = { s with links := t.links })

/-- Admission runs the checks of the submission it names. After the work that has become dispatchable has joined its queues, a free
part of an open kind, of a serving core, runs first a store seal or a tree build that the rules put there, and else takes the
submission that the scheduler picks where its start is not refused. What is picked is a submission the kind can take, that its
parking rules let pass and, on a weighted kind and for a slice's own work, whose slice is under its cap. Commands whose
completion is stated: ADMISSION, JOB_DISPATCH. (R11, R114, R162, R163, R165, R166) -/
def Obligations.AdmissionAndDispatch : Prop :=
  (∀ (s : State) (id : Nat) (j : Job), jobOf s id = some j → exec (.admission id) s = .next (tryAdmit s j)) ∧
  (∀ (s : State) (k : Engine) (n : Nat) (j : Job), let u := noteWork s
    serving u = true → n < engCount k → kindOpen u k = true → partFree (partOf u k n) = true →
    (dispatchSeal u k n).or (dispatchBuild u k n) = none → pick u k n = some j → startRefused u k = false →
    exec (.jobDispatch k n) s = .next (noteWork (dispatch u j k n))) ∧
  (∀ (s t : State) (k : Engine) (n : Nat), let u := noteWork s
    serving u = true → n < engCount k → kindOpen u k = true → partFree (partOf u k n) = true →
    (dispatchSeal u k n).or (dispatchBuild u k n) = some t → exec (.jobDispatch k n) s = .next (noteWork t)) ∧
  (∀ (s : State) (k : Engine) (n : Nat) (j : Job), pick s k n = some j →
    j ∈ s.jobs ∧ dispatchable s k j = true ∧ parkLets s k n j = true ∧
      (weighted k = true → ownWork j = false → underCap s k j = true))

/-- A part with a segment that is not the last ends that segment; a Saffron lane with a store seal ends the seal. A computed
submission whose step is not timed goes on to its results at once; with grid timing the end of the first or the second timed
computation is recorded with the time now, the submission stays computed, and nothing else changes. Commands whose completion is
stated: SEGMENT_END, ENGINE_FINISH. (R167, R185, R283) -/
def Obligations.PartsFinish : Prop :=
  (∀ (s : State) (k : Engine) (n : Nat) (j : Job), mainOn s = true → (partOf s k n).own = false →
    (partOf s k n).busy.bind (jobOf s) = some j →
    j.part = some (k, n) → j.phase = .operands → isSegmented (stepDesc j).opcode = true → lastSegment j = false →
    exec (.segmentEnd k n) s = .next (endSegment s j)) ∧
  (∀ (s : State) (n : Nat), mainOn s = true → (partOf s .saffron n).own = true →
    exec (.segmentEnd .saffron n) s = .next (endSeal s n)) ∧
  (∀ (s : State) (id : Nat) (j : Job), mainOn s = true → jobOf s id = some j → j.phase = .computed →
    (timed j = false → exec (.engineFinish id false) s = .next (afterRelease s j (now s))) ∧
    (j.t1.classes ≠ [] → j.t1.ended = none → ∃ t u, exec (.engineFinish id false) s = .next t ∧ jobOf t id = some u ∧
      u.t1.ended = some (now s) ∧ u.phase = .computed ∧ t = { s with jobs := t.jobs }) ∧
    (j.t2.classes ≠ [] → j.t2.ended = none → ∃ t u, exec (.engineFinish id true) s = .next t ∧ jobOf t id = some u ∧
      u.t2.ended = some (now s) ∧ u.phase = .computed ∧ t = { s with jobs := t.jobs }))

/-- The grid point of a check is the least multiple of its grid entry that covers its planned blocks and its end. Before it, a
release has no effect; from it on, the results are released with that time, an overrun beyond the planned blocks is marked and
counted in the class's counter, and without one no counter moves. Commands whose completion is stated: GRID_RELEASE. (R185,
R187, R188, R283) -/
def Obligations.GridPoints : Prop :=
  (∀ (start g blocks ended : Nat), 1 ≤ g →
    let m := gridPoint start g blocks ended
    1 ≤ m ∧ blocks ≤ m ∧ ended ≤ start + m * g ∧ (∀ k, 1 ≤ k → blocks ≤ k → ended ≤ start + k * g → m ≤ k)) ∧
  (∀ (s : State) (id c e : Nat) (j : Job), mainOn s = true → jobOf s id = some j → j.phase = .computed → j.t2.classes = [] →
    j.t1.classes = [c] → j.t1.ended = some e → 1 ≤ gridEntry (cfgOf s j.gen) c →
    let m := gridPoint j.t1.start (gridEntry (cfgOf s j.gen) c) j.t1.blocks e
    let r := j.t1.start + m * gridEntry (cfgOf s j.gen) c
    (now s < r → exec (.gridRelease id) s = .next s) ∧
    (r ≤ now s → ∃ s1 j1, exec (.gridRelease id) s = .next (afterRelease s1 j1 j1.releaseTime) ∧ jobOf s1 id = some j1 ∧
      j1.releaseTime = max j.releaseTime r ∧ j1.gridOverrun = (j.gridOverrun || decide (j.t1.blocks < m)) ∧
      (j.t1.blocks < m → look s1.sched.gridOvr c 0 = min (2 ^ 32 - 1) (look s.sched.gridOvr c 0 + 1)) ∧
      (m ≤ j.t1.blocks → s1.sched = s.sched)))

/-- With the always-on supplies present, a quiesce request while the main domain runs marks the port and re-arms elsewhere what it
watched; in reset it is acknowledged at once. In reset its release clears both marks. While the main domain runs, the release of
an acknowledged request clears them, answers the doorbells that its links held, returns the port, and for FP0 answers the
register accesses that were held. Commands whose completion is stated: QUIESCE_REQUEST, QUIESCE_RELEASE. (R60) -/
def Obligations.PortClockChanges : Prop :=
  ∀ (s : State) (k : Nat), k < 16 → aonAbsent s = false →
    ((portOf s k).qreq = false → mainOn s = true →
      exec (.quiesceRequest k) s = .next (settle (rearmElsewhere (setPort s k { portOf s k with qreq := true }) k))) ∧
    ((portOf s k).qreq = false → mainOn s = false →
      exec (.quiesceRequest k) s = .next (setPort s k { portOf s k with qreq := true, qack := true })) ∧
    ((portOf s k).qreq = true → mainOn s = false →
      exec (.quiesceRelease k) s = .next (setPort s k { portOf s k with qreq := false, qack := false })) ∧
    ((portOf s k).qreq = true → (portOf s k).qack = true → mainOn s = true →
      let u := portReturns
        ((s.links.map (·.1)).foldl (ringHeld k) (setPort s k { portOf s k with qreq := false, qack := false }))
      (k ≠ 0 → exec (.quiesceRelease k) s = .next u) ∧ (k = 0 → exec (.quiesceRelease k) s = .next (answerHeld u)))

/-- At the end of a window, while TREF and the main domain run, the count of edges is judged: it is kept and FMAX takes force; a
count more than 3 percent above the limit in force fences the port and sets OVERFREQ; a count of zero on a port that is not
quiesced fences it and sets CLOCK_LOST; each of these sets the good windows back to none, and another count adds a good window
up to three and leaves the fence. Where the register port serves, a write of UNFENCE to an open port changes nothing, before
three good windows only sets UNFENCE_EARLY, and after three returns the port. Commands whose completion is stated:
CLOCK_WINDOW_END, UNFENCE. (R63, R64) -/
def Obligations.ClockMonitor : Prop :=
  (∀ (s : State) (k n : Nat), mainOn s = true → s.clock.running = true → k < 16 →
    exec (.clockWindowEnd k n) s = .next (settle (judgeWindow s k n))) ∧
  (∀ (s : State) (k n : Nat), let p := portOf s k
    let q := portOf (judgeWindow s k n) k
    q.clkCount = n ∧ q.fmaxInForce = p.fmax ∧
    (103 * p.fmaxInForce < 10 * n → q.fenced = true ∧ q.overFreq = true ∧ q.okWindows = 0) ∧
    (n = 0 → p.qack = false → q.fenced = true ∧ q.clockLost = true ∧ q.okWindows = 0) ∧
    (n ≠ 0 → 10 * n ≤ 103 * p.fmaxInForce → q.fenced = p.fenced ∧ q.okWindows = min 3 (p.okWindows + 1))) ∧
  (∀ (s : State) (k : Nat) (v : W32), k < 16 → PortServes s → v.getLsbD 0 = true →
    ((portOf s k).fenced = false → exec (.unfence k v) s = .next { s with outbox := .regOk :: s.outbox }) ∧
    ((portOf s k).fenced = true → (portOf s k).okWindows < 3 → ∃ t, exec (.unfence k v) s = .next t ∧
      (portOf t k).unfenceEarly = true ∧ (portOf t k).fenced = true ∧ t.outbox = .regOk :: s.outbox ∧
      t = { s with fabric := t.fabric, outbox := t.outbox }) ∧
    ((portOf s k).fenced = true → 3 ≤ (portOf s k).okWindows →
      exec (.unfence k v) s = .next (emit (portReturns (setPort s k { portOf s k with fenced := false })) .regOk)))

/-- R573, word for word: “A slot to which this manual gives no name is a spare register. A spare register reads zero and ignores
writes.” Every aligned 32-bit slot inside a block's span reads some value through either path. Each slot that the tables give no
name reads zero in every state and through both paths; a write to it over a register port that serves completes with a normal
response and changes nothing else, and over the internal path changes nothing. Commands whose completion is stated:
REGISTER_WRITE. -/
def Obligations.RegisterWindow : Prop :=
  (∀ (s : State) (p : Path) (off : Nat), (∃ r ∈ regSpans, r.1 ≤ off ∧ off < r.2) → off % 4 = 0 → ∃ v, readReg s p off = some v) ∧
  (∀ (s : State) (p : Path) (off : Nat) (v : W32), off ∈ spareSlots → readReg s p off = some 0 ∧
    (PortServes s → exec (.registerWrite ⟨.regPort, off⟩ v) s = .next (emit s .regOk)) ∧
    (mainOn s = true → exec (.registerWrite ⟨.pair, off⟩ v) s = .next s))

/-- For a register with no row of its own: over a register port that serves, a write takes its effect and completes; with the guard
in front and the always-on supplies present it is answered as absent with all-ones; while FP0 is quiesced it is held; over the
internal path it takes its effect. Over a serving port an access of a bad shape outside every span gets a bus error and sets
UNMAPPED, one inside a span a bus error alone, and one inside the measurement port's span is misuse of that port. A read of a
_LO register latches its _HI half for the path of the read and not for the other one, over the register port answers the low
half, and changes nothing else; a read of FPn_FE_ADDR_LO answers it and latches the rest of the latest event. Commands whose
completion is stated: REGISTER_WRITE, BAD_REGISTER_ACCESS, LO_REGISTER_READ, FE_ADDR_LO_READ. (R8, R49, R51, R73, R574, R576,
R583) -/
def Obligations.RegisterAccess : Prop :=
  (∀ (s : State) (off : Nat) (v : W32), holdsReg off = true → ownRow off v = false →
    (PortServes s → exec (.registerWrite ⟨.regPort, off⟩ v) s = .next (emit (writeReg s off v) .regOk)) ∧
    (regGuarded s = true → portHeld s = false → aonAbsent s = false →
      exec (.registerWrite ⟨.regPort, off⟩ v) s = .next (emit s (.regAbsent (BitVec.allOnes 32)))) ∧
    (portHeld s = true → exec (.registerWrite ⟨.regPort, off⟩ v) s =
      .next { s with fabric := { s.fabric with heldAccess := s.fabric.heldAccess ++ [.registerWrite off v] } }) ∧
    (mainOn s = true → exec (.registerWrite ⟨.pair, off⟩ v) s = .next (writeReg s off v))) ∧
  (∀ (s : State) (off : Nat) (shape : AccessShape), PortServes s → badShape off shape = true →
    (inSpan off = false → exec (.badRegisterAccess off shape) s =
      .next { s with outbox := .regBusError :: s.outbox, glb := { s.glb with unmapped := true } }) ∧
    (inSpan off = true → (off < 0x3000 ∨ 0x30C0 ≤ off) → exec (.badRegisterAccess off shape) s =
      .next { s with outbox := .regBusError :: s.outbox }) ∧
    (0x3000 ≤ off → off < 0x30C0 → exec (.badRegisterAccess off shape) s = .next (mdpMisuse .regPort s))) ∧
  (∀ (s : State) (off n : Nat), pairValue s off = some n → PortServes s →
    ∃ t, exec (.loRegisterRead .regPort off) s = .next t ∧ t.outbox = .regValue (BitVec.ofNat 32 n) :: s.outbox ∧
      latchedHi t .regPort off = BitVec.ofNat 32 (n / 2 ^ 32) ∧ (∀ o, latchedHi t .pair o = latchedHi s .pair o) ∧
      t = { s with outbox := t.outbox, glb := t.glb }) ∧
  (∀ (s : State) (off n : Nat), pairValue s off = some n → mainOn s = true →
    ∃ t, exec (.loRegisterRead .pair off) s = .next t ∧
      latchedHi t .pair off = BitVec.ofNat 32 (n / 2 ^ 32) ∧ (∀ o, latchedHi t .regPort o = latchedHi s .regPort o) ∧
      t = { s with glb := t.glb }) ∧
  (∀ (s : State) (k : Nat), k < 16 → PortServes s → ∃ t, exec (.feAddrLoRead k) s = .next t ∧
    t.outbox = .regValue (BitVec.ofNat 32 (portOf s k).fe.ev.addr.toNat) :: s.outbox ∧ (portOf t k).feLatch = (portOf s k).fe ∧
    t = { s with outbox := t.outbox, fabric := t.fabric } ∧ t.fabric.txns = s.fabric.txns)

/-- Over a register port that serves: GLB_S0_BIND, GLB_RCTX_BASE_LO, GLB_RCTX_BASE_HI and MBX_WDT_TIMEOUT take the first valid write
and lock, and a value that GLB_RCTX_BASE_LO or MBX_WDT_TIMEOUT may not hold is ignored and does not lock. A write to a locked
GLB_S0_BIND, GLB_RCTX_BASE_LO, GLB_RCTX_BASE_HI, MBX_WDT_TIMEOUT, ENT_MIN_SOURCES or FP0_FMAX completes and only sets
GLB_ERR_STATUS.LOCKED_WRITE. Commands whose completion is stated: REGISTER_WRITE, S0_BIND_WRITE. (R8, R79, R477, R575, R580) -/
def Obligations.LockableRegisters : Prop :=
  (∀ (s : State) (v : W32), PortServes s →
    (s.glb.s0Bound = true → exec (.s0BindWrite v) s = .next (emit (lockedWrite s) .regOk)) ∧
    (s.glb.s0Bound = false → exec (.s0BindWrite v) s =
      .next (emit (settle (pumpVectors { s with glb := { s.glb with s0Bind := v.extractLsb' 0 28, s0Bound := true } })) .regOk))) ∧
  (∀ (s : State) (v : W32), PortServes s → s.glb.rctxLoLocked = false →
    (part v 0 12 ≠ 0 → exec (.registerWrite ⟨.regPort, 0x30⟩ v) s = .next (emit s .regOk)) ∧
    (part v 0 12 = 0 → exec (.registerWrite ⟨.regPort, 0x30⟩ v) s =
      .next { s with glb := { s.glb with rctxLo := v, rctxLoLocked := true }, outbox := .regOk :: s.outbox })) ∧
  (∀ (s : State) (v : W32), PortServes s → s.glb.rctxHiLocked = false → exec (.registerWrite ⟨.regPort, 0x34⟩ v) s =
    .next { s with glb := { s.glb with rctxHi := v, rctxHiLocked := true }, outbox := .regOk :: s.outbox }) ∧
  (∀ (s : State) (v : W32), PortServes s → s.mgmt.wdtLocked = false →
    ((part v 0 10 = 0 ∨ 1000 < part v 0 10) → exec (.registerWrite ⟨.regPort, 0x325C⟩ v) s = .next (emit s .regOk)) ∧
    (1 ≤ part v 0 10 → part v 0 10 ≤ 1000 → exec (.registerWrite ⟨.regPort, 0x325C⟩ v) s =
      .next { s with mgmt := { s.mgmt with wdtTimeout := part v 0 10, wdtLocked := true }, outbox := .regOk :: s.outbox })) ∧
  (∀ (s : State) (v : W32) (off : Nat), PortServes s →
    (off = 0x30 ∧ s.glb.rctxLoLocked = true ∨ off = 0x34 ∧ s.glb.rctxHiLocked = true ∨ off = 0x325C ∧ s.mgmt.wdtLocked = true ∨
      off = 0x3104 ∧ s.ent.minLocked = true ∨ off = 0x1008 ∧ (portOf s 0).fmaxLocked = true) →
    exec (.registerWrite ⟨.regPort, off⟩ v) s =
      .next { s with glb := { s.glb with lockedWrite := true }, outbox := .regOk :: s.outbox })

/-- R345, word for word: “ENT_MIN_SOURCES, an LK register, sets the smallest number of HEALTHY sources from which the core
conditions. Its value runs from 2 to 8, and its reset value is 4. A write outside 2 to 8 is ignored and does not lock the
register.” With fewer HEALTHY sources than ENT_MIN_SOURCES no block is conditioned; from that number on, in an entropy function
that is not FAILED, with no known-answer test due and room in the buffer, one block joins it. Its reset value is 4. A write of 2
to 8 sets and locks it, a write outside is ignored and does not lock, and a write after the lock only sets LOCKED_WRITE.
Commands whose completion is stated: REGISTER_WRITE, CONDITIONED_BLOCK. -/
def Obligations.MinimumSources : Prop :=
  (∀ (s : State) (a b : Bool), healthySources s < s.ent.minSources → exec (.conditionedBlock a b) s = .next s) ∧
  State.reset.ent.minSources = 4 ∧
  (∀ (s : State) (v : W32), PortServes s → s.ent.minLocked = false →
    ((part v 0 4 < 2 ∨ 8 < part v 0 4) → exec (.registerWrite ⟨.regPort, 0x3104⟩ v) s = .next (emit s .regOk)) ∧
    (2 ≤ part v 0 4 → part v 0 4 ≤ 8 → exec (.registerWrite ⟨.regPort, 0x3104⟩ v) s =
      .next (emit (settleEntropy { s with ent := { s.ent with minSources := part v 0 4, minLocked := true } }) .regOk))) ∧
  (∀ (s : State) (a b : Bool), mainOn s = true → s.ent.st ≠ .failed → s.ent.katDue = false → s.ent.buffer.length < 4 →
    s.ent.minSources ≤ healthySources s → ∃ u, exec (.conditionedBlock a b) s = .next (settleEntropy u) ∧
      u = { s with ent := u.ent } ∧ u.ent.buffer.length = s.ent.buffer.length + 1) ∧
  (∀ (s : State) (v : W32), PortServes s → s.ent.minLocked = true → exec (.registerWrite ⟨.regPort, 0x3104⟩ v) s =
    .next { s with glb := { s.glb with lockedWrite := true }, outbox := .regOk :: s.outbox })

/-- R527, word for word: “While VAON is present, VBAT below 2.0 V for 1 s sets TMP_STATUS.VBAT_LOW and raises manager vector 13. It
is not a tamper event, because battery-backed memory is still held.” While the always-on domain is not on battery, VBAT_LOW sets
TMP_STATUS.VBAT_LOW, raises manager vector 13 while the main domain runs, and changes nothing else but fabric traffic and
interrupts. On battery it has no effect. Commands whose completion is stated: VBAT_LOW. -/
def Obligations.BatteryLow : Prop :=
  (∀ s : State, s.pwr.onBattery = false → ∃ t, exec .vbatLow s = .next t ∧ t.pwr = { s.pwr with vbatLow := true } ∧
    (mainOn s = true → t.irq.mgrEvent.getLsbD 13 = true) ∧ OnlyTraffic { s with pwr := t.pwr } t) ∧
  (∀ s : State, s.pwr.onBattery = true → exec .vbatLow s = .next s)

/-- A VDD above 0.90 V and not above its maximum sets VDD_HIGH, changes no key, submission, slice or ring, and in an episode already
noticed changes nothing persistent. A VAON change that leaves VAON or VBAT in range takes the battery below 0.82 V, where it
counts MACE_N as released, and changes nothing else; one that leaves neither in range holds the main domain in reset. A write of
PWR_VDD_MIN over a serving register port sets it to the present VDD. Removing the battery reads the root, its check, the canary,
the latches and the emergency entries as zero or empty, keeps the MRAM, holds the main domain in reset and makes the next start
cold. Commands whose completion is stated: PWR_VDD_MIN_WRITE, VDD_HIGH, VAON_CHANGEOVER, BATTERY_REMOVAL. (R65, R67, R72, R528,
R540) -/
def Obligations.Supplies : Prop :=
  (∀ (s : State) (mv : Nat), mainOn s = true → 900 < mv → mv ≤ 1000 → ∃ t, exec (.vddHigh mv) s = .next t ∧
    t.pwr.vddHigh = true ∧ t.pwr.vddOver = true ∧ t.pwr.vdd = mv ∧ t.keys = s.keys ∧ t.jobs = s.jobs ∧ t.slices = s.slices ∧
    t.rings = s.rings ∧ (s.pwr.vddOver = true → t.per = s.per)) ∧
  (∀ (s : State) (mv : Nat), mv ≤ 1050 → (850 ≤ mv ∨ 2000 ≤ s.pwr.vbat) → ∃ t, exec (.vaonChangeover mv) s = .next t ∧
    t.pwr.vaon = mv ∧ t.pwr.onBattery = decide (mv < 820) ∧ (mv < 820 → t.pwr.maceAsserted = false) ∧
    (820 ≤ mv → t.pwr.maceAsserted = s.pwr.maceAsserted) ∧ t = { s with pwr := t.pwr }) ∧
  (∀ (s : State) (mv : Nat), mv < 850 → s.pwr.vbat < 2000 → ∃ t, exec (.vaonChangeover mv) s = .next t ∧
    t.pwr.vaon = mv ∧ t.pwr.main = .inReset ∧ mainOn t = false ∧ t.keys = s.keys) ∧
  (∀ (s : State) (v : W32), PortServes s → exec (.pwrVddMinWrite v) s =
    .next { s with pwr := { s.pwr with vddMin := s.pwr.vdd }, outbox := .regOk :: s.outbox }) ∧
  (∀ s : State, ∃ t, exec .batteryRemoval s = .next t ∧ t.per.rootA = zeros 32 ∧ t.per.rootB = zeros 32 ∧ t.per.rootCheck = zeros 8 ∧
    t.per.canary = zeros 32 ∧ t.per.latches = [] ∧ t.per.emergency = [] ∧ t.per.emgEntries = 0 ∧ mainOn t = false ∧
    t.pwr.coldNext = true ∧ t.per.ledger = s.per.ledger ∧ t.per.audit = s.per.audit ∧ t.per.counters = s.per.counters)

/-- Going down, the level is Secure below 0.640 V of VDD or 1.62 V of VDDM, else Finish below 0.670 V, Essential below 0.700 V, Trim
below 0.720 V, else Full. A change down to a level other than Secure, and a change up, sets LEVEL_CHANGED, raises vector 12 and
changes nothing but the power state, interrupts and fabric traffic. Level Secure, and the fall of PWR_GOOD while the main domain
runs, hold the main domain with its key slots and root key cleared, and with no record in commit leave ledger and counters as
they were. With the main domain off the fall is latched, as an entry of its own where a latch is free, makes the next start cold
and changes nothing else. Commands whose completion is stated: PWR_GOOD_FALL, SHEDDING_LEVEL_DOWN, SHEDDING_LEVEL_UP. (R515,
R516, R68, R539) -/
def Obligations.SheddingLevels : Prop :=
  (∀ vdd vddm : Nat, levelBelow vdd vddm = .secure ↔ vdd < 640 ∨ vddm < 1620) ∧
  (∀ vdd vddm : Nat, 1620 ≤ vddm → 640 ≤ vdd → (levelBelow vdd vddm = .finish ↔ vdd < 670) ∧
    (levelBelow vdd vddm = .essential ↔ 670 ≤ vdd ∧ vdd < 700) ∧ (levelBelow vdd vddm = .trim ↔ 700 ≤ vdd ∧ vdd < 720) ∧
    (levelBelow vdd vddm = .full ↔ 720 ≤ vdd)) ∧
  (∀ (s : State) (vdd vddm : Nat), mainOn s = true → vdd ≤ 1000 → vddm ≤ 2000 → levelBelow vdd vddm ≠ .secure →
    levelCode s.pwr.level < levelCode (levelBelow vdd vddm) →
    ∃ t, exec (.sheddingLevelDown vdd vddm) s = .next t ∧ t.pwr.level = levelBelow vdd vddm ∧ t.pwr.levelChanged = true ∧
      t.irq.mgrEvent.getLsbD 12 = true ∧ t.pwr.vdd = vdd ∧ t.pwr.vddm = vddm ∧
      (levelBelow vdd vddm = .trim → t.pwr.trimCount = satInc 32 s.pwr.trimCount) ∧ OnlyTraffic { s with pwr := t.pwr } t) ∧
  (∀ (s : State) (vdd vddm : Nat), mainOn s = true → vdd ≤ 1000 → vddm ≤ 2000 → levelBelow vdd vddm = .secure →
    levelCode s.pwr.level < 4 → ∃ t, exec (.sheddingLevelDown vdd vddm) s = .next t ∧ t.pwr.main = .secureHold ∧
      t.pwr.level = .secure ∧ t.pwr.coldNext = true ∧ t.keys.slots = [] ∧ t.keys.rk = none ∧ t.links = [] ∧
      (s.per.queue = [] → t.per.ledger = s.per.ledger ∧ t.per.counters = s.per.counters)) ∧
  (∀ (s : State) (vdd vddm : Nat), mainOn s = true → vdd ≤ 1000 → vddm ≤ 2000 →
    levelCode (levelAbove vdd) < levelCode s.pwr.level →
    ∃ t, exec (.sheddingLevelUp vdd vddm) s = .next t ∧ t.pwr.level = levelAbove vdd ∧ t.pwr.levelChanged = true ∧
      t.irq.mgrEvent.getLsbD 12 = true ∧ OnlyTraffic { s with pwr := t.pwr } t) ∧
  (∀ s : State, s.pwr.pwrGood = true → mainOn s = true → ∃ t, exec .pwrGoodFall s = .next t ∧ t.pwr.main = .secureHold ∧
    t.pwr.level = .secure ∧ t.pwr.pwrGood = false ∧ t.keys.slots = [] ∧ t.keys.rk = none ∧
    (s.per.queue = [] → t.per.ledger = s.per.ledger ∧ t.per.counters = s.per.counters)) ∧
  (∀ s : State, s.pwr.pwrGood = true → mainOn s = false → ∃ t, exec .pwrGoodFall s = .next t ∧ t.pwr.pwrGood = false ∧
    t.pwr.coldNext = true ∧
    ((∃ i, i < 16 ∧ (look s.per.latches i {}).kind = 0) → secureLatched t = true) ∧ t = { s with pwr := t.pwr, per := { s.per with latches := t.per.latches } })

/-- A due self-test of a supply monitor sets that rail's bit to its result, leaves the others, is then no longer due, and changes
nothing else where it passes; where it fails it marks the failure, raises vector 12 and writes a log record. A due light sensor
test that passes clears the sensor's count of failures, one that fails counts, each with nothing else changed, and the third
failure in a row is latched and raises a Class A alarm of cause 3. Commands whose completion is stated: MONITOR_SELF_TEST,
LIGHT_SENSOR_SELF_TEST. (R519, R526) -/
def Obligations.MonitorTests : Prop :=
  (∀ (s : State) (rail : Rail) (pass : Bool), serving s = true → testDue s s.pwr.monTestAt (railBit rail) = true →
    ∃ t, exec (.monitorSelfTest rail pass) s = .next t ∧ t.pwr.monTest.getLsbD (railBit rail) = pass ∧
      (∀ i, i < 4 → i ≠ railBit rail → t.pwr.monTest.getLsbD i = s.pwr.monTest.getLsbD i) ∧
      t.pwr.monFail = (s.pwr.monFail || !pass) ∧ testDue t t.pwr.monTestAt (railBit rail) = false ∧
      (pass = false → t.irq.mgrEvent.getLsbD 12 = true) ∧ (pass = true → t = { s with pwr := t.pwr }) ∧
      OnlyLogged { s with pwr := t.pwr } t) ∧
  (∀ (s : State) (n : Nat), n < 96 → s.pwr.onBattery = false → mainOn s = true → testDue s s.pwr.lightTestAt n = true →
    (∃ t, exec (.lightSensorSelfTest n true) s = .next t ∧ t = { s with pwr := t.pwr } ∧ t.pwr.lightPass.contains n = true ∧
      look t.pwr.lightTries n 0 = 0) ∧
    (look s.pwr.lightTries n 0 ≠ 2 → ∃ t, exec (.lightSensorSelfTest n false) s = .next t ∧ t = { s with pwr := t.pwr } ∧
      t.pwr.sensorFail = true ∧ look t.pwr.lightTries n 0 = look s.pwr.lightTries n 0 + 1) ∧
    (look s.pwr.lightTries n 0 = 2 → ∃ u, exec (.lightSensorSelfTest n false) s = .next (classA (latch u 3 n) 3) ∧
      u = { s with pwr := u.pwr } ∧ u.pwr.lightFail.contains n = true ∧ u.pwr.sensorFail = true))

/-- Off battery a light report, and on battery the first sensor of a sample window that saw light, is latched and raises a Class A
alarm of cause 1; a window that saw none keeps that it saw none. The assertion of MACE_N with the always-on supplies present is
latched and raises cause 2 once; its release changes only the power state; an assertion held over a minute counts one episode. A
gap of the AON clock is latched, and on battery raises cause 4. With the main domain off the alarm zeroes both halves of the
root and its check, makes the next start cold and leaves all other persistent state, keys and submissions. Commands whose
completion is stated: MACE_ASSERT, MACE_RELEASE, MACE_HELD_EPISODE, LIGHT_EVENT, LIGHT_SAMPLE_WINDOW, AON_GAP. (R71, R524, R525,
R529, R536, R537) -/
def Obligations.TamperEvents : Prop :=
  (∀ (s : State) (n : Nat), n < 96 → s.pwr.onBattery = false → ∃ u, exec (.lightEvent n) s = .next (classA (latch u 1 n) 1) ∧
    u = { s with pwr := u.pwr } ∧ u.pwr.lightNow.contains n = true) ∧
  (∀ (s : State) (n : Nat) (l : List Nat), n < 96 → s.pwr.onBattery = true →
    ∃ u, exec (.lightSampleWindow (n :: l)) s = .next (classA (latch u 1 n) 1) ∧ u = { s with pwr := u.pwr } ∧
      u.pwr.lightNow = (n :: l).filter (fun i => decide (i < 96))) ∧
  (∀ s : State, s.pwr.onBattery = true → exec (.lightSampleWindow []) s = .next { s with pwr := { s.pwr with lightNow := [] } }) ∧
  (∀ s : State, s.pwr.maceAsserted = false → s.pwr.onBattery = false → (850 ≤ s.pwr.vaon ∨ 2000 ≤ s.pwr.vbat) →
    ∃ u, exec .maceAssert s = .next (classA (latch u 2 0) 2) ∧ u = { s with pwr := u.pwr } ∧ u.pwr.maceAsserted = true) ∧
  (∀ s : State, ∃ t, exec .maceRelease s = .next t ∧ t.pwr.maceAsserted = false ∧ t = { s with pwr := t.pwr } ∧ t.pwr.main = s.pwr.main) ∧
  (∀ s : State, s.pwr.maceAsserted = true → s.pwr.maceCounted = false → ∃ t, exec .maceHeldEpisode s = .next t ∧
    t.pwr.maceHeldEpisodes = s.pwr.maceHeldEpisodes + 1 ∧ t.pwr.maceCounted = true ∧ t = { s with pwr := t.pwr } ∧
    exec .maceHeldEpisode t = .next t) ∧
  (∀ s : State, s.pwr.onBattery = false → exec .aonGap s = .next (latch s 4 0)) ∧
  (∀ s : State, s.pwr.onBattery = true → exec .aonGap s = .next (classA (latch s 4 0) 4)) ∧
  (∀ (s : State) (cause : Nat), mainOn s = false → (classA s cause).per = { s.per with rootA := zeros 32, rootB := zeros 32, rootCheck := zeros 8 } ∧
    (classA s cause).pwr.coldNext = true ∧ (classA s cause).pwr.alarmClass = 1 ∧ (classA s cause).pwr.alarmCause = cause ∧
    (classA s cause).keys = s.keys ∧ (classA s cause).jobs = s.jobs)

/-- Whatever the state and the cause, after a Class A alarm both halves of the root and its check are zero and the alarm register
names the class and the cause. While the main domain ran, the key slots, curves, HMAC states, root, slot, sealing, attestation
and storage keys, every random instance, the measurement port's key and the store's objects are gone, and a core that is not
RETIRED is in SAFE. (R530, R533, R535, R536) -/
def Obligations.ClassAAlarmZeroises : Prop :=
  ∀ (s : State) (cause : Nat),
    let t := classA s cause
    t.per.rootA = zeros 32 ∧ t.per.rootB = zeros 32 ∧ t.per.rootCheck = zeros 8 ∧ t.pwr.alarmClass = 1 ∧ t.pwr.alarmCause = cause ∧
      (mainOn s = true → t.keys.slots = [] ∧ t.keys.curves = [] ∧ t.keys.hmac = [] ∧ t.keys.rk = none ∧ t.keys.slotKey = none ∧
        t.keys.storeSeal = none ∧ t.keys.mak = none ∧ t.keys.smk = none ∧ t.ent.drbgs = [] ∧ t.mdp.st = .idle ∧ t.mdp.hmacKey = [] ∧
        t.mdp.alarmClear = true ∧ t.store.objects = [] ∧
        (s.keys.lifecycle ≠ .retired → t.keys.lifecycle = .safe ∧ t.pwr.main = .safe))

/-- An assertion shorter than 100 ns has no effect, one from 1 us on resets, and one in between does the one or the other as a free
value says. The reset holds the main domain without zeroising keys, root, canary, latches or the tamper thermometer and ends
links and fabric requests. LONG_RESET is noted while the pin is asserted. With the always-on supplies present a release starts
the sequence: cold where a cold start is due or a level Secure is latched, else warm, with the binding of slice 0 kept over a
warm start only; with MACE_N asserted it ends in SAFE with code 0x0B and no key. (PWR_GOOD is high at a release by the row's own
words: log entry 153.) Commands whose completion is stated: RST_N_ASSERT, RST_N_RELEASE, LONG_RESET. (R69, R70, R497, R68, R71) -/
def Obligations.ResetPin : Prop :=
  (∀ (s : State) (ns : Nat), s.pwr.rstAsserted = false →
    (ns < 100 → exec (.rstNAssert ns) s = .next s) ∧
    (1000 ≤ ns → exec (.rstNAssert ns) s = .next (enterReset s)) ∧
    (100 ≤ ns → ns < 1000 → exec (.rstNAssert ns) s =
      .next (if Config.freeNat (draw s).1 % 2 = 1 then enterReset (draw s).2 else (draw s).2))) ∧
  (∀ s : State, let t := enterReset s
    t.pwr.main = .inReset ∧ t.pwr.rstAsserted = true ∧ mainOn t = false ∧ t.links = [] ∧ t.fabric.txns = [] ∧ t.keys = s.keys ∧
      t.per.rootA = s.per.rootA ∧ t.per.rootB = s.per.rootB ∧ t.per.rootCheck = s.per.rootCheck ∧ t.per.canary = s.per.canary ∧
      t.per.latches = s.per.latches ∧ t.per.otpTamper = s.per.otpTamper ∧ (s.pwr.coldNext = true → t.pwr.coldNext = true)) ∧
  (∀ s : State, s.pwr.rstAsserted = true → exec .longReset s = .next { s with pwr := { s.pwr with longReset := true } }) ∧
  (∀ s : State, s.pwr.rstAsserted = true → (850 ≤ s.pwr.vaon ∨ 2000 ≤ s.pwr.vbat) →
    (s.pwr.maceAsserted = false → ∃ t, exec .rstNRelease s = .next t ∧ t.pwr.main = .precondition ∧ t.pwr.rstAsserted = false ∧
      t.pwr.startKind = (if s.pwr.coldNext = true ∨ secureLatched s = true then 1 else 2) ∧ t.keys.rk = none ∧
      t.pwr.releasedAt = now s ∧ t.glb.s0Bound = (if s.pwr.coldNext = true ∨ secureLatched s = true then false else s.glb.s0Bound)) ∧
    (s.pwr.maceAsserted = true → ∃ t, exec .rstNRelease s = .next t ∧ t.pwr.startFail = 0x0B ∧ t.pwr.main = .safe ∧
      t.keys.lifecycle = .safe ∧ t.keys.slots = [] ∧ t.keys.rk = none))

/-- Ten seconds without the precondition end the start of a core that is not RETIRED in SAFE with code 0x01. Without a parity error,
a self-test that fails with code 0x02 holds the main domain in reset with that code, one that fails with 0x03 to 0x07 ends in
SAFE with its code (core not RETIRED), and one that passes goes on with the start, which ends in SAFE with code 0x08 where no
image bank is good. A start that waits for the root and has none draws one where the internal instance can give a value, writes
it and finishes; after 100 ms with the sources still starting it ends in SAFE. Commands whose completion is stated:
SELF_TEST_PRECONDITION_MET, SELF_TEST_TIMEOUT, ROOT_DRAW. (R407, R497, R501) -/
def Obligations.StartSequence : Prop :=
  (∀ s : State, s.pwr.main = .precondition → s.keys.lifecycle ≠ .retired → s.pwr.releasedAt + ms 10000 ≤ now s →
    ∃ t, exec .selfTestTimeout s = .next t ∧ t.pwr.main = .safe ∧ t.pwr.startFail = 0x01 ∧ t.keys.slots = [] ∧ t.keys.rk = none) ∧
  (∀ (s : State) (io : StartIo), s.pwr.main = .precondition → io.parityError = false →
    (io.testFail = some 0x02 → ∃ t, exec (.selfTestPreconditionMet io) s = .next t ∧ t.pwr.main = .resetHold ∧ t.pwr.startFail = 0x02) ∧
    (∀ c, 0x03 ≤ c → c ≤ 0x07 → io.testFail = some c → s.keys.lifecycle ≠ .retired →
      ∃ t, exec (.selfTestPreconditionMet io) s = .next t ∧ t.pwr.main = .safe ∧ t.pwr.startFail = c) ∧
    (io.testFail = none → ∃ u, u = { s with pwr := { s.pwr with saved := none, bstState := 0, bstStartPass := 0x3F } } ∧
      exec (.selfTestPreconditionMet io) s = .next (runStart u io) ∧
      (chooseBank (extendSlot u 0 bootRomDigest) io = none → s.keys.lifecycle ≠ .retired →
        (runStart u io).pwr.main = .safe ∧ (runStart u io).pwr.startFail = 0x08))) ∧
  (∀ s : State, s.pwr.main = .rootWait → rootOf s = none → internalReady s = true → let n := (drawRandom s).1
    ∃ u, exec .rootDraw s = .next (finishStart u true) ∧ u.per.rootA = randomBytes n 32 ∧ rootOf u = some (randomBytes n 32)) ∧
  (∀ s : State, s.pwr.main = .rootWait → rootOf s = none → s.ent.st = .starting → s.keys.lifecycle ≠ .retired →
    s.pwr.waitSince + ms 100 ≤ now s → ∃ t, exec .rootDraw s = .next t ∧ t.pwr.main = .safe ∧ t.pwr.startFail = 0x0A)

/-- In a serving core with rotation enabled, a due test is deferred and counted while the level is not Full or the temperature and
VDD are out of range; otherwise the part goes under test, is not free, and keeps the job it has. The test of a part without work
ends: a pass returns it to service where it may return and else leaves its fence; a failure fences it as FAILED, counts it,
raises vector 8 and writes a log record before the kind is swept for submissions that no part is left for. Commands whose
completion is stated: PART_TEST_START, PART_TEST_END. (R503, R545) -/
def Obligations.PartTests : Prop :=
  (∀ (s : State) (k : Engine) (n : Nat), serving s = true → s.pwr.bstEnable = true → rotates k = true → n < engCount k →
    partOut (partOf s k n) = false →
    ((s.pwr.level ≠ .full ∨ testRange s = false) → ∃ t, exec (.partTestStart k n) s = .next t ∧ t = { s with pwr := t.pwr } ∧
      t.pwr.bstDeferred = true ∧ t.pwr.bstDefer = satInc 32 s.pwr.bstDefer) ∧
    (s.pwr.level = .full → testRange s = true → ∃ t, exec (.partTestStart k n) s = .next t ∧
      (partOf t k n).test = .underTest ∧ partFree (partOf t k n) = false ∧ (partOf t k n).busy = (partOf s k n).busy ∧
      t = { s with pwr := t.pwr, sched := t.sched })) ∧
  (∀ (s : State) (k : Engine) (n : Nat), mainOn s = true → (partOf s k n).test = .underTest → (partOf s k n).busy = none →
    (partOf s k n).own = false →
    (∃ t, exec (.partTestEnd k n true) s = .next t ∧ (partOf t k n).test = .passed ∧
      (partOf t k n).fence = (if (partOf s k n).mayReturn then .inService else (partOf s k n).fence) ∧
      t = { s with pwr := t.pwr, sched := t.sched }) ∧
    (∃ u, exec (.partTestEnd k n false) s = .next (storeGone (sweepKind u k)) ∧ (partOf u k n).fence = .failed ∧
      (partOf u k n).test = .failed ∧ u.pwr.bstFenced = satInc 32 s.pwr.bstFenced ∧ u.irq.mgrEvent.getLsbD 8 = true ∧
      OnlyLogged { s with pwr := u.pwr, sched := u.sched } u))

/-- Code word and stall faults of a part that can fault, a stall with its computation going on, take the part fault. A fenced part
has the fence given, no job and no own work, is not free, takes a new lease epoch and raises vector 8; no submission, key or
slice changes with the fence. A parity error in a slice's memory, in a serving core, raises the Class C alarm of that slice. A
slice that serves is stopped with its submissions ended as ABORTED by fault, one that does not serve is left; the slice becomes
FAULTED with its cause and vector 4 once none of its accepted submissions is left, and not before. Commands whose completion is
stated: SRAM_PARITY_ERROR, CODEWORD_FAULT, STALL_FAULT. (R96, R98, R533, R542, R543) -/
def Obligations.PartFaults : Prop :=
  (∀ (s : State) (k : Engine) (n : Nat), canFault s k n = true →
    exec (.codewordFault k n) s = .next (storeGone (partFault s k n .codeword))) ∧
  (∀ (s : State) (k : Engine) (n : Nat) (j : Job), canFault s k n = true → (partOf s k n).busy.bind (jobOf s) = some j →
    ((j.phase = .operands ∧ missingMore s j = []) ∨ j.phase = .computed) →
    exec (.stallFault k n) s = .next (storeGone (partFault s k n .stall))) ∧
  (∀ (s : State) (k : Engine) (n : Nat) (why : FenceSt),
    let u := fencePart s (k, n) why
    (partOf u k n).fence = why ∧ (partOf u k n).busy = none ∧ (partOf u k n).own = false ∧
      leaseEpoch u (.part k n) = leaseEpoch s (.part k n) + 1 ∧
      partFree (partOf u k n) = (why == .inService && (partOf s k n).test != .underTest) ∧ u.irq.mgrEvent.getLsbD 8 = true ∧
      u.jobs = s.jobs ∧ u.keys = s.keys ∧ u.slices = s.slices) ∧
  (∀ (s : State) (n : Nat) (place : ParityPlace), serving s = true → (sliceOf s n).st ≠ .free →
    exec (.sramParityError n place) s = .next (classC s (match place with | .scratch => 0x20 | .keySlot => 0x21) n)) ∧
  (∀ (s : State) (sl c : Nat), (sliceOf s sl).faulting = some c → s.jobs.any (fun j => j.slice == sl && accepted j) = false →
    (sliceOf (settleFault s sl) sl).st = .faulted ∧ (sliceOf (settleFault s sl) sl).faultCause = c ∧
      (settleFault s sl).irq.mgrEvent.getLsbD 4 = true) ∧
  (∀ (s : State) (sl : Nat), s.jobs.any (fun j => j.slice == sl && accepted j) = true → settleFault s sl = s) ∧
  (∀ (s : State) (sl cause : Nat), sliceServes (sliceOf s sl) = false → sliceFault s sl cause = s) ∧
  (∀ (s : State) (sl cause : Nat), sliceServes (sliceOf s sl) = true → ∃ u, sliceFault s sl cause = settleFault u sl ∧
    u = stopSlice (updSlice s sl (fun x => { x with faulting := some cause })) sl stAbortFault)

/-- Past the start, a core-wide fault while another recovers puts a core that is not RETIRED in SAFE and changes nothing else.
Otherwise the entropy function has its known-answer tests due; the ledger writer recovers while it has a record; the running
management pair restarts and is counted; the register port is fenced; a fabric port is fenced with its datapath fault and its
reads are run again; and the key store runs its own recovery. Commands whose completion is stated: CORE_WIDE_PART_FAULT. (R547,
R548) -/
def Obligations.CoreWideFaults : Prop :=
  ∀ (s : State) (p : CorePart), pastStart s = true →
    (s.pwr.recovering ≠ [] → s.keys.lifecycle ≠ .retired → ∃ t, exec (.coreWidePartFault p) s = .next t ∧
      t.pwr.main = .safe ∧ t.keys = { s.keys with lifecycle := .safe } ∧ t = { s with pwr := t.pwr, keys := t.keys }) ∧
    (s.pwr.recovering = [] →
      (p = .entropy → ∃ t, exec (.coreWidePartFault p) s = .next t ∧ t.ent = { s.ent with katDue := true } ∧
        t.pwr.recovering = [.entropy] ∧ t = { s with ent := t.ent, pwr := t.pwr }) ∧
      (p = .ledger → ∃ t, exec (.coreWidePartFault p) s = .next t ∧ t.pwr.recovering = (if s.per.queue = [] then [] else [.ledger]) ∧
        t = { s with pwr := t.pwr }) ∧
      (p = .management → s.mgmt.st = .running → ∃ t, exec (.coreWidePartFault p) s = .next t ∧ t.mgmt.st = .restarting ∧
        t.mgmt.restartCount = satInc 32 s.mgmt.restartCount ∧ t.pwr.recovering = [.management]) ∧
      (p = .boundary none → ∃ t, exec (.coreWidePartFault p) s = .next t ∧ t.pwr.regPortFenced = true ∧ regGuarded t = true ∧
        t.pwr.recovering = [] ∧ t = { s with pwr := t.pwr }) ∧
      (∀ k, k < 16 → p = .boundary (some k) → ∃ u, exec (.coreWidePartFault p) s = .next (recovered (rerunReads u k) p) ∧
        (portOf u k).fenced = true ∧ (portOf u k).datapathFault = true) ∧
      (p = .keyStore → exec (.coreWidePartFault p) s = .next (keyStoreFault { s with pwr := { s.pwr with recovering := [.keyStore] } })))

/-- Each of these makes the running pair restart with its trap kind and counts it; MGMT_RESTART over a serving register port leaves
its trap PC free, empties the management memory and ends a write lock; the watchdog and the halt, with no recovery going on,
raise vector 3, and the halt keeps PC, SP and cause. A double fault keeps its trap and cause, counts, leaves the pair running in
its handler and, where the PMP lets it, writes its frame at the top of the memory. A lockstep mismatch on the key path is first
a Class B alarm of cause 0x11, and off it leaves the key slots. A restart that completes runs the pair again; one whose image
fails its digest, past the start, halts the pair and ends in SAFE with code 0x0C. Commands whose completion is stated:
MBX_MGMT_RESTART, WATCHDOG_EXPIRY, PAIR_HALT, DOUBLE_FAULT, LOCKSTEP_MISMATCH, RESTART_COMPLETE. (R471, R474, R475, R476, R477,
R478, R480) -/
def Obligations.PairRestarts : Prop :=
  (∀ (s : State) (v : W32), PortServes s → v.getLsbD 0 = true → s.mgmt.st = .running →
    ∃ n t, exec (.mbxMgmtRestart v) s = .next t ∧ t.outbox = .regOk :: s.outbox ∧ t.mgmt.st = .restarting ∧ t.mgmt.trapKind = 5 ∧
      t.mgmt.trapPc = BitVec.ofNat 64 (leNat (freeBytes n 8)) ∧ t.mgmt.restartCount = satInc 32 s.mgmt.restartCount ∧
      t.mgmt.mem = [] ∧ t.mgmt.keypath = false ∧ (pastStart s = true → t.per.writeLock = false)) ∧
  (∀ s : State, pastStart s = true → s.mgmt.st = .running → s.mgmt.lastKick + ms s.mgmt.wdtTimeout ≤ now s → s.pwr.recovering = [] →
    ∃ t, exec .watchdogExpiry s = .next t ∧ t.mgmt.st = .restarting ∧ t.mgmt.trapKind = 3 ∧
      t.mgmt.restartCount = satInc 32 s.mgmt.restartCount ∧ t.pwr.recovering = [.management] ∧ t.irq.mgrEvent.getLsbD 3 = true) ∧
  (∀ (s : State) (pc sp : W64) (cause : Byte), pastStart s = true → s.mgmt.st = .running → s.pwr.recovering = [] →
    ∃ t, exec (.pairHalt pc sp cause) s = .next t ∧ t.mgmt.st = .restarting ∧ t.mgmt.trapKind = 2 ∧ t.mgmt.trapPc = pc ∧
      t.mgmt.trapSp = sp ∧ t.mgmt.trapInterrupt = cause.getLsbD 7 ∧ t.mgmt.trapCause = cause.extractLsb' 0 7 ∧
      t.irq.mgrEvent.getLsbD 3 = true) ∧
  (∀ (s : State) (pc sp : W64) (cause : Byte), mainOn s = true → s.mgmt.st = .running →
    ∃ t n, exec (.doubleFault pc sp cause) s = .next t ∧ t = { s with mgmt := t.mgmt, drawn := t.drawn } ∧ t.mgmt.st = .running ∧
      t.mgmt.mdfActive = true ∧ t.mgmt.trapKind = 1 ∧ t.mgmt.trapPc = pc ∧ t.mgmt.trapSp = sp ∧
      t.mgmt.trapInterrupt = cause.getLsbD 7 ∧ t.mgmt.trapCause = cause.extractLsb' 0 7 ∧
      t.mgmt.dfaultCount = satInc 32 s.mgmt.dfaultCount ∧
      ((∀ a, pairEnd - 160 ≤ a → a < pairEnd → pairWrites s true a = true) →
        t.mgmt.mem = memWriteBytes s.mgmt.mem (pairEnd - 160) (trapFrame n pc cause))) ∧
  (∀ (s : State) (pc sp : W64), pastStart s = true → s.mgmt.st = .running →
    let u := { s with mgmt := { s.mgmt with lockstepCount := satInc 32 s.mgmt.lockstepCount } }
    (keyPath s = true → exec (.lockstepMismatch pc sp) s = .next (pairFault (classB u 0x11) (fun x => restartPair x 4 0 pc sp))) ∧
    (keyPath s = false → s.pwr.recovering = [] → ∃ t, exec (.lockstepMismatch pc sp) s = .next t ∧ t.mgmt.st = .restarting ∧
      t.mgmt.trapKind = 4 ∧ t.mgmt.trapPc = pc ∧ t.mgmt.lockstepCount = satInc 32 s.mgmt.lockstepCount ∧ t.keys.slots = s.keys.slots)) ∧
  (∀ s : State, mainOn s = true → s.mgmt.st = .restarting → exec (.restartComplete true) s = .next (pairRuns s)) ∧
  (∀ s : State, mainOn s = true → s.mgmt.st = .restarting → s.keys.lifecycle ≠ .retired → pastStart s = true →
    ∃ t, exec (.restartComplete false) s = .next t ∧ t.pwr.main = .safe ∧ t.pwr.startFail = 0x0C ∧ t.mgmt.st = .halted)

/-- A source under its start-up test becomes HEALTHY when it passes, tests again when it fails, and at the third failure in a row
becomes FATAL with vector 7 and a log record; each use of the test discards the noise it took. A continuous test's failure of a
HEALTHY source counts and discards: no 64-bit group of that source stays in the block in progress, the source tests again, and
at the fourth failure within a second it becomes FATAL with vector 7. Over a serving register port the first write of
ENT_SRC_MASK takes effect, switches the sources that it leaves out off, keeps the state of the others, and locks; a later one
only sets LOCKED_WRITE. Commands whose completion is stated: ENTROPY_STARTUP_TEST_END, REPETITION_COUNT_FAILURE,
ADAPTIVE_PROPORTION_FAILURE, ENT_SRC_MASK_WRITE. (R338, R339, R340, R341, R361) -/
def Obligations.NoiseSources : Prop :=
  (∀ (s : State) (n : Nat), mainOn s = true → n < 8 → (sourceOf s n).st = .testing → let x := testedSource (sourceOf s n)
    (exec (.entropyStartupTestEnd n true) s = .next (settleEntropy (setSource s n { x with st := .healthy, startFails := 0 }))) ∧
    (x.startFails + 1 < 3 → exec (.entropyStartupTestEnd n false) s = .next (settleEntropy
      (setSource s n { x with startFails := x.startFails + 1, restarts := satInc 8 x.restarts }))) ∧
    (3 ≤ x.startFails + 1 → ∃ u, exec (.entropyStartupTestEnd n false) s = .next (settleEntropy u) ∧
      (sourceOf u n).st = .fatal ∧ u.ent.fatalSource = true ∧ u.irq.mgrEvent.getLsbD 7 = true ∧
      OnlyLogged { s with ent := u.ent } u)) ∧
  (∀ (s : State) (n : Nat), mainOn s = true → n < 8 → (sourceOf s n).st = .healthy → let x := sourceOf s n
    exec (.repetitionCountFailure n) s = .next (continuousFailure (setSource s n { x with rctFails := satInc 8 x.rctFails }) n) ∧
    exec (.adaptiveProportionFailure n) s = .next (continuousFailure (setSource s n { x with aptFails := satInc 8 x.aptFails }) n)) ∧
  (∀ (s : State) (n : Nat), ∃ u, continuousFailure s n = settleEntropy u ∧ (∀ g ∈ u.ent.progress, g.1 ≠ n) ∧
    let recent := (sourceOf s n).failTimes.filter (fun t => decide (now s < t + ms 1000))
    (recent.length < 3 → (sourceOf u n).st = .testing ∧ (sourceOf u n).restarts = satInc 8 (sourceOf s n).restarts) ∧
    (3 ≤ recent.length → (sourceOf u n).st = .fatal ∧ u.ent.fatalSource = true ∧ u.irq.mgrEvent.getLsbD 7 = true)) ∧
  (∀ (s : State) (v : W32), PortServes s →
    (s.ent.maskLocked = true → exec (.entSrcMaskWrite v) s =
      .next { s with glb := { s.glb with lockedWrite := true }, outbox := .regOk :: s.outbox }) ∧
    (s.ent.maskLocked = false → ∃ u, exec (.entSrcMaskWrite v) s = .next (emit (settleEntropy u) .regOk) ∧
      u.ent.srcMask = v.extractLsb' 0 8 ∧ u.ent.maskLocked = true ∧ u = { s with ent := u.ent } ∧
      (∀ n, n < 8 → (sourceOf u n).st = (if v.getLsbD n then (sourceOf s n).st else .off))))

/-- In an entropy function that is not FAILED with enough HEALTHY sources, while the main domain runs: with no known-answer test due
and room in the buffer, the SHA-384 of 32 groups of 64 bits joins it, the block in progress is empty again and ENT_BLOCKS
counts; a full buffer takes none; with room, a due known-answer test that fails stops the entropy function. A due reseed of the
instantiated internal instance, in an AVAILABLE function with no such test due, takes one block and one serial number and
changes nothing outside the entropy function. Commands whose completion is stated: CONDITIONED_BLOCK, INTERNAL_RESEED. (R342,
R343, R344, R346, R350) -/
def Obligations.ConditionedBlocks : Prop :=
  (∀ (s : State) (a b : Bool), mainOn s = true → s.ent.st ≠ .failed → s.ent.minSources ≤ healthySources s →
    (s.ent.buffer.length < 4 → s.ent.katDue = false → let u := finishBlock s
      exec (.conditionedBlock a b) s = .next (settleEntropy u) ∧ u = { s with ent := u.ent } ∧ u.ent.progress = [] ∧
      u.ent.buffer = s.ent.buffer ++ [sha384 ((absorbGroups (32 - s.ent.progress.length) s).ent.progress.flatMap (·.2))] ∧
      u.ent.blocks = (s.ent.blocks + 1) % 2 ^ 64) ∧
    (4 ≤ s.ent.buffer.length → exec (.conditionedBlock a b) s = .next s) ∧
    (s.ent.buffer.length < 4 → s.ent.katDue = true → (a && b) = false →
      exec (.conditionedBlock a b) s = .next (entropyFailed (recovered (runKats s a b) .entropy)))) ∧
  (∀ s : State, mainOn s = true → internalDue s = true → s.ent.katDue = false → s.ent.st = .available → s.pwr.main ≠ .rootWait →
    (drbgOf s 256).st ≠ .uninstantiated → canSeed s = true →
    ∃ t, exec .internalReseed s = .next t ∧ t = { s with ent := t.ent } ∧ t.ent.buffer = s.ent.buffer.drop 1 ∧
      t.ent.serialNext = s.ent.serialNext + 1 ∧ t.ent.mustReseed = false ∧
      drbgOf t 256 = { drbgReseed (drbgOf s 256) (s.ent.buffer.headD []) (reseedString [] s.ent.serialNext) with seededAt := now s })

/-- A creation of a free slice with good input replies NO_RESOURCE without resources, IN_USE for a taken PASID, and else OK:
allotment and windows are staged, the slice is CREATING with the identity asked for, and no other slice nor the configuration in
force changes. A modification of the same identity with resources and nothing in use that it would drop stages the new ones and
holds the allotment. A reset halts the slice, waits, and makes it ACTIVE with its fault cleared once it is quiet. A destruction
is refused while the slice owns records, drops a creation at once, and else halts the slice, waits, and frees it with its
allotment and windows once it is quiet. A query writes its block of 256 bytes, whose layout the spec leaves open (log entry 33),
made of the slice's state, allotments, use and fault. Commands whose completion is stated: SLICE_CREATE, SLICE_MODIFY,
SLICE_RESET, SLICE_RESET_DONE, SLICE_DESTROY, SLICE_RELEASE_DONE, SLICE_QUERY. (R81, R94, R100, R101, R104, R105, R106) -/
def Obligations.SliceCommands : Prop :=
  (∀ (s t : State) (io : MbxIo) (i : Nat) (q : Req) (b : Bytes), Starts s 0x0101 i q → q.target ≠ 0 → (sliceOf s q.target).st = .free →
    s.glb.s0Bound = true → creationInput q io s = (.data b, t) →
    let c := creationFrom b
    ((noResource t q.target c.allot = true ∨ (bit c.flags 0 = true ∧ 16 ≤ privilegedCount t)) →
      exec (.sliceCreate io) s = .next (finishReq t i { code := rNoResource })) ∧
    (noResource t q.target c.allot = false → (bit c.flags 0 = false ∨ privilegedCount t < 16) →
      (pasidTaken t c.pasid = true → exec (.sliceCreate io) s = .next (finishReq t i { code := rInUse })) ∧
      (pasidTaken t c.pasid = false → ∃ u, exec (.sliceCreate io) s = .next (finishReq u i { code := rOk }) ∧
        sliceOf u q.target =
          { st := .creating, pasid := BitVec.ofNat 20 c.pasid, colour := BitVec.ofNat 8 c.colour
            saffron := c.cls == 1, privileged := bit c.flags 0, held := c.allot } ∧
        allotOf u.cfg.staged q.target = c.allot ∧ windowsOf u.cfg.staged q.target = c.windows ∧ u.cfg.cur = s.cfg.cur ∧
        (∀ n, n ≠ q.target → sliceOf u n = sliceOf s n) ∧
        u = { s with outbox := u.outbox, slices := u.slices, cfg := u.cfg }))) ∧
  (∀ (s t : State) (io : MbxIo) (i : Nat) (q : Req) (b : Bytes), Starts s 0x0102 i q →
    ((sliceOf s q.target).st = .active ∨ (sliceOf s q.target).st = .faulted) → s.glb.s0Bound = true →
    creationInput q io s = (.data b, t) → sameIdentity t (creationFrom b) = true → noResource t q.target (creationFrom b).allot = false →
    modifyInUse t q.target (creationFrom b) = false →
    ∃ u, exec (.sliceModify io) s = .next (finishReq u i { code := rOk }) ∧ (sliceOf u q.target).held = (creationFrom b).allot ∧
      (sliceOf u q.target).st = (sliceOf s q.target).st ∧ allotOf u.cfg.staged q.target = (creationFrom b).allot ∧
      (q.target ≠ 0 → windowsOf u.cfg.staged q.target = (creationFrom b).windows) ∧ u.cfg.cur = s.cfg.cur ∧
      u = { s with outbox := u.outbox, slices := u.slices, cfg := u.cfg }) ∧
  (∀ (s : State) (i : Nat) (q : Req), Starts s 0x0103 i q → argsFrom q 0 = false → q.target ≤ 255 →
    ((sliceOf s q.target).st = .active ∨ (sliceOf s q.target).st = .faulted) →
    exec .sliceReset s = .next (parkReq
      (haltSlice (updSlice s q.target (fun x => { x with st := .resetting, faulting := none })) q.target) i q)) ∧
  (∀ (s : State) (n : Nat), pastStart s = true → (sliceOf s n).st = .resetting → sliceQuiet s n = true →
    ∃ u, exec (.sliceResetDone n) s = .next (finishParked u (fun q => q.cmd == 0x0103 && q.target == n) { code := rOk }) ∧
      (sliceOf u n).st = .active ∧ (sliceOf u n).faultCause = 0 ∧ (sliceOf u n).record = none) ∧
  (∀ (s : State) (i : Nat) (q : Req), Starts s 0x0104 i q → q.target ≠ 0 → argsFrom q 0 = false → q.target ≤ 255 →
    ((sliceOf s q.target).st = .creating ∨ (sliceOf s q.target).st = .active ∨ (sliceOf s q.target).st = .faulted) →
    (ownsRecords s q.target = true → exec .sliceDestroy s = .next (finishReq s i { code := rKeysPresent })) ∧
    (ownsRecords s q.target = false → (sliceOf s q.target).st = .creating →
      exec .sliceDestroy s = .next (finishReq (freeSlice s q.target) i { code := rOk })) ∧
    (ownsRecords s q.target = false → (sliceOf s q.target).st ≠ .creating →
      exec .sliceDestroy s = .next (parkReq
        (haltSlice (updSlice s q.target (fun x => { x with st := .destroying, faulting := none })) q.target) i q))) ∧
  (∀ (s : State) (n : Nat), pastStart s = true → (sliceOf s n).st = .destroying → sliceQuiet s n = true →
    ∃ u, exec (.sliceReleaseDone n) s = .next (finishParked u (fun q => q.cmd == 0x0104 && q.target == n) { code := rOk }) ∧
      (sliceOf u n).st = .free ∧ (sliceOf u n).privileged = false ∧ (∀ e ∈ u.cfg.cur.allots, e.1 ≠ n) ∧
      (∀ e ∈ u.cfg.cur.windows, e.1 ≠ n)) ∧
  (∀ (s : State) (io : MbxIo) (i : Nat) (q : Req), Starts s 0x0105 i q → argsFrom q 0 = false → q.target ≤ 255 →
    outputFault s q.param 256 = none → io.write = .ok → exec (.sliceQuery io) s = .next (finishReq
      (emit s (writeNote s 0 q.param ((List.range 256).map (Config.queryByte (queryFacts s q.target))))) i { code := rOk }))

/-- RING_ENABLE of a ring that is not refused, with a valid context whose reserved bytes are zero, replies IN_USE where its memory
is used, and else enables the ring at the next epoch with its indices at zero and waits with its reply for the write-back.
RING_DISABLE is refused for a disabled ring, waits for a draining one, and drains an enabled one, which without a cause held for
a dropped submission is then draining with its cadence stopped. A drained ring becomes disabled, with no submission, slice or
key changed. RING_RESUME is refused for a ring that is refused and after a start that was not cold; after a cold one, with a
context that can be resumed and a walk without an error, the ring is resumed and the reply waits for the write-back. Commands
whose completion is stated: RING_ENABLE, RING_DISABLE, RING_DRAIN_DONE, RING_RESUME. (R111, R509, R510, R511) -/
def Obligations.RingCommands : Prop :=
  (∀ (s t : State) (io : MbxIo) (i : Nat) (q : Req) (b : Bytes), Starts s 0x0201 i q → ringRefused s q.target = false →
    argsFrom q 0 = false → readContext s q.target io.read = (.data b, t) → contextFault t q.target b = false →
    allZero (subBytes b 0xA0 96) = true →
    (ctxInUse t q.target (ctxFrom b) = true → exec (.ringEnable io) s = .next (finishReq t i { code := rInUse })) ∧
    (ctxInUse t q.target (ctxFrom b) = false → ∃ u, exec (.ringEnable io) s = .next (parkReq u i q) ∧
      (ringOf u q.target).st = .enabled ∧ (ringOf u q.target).epoch = epochAfter (field b 0x80 2 % 2 ^ 15) ∧
      (ringOf u q.target).cidx = 0 ∧ (ringOf u q.target).nextSeq = 0 ∧ (ringOf u q.target).cqidx = 0)) ∧
  (∀ (s : State) (i : Nat) (q : Req), Starts s 0x0202 i q → argsFrom q 0 = false →
    ((ringOf s q.target).st = .disabled → exec .ringDisable s = .next (finishReq s i { code := rWrongState })) ∧
    ((ringOf s q.target).st = .draining → exec .ringDisable s = .next (parkReq s i q)) ∧
    ((ringOf s q.target).st = .enabled → ∃ u, exec .ringDisable s = .next (parkReq u i q) ∧ u = drainRing s q.target ∧
      (droppedCause s q.target = 0 → (ringOf u q.target).st = .draining ∧ (ringOf u q.target).cad.st = .stopped ∧
        (ringOf u q.target).cad.stopWithoutStart = (ringOf s q.target).cad.stopWithoutStart))) ∧
  (∀ (s : State) (r : Nat), pastStart s = true → drained s r = true →
    ∃ t, exec (.ringDrainDone r) s = .next t ∧ (ringOf t r).st = .disabled ∧ (ringOf t r).watchEntry = false ∧
      t.jobs = s.jobs ∧ t.slices = s.slices ∧ t.keys = s.keys) ∧
  (∀ (s : State) (io : MbxIo) (walk : WalkIo) (i : Nat) (q : Req), Starts s 0x0203 i q →
    ((ringRefused s q.target = true ∨ s.pwr.startKind ≠ 1) →
      exec (.ringResume io walk) s = .next (finishReq s i { code := rWrongState })) ∧
    (∀ t b, ringRefused s q.target = false → s.pwr.startKind = 1 → argsFrom q 3 = false →
      readContext s q.target io.read = (.data b, t) → resumeFault t q b = none → walkFault walk = none →
      exec (.ringResume io walk) s = .next (parkReq (resumeRing (walkNotes t (ctxFrom b) walk) q b walk) i q)))

/-- R580, word for word: “A write to GLB_RCTX_BASE_LO with any of bits [11:0] set is ignored and does not lock the register.
RING_ENABLE and RING_RESUME are refused with WRONG_STATE until both GLB_RCTX_BASE_LO and GLB_RCTX_BASE_HI are locked.” A write
to an unlocked GLB_RCTX_BASE_LO with any of bits [11:0] set changes nothing and does not lock. Until both halves are locked
RING_ENABLE and RING_RESUME reply WRONG_STATE. Commands whose completion is stated: REGISTER_WRITE, RING_ENABLE, RING_RESUME. -/
def Obligations.RingContextTable : Prop :=
  (∀ (s : State) (v : W32), PortServes s → s.glb.rctxLoLocked = false → v.extractLsb' 0 12 ≠ 0 →
    exec (.registerWrite ⟨.regPort, 0x30⟩ v) s = .next (emit s .regOk)) ∧
  (∀ (s : State) (io : MbxIo) (walk : WalkIo) (i : Nat) (q : Req), (s.glb.rctxLoLocked = false ∨ s.glb.rctxHiLocked = false) →
    (Starts s 0x0201 i q → exec (.ringEnable io) s = .next (finishReq s i { code := rWrongState })) ∧
    (Starts s 0x0203 i q → exec (.ringResume io walk) s = .next (finishReq s i { code := rWrongState })))

/-- R179, word for word: “A START for a ring whose cadence is waiting or running is ignored and sets START_REPEATED. A START for a
disabled ring, or for a ring with PERIOD_US zero, is ignored and sets CMD_IGNORED. A draining ring, in STATE 2 (R111), counts as
disabled.” A START for an enabled ring whose cadence waits or runs, in a late period too, only sets START_REPEATED. A START for
a disabled or draining ring, or for a ring with PERIOD_US zero, only sets CMD_IGNORED. Commands whose completion is stated:
CADENCE_START. -/
def Obligations.CadenceStartRefused : Prop :=
  ∀ (s : State) (r : Nat), PortServes s →
    ((ringOf s r).st = .enabled → (ringOf s r).ctx.periodUs ≠ 0 → (ringOf s r).cad.st ≠ .stopped →
      exec (.cadenceStart r) s = .next (emit (setRing s r { ringOf s r with cad := { (ringOf s r).cad with startRepeated := true } }) .regOk)) ∧
    ((ringOf s r).st = .disabled ∨ (ringOf s r).st = .draining ∨ (ringOf s r).ctx.periodUs = 0 →
      exec (.cadenceStart r) s = .next (emit (setRing s r { ringOf s r with cad := { (ringOf s r).cad with cmdIgnored := true } }) .regOk))

/-- Over a serving register port a START makes a stopped cadence of an enabled ring with a period wait for its aligned origin with
no debt, and changes no other ring and no submission outside the ring's old periods; a STOP stops a cadence that is not stopped,
accepts nothing and changes no other ring, and of a stopped one only sets STOP_WITHOUT_START. While TREF runs in a serving core:
a waiting cadence opens at its origin; a period that ends opens the next with its work done, and with work left runs late; a
debt beyond four periods is a lost cadence with vector 6. A period that opens accepts, takes its budget and pays back debt
within CATCHUP (rounded down: log entry 164). TREF stopping keeps the time and marks every running or late cadence lost; its
return lets it run and clears TREF_LOST. Commands whose completion is stated: CADENCE_START, CADENCE_STOP, CADENCE_ORIGIN,
PERIOD_END, CADENCE_LOST, TREF_STOP, TREF_RETURN. (R172, R174, R175, R177, R178, R180, R181, R76) -/
def Obligations.Cadences : Prop :=
  (∀ (s : State) (r : Nat), PortServes s → (ringOf s r).st = .enabled → (ringOf s r).ctx.periodUs ≠ 0 →
    (ringOf s r).cad.st = .stopped → ∃ t, exec (.cadenceStart r) s = .next t ∧ (ringOf t r).cad.st = .waiting ∧
      (ringOf t r).cad.t0 = alignOrigin s (originOf s) (periodOf (ringOf s r).ctx) ∧ (ringOf t r).cad.openAt = (ringOf t r).cad.t0 ∧
      (ringOf t r).cad.debt = 0 ∧ t.glb.cadT0 = 0 ∧ t.outbox = .regOk :: s.outbox ∧ (∀ q, q ≠ r → ringOf t q = ringOf s q) ∧
      t = { s with rings := t.rings, glb := t.glb, jobs := t.jobs, outbox := t.outbox } ∧
      (∀ id j, jobOf s id = some j → (j.ring ≠ r ∨ j.period = none) → jobOf t id = some j)) ∧
  (∀ (s : State) (r : Nat), PortServes s → (ringOf s r).cad.st ≠ .stopped → ∃ t, exec (.cadenceStop r) s = .next t ∧
    (ringOf t r).cad.st = .stopped ∧ (ringOf t r).cad.accepting = false ∧ t.jobs = s.jobs ∧
    (ringOf t r).cad.stopWithoutStart = (ringOf s r).cad.stopWithoutStart ∧ (∀ q, q ≠ r → ringOf t q = ringOf s q)) ∧
  (∀ (s : State) (r : Nat), PortServes s → (ringOf s r).cad.st = .stopped → exec (.cadenceStop r) s =
    .next (emit (setRing s r { ringOf s r with cad := { (ringOf s r).cad with stopWithoutStart := true } }) .regOk)) ∧
  (∀ (s : State) (r : Nat), cadenceRuns s = true → (ringOf s r).cad.st = .waiting → (ringOf s r).cad.openAt ≤ now s →
    exec (.cadenceOrigin r) s = .next (setRing s r (openRing (ringOf s r) (ringOf s r).cad.openAt))) ∧
  (∀ (s : State) (r : Nat), cadenceRuns s = true → (ringOf s r).cad.st = .running → (ringOf s r).cad.inPeriod = true →
    (ringOf s r).cad.scheduledEnd ≤ now s →
    (periodWork s r = false → exec (.periodEnd r) s = .next (setRing s r (openRing (ringOf s r) (ringOf s r).cad.scheduledEnd))) ∧
    (periodWork s r = true → ∃ t, exec (.periodEnd r) s = .next t ∧ (ringOf t r).cad.st = .late ∧ (ringOf t r).cad.accepting = false ∧
      t.jobs = s.jobs)) ∧
  (∀ (x : Ring) (b : Nat), x.cad.staged = none → x.ctx.periodUs ≠ 0 →
    let y := openRing x b
    let cut := min (x.ctx.catchup * periodOf x.ctx / 16) x.cad.debt
    y.cad.st = .running ∧ y.cad.accepting = true ∧ y.cad.inPeriod = true ∧ y.cad.debt = x.cad.debt - cut ∧ y.cad.scheduledEnd = b + periodOf x.ctx - cut ∧
      y.cad.budgetLeft = x.ctx.budget) ∧
  (∀ (s : State) (r : Nat), cadenceRuns s = true → (ringOf s r).cad.st = .late → (ringOf s r).cad.inPeriod = true →
    (ringOf s r).cad.rejoin = false → 4 * periodOf (ringOf s r).ctx < (ringOf s r).cad.debt + (now s - (ringOf s r).cad.scheduledEnd) →
    ∃ t, exec (.cadenceLost r) s = .next t ∧ (ringOf t r).cad.lost = satInc 32 (ringOf s r).cad.lost ∧
      (ringOf t r).cad.cadenceLost = true ∧ t.irq.mgrEvent.getLsbD 6 = true ∧ t.jobs = s.jobs) ∧
  (∀ s : State, s.clock.running = true → ∃ t, exec .trefStop s = .next t ∧ t.clock.running = false ∧ now t = now s ∧
    (mainOn s = true → t.glb.trefLost = true ∧
      ∀ r, ((ringOf s r).cad.st = .running ∨ (ringOf s r).cad.st = .late) → (ringOf t r).cad.cadenceLost = true)) ∧
  (∀ s : State, s.clock.running = false → ∃ t, exec .trefReturn s = .next t ∧ t.clock.running = true ∧
    (mainOn s = true → t.glb.trefLost = false))

/-- Over a serving register port a request to commit is refused while the core does not serve or a commit is pending, ends with
COMMIT_ERROR at the offset of the first fault, and else makes the staged configuration pending; in each case nothing else
changes. Past the start it takes effect once no older accepted submission remains, with the next generation number, which skips
zero; with slice 0 bound the vector table is read first, and one that cannot be read fails the commit at 0x28 with nothing else
changed. TB_GRID_DEFAULT stages the built-in grid and nothing else. Commands whose completion is stated: CFG_COMMIT,
COMMIT_TAKES_EFFECT, TB_GRID_DEFAULT. (R182, R189, R191, R192, R194, R195) -/
def Obligations.Configuration : Prop :=
  (∀ (s : State) (v : W32) (contexts : Tbl Bytes), PortServes s → v.getLsbD 0 = true →
    ((serving s = false ∨ s.cfg.pendingCommit.isSome = true) → exec (.cfgCommit v contexts) s =
      .next { s with cfg := { s.cfg with commitRefused := true }, outbox := .regOk :: s.outbox }) ∧
    (∀ o, serving s = true → s.cfg.pendingCommit = none → commitFault s contexts = some o → ∃ t, exec (.cfgCommit v contexts) s = .next t ∧
      t.cfg.commitError = true ∧ t.cfg.errOffset = BitVec.ofNat 32 o ∧ t.cfg.pendingCommit = none ∧ t.cfg.cur = s.cfg.cur ∧
      t = { s with cfg := t.cfg, outbox := .regOk :: s.outbox }) ∧
    (serving s = true → s.cfg.pendingCommit = none → commitFault s contexts = none → ∃ t, exec (.cfgCommit v contexts) s = .next t ∧
      t.cfg.pendingCommit = some s.cfg.staged ∧ t.cfg.cur = s.cfg.cur ∧ t = { s with cfg := t.cfg, outbox := .regOk :: s.outbox })) ∧
  (∀ (s : State) (c : CfgImage) (b : Bytes), s.cfg.pendingCommit = some c → pastStart s = true → olderJobs s = false →
    s.glb.s0Bound = true →
    let u := emit s (readNote s 0 c.vecBase 16384)
    exec (.commitTakesEffect (.ok b)) s = .next (applyCommit u c (some (vectorTable b))) ∧
    (applyCommit u c (some (vectorTable b))).cfg.cur = { c with gen := nextGen s.cfg.cur.gen } ∧
    (applyCommit u c (some (vectorTable b))).cfg.pendingCommit = none ∧
    (∀ e, (e = .event ∨ ∃ x, e = .bad x) → ∃ t, exec (.commitTakesEffect e) s = .next t ∧ t.cfg.cur = s.cfg.cur ∧
      t.cfg.commitError = true ∧ t.cfg.errOffset = 0x28 ∧ t.cfg.pendingCommit = none ∧ t = { u with cfg := t.cfg })) ∧
  (∀ (s : State) (c : CfgImage) (e : ReadOutcome), s.cfg.pendingCommit = some c → pastStart s = true → olderJobs s = true →
    exec (.commitTakesEffect e) s = .next s) ∧
  (nextGen 0xFFFFFFFF = 1 ∧ ∀ g : W32, g ≠ 0xFFFFFFFF → nextGen g = g + 1) ∧
  (∀ (s : State) (v : W32), PortServes s → v.getLsbD 0 = true → ∃ t, exec (.tbGridDefault v) s = .next t ∧
    (∀ c, gridEntry t.cfg.staged c = gridDefault c) ∧ t.cfg.cur = s.cfg.cur ∧ t.cfg.staged.allots = s.cfg.staged.allots ∧
    t.cfg.staged.windows = s.cfg.staged.windows ∧ t = { s with cfg := t.cfg, outbox := .regOk :: s.outbox })

/-- NOP and FENCE that stand ready, with their fence passed and no buffer due, start the completion of a submission with status
DONE, result zero, no output and no part. A background build on a lane ends: the lane is freed and, where the store is up and
the key is at hand, the tree goes to the store and the build is gone. Commands whose completion is stated: NOP, FENCE,
TREE_BUILD_DONE. (R118, R314) -/
def Obligations.ControlAndTrees : Prop :=
  (∀ (s : State) (id : Nat) (j : Job), mainOn s = true → jobOf s id = some j → j.phase = .ready → fencePassed s j = true →
    j.bufDue = false → j.abort = none →
    let u := { j with ending := { status := stDone }, result := 0, resultLen := 0, out := [], dispatchTime := 0, lastPart := none }
    ((stepDesc j).opcode = 0x0F00 → exec (.nop id) s = .next (startResults s u 0)) ∧
    ((stepDesc j).opcode = 0x0F01 → exec (.fence id) s = .next (startResults s u 0))) ∧
  (∀ (s : State) (h l n : Nat) (b : TreeBuild), mainOn s = true →
    s.res.builds.find? (fun b => b.handle == h && b.layer == l) = some b → b.lane = some n →
    exec (.treeBuildDone h l) s = .next (noteWork (endBuild s b n)) ∧
    (∀ (r : KeyRec) (m : Bytes), storeUp (freeBuildLane s n) = true → treeKey (freeBuildLane s n) b.handle = some (r, m) →
      endBuild s b n = storeTree (setBuilds (freeBuildLane s n)
        (s.res.builds.filter (fun q => q.handle != b.handle || q.layer != b.layer))) r m b.handle b.layer))

/-- Over a serving register port START of an unkeyed algorithm opens a free port for its owner with nothing taken. DATA of the
owner's path takes four bytes and is busy at each full block; a word while the port is busy is misuse over the register port,
answered with a bus error, and closes it. FINAL with a valid number of bytes makes the port busy; at the end of a block it is
open again, and at the end of a final one the digest of the valid bytes stands as the result, the key is gone and, where the
start said so, the slot that is not locked or closed is extended and no other slot. ABORT of the owner, the idle limit, the
first write of the extend lock, an undefined CMD, and reads of the result, early or not, act as their rules say. Commands whose
completion is stated: MDP_START, MDP_DATA, MDP_FINAL, MDP_ABORT, MDP_BUSY_END, MDP_IDLE_LIMIT, MDP_EXT_LOCK_WRITE,
MDP_RESULT_READ, CMD_INVALID. (R241, R242, R244, R245, R246, R247, R248, R249, R251) -/
def Obligations.MeasurementPort : Prop :=
  (∀ (s : State) (c : W32), PortServes s → cmdOp c = 1 → (cmdOwner c = 0x01 ∨ cmdOwner c = 0x02) →
    (mdpOpen s = false ∨ (s.mdp.owner = cmdOwner c ∧ s.mdp.path = .regPort)) → extendRefused s c = false →
    1 ≤ cmdAlg c → cmdAlg c ≤ 4 → ∃ t, exec (.mdpStart .regPort c) s = .next t ∧ t.mdp.st = .opened ∧ t.mdp.owner = cmdOwner c ∧
      t.mdp.alg = cmdAlg c ∧ t.mdp.count = 0 ∧ t.mdp.message = [] ∧ t.outbox = .regOk :: s.outbox ∧ t.keys = s.keys ∧ t.jobs = s.jobs) ∧
  (∀ (s : State) (p : Path) (w : W32), (p = .regPort → PortServes s) → mainOn s = true → s.mdp.path = p → s.mdp.st = .opened →
    s.mdp.count + 4 ≤ 2 ^ 32 - 1 → ∃ t, exec (.mdpData p w) s = .next t ∧ t.mdp.count = s.mdp.count + 4 ∧
      t.mdp.message = s.mdp.message ++ leBytes 4 w.toNat ∧
      t.mdp.st = (if (s.mdp.count + 4) % mdpBlock s.mdp.alg = 0 then .busy else .opened) ∧ t.mdp.meas = s.mdp.meas) ∧
  (∀ (s : State) (w : W32), PortServes s → s.mdp.path = .regPort → s.mdp.st = .busy → ∃ t, exec (.mdpData .regPort w) s = .next t ∧
    t.outbox = .regBusError :: s.outbox ∧ t.mdp.st = .idle ∧ t.mdp.owner = 0 ∧ t.mdp.count = 0 ∧ t.mdp.misuse = true ∧
    t.mdp.misuses = satInc 16 s.mdp.misuses ∧ t.mdp.meas = s.mdp.meas) ∧
  (∀ (s : State) (p : Path) (c : W32), (p = .regPort → PortServes s) → mainOn s = true → cmdOp c = 2 → s.mdp.st = .opened →
    s.mdp.owner = cmdOwner c → s.mdp.path = p → cmdValid c ≤ 4 → (cmdValid c = 0 ↔ s.mdp.count = 0) →
    ∃ t, exec (.mdpFinal p c) s = .next t ∧ t.mdp = { s.mdp with st := .busy, why := .final (cmdValid c), lastWrite := now s }) ∧
  (∀ s : State, mainOn s = true → s.mdp.st = .busy → s.mdp.why = .block →
    exec .mdpBusyEnd s = .next { s with mdp := { s.mdp with st := .opened } }) ∧
  (∀ (s : State) (v : Nat), mainOn s = true → s.mdp.st = .busy → s.mdp.why = .final v →
    let n := if s.mdp.count = 0 then 0 else s.mdp.count - 4 + v
    let r := mdpDigest s.mdp.alg s.mdp.hmacKey (s.mdp.message.take n)
    ∃ t, exec .mdpBusyEnd s = .next t ∧ t = { s with mdp := t.mdp } ∧ t.mdp.st = .done ∧ t.mdp.result = r ∧ t.mdp.owner = 0 ∧
      t.mdp.hmacKey = [] ∧
      (s.mdp.extend = true → (if s.mdp.slot < 4 then s.mdp.closed.getLsbD s.mdp.slot else s.mdp.lockBits.getLsbD (s.mdp.slot - 4)) = false →
        look t.mdp.meas s.mdp.slot [] = sha384 (fit 48 (look s.mdp.meas s.mdp.slot []) ++ r)) ∧
      (∀ i, i ≠ s.mdp.slot → look t.mdp.meas i [] = look s.mdp.meas i []) ∧ (s.mdp.extend = false → t.mdp.meas = s.mdp.meas)) ∧
  (∀ (s : State) (c : W32), PortServes s → cmdOp c = 3 → mdpOpen s = true → s.mdp.owner = cmdOwner c → s.mdp.path = .regPort →
    ∃ t, exec (.mdpAbort .regPort c) s = .next t ∧ t.mdp = clearPort s.mdp ∧ t.mdp.st = .idle ∧ t.keys = s.keys) ∧
  (∀ s : State, mainOn s = true → mdpOpen s = true → s.mdp.idleLimit ≠ 0 → s.mdp.lastWrite + us s.mdp.idleLimit ≤ now s →
    exec .mdpIdleLimit s = .next { s with mdp := { clearPort s.mdp with idleAbort := true } }) ∧
  (∀ (s : State) (v : W32), PortServes s → s.mdp.extLocked = false → exec (.mdpExtLockWrite ⟨.regPort, v⟩) s =
    .next { s with mdp := { s.mdp with lockBits := v.extractLsb' 4 4, extLocked := true }, outbox := .regOk :: s.outbox }) ∧
  (∀ (s : State) (v : W32), PortServes s → cmdOp v ≠ 1 → cmdOp v ≠ 2 → cmdOp v ≠ 3 → exec (.cmdInvalid ⟨.regPort, v⟩) s =
    .next { s with mdp := { s.mdp with cmdInvalid := true }, outbox := .regOk :: s.outbox }) ∧
  (∀ (s : State) (i : Nat), PortServes s →
    (s.mdp.st = .done → exec (.mdpResultRead .regPort i) s = .next (emit s (.regValue (resultAt s.mdp i)))) ∧
    (mdpOpen s = true → ∃ t, exec (.mdpResultRead .regPort i) s = .next t ∧ t.outbox = .regValue 0 :: s.outbox ∧
      t.mdp = { s.mdp with earlyRead := true }))

/-- A commit verified in both banks puts the first queued record in its row under the next sequence number, uses one credit unless
it is carried, raises each counter it names to at least the value it names and lowers none, and then its effect, a snapshot and
a waiting archive follow; one verified in neither is a fault of both banks and leaves it queued. Refresh, powered time, credit
and archive retry act when they are due, and PERSIST_STATUS writes its block of 64 bytes. Commands whose completion is stated:
LEDGER_COMMIT_DONE, MRAM_REFRESH, POWERED_TIME_MOVE, ARCHIVE_RETRY, PERSIST_STATUS, LEDGER_CREDIT_GAIN. (R417, R422, R424, R425,
R432, R439, R441) -/
def Obligations.LedgerCommits : Prop :=
  (∀ (s : State) (r : LRec) (e : Effect) (q : List (LRec × Effect)), mainOn s = true → s.per.queue = (r, e) :: q →
    s.per.nextSeq < 2 ^ 48 - 1 →
    (let u := commitRecord (dequeue s) r true true
     exec (.ledgerCommitDone true true) s =
       .next (settle (recovered (archiveAgain (takeSnapshot (runEffect u s.per.nextSeq e) s.per.nextSeq)) .ledger)) ∧
     look? u.per.ledger (s.per.nextSeq % 16384) = some { record := { r with seq := s.per.nextSeq }, bank2 := true, bank3 := true } ∧
     u.per.nextSeq = s.per.nextSeq + 1 ∧ (r.carried = false → u.per.credit = s.per.credit - 1) ∧
     (∀ m ∈ movesOf r.payload, m.2 ≤ counterOf u m.1) ∧ (∀ c, counterOf s c ≤ counterOf u c) ∧ u.keys = s.keys ∧ u.jobs = s.jobs) ∧
    (exec (.ledgerCommitDone false false) s = .next (settle (bankFault (bankFault s 2) 3)))) ∧
  (∀ s : State, mainOn s = true → counterOf s 14 + 43200 ≤ counterOf s 13 → queuedMove s 14 = false →
    exec .mramRefresh s = .next (enqueue s (.counter [(14, counterOf s 13)]) .nothing)) ∧
  (∀ s : State, mainOn s = true → s.per.poweredAt + 3600 * ms 1000 ≤ now s → queuedMove s 13 = false →
    ∃ t, exec .poweredTimeMove s = .next t ∧ t.per.poweredAt = s.per.poweredAt + 3600 * ms 1000 ∧
      t.per.queue = s.per.queue ++ [({ payload := .counter [(13, counterOf s 13 + 60)] }, .nothing)] ∧
      t = { s with per := { s.per with poweredAt := t.per.poweredAt, queue := t.per.queue } }) ∧
  (∀ s : State, mainOn s = true → 0 < (now s - s.per.creditAt) * 32768 / ms 1000 →
    ∃ t, exec .ledgerCreditGain s = .next t ∧ t.per.throttled = false ∧
      t.per.credit = min 2097152 (s.per.credit + (now s - s.per.creditAt) * 32768 / ms 1000) ∧
      t = { s with per := { s.per with throttled := false, credit := t.per.credit, creditAt := t.per.creditAt } }) ∧
  (∀ s : State, mainOn s = true → (s.per.archiving.isSome = true ∨ archiveDue s = true) → s.per.archiveAt + ms 1000 ≤ now s →
    exec .archiveRetry s = .next (settle (archiveAgain s))) ∧
  (∀ (s : State) (io : MbxIo) (i : Nat) (q : Req), Starts s 0x0300 i q → argsFrom q 0 = false → outputFault s q.param 64 = none →
    io.write = .ok → exec (.persistStatus io) s =
      .next (finishReq (emit s (writeNote s 0 q.param (fit 64 (persistBlock s)))) i { code := rOk }))

/-- With room in the log, within the rate, and in a row that does not fail, a record takes the next log sequence number, its code,
slice, data and time, and the digest of the record before it. Of a code that is no evidence, records beyond 512 in a second are
only counted as suppressed. Each second the counts start again and what was suppressed is written. LOG_EXPORT with good input
replies what the export says; the export of one held record writes it with its statement, signed with the attestation key.
Commands whose completion is stated: LOG_RATE_SECOND, LOG_EXPORT. (R435, R436, R438, R439, R443) -/
def Obligations.AuditLog : Prop :=
  (∀ (s : State) (code sl : Nat) (data : Bytes), unarchived s < 12224 → (isEvidence code = true ∨ look s.per.rate code 0 < 512) →
    s.per.logRowsFail.contains (s.per.nextLseq % 12288) = false →
    let t := writeLog s code sl data
    t.per.nextLseq = s.per.nextLseq + 1 ∧ ∃ r, auditOf t s.per.nextLseq = some r ∧ r.lseq = s.per.nextLseq ∧ r.code = code ∧
      r.slice = sl ∧ r.time = now s ∧ r.data = auditData code data ∧
      (s.per.nextLseq ≠ 0 → ∀ p, heldRecord s (s.per.nextLseq - 1) = some p → r.prev = (sha384 (auditBytes p)).take 16)) ∧
  (∀ (s : State) (code sl : Nat) (data : Bytes), isEvidence code = false → 512 ≤ look s.per.rate code 0 →
    let t := writeLog s code sl data
    t.per.audit = s.per.audit ∧ t.per.nextLseq = s.per.nextLseq ∧ t.per.suppressed = s.per.suppressed + 1) ∧
  (∀ s : State, mainOn s = true → s.per.rateAt + ms 1000 ≤ now s → exec .logRateSecond s = .next (writeSuppressed
    { s with per := { s.per with rate := [], suppressedRate := [], rateAt := now s } } s.per.suppressedRate)) ∧
  (∀ (s t : State) (io : MbxIo) (i : Nat) (q : Req) (b : Bytes), seedPending s = false → Starts s 0x0301 i q → argsFrom q 0 = false →
    readInput s q.param 24 io.read = (.data b, t) → allZero (subBytes b 0x0A 6) = true →
    exec (.logExport io) s = .next (match exportLog t io (field b 0 8) (field b 8 2) (field b 0x10 8) with
      | (.reply a, u) => finishReq u i a
      | (.park, u) => parkReq u i q) ∧
    (∀ r, field b 8 2 = 1 → field b 0x10 8 % 64 = 0 → outputFault s (field b 0x10 8) 4915 = none →
      heldRecord t (field b 0 8) = some r → s.keys.mak.isSome = true → internalReady s = true → io.write = .ok →
      ∃ u n, exec (.logExport io) s = .next (finishReq u i { code := rOk }) ∧
        u.outbox = writeNote s 0 (field b 0x10 8) (auditBytes r ++ batchStatement s (field b 0 8) (field b 0 8) ++
          makSign s auditLabel (batchStatement s (field b 0 8) (field b 0 8)) n) :: t.outbox ∧ u.per = s.per))

/-- STORE_ATTACH is refused while attached and of an invalid block, and else attaches; STORE_DETACH leaves no attachment;
STORE_STATUS writes its block; STORE_FORMAT is refused after enrolment is over and else starts and waits for its end;
STORE_SNAPSHOT is refused of a slot that is not held and, with the store up, writes the content of one that is. Commands whose
completion is stated: STORE_ATTACH, STORE_DETACH, STORE_STATUS, STORE_FORMAT, STORE_SNAPSHOT. (R457, R468, R469) -/
def Obligations.StoreCommands : Prop :=
  (∀ (s t : State) (io : MbxIo) (i : Nat) (q : Req) (b : Bytes), Starts s 0x0400 i q →
    (s.store.attach.isSome = true → exec (.storeAttach io) s = .next (finishReq s i { code := rWrongState })) ∧
    (s.store.attach = none → argsFrom q 0 = false → readInput s q.param 64 io.read = (.data b, t) →
      (attachOk t b (attachFrom b) = false → exec (.storeAttach io) s = .next (finishReq t i { code := rBadParam })) ∧
      (attachOk t b (attachFrom b) = true →
        exec (.storeAttach io) s = .next (finishReq (attachStore t (attachFrom b)) i { code := rOk })))) ∧
  (∀ (s : State) (i : Nat) (q : Req), Starts s 0x0401 i q → s.store.attach.isSome = true → argsFrom q 0 = false →
    exec .storeDetach s = .next (finishReq (detachStore s) i { code := rOk }) ∧ (detachStore s).store.attach = none) ∧
  (∀ (s : State) (io : MbxIo) (i : Nat) (q : Req), Starts s 0x0402 i q → argsFrom q 0 = false → outputFault s q.param 64 = none →
    io.write = .ok → exec (.storeStatus io) s =
      .next (finishReq (emit s (writeNote s 0 q.param (fit 64 (storeBlock s)))) i { code := rOk })) ∧
  (∀ (s : State) (i : Nat) (q : Req), Starts s 0x0403 i q → rootPending s = false →
    ((s.keys.lifecycle ≠ .blank ∧ s.keys.lifecycle ≠ .enrolled) → exec .storeFormat s = .next (finishReq s i { code := rWrongState })) ∧
    ((s.keys.lifecycle = .blank ∨ s.keys.lifecycle = .enrolled) → s.store.attach.isSome = true → argsFrom q 0 = false →
      s.store.formatLeft = none → exec .storeFormat s = .next (parkReq (startFormat s) i q))) ∧
  (∀ (s t : State) (io : MbxIo) (content : Bytes) (i : Nat) (q : Req) (b : Bytes), Starts s 0x0404 i q → argsFrom q 0 = false →
    readInput s q.param 16 io.read = (.data b, t) → field b 0 4 < 3276 → outputFault s (field b 8 8) (1280 * 1024) = none →
    (s.store.snapshots.contains (field b 0 4) = false →
      exec (.storeSnapshot io content) s = .next (finishReq t i { code := rWrongState })) ∧
    (s.store.snapshots.contains (field b 0 4) = true → storeUp s = true → io.write = .ok → exec (.storeSnapshot io content) s =
      .next (finishReq (emit t (writeNote s 0 (field b 8 8) (fit (1280 * 1024) content))) i { code := rOk })))

/-- Each response of an attached store advances the consumer index and answers its request; one that names none counts RID_DISCARDS
and changes nothing else. A request that times out stays outstanding, is counted, and aborts a batch that was being written. A
deferred message goes when its window ends. A due batch is aborted where the store is away or the versions have run out, and
starts where the paths it changes are held. Commands whose completion is stated: BATCH_START, STORE_RESPONSE, STORE_TIMEOUT,
STORE_INTERRUPT_WINDOW. (R328, R458, R459, R465) -/
def Obligations.StoreRequests : Prop :=
  (∀ (s : State) (rid : Nat) (status : Byte) (data : Bytes), mainOn s = true → s.store.attach.isSome = true →
    let u := { s with store := { s.store with respCons := s.store.respCons + 1 } }
    exec (.storeResponse rid status data) s = .next (storeIndices (storeAnswer u rid status data) rid) ∧
    (s.store.outstanding.find? (fun r => r.rid == rid) = none →
      storeAnswer u rid status data = { u with glb := { u.glb with ridDiscards := satInc 8 s.glb.ridDiscards } })) ∧
  (∀ (s : State) (rid : Nat) (a : Attach) (r : StoreReq), s.store.attach = some a →
    s.store.outstanding.find? (fun r => r.rid == rid) = some r → mainOn s = true → r.timedOut = false →
    r.issuedAt + ms a.timeoutMs ≤ now s →
    ∃ u, exec (.storeTimeout rid) s = .next (if r.op = .write then abortBatch u 0x0501 else u) ∧ u = { s with store := u.store } ∧
      u.store.timeouts = s.store.timeouts + 1 ∧ (∀ x ∈ u.store.outstanding, x.rid = rid → x.timedOut = true) ∧
      u.store.outstanding.length = s.store.outstanding.length) ∧
  (∀ (s : State) (t : Nat), s.store.lastMsg = some t → mainOn s = true → s.store.msgDeferred = true → t + us 10 ≤ now s →
    exec .storeInterruptWindow s = .next (storeMessage s)) ∧
  (∀ (s : State) (b : Batch), s.store.gathering = some b → mainOn s = true → batchDue s b = true →
    (storeUp s = false → exec .batchStart s = .next (abortGathering s 0x0502)) ∧
    (storeUp s = true → versionsGone s = true → exec .batchStart s = .next (abortGathering s 0x0506)) ∧
    (∀ x t, storeUp s = true → versionsGone s = false → loadPaths (b.changes.map (·.1)) s = (.have x, t) →
      exec .batchStart s = .next (startBatch t b)))

/-- Over a serving register port a submitted request that merges into none joins the queue, and with 16 queued only sets QUEUE_FULL
and counts. A pop takes the first reply, and raises vector 2 while another stays. A finished request leaves the queue and its
reply, with its code and data, stands for reading with vector 2, where none stood. An unknown code is counted and answered
UNKNOWN, or WRONG_STATE where only reports are served; PING replies the heartbeat, which counts each millisecond and kicks the
watchdog. Commands whose completion is stated: MBX_REQ_SUBMIT, MBX_RPL_POP, UNKNOWN_COMMAND, PING, MBX_HEARTBEAT_INCREMENT.
(R477, R481, R482, R483, R484) -/
def Obligations.MailboxQueues : Prop :=
  (∀ (s : State) (v : W32), PortServes s → v.getLsbD 0 = true →
    (queuedCount s < 16 → s.mgmt.requests.any (mergesInto (stagedReq s)) = false → exec (.mbxReqSubmit v) s =
      .next { s with mgmt := { s.mgmt with requests := s.mgmt.requests ++ [stagedReq s] }, outbox := .regOk :: s.outbox }) ∧
    (16 ≤ queuedCount s → exec (.mbxReqSubmit v) s =
      .next { s with mgmt := { s.mgmt with queueFull := true, errFull := satInc 16 s.mgmt.errFull }, outbox := .regOk :: s.outbox })) ∧
  (∀ (s : State) (v : W32) (x : Reply) (r : List Reply), PortServes s → v.getLsbD 0 = true → s.mgmt.replies = x :: r →
    s.mgmt.requests.any (fun q => q.st == .replyHeld) = false → ∃ t, exec (.mbxRplPop v) s = .next t ∧ t.mgmt.replies = r ∧
      t.mgmt.requests = s.mgmt.requests ∧ (r ≠ [] → t.irq.mgrEvent.getLsbD 2 = true) ∧ t.outbox = .regOk :: s.outbox) ∧
  (∀ (s : State) (i : Nat) (q : Req) (a : Ans), s.mgmt.requests[i]? = some q → q.merged = [] → s.mgmt.st = .running →
    s.mgmt.replies = [] → s.mgmt.requests.any (fun q => q.st == .replyHeld) = false →
    let t := finishReq s i a
    t.mgmt.replies = [{ tag := q.tag, cmd := q.cmd, code := a.code, repeated := q.repeated, data := a.data }] ∧
      t.mgmt.requests = s.mgmt.requests.eraseIdx i ∧ t.irq.mgrEvent.getLsbD 2 = true) ∧
  (∀ (s : State) (i : Nat) (q : Req), mbxNext s = some (i, q) → cmdCodes.contains q.cmd = false → ∃ u, u = { s with mgmt := u.mgmt } ∧
    u.mgmt = { s.mgmt with errUnknown := satInc 16 s.mgmt.errUnknown } ∧
    exec .unknownCommand s = .next (finishReq u i { code := if reportsOnly s then rWrongState else rUnknown })) ∧
  (∀ (s : State) (i : Nat) (q : Req), mbxNext s = some (i, q) → q.cmd = 0x0001 →
    exec .ping s = .next (finishReq s i (if argsFrom q 0 then { code := rBadParam } else { code := rOk, data := [s.mgmt.heartbeat] }))) ∧
  (∀ s : State, mainOn s = true → s.mgmt.st = .running → s.mgmt.beatAt + ms 1 ≤ now s → ∃ t, exec .mbxHeartbeatIncrement s = .next t ∧
    t = { s with mgmt := { s.mgmt with heartbeat := s.mgmt.heartbeat + 1, beatAt := now s, lastKick := now s } })

/-- UPDATE_WRITE of good arguments stores its bytes in the bank that does not run and nothing else beyond its first 64 bytes, which
are zeroed when writing begins, and is refused for the running bank. UPDATE_CHECK of a staged package answers the package's
fault, a version that is too low, or OK with the package checked. UPDATE_ACTIVATE of a checked package without a fault queues
the intent that activates it and waits. UPDATE_ABANDON clears the first 64 bytes. SENSOR_READ writes its block. A sample that
leaves the always-on supplies in range is kept with its time and its rails, the minimum of VDD follows, and nothing else
changes. Commands whose completion is stated: UPDATE_WRITE, UPDATE_CHECK, UPDATE_ACTIVATE, UPDATE_ABANDON, SENSOR_READ,
SENSOR_SAMPLE. (R484, R489, R490, R491, R492, R493, R588) -/
def Obligations.UpdatesAndSensors : Prop :=
  (∀ (s t : State) (io : MbxIo) (i : Nat) (q : Req) (b : Bytes), Starts s 0x0500 i q → s.mgmt.updSt ≠ .activated →
    let bank := argOf q 0
    let off := argOf q 1
    let len := argOf q 2
    bank ≤ 1 → off % 64 = 0 → 0x1000 ≤ off → len % 64 = 0 → 64 ≤ len → len ≤ 65536 → off + len ≤ 0x400000 →
    (bank = s.mgmt.runningBank → ∃ u, exec (.updateWrite io) s = .next (finishReq u i { code := rBankRunning }) ∧ u.per = s.per) ∧
    (bank ≠ s.mgmt.runningBank → updElsewhere s bank = false → readInput s q.param len io.read = (.data b, t) →
      ∃ u, exec (.updateWrite io) s = .next (finishReq u i { code := rOk }) ∧ u.mgmt.updSt = .writing ∧ u.mgmt.updBank = bank ∧
        (∀ k, k < len → b.length = len → memRead (bankMem u bank) (off + k) = b.getD k 0) ∧
        (∀ a, 64 ≤ a → (a < off ∨ off + len ≤ a) → memRead (bankMem u bank) a = memRead (bankMem s bank) a) ∧
        (∀ o, (o = 0 ∨ o = 1) → o ≠ bank → bankMem u o = bankMem s o) ∧
        (s.mgmt.updSt ≠ .writing → ∀ a, a < 64 → memRead (bankMem u bank) a = 0))) ∧
  (∀ (s : State) (i : Nat) (q : Req), Starts s 0x0501 i q → argOf q 0 ≠ s.mgmt.runningBank → s.mgmt.updBank = argOf q 0 →
    (s.mgmt.updSt = .writing ∨ s.mgmt.updSt = .checked) → ∃ u a, exec .updateCheck s = .next (finishReq u i a) ∧
      (∀ e, packageFault s (argOf q 0) s.keys.did = some e → a = { code := rImageInvalid, data := [BitVec.ofNat 32 e] } ∧
        u.mgmt.updSt = .writing) ∧
      (packageFault s (argOf q 0) s.keys.did = none →
        let v := manSecVersion (manifestBody s (argOf q 0))
        (versionOk s v = true → a.code = rOk ∧ u.mgmt.updSt = .checked ∧ u.mgmt.updBank = argOf q 0) ∧
        (versionOk s v = false → a.code = rVersionLow ∧ u.mgmt.updSt = .writing)) ∧ u.per = s.per) ∧
  (∀ (s : State) (i : Nat) (q : Req), Starts s 0x0502 i q → argOf q 0 ≠ s.mgmt.runningBank → s.mgmt.updSt = .checked →
    s.mgmt.updBank = argOf q 0 → rosterPending s = false → ∃ t, exec .updateActivate s = .next t ∧
      (packageFault s (argOf q 0) s.keys.did = none → ∃ u, t = parkReq u i q ∧ u.mgmt.keypath = true ∧
        u.per.queue = s.per.queue ++ [({ payload := .intent 5 0 0 0 0 0 (argOf q 0) (manSecVersion (manifestBody s (argOf q 0))) 0 },
          .activate (argOf q 0) (manSecVersion (manifestBody s (argOf q 0))))])) ∧
  (∀ (s : State) (i : Nat) (q : Req), Starts s 0x0503 i q → argOf q 0 ≤ 1 → argOf q 0 ≠ s.mgmt.runningBank →
    s.mgmt.updSt ≠ .activated → updElsewhere s (argOf q 0) = false →
    ∃ u, exec .updateAbandon s = .next (finishReq u i { code := rOk }) ∧ u.mgmt.updSt = .idle ∧
      (∀ a, a < 64 → memRead (bankMem u (argOf q 0)) a = 0)) ∧
  (∀ (s : State) (io : MbxIo) (i : Nat) (q : Req), Starts s 0x0600 i q → argsFrom q 0 = false → outputFault s q.param 256 = none →
    io.write = .ok → exec (.sensorRead io) s =
      .next (finishReq (emit s (writeNote s 0 q.param (fit 256 (sensorBlock s)))) i { code := rOk })) ∧
  (∀ (s : State) (x : Sample), overRatings (.sensorSample x) = false → mainOn s = true → s.mgmt.st = .running →
    (s.mgmt.sample = none ∨ s.mgmt.sampleAt + ms 1 ≤ now s) → (850 ≤ x.vaon ∨ 2000 ≤ x.vbat) → ∃ t, exec (.sensorSample x) s = .next t ∧ t.mgmt.sample = some x ∧
      t.mgmt.sampleAt = now s ∧ t.pwr.vdd = x.vdd ∧ t.pwr.vddm = x.vddm ∧ t.pwr.vaon = x.vaon ∧ t.pwr.vbat = x.vbat ∧
      t.pwr.vddMin = min s.pwr.vddMin x.vdd ∧ t = { s with mgmt := t.mgmt, pwr := t.pwr })

/-- MIRROR_JOIN of a charter that names this core and the roster in force joins where its signatures hold and replies BAD_PARAM
where not, in SERVICE outside a group and with the internal instance ready. MIRROR_LEAVE is refused outside a group and leaves
it otherwise. MIRROR_TAKE writes the oldest messages that fit and removes exactly them. MIRROR_JOURNAL is refused to all but the
leader, which sends the KUM with the state carried to a joined peer. MIRROR_STATUS writes its block. Commands whose completion
is stated: MIRROR_JOIN, MIRROR_LEAVE, MIRROR_TAKE, MIRROR_JOURNAL, MIRROR_STATUS. (R555, R556, R561, R567, R571) -/
def Obligations.MirrorCommands : Prop :=
  (∀ (s u : State) (io : MbxIo) (i : Nat) (q : Req) (b : Bytes) (c : Charter) (own : Nat), Starts s 0x0700 i q → argsFrom q 1 = false →
    readInput s q.param (argOf q 0) io.read = (.data b, u) → parseCharter b = some c →
    c.dids.findIdx? (· == fit 48 s.keys.did) = some own → s.keys.lifecycle = .service → inGroup s = false →
    counterOf s 1 = c.rosterGen → internalReady s = true → ∃ t, exec (.mirrorJoin io) s = .next t ∧
      (charterSigned u c = true → t = finishReq (joinGroup u c own) i { code := rOk }) ∧
      (charterSigned u c = false → t = finishReq u i { code := rBadParam })) ∧
  (∀ (s : State) (i : Nat) (q : Req), Starts s 0x0701 i q → argsFrom q 0 = false →
    (inGroup s = false → exec .mirrorLeave s = .next (finishReq s i { code := rWrongState })) ∧
    (inGroup s = true → exec .mirrorLeave s = .next (finishReq (leaveGroup s 0) i { code := rOk }) ∧
      (leaveGroup s 0).mir.st = .none ∧ (leaveGroup s 0).mir.peers = [] ∧ (leaveGroup s 0).mir.grant = none)) ∧
  (∀ (s : State) (io : MbxIo) (i : Nat) (q : Req), Starts s 0x0702 i q → argsFrom q 1 = false →
    outputFault s q.param (argOf q 0) = none → io.write = .ok →
    let ms := fitting (argOf q 0) s.mir.outbound
    ∃ u, exec (.mirrorTake io) s = .next (finishReq u i
        { code := rOk, data := [BitVec.ofNat 32 ms.length, BitVec.ofNat 32 ms.flatten.length] }) ∧
      u.mir.outbound = s.mir.outbound.drop ms.length ∧ u.outbox = writeNote s 0 q.param ms.flatten :: s.outbox ∧
      s.mir.outbound = ms ++ u.mir.outbound ∧ ms.flatten.length ≤ argOf q 0) ∧
  (∀ (s : State) (io : MbxIo) (i : Nat) (q : Req), Starts s 0x0704 i q → argsFrom q 2 = false → argOf q 0 ≤ 262144 →
    (s.mir.st ≠ .leader → exec (.mirrorJournal io) s = .next (finishReq s i { code := rWrongState })) ∧
    (∀ b k u st t, s.mir.st = .leader → readInput s q.param (argOf q 0) io.read = (.data b, u) → parseKum b = some k →
      (joinedPeers s).contains (argOf q 1) = true → k.counter ≤ keyAdmin s → carriedState u k = (some st, t) → exec (.mirrorJournal io) s = .next (finishReq (sendJournal t (argOf q 1) b st) i { code := rOk }))) ∧
  (∀ (s : State) (io : MbxIo) (i : Nat) (q : Req), Starts s 0x0705 i q → argsFrom q 0 = false → outputFault s q.param 64 = none →
    io.write = .ok → exec (.mirrorStatus io) s =
      .next (finishReq (emit s (writeNote s 0 q.param (fit 64 (mirrorStatus s)))) i { code := rOk }))

/-- In a group a well-formed message of each type runs what that type does and the reply says whether it was taken; where the core
must wait with it, it stays first in the mailbox and nothing changes. Outside a group every message is discarded, counted and
answered BAD_PARAM. A tagged message whose tag, counter, term or group does not hold is dropped with nothing else changed; one
accepted raises the term and the sender's counter and is counted, after which the same message is not accepted again. Commands
whose completion is stated: JOIN_OFFER, JOIN_ACCEPT, JOIN_REFUSED, LEASE_REQUEST, LEASE_GRANT, HEARTBEAT, BLOCK_REQUEST,
BLOCK_RECORD, BLOCK_ACK, BLOCK_GRANT, END_LOOKUP, END_REPLY, JOURNAL_REQUEST, JOURNAL_ENTRY, TIME, LEAVE. (R558, R560, R561,
R569) -/
def Obligations.MirrorMessages : Prop :=
  (∀ e ∈ ([(0x01, .joinOffer, hearOffer), (0x02, .joinAccept, hearAccept), (0x03, .joinRefused, hearRefused),
      (0x10, .leaseRequest, hearTagged hearLeaseRequest), (0x11, .leaseGrant, hearTagged hearLeaseGrant),
      (0x12, .heartbeat, hearTagged hearHeartbeat), (0x20, .blockRequest, hearTagged hearBlockRequest),
      (0x21, .blockRecord, hearTagged hearBlockRecord), (0x22, .blockAck, hearTagged hearBlockAck),
      (0x23, .blockGrant, hearTagged hearBlockGrant), (0x24, .endLookup, hearTagged hearEndLookup),
      (0x25, .endReply, hearTagged hearEndReply), (0x30, .journalRequest, hearTagged hearJournalRequest),
      (0x31, .journalEntry, hearTagged hearJournalEntry), (0x40, .time, hearTagged hearTime), (0x50, .leave, hearTagged hearLeave)] :
      List (Nat × (MbxIo → Instr) × (State → Msg → Heard × State))), ∀ (s t : State) (io : MbxIo) (i : Nat) (q : Req) (b : Bytes), Starts s 0x0703 i q → argsFrom q 1 = false →
    readInput s q.param (argOf q 0) io.read = (.data b, t) →
    (∀ m, field b 8 1 = e.1 → inGroup s = true → parseMsg s b = some m →
      ((e.2.2 t m).1 ≠ .stay → exec (e.2.1 io) s = .next (heardReply i (e.2.2 t m))) ∧
      ((e.2.2 t m).1 = .stay → exec (e.2.1 io) s = .next s)) ∧
    (inGroup s = false → field b 8 1 = e.1 → ∃ u, u.mir.discarded = s.mir.discarded + 1 ∧ u = { s with mir := u.mir, outbox := t.outbox } ∧
      exec (e.2.1 io) s = .next (finishReq u i { code := rBadParam, data := [0] }))) ∧
  (∀ (f : State → Msg → Heard × State) (s : State) (m : Msg), tagAccepts s m = false → hearTagged f s m = (.dropped 0, s)) ∧
  (∀ (s : State) (m : Msg), tagAccepts s m = true → let u := noteMsg s m
    (peerOf u m.sender).ctrIn = m.ctr ∧ u.mir.term = max s.mir.term m.term ∧ u.mir.accepted = s.mir.accepted + 1 ∧
      tagAccepts u m = false)

/-- While a grant is held for one core, a lease request of another does not move it. A settled member without a claim ban or grant
that has seen no heartbeat for its time becomes a candidate for the next term with its own vote; a leader renews after half a
lease, and stops leading when its lease ends; a grant lapses at its end. Repeats, time requests, the vector window and the waits
of a submission for a block or behind the group act when their times have passed. Commands whose completion is stated:
HEARTBEAT_TIMEOUT, LEASE_RENEWAL, MESSAGE_REPEAT, TIME_REQUEST_TIMER, BLOCK_GRANT_TIMEOUT, BEHIND_HOLD_TIMEOUT, LEASE_EXPIRY,
GRANT_EXPIRY, MIRROR_VECTOR_WINDOW. (R558, R560, R561, R562, R565, R568) -/
def Obligations.MirrorLeases : Prop :=
  (∀ (s : State) (m : Msg) (g : Nat × Nat × Nat), grantHeld s = some g → g.2.1 ≠ m.sender →
    (hearLeaseRequest s m).2.mir.grant = s.mir.grant) ∧
  (∀ s : State, serving s = true → s.mir.st = .member → claimAt s ≤ now s → settledIn s = true → s.mir.noClaimUntil ≤ now s →
    grantHeld s = none → ∃ t, exec .heartbeatTimeout s = .next t ∧ t.mir.candidate = true ∧ t.mir.term = s.mir.term + 1 ∧
      t.mir.grantedTerm = s.mir.term + 1 ∧ t.mir.votes = [s.mir.own] ∧ t.mir.leader = none ∧ t.mir.st = .member) ∧
  (∀ s : State, serving s = true → s.mir.st = .leader → s.mir.requestedAt + 25000 * s.mir.leaseMs ≤ now s →
    exec .leaseRenewal s = .next (sendHeartbeats (requestLeases s))) ∧
  (∀ s : State, s.mir.st = .leader → s.mir.leaseEnd ≤ now s → ∃ t, exec .leaseExpiry s = .next t ∧ t.mir.st = .member ∧
    t.mir.leader = none ∧ t.mir.granting = []) ∧
  (∀ (s : State) (g : Nat × Nat × Nat), s.mir.grant = some g → g.2.2 ≤ now s →
    exec .grantExpiry s = .next { s with mir := { s.mir with grant := none } }) ∧
  (∀ (s : State) (p : Nat), serving s = true → inGroup s = true → exec (.messageRepeat p) s =
    .next (((peerOf s p).unanswered.filter (fun a => decide (a.sentAt + 25000 * s.mir.leaseMs ≤ now s))).foldl (repeatAsk p) s)) ∧
  (∀ (s : State) (l : Nat), s.mir.leader = some l → serving s = true → s.mir.st = .member → s.mir.timeAskedAt + ms 1000 ≤ now s →
    exec .timeRequestTimer s =
      .next (mirAsk { s with mir := { s.mir with timeAskedAt := now s } } l 0x40 (leBytes 8 (now s) ++ zeros 16))) ∧
  (∀ (s : State) (t : Nat), s.mir.lastVector = some t → mainOn s = true → s.mir.outbound ≠ [] → t + us 10 ≤ now s →
    ∃ u, exec .mirrorVectorWindow s = .next u ∧ u.mir.lastVector = some (now s) ∧ u.irq.mgrEvent.getLsbD 14 = true) ∧
  (∀ (s : State) (id t : Nat) (j : Job), jobOf s id = some j → serving s = true → t + ms 1000 ≤ now s →
    (j.blockSince = some t → (j.phase = .waiting ∨ j.phase = .operands) → exec (.blockGrantTimeout id) s = .next (endHeld s j)) ∧
    (j.heldSince = some t → j.phase = .waiting → exec (.behindHoldTimeout id) s = .next (endHeld s j)))
end

