-- ==== Sys2Proof/Laws/Fabric.lean ====
section
/-! SUPPORT. What issuing requests, raising vectors and writing log records can change. -/
namespace Sys2Proof.Machine

theorem OnlyTraffic.refl (s : State) : OnlyTraffic s s := rfl
theorem OnlyTraffic.trans {a b c : State} (h : OnlyTraffic a b) (k : OnlyTraffic b c) : OnlyTraffic a c := by
  unfold OnlyTraffic at *; rw [k, h]
theorem OnlyLogged.refl (s : State) : OnlyLogged s s := rfl
theorem OnlyLogged.trans {a b c : State} (h : OnlyLogged a b) (k : OnlyLogged b c) : OnlyLogged a c := by
  unfold OnlyLogged at *; rw [k, h]
theorem OnlyTraffic.logged {a b : State} (h : OnlyTraffic a b) : OnlyLogged a b := by
  unfold OnlyTraffic OnlyLogged at *; rw [h]

/-- Issuing a request touches no port. -/
theorem tryIssue_traffic {s s' : State} {t : Txn} (h : tryIssue s t = some s') :
    OnlyTraffic s s' ∧ s'.fabric.ports = s.fabric.ports ∧ s'.irq = s.irq := by
  unfold tryIssue at h
  dsimp only at h
  split at h
  · cases h
  · injection h with h; subst h; exact ⟨rfl, rfl, rfl⟩

theorem pumpList_traffic (l : List Txn) (s : State) :
    OnlyTraffic s (pumpList l s) ∧ (pumpList l s).fabric.ports = s.fabric.ports ∧ (pumpList l s).irq = s.irq := by
  induction l generalizing s with
  | nil => exact ⟨rfl, rfl, rfl⟩
  | cons t r ih =>
    unfold pumpList
    split
    · rename_i s' h
      obtain ⟨a, b, c⟩ := tryIssue_traffic h
      obtain ⟨x, y, z⟩ := ih s'
      exact ⟨a.trans x, y.trans b, z.trans c⟩
    · obtain ⟨x, y, z⟩ := ih { s with fabric := { s.fabric with unissued := s.fabric.unissued ++ [t] } }
      exact ⟨OnlyTraffic.trans (by unfold OnlyTraffic; rfl) x, y, z⟩

theorem pump_traffic (s : State) : OnlyTraffic s (pump s) ∧ (pump s).fabric.ports = s.fabric.ports ∧ (pump s).irq = s.irq := by
  obtain ⟨x, y, z⟩ := pumpList_traffic s.fabric.unissued { s with fabric := { s.fabric with unissued := [] } }
  exact ⟨OnlyTraffic.trans (by unfold OnlyTraffic; rfl) x, y, z⟩

/-- Wanting requests made touches no port and no interrupt. -/
theorem request_traffic (s : State) (ts : List Txn) :
    OnlyTraffic s (request s ts) ∧ (request s ts).fabric.ports = s.fabric.ports ∧ (request s ts).irq = s.irq := by
  obtain ⟨x, y, z⟩ := pump_traffic { s with fabric := { s.fabric with unissued := s.fabric.unissued ++ ts } }
  exact ⟨OnlyTraffic.trans (by unfold OnlyTraffic; rfl) x, y, z⟩

theorem pumpVectors_traffic (s : State) :
    OnlyTraffic s (pumpVectors s) ∧ (pumpVectors s).fabric.ports = s.fabric.ports ∧ (pumpVectors s).irq.mgrEvent = s.irq.mgrEvent := by
  unfold pumpVectors
  split
  · exact ⟨rfl, rfl, rfl⟩
  · split
    · exact ⟨rfl, rfl, rfl⟩
    · dsimp only
      refine ⟨OnlyTraffic.trans ?_ (request_traffic _ _).1, ?_, ?_⟩
      · rfl
      · exact (request_traffic _ _).2.1
      · rw [(request_traffic _ _).2.2]

theorem raiseManager_traffic (s : State) (n : Nat) : OnlyTraffic s (raiseManager s n) ∧
    (raiseManager s n).fabric = s.fabric ∧ (raiseManager s n).irq.mgrEvent = s.irq.mgrEvent ||| BitVec.ofNat 15 (2 ^ n) := by
  unfold raiseManager pendVector
  split <;> exact ⟨rfl, rfl, rfl⟩

/-- Raising a manager vector sets its event bit and touches nothing else but traffic. -/
theorem notifyManager_traffic (s : State) (n : Nat) : OnlyTraffic s (notifyManager s n) ∧
    (notifyManager s n).fabric.ports = s.fabric.ports ∧
    (notifyManager s n).irq.mgrEvent = s.irq.mgrEvent ||| BitVec.ofNat 15 (2 ^ n) := by
  obtain ⟨a, b, c⟩ := raiseManager_traffic s n
  obtain ⟨x, y, z⟩ := pumpVectors_traffic (raiseManager s n)
  exact ⟨a.trans x, y.trans (by rw [b]), z.trans c⟩

theorem countOver_logged (s : State) : OnlyLogged s (countOver s) := by
  unfold countOver enqueue; split <;> rfl

theorem placeAudit_logged (s : State) (r : AuditRec) : OnlyLogged s (placeAudit s r) := by
  unfold placeAudit
  dsimp only
  have h1 : ∀ s : State, ∀ b : Bool, OnlyLogged s (if b then countOver s else s) := by
    intro s b; split
    · exact countOver_logged s
    · rfl
  have h2 : ∀ (s : State) (p : Prop) [Decidable p] x e, OnlyLogged s (if p then enqueue s x e else s) := by
    intro s p _ x e; split <;> rfl
  have h3 : ∀ (s s' : State) (p : Prop) [Decidable p] n, OnlyLogged s s' → OnlyLogged s (if p then notifyManager s' n else s) := by
    intro s s' p _ n h; split
    · exact h.trans (notifyManager_traffic _ _).1.logged
    · rfl
  refine OnlyLogged.trans ?_ (h3 _ _ _ _ ?_)
  · exact OnlyLogged.trans (OnlyLogged.trans (by unfold OnlyLogged; rfl) (h1 _ _)) (h2 _ _ _ _)
  · rfl

theorem appendLog_logged (s : State) (code sl : Nat) (data : Bytes) : OnlyLogged s (appendLog s code sl data) := by
  unfold appendLog emergencyWrite
  dsimp only
  split
  · split
    · exact OnlyLogged.trans (by unfold OnlyLogged; rfl) (notifyManager_traffic _ _).1.logged
    · exact OnlyLogged.trans (OnlyLogged.trans (by unfold OnlyLogged; rfl) (notifyManager_traffic _ _).1.logged) (placeAudit_logged _ _)
  · exact placeAudit_logged _ _

/-- Writing a log record touches persistent state and traffic only. -/
theorem writeLog_logged (s : State) (code sl : Nat) (data : Bytes) : OnlyLogged s (writeLog s code sl data) := by
  unfold writeLog
  dsimp only
  split
  · rfl
  · split
    · rfl
    · exact OnlyLogged.trans (by unfold OnlyLogged; rfl) (appendLog_logged _ _ _ _)

end Sys2Proof.Machine
end

