-- ==== Sys2Proof/Laws/State.lean ====
section
/-! SUPPORT. What each plain update of the state writes and leaves: one lemma per field and update, true by definition. -/
namespace Sys2Proof.Machine

/-! `emit` -/

@[simp] theorem emit_pending (s : State) (o : Out) : (emit s o).pending = s.pending := rfl
@[simp] theorem emit_clock (s : State) (o : Out) : (emit s o).clock = s.clock := rfl
@[simp] theorem emit_glb (s : State) (o : Out) : (emit s o).glb = s.glb := rfl
@[simp] theorem emit_fabric (s : State) (o : Out) : (emit s o).fabric = s.fabric := rfl
@[simp] theorem emit_irq (s : State) (o : Out) : (emit s o).irq = s.irq := rfl
@[simp] theorem emit_links (s : State) (o : Out) : (emit s o).links = s.links := rfl
@[simp] theorem emit_slices (s : State) (o : Out) : (emit s o).slices = s.slices := rfl
@[simp] theorem emit_rings (s : State) (o : Out) : (emit s o).rings = s.rings := rfl
@[simp] theorem emit_pools (s : State) (o : Out) : (emit s o).pools = s.pools := rfl
@[simp] theorem emit_jobs (s : State) (o : Out) : (emit s o).jobs = s.jobs := rfl
@[simp] theorem emit_nextJob (s : State) (o : Out) : (emit s o).nextJob = s.nextJob := rfl
@[simp] theorem emit_sched (s : State) (o : Out) : (emit s o).sched = s.sched := rfl
@[simp] theorem emit_cfg (s : State) (o : Out) : (emit s o).cfg = s.cfg := rfl
@[simp] theorem emit_keys (s : State) (o : Out) : (emit s o).keys = s.keys := rfl
@[simp] theorem emit_mdp (s : State) (o : Out) : (emit s o).mdp = s.mdp := rfl
@[simp] theorem emit_ent (s : State) (o : Out) : (emit s o).ent = s.ent := rfl
@[simp] theorem emit_per (s : State) (o : Out) : (emit s o).per = s.per := rfl
@[simp] theorem emit_store (s : State) (o : Out) : (emit s o).store = s.store := rfl
@[simp] theorem emit_res (s : State) (o : Out) : (emit s o).res = s.res := rfl
@[simp] theorem emit_mgmt (s : State) (o : Out) : (emit s o).mgmt = s.mgmt := rfl
@[simp] theorem emit_pwr (s : State) (o : Out) : (emit s o).pwr = s.pwr := rfl
@[simp] theorem emit_mir (s : State) (o : Out) : (emit s o).mir = s.mir := rfl
@[simp] theorem emit_outbox (s : State) (o : Out) : (emit s o).outbox = o :: s.outbox := rfl
@[simp] theorem emit_drawn (s : State) (o : Out) : (emit s o).drawn = s.drawn := rfl

/-! `setPort` -/

@[simp] theorem setPort_pending (s : State) (k : Nat) (p : Port) : (setPort s k p).pending = s.pending := rfl
@[simp] theorem setPort_clock (s : State) (k : Nat) (p : Port) : (setPort s k p).clock = s.clock := rfl
@[simp] theorem setPort_glb (s : State) (k : Nat) (p : Port) : (setPort s k p).glb = s.glb := rfl
@[simp] theorem setPort_fabric (s : State) (k : Nat) (p : Port) : (setPort s k p).fabric = { s.fabric with ports := put s.fabric.ports k p } := rfl
@[simp] theorem setPort_irq (s : State) (k : Nat) (p : Port) : (setPort s k p).irq = s.irq := rfl
@[simp] theorem setPort_links (s : State) (k : Nat) (p : Port) : (setPort s k p).links = s.links := rfl
@[simp] theorem setPort_slices (s : State) (k : Nat) (p : Port) : (setPort s k p).slices = s.slices := rfl
@[simp] theorem setPort_rings (s : State) (k : Nat) (p : Port) : (setPort s k p).rings = s.rings := rfl
@[simp] theorem setPort_pools (s : State) (k : Nat) (p : Port) : (setPort s k p).pools = s.pools := rfl
@[simp] theorem setPort_jobs (s : State) (k : Nat) (p : Port) : (setPort s k p).jobs = s.jobs := rfl
@[simp] theorem setPort_nextJob (s : State) (k : Nat) (p : Port) : (setPort s k p).nextJob = s.nextJob := rfl
@[simp] theorem setPort_sched (s : State) (k : Nat) (p : Port) : (setPort s k p).sched = s.sched := rfl
@[simp] theorem setPort_cfg (s : State) (k : Nat) (p : Port) : (setPort s k p).cfg = s.cfg := rfl
@[simp] theorem setPort_keys (s : State) (k : Nat) (p : Port) : (setPort s k p).keys = s.keys := rfl
@[simp] theorem setPort_mdp (s : State) (k : Nat) (p : Port) : (setPort s k p).mdp = s.mdp := rfl
@[simp] theorem setPort_ent (s : State) (k : Nat) (p : Port) : (setPort s k p).ent = s.ent := rfl
@[simp] theorem setPort_per (s : State) (k : Nat) (p : Port) : (setPort s k p).per = s.per := rfl
@[simp] theorem setPort_store (s : State) (k : Nat) (p : Port) : (setPort s k p).store = s.store := rfl
@[simp] theorem setPort_res (s : State) (k : Nat) (p : Port) : (setPort s k p).res = s.res := rfl
@[simp] theorem setPort_mgmt (s : State) (k : Nat) (p : Port) : (setPort s k p).mgmt = s.mgmt := rfl
@[simp] theorem setPort_pwr (s : State) (k : Nat) (p : Port) : (setPort s k p).pwr = s.pwr := rfl
@[simp] theorem setPort_mir (s : State) (k : Nat) (p : Port) : (setPort s k p).mir = s.mir := rfl
@[simp] theorem setPort_outbox (s : State) (k : Nat) (p : Port) : (setPort s k p).outbox = s.outbox := rfl
@[simp] theorem setPort_drawn (s : State) (k : Nat) (p : Port) : (setPort s k p).drawn = s.drawn := rfl

/-! `setSlice` -/

@[simp] theorem setSlice_pending (s : State) (n : Nat) (x : Slice) : (setSlice s n x).pending = s.pending := rfl
@[simp] theorem setSlice_clock (s : State) (n : Nat) (x : Slice) : (setSlice s n x).clock = s.clock := rfl
@[simp] theorem setSlice_glb (s : State) (n : Nat) (x : Slice) : (setSlice s n x).glb = s.glb := rfl
@[simp] theorem setSlice_fabric (s : State) (n : Nat) (x : Slice) : (setSlice s n x).fabric = s.fabric := rfl
@[simp] theorem setSlice_irq (s : State) (n : Nat) (x : Slice) : (setSlice s n x).irq = s.irq := rfl
@[simp] theorem setSlice_links (s : State) (n : Nat) (x : Slice) : (setSlice s n x).links = s.links := rfl
@[simp] theorem setSlice_slices (s : State) (n : Nat) (x : Slice) : (setSlice s n x).slices = put s.slices n x := rfl
@[simp] theorem setSlice_rings (s : State) (n : Nat) (x : Slice) : (setSlice s n x).rings = s.rings := rfl
@[simp] theorem setSlice_pools (s : State) (n : Nat) (x : Slice) : (setSlice s n x).pools = s.pools := rfl
@[simp] theorem setSlice_jobs (s : State) (n : Nat) (x : Slice) : (setSlice s n x).jobs = s.jobs := rfl
@[simp] theorem setSlice_nextJob (s : State) (n : Nat) (x : Slice) : (setSlice s n x).nextJob = s.nextJob := rfl
@[simp] theorem setSlice_sched (s : State) (n : Nat) (x : Slice) : (setSlice s n x).sched = s.sched := rfl
@[simp] theorem setSlice_cfg (s : State) (n : Nat) (x : Slice) : (setSlice s n x).cfg = s.cfg := rfl
@[simp] theorem setSlice_keys (s : State) (n : Nat) (x : Slice) : (setSlice s n x).keys = s.keys := rfl
@[simp] theorem setSlice_mdp (s : State) (n : Nat) (x : Slice) : (setSlice s n x).mdp = s.mdp := rfl
@[simp] theorem setSlice_ent (s : State) (n : Nat) (x : Slice) : (setSlice s n x).ent = s.ent := rfl
@[simp] theorem setSlice_per (s : State) (n : Nat) (x : Slice) : (setSlice s n x).per = s.per := rfl
@[simp] theorem setSlice_store (s : State) (n : Nat) (x : Slice) : (setSlice s n x).store = s.store := rfl
@[simp] theorem setSlice_res (s : State) (n : Nat) (x : Slice) : (setSlice s n x).res = s.res := rfl
@[simp] theorem setSlice_mgmt (s : State) (n : Nat) (x : Slice) : (setSlice s n x).mgmt = s.mgmt := rfl
@[simp] theorem setSlice_pwr (s : State) (n : Nat) (x : Slice) : (setSlice s n x).pwr = s.pwr := rfl
@[simp] theorem setSlice_mir (s : State) (n : Nat) (x : Slice) : (setSlice s n x).mir = s.mir := rfl
@[simp] theorem setSlice_outbox (s : State) (n : Nat) (x : Slice) : (setSlice s n x).outbox = s.outbox := rfl
@[simp] theorem setSlice_drawn (s : State) (n : Nat) (x : Slice) : (setSlice s n x).drawn = s.drawn := rfl

/-! `setRing` -/

@[simp] theorem setRing_pending (s : State) (r : Nat) (x : Ring) : (setRing s r x).pending = s.pending := rfl
@[simp] theorem setRing_clock (s : State) (r : Nat) (x : Ring) : (setRing s r x).clock = s.clock := rfl
@[simp] theorem setRing_glb (s : State) (r : Nat) (x : Ring) : (setRing s r x).glb = s.glb := rfl
@[simp] theorem setRing_fabric (s : State) (r : Nat) (x : Ring) : (setRing s r x).fabric = s.fabric := rfl
@[simp] theorem setRing_irq (s : State) (r : Nat) (x : Ring) : (setRing s r x).irq = s.irq := rfl
@[simp] theorem setRing_links (s : State) (r : Nat) (x : Ring) : (setRing s r x).links = s.links := rfl
@[simp] theorem setRing_slices (s : State) (r : Nat) (x : Ring) : (setRing s r x).slices = s.slices := rfl
@[simp] theorem setRing_rings (s : State) (r : Nat) (x : Ring) : (setRing s r x).rings = put s.rings r x := rfl
@[simp] theorem setRing_pools (s : State) (r : Nat) (x : Ring) : (setRing s r x).pools = s.pools := rfl
@[simp] theorem setRing_jobs (s : State) (r : Nat) (x : Ring) : (setRing s r x).jobs = s.jobs := rfl
@[simp] theorem setRing_nextJob (s : State) (r : Nat) (x : Ring) : (setRing s r x).nextJob = s.nextJob := rfl
@[simp] theorem setRing_sched (s : State) (r : Nat) (x : Ring) : (setRing s r x).sched = s.sched := rfl
@[simp] theorem setRing_cfg (s : State) (r : Nat) (x : Ring) : (setRing s r x).cfg = s.cfg := rfl
@[simp] theorem setRing_keys (s : State) (r : Nat) (x : Ring) : (setRing s r x).keys = s.keys := rfl
@[simp] theorem setRing_mdp (s : State) (r : Nat) (x : Ring) : (setRing s r x).mdp = s.mdp := rfl
@[simp] theorem setRing_ent (s : State) (r : Nat) (x : Ring) : (setRing s r x).ent = s.ent := rfl
@[simp] theorem setRing_per (s : State) (r : Nat) (x : Ring) : (setRing s r x).per = s.per := rfl
@[simp] theorem setRing_store (s : State) (r : Nat) (x : Ring) : (setRing s r x).store = s.store := rfl
@[simp] theorem setRing_res (s : State) (r : Nat) (x : Ring) : (setRing s r x).res = s.res := rfl
@[simp] theorem setRing_mgmt (s : State) (r : Nat) (x : Ring) : (setRing s r x).mgmt = s.mgmt := rfl
@[simp] theorem setRing_pwr (s : State) (r : Nat) (x : Ring) : (setRing s r x).pwr = s.pwr := rfl
@[simp] theorem setRing_mir (s : State) (r : Nat) (x : Ring) : (setRing s r x).mir = s.mir := rfl
@[simp] theorem setRing_outbox (s : State) (r : Nat) (x : Ring) : (setRing s r x).outbox = s.outbox := rfl
@[simp] theorem setRing_drawn (s : State) (r : Nat) (x : Ring) : (setRing s r x).drawn = s.drawn := rfl

/-! `setLink` -/

@[simp] theorem setLink_pending (s : State) (k : Nat) (x : Link) : (setLink s k x).pending = s.pending := rfl
@[simp] theorem setLink_clock (s : State) (k : Nat) (x : Link) : (setLink s k x).clock = s.clock := rfl
@[simp] theorem setLink_glb (s : State) (k : Nat) (x : Link) : (setLink s k x).glb = s.glb := rfl
@[simp] theorem setLink_fabric (s : State) (k : Nat) (x : Link) : (setLink s k x).fabric = s.fabric := rfl
@[simp] theorem setLink_irq (s : State) (k : Nat) (x : Link) : (setLink s k x).irq = s.irq := rfl
@[simp] theorem setLink_links (s : State) (k : Nat) (x : Link) : (setLink s k x).links = put s.links k x := rfl
@[simp] theorem setLink_slices (s : State) (k : Nat) (x : Link) : (setLink s k x).slices = s.slices := rfl
@[simp] theorem setLink_rings (s : State) (k : Nat) (x : Link) : (setLink s k x).rings = s.rings := rfl
@[simp] theorem setLink_pools (s : State) (k : Nat) (x : Link) : (setLink s k x).pools = s.pools := rfl
@[simp] theorem setLink_jobs (s : State) (k : Nat) (x : Link) : (setLink s k x).jobs = s.jobs := rfl
@[simp] theorem setLink_nextJob (s : State) (k : Nat) (x : Link) : (setLink s k x).nextJob = s.nextJob := rfl
@[simp] theorem setLink_sched (s : State) (k : Nat) (x : Link) : (setLink s k x).sched = s.sched := rfl
@[simp] theorem setLink_cfg (s : State) (k : Nat) (x : Link) : (setLink s k x).cfg = s.cfg := rfl
@[simp] theorem setLink_keys (s : State) (k : Nat) (x : Link) : (setLink s k x).keys = s.keys := rfl
@[simp] theorem setLink_mdp (s : State) (k : Nat) (x : Link) : (setLink s k x).mdp = s.mdp := rfl
@[simp] theorem setLink_ent (s : State) (k : Nat) (x : Link) : (setLink s k x).ent = s.ent := rfl
@[simp] theorem setLink_per (s : State) (k : Nat) (x : Link) : (setLink s k x).per = s.per := rfl
@[simp] theorem setLink_store (s : State) (k : Nat) (x : Link) : (setLink s k x).store = s.store := rfl
@[simp] theorem setLink_res (s : State) (k : Nat) (x : Link) : (setLink s k x).res = s.res := rfl
@[simp] theorem setLink_mgmt (s : State) (k : Nat) (x : Link) : (setLink s k x).mgmt = s.mgmt := rfl
@[simp] theorem setLink_pwr (s : State) (k : Nat) (x : Link) : (setLink s k x).pwr = s.pwr := rfl
@[simp] theorem setLink_mir (s : State) (k : Nat) (x : Link) : (setLink s k x).mir = s.mir := rfl
@[simp] theorem setLink_outbox (s : State) (k : Nat) (x : Link) : (setLink s k x).outbox = s.outbox := rfl
@[simp] theorem setLink_drawn (s : State) (k : Nat) (x : Link) : (setLink s k x).drawn = s.drawn := rfl

/-! `setJob` -/

@[simp] theorem setJob_pending (s : State) (j : Job) : (setJob s j).pending = s.pending := rfl
@[simp] theorem setJob_clock (s : State) (j : Job) : (setJob s j).clock = s.clock := rfl
@[simp] theorem setJob_glb (s : State) (j : Job) : (setJob s j).glb = s.glb := rfl
@[simp] theorem setJob_fabric (s : State) (j : Job) : (setJob s j).fabric = s.fabric := rfl
@[simp] theorem setJob_irq (s : State) (j : Job) : (setJob s j).irq = s.irq := rfl
@[simp] theorem setJob_links (s : State) (j : Job) : (setJob s j).links = s.links := rfl
@[simp] theorem setJob_slices (s : State) (j : Job) : (setJob s j).slices = s.slices := rfl
@[simp] theorem setJob_rings (s : State) (j : Job) : (setJob s j).rings = s.rings := rfl
@[simp] theorem setJob_pools (s : State) (j : Job) : (setJob s j).pools = s.pools := rfl
@[simp] theorem setJob_jobs (s : State) (j : Job) : (setJob s j).jobs = s.jobs.map (fun x => if x.id = j.id then j else x) := rfl
@[simp] theorem setJob_nextJob (s : State) (j : Job) : (setJob s j).nextJob = s.nextJob := rfl
@[simp] theorem setJob_sched (s : State) (j : Job) : (setJob s j).sched = s.sched := rfl
@[simp] theorem setJob_cfg (s : State) (j : Job) : (setJob s j).cfg = s.cfg := rfl
@[simp] theorem setJob_keys (s : State) (j : Job) : (setJob s j).keys = s.keys := rfl
@[simp] theorem setJob_mdp (s : State) (j : Job) : (setJob s j).mdp = s.mdp := rfl
@[simp] theorem setJob_ent (s : State) (j : Job) : (setJob s j).ent = s.ent := rfl
@[simp] theorem setJob_per (s : State) (j : Job) : (setJob s j).per = s.per := rfl
@[simp] theorem setJob_store (s : State) (j : Job) : (setJob s j).store = s.store := rfl
@[simp] theorem setJob_res (s : State) (j : Job) : (setJob s j).res = s.res := rfl
@[simp] theorem setJob_mgmt (s : State) (j : Job) : (setJob s j).mgmt = s.mgmt := rfl
@[simp] theorem setJob_pwr (s : State) (j : Job) : (setJob s j).pwr = s.pwr := rfl
@[simp] theorem setJob_mir (s : State) (j : Job) : (setJob s j).mir = s.mir := rfl
@[simp] theorem setJob_outbox (s : State) (j : Job) : (setJob s j).outbox = s.outbox := rfl
@[simp] theorem setJob_drawn (s : State) (j : Job) : (setJob s j).drawn = s.drawn := rfl

/-! `dropJob` -/

@[simp] theorem dropJob_pending (s : State) (id : Nat) : (dropJob s id).pending = s.pending := rfl
@[simp] theorem dropJob_clock (s : State) (id : Nat) : (dropJob s id).clock = s.clock := rfl
@[simp] theorem dropJob_glb (s : State) (id : Nat) : (dropJob s id).glb = s.glb := rfl
@[simp] theorem dropJob_fabric (s : State) (id : Nat) : (dropJob s id).fabric = s.fabric := rfl
@[simp] theorem dropJob_irq (s : State) (id : Nat) : (dropJob s id).irq = s.irq := rfl
@[simp] theorem dropJob_links (s : State) (id : Nat) : (dropJob s id).links = s.links := rfl
@[simp] theorem dropJob_slices (s : State) (id : Nat) : (dropJob s id).slices = s.slices := rfl
@[simp] theorem dropJob_rings (s : State) (id : Nat) : (dropJob s id).rings = s.rings := rfl
@[simp] theorem dropJob_pools (s : State) (id : Nat) : (dropJob s id).pools = s.pools := rfl
@[simp] theorem dropJob_jobs (s : State) (id : Nat) : (dropJob s id).jobs = s.jobs.filter (fun x => x.id != id) := rfl
@[simp] theorem dropJob_nextJob (s : State) (id : Nat) : (dropJob s id).nextJob = s.nextJob := rfl
@[simp] theorem dropJob_sched (s : State) (id : Nat) : (dropJob s id).sched = s.sched := rfl
@[simp] theorem dropJob_cfg (s : State) (id : Nat) : (dropJob s id).cfg = s.cfg := rfl
@[simp] theorem dropJob_keys (s : State) (id : Nat) : (dropJob s id).keys = s.keys := rfl
@[simp] theorem dropJob_mdp (s : State) (id : Nat) : (dropJob s id).mdp = s.mdp := rfl
@[simp] theorem dropJob_ent (s : State) (id : Nat) : (dropJob s id).ent = s.ent := rfl
@[simp] theorem dropJob_per (s : State) (id : Nat) : (dropJob s id).per = s.per := rfl
@[simp] theorem dropJob_store (s : State) (id : Nat) : (dropJob s id).store = s.store := rfl
@[simp] theorem dropJob_res (s : State) (id : Nat) : (dropJob s id).res = s.res := rfl
@[simp] theorem dropJob_mgmt (s : State) (id : Nat) : (dropJob s id).mgmt = s.mgmt := rfl
@[simp] theorem dropJob_pwr (s : State) (id : Nat) : (dropJob s id).pwr = s.pwr := rfl
@[simp] theorem dropJob_mir (s : State) (id : Nat) : (dropJob s id).mir = s.mir := rfl
@[simp] theorem dropJob_outbox (s : State) (id : Nat) : (dropJob s id).outbox = s.outbox := rfl
@[simp] theorem dropJob_drawn (s : State) (id : Nat) : (dropJob s id).drawn = s.drawn := rfl

/-! `setPart` -/

@[simp] theorem setPart_pending (s : State) (k : Engine) (n : Nat) (p : Part) : (setPart s k n p).pending = s.pending := rfl
@[simp] theorem setPart_clock (s : State) (k : Engine) (n : Nat) (p : Part) : (setPart s k n p).clock = s.clock := rfl
@[simp] theorem setPart_glb (s : State) (k : Engine) (n : Nat) (p : Part) : (setPart s k n p).glb = s.glb := rfl
@[simp] theorem setPart_fabric (s : State) (k : Engine) (n : Nat) (p : Part) : (setPart s k n p).fabric = s.fabric := rfl
@[simp] theorem setPart_irq (s : State) (k : Engine) (n : Nat) (p : Part) : (setPart s k n p).irq = s.irq := rfl
@[simp] theorem setPart_links (s : State) (k : Engine) (n : Nat) (p : Part) : (setPart s k n p).links = s.links := rfl
@[simp] theorem setPart_slices (s : State) (k : Engine) (n : Nat) (p : Part) : (setPart s k n p).slices = s.slices := rfl
@[simp] theorem setPart_rings (s : State) (k : Engine) (n : Nat) (p : Part) : (setPart s k n p).rings = s.rings := rfl
@[simp] theorem setPart_pools (s : State) (k : Engine) (n : Nat) (p : Part) : (setPart s k n p).pools = s.pools := rfl
@[simp] theorem setPart_jobs (s : State) (k : Engine) (n : Nat) (p : Part) : (setPart s k n p).jobs = s.jobs := rfl
@[simp] theorem setPart_nextJob (s : State) (k : Engine) (n : Nat) (p : Part) : (setPart s k n p).nextJob = s.nextJob := rfl
@[simp] theorem setPart_sched (s : State) (k : Engine) (n : Nat) (p : Part) : (setPart s k n p).sched = { s.sched with parts := put s.sched.parts (partKey k n) p } := rfl
@[simp] theorem setPart_cfg (s : State) (k : Engine) (n : Nat) (p : Part) : (setPart s k n p).cfg = s.cfg := rfl
@[simp] theorem setPart_keys (s : State) (k : Engine) (n : Nat) (p : Part) : (setPart s k n p).keys = s.keys := rfl
@[simp] theorem setPart_mdp (s : State) (k : Engine) (n : Nat) (p : Part) : (setPart s k n p).mdp = s.mdp := rfl
@[simp] theorem setPart_ent (s : State) (k : Engine) (n : Nat) (p : Part) : (setPart s k n p).ent = s.ent := rfl
@[simp] theorem setPart_per (s : State) (k : Engine) (n : Nat) (p : Part) : (setPart s k n p).per = s.per := rfl
@[simp] theorem setPart_store (s : State) (k : Engine) (n : Nat) (p : Part) : (setPart s k n p).store = s.store := rfl
@[simp] theorem setPart_res (s : State) (k : Engine) (n : Nat) (p : Part) : (setPart s k n p).res = s.res := rfl
@[simp] theorem setPart_mgmt (s : State) (k : Engine) (n : Nat) (p : Part) : (setPart s k n p).mgmt = s.mgmt := rfl
@[simp] theorem setPart_pwr (s : State) (k : Engine) (n : Nat) (p : Part) : (setPart s k n p).pwr = s.pwr := rfl
@[simp] theorem setPart_mir (s : State) (k : Engine) (n : Nat) (p : Part) : (setPart s k n p).mir = s.mir := rfl
@[simp] theorem setPart_outbox (s : State) (k : Engine) (n : Nat) (p : Part) : (setPart s k n p).outbox = s.outbox := rfl
@[simp] theorem setPart_drawn (s : State) (k : Engine) (n : Nat) (p : Part) : (setPart s k n p).drawn = s.drawn := rfl

/-! `setPool` -/

@[simp] theorem setPool_pending (s : State) (p : Pool) : (setPool s p).pending = s.pending := rfl
@[simp] theorem setPool_clock (s : State) (p : Pool) : (setPool s p).clock = s.clock := rfl
@[simp] theorem setPool_glb (s : State) (p : Pool) : (setPool s p).glb = s.glb := rfl
@[simp] theorem setPool_fabric (s : State) (p : Pool) : (setPool s p).fabric = s.fabric := rfl
@[simp] theorem setPool_irq (s : State) (p : Pool) : (setPool s p).irq = s.irq := rfl
@[simp] theorem setPool_links (s : State) (p : Pool) : (setPool s p).links = s.links := rfl
@[simp] theorem setPool_slices (s : State) (p : Pool) : (setPool s p).slices = s.slices := rfl
@[simp] theorem setPool_rings (s : State) (p : Pool) : (setPool s p).rings = s.rings := rfl
@[simp] theorem setPool_pools (s : State) (p : Pool) : (setPool s p).pools = p :: s.pools.filter (fun x => !(x.slice == p.slice && x.base == p.base)) := rfl
@[simp] theorem setPool_jobs (s : State) (p : Pool) : (setPool s p).jobs = s.jobs := rfl
@[simp] theorem setPool_nextJob (s : State) (p : Pool) : (setPool s p).nextJob = s.nextJob := rfl
@[simp] theorem setPool_sched (s : State) (p : Pool) : (setPool s p).sched = s.sched := rfl
@[simp] theorem setPool_cfg (s : State) (p : Pool) : (setPool s p).cfg = s.cfg := rfl
@[simp] theorem setPool_keys (s : State) (p : Pool) : (setPool s p).keys = s.keys := rfl
@[simp] theorem setPool_mdp (s : State) (p : Pool) : (setPool s p).mdp = s.mdp := rfl
@[simp] theorem setPool_ent (s : State) (p : Pool) : (setPool s p).ent = s.ent := rfl
@[simp] theorem setPool_per (s : State) (p : Pool) : (setPool s p).per = s.per := rfl
@[simp] theorem setPool_store (s : State) (p : Pool) : (setPool s p).store = s.store := rfl
@[simp] theorem setPool_res (s : State) (p : Pool) : (setPool s p).res = s.res := rfl
@[simp] theorem setPool_mgmt (s : State) (p : Pool) : (setPool s p).mgmt = s.mgmt := rfl
@[simp] theorem setPool_pwr (s : State) (p : Pool) : (setPool s p).pwr = s.pwr := rfl
@[simp] theorem setPool_mir (s : State) (p : Pool) : (setPool s p).mir = s.mir := rfl
@[simp] theorem setPool_outbox (s : State) (p : Pool) : (setPool s p).outbox = s.outbox := rfl
@[simp] theorem setPool_drawn (s : State) (p : Pool) : (setPool s p).drawn = s.drawn := rfl

/-! `putKey` -/

@[simp] theorem putKey_pending (s : State) (k : Key) : (putKey s k).pending = s.pending := rfl
@[simp] theorem putKey_clock (s : State) (k : Key) : (putKey s k).clock = s.clock := rfl
@[simp] theorem putKey_glb (s : State) (k : Key) : (putKey s k).glb = s.glb := rfl
@[simp] theorem putKey_fabric (s : State) (k : Key) : (putKey s k).fabric = s.fabric := rfl
@[simp] theorem putKey_irq (s : State) (k : Key) : (putKey s k).irq = s.irq := rfl
@[simp] theorem putKey_links (s : State) (k : Key) : (putKey s k).links = s.links := rfl
@[simp] theorem putKey_slices (s : State) (k : Key) : (putKey s k).slices = s.slices := rfl
@[simp] theorem putKey_rings (s : State) (k : Key) : (putKey s k).rings = s.rings := rfl
@[simp] theorem putKey_pools (s : State) (k : Key) : (putKey s k).pools = s.pools := rfl
@[simp] theorem putKey_jobs (s : State) (k : Key) : (putKey s k).jobs = s.jobs := rfl
@[simp] theorem putKey_nextJob (s : State) (k : Key) : (putKey s k).nextJob = s.nextJob := rfl
@[simp] theorem putKey_sched (s : State) (k : Key) : (putKey s k).sched = s.sched := rfl
@[simp] theorem putKey_cfg (s : State) (k : Key) : (putKey s k).cfg = s.cfg := rfl
@[simp] theorem putKey_keys (s : State) (k : Key) : (putKey s k).keys = { s.keys with slots := put s.keys.slots k.slot k } := rfl
@[simp] theorem putKey_mdp (s : State) (k : Key) : (putKey s k).mdp = s.mdp := rfl
@[simp] theorem putKey_ent (s : State) (k : Key) : (putKey s k).ent = s.ent := rfl
@[simp] theorem putKey_per (s : State) (k : Key) : (putKey s k).per = s.per := rfl
@[simp] theorem putKey_store (s : State) (k : Key) : (putKey s k).store = s.store := rfl
@[simp] theorem putKey_res (s : State) (k : Key) : (putKey s k).res = s.res := rfl
@[simp] theorem putKey_mgmt (s : State) (k : Key) : (putKey s k).mgmt = s.mgmt := rfl
@[simp] theorem putKey_pwr (s : State) (k : Key) : (putKey s k).pwr = s.pwr := rfl
@[simp] theorem putKey_mir (s : State) (k : Key) : (putKey s k).mir = s.mir := rfl
@[simp] theorem putKey_outbox (s : State) (k : Key) : (putKey s k).outbox = s.outbox := rfl
@[simp] theorem putKey_drawn (s : State) (k : Key) : (putKey s k).drawn = s.drawn := rfl

/-! `setDrbg` -/

@[simp] theorem setDrbg_pending (s : State) (n : Nat) (d : Drbg) : (setDrbg s n d).pending = s.pending := rfl
@[simp] theorem setDrbg_clock (s : State) (n : Nat) (d : Drbg) : (setDrbg s n d).clock = s.clock := rfl
@[simp] theorem setDrbg_glb (s : State) (n : Nat) (d : Drbg) : (setDrbg s n d).glb = s.glb := rfl
@[simp] theorem setDrbg_fabric (s : State) (n : Nat) (d : Drbg) : (setDrbg s n d).fabric = s.fabric := rfl
@[simp] theorem setDrbg_irq (s : State) (n : Nat) (d : Drbg) : (setDrbg s n d).irq = s.irq := rfl
@[simp] theorem setDrbg_links (s : State) (n : Nat) (d : Drbg) : (setDrbg s n d).links = s.links := rfl
@[simp] theorem setDrbg_slices (s : State) (n : Nat) (d : Drbg) : (setDrbg s n d).slices = s.slices := rfl
@[simp] theorem setDrbg_rings (s : State) (n : Nat) (d : Drbg) : (setDrbg s n d).rings = s.rings := rfl
@[simp] theorem setDrbg_pools (s : State) (n : Nat) (d : Drbg) : (setDrbg s n d).pools = s.pools := rfl
@[simp] theorem setDrbg_jobs (s : State) (n : Nat) (d : Drbg) : (setDrbg s n d).jobs = s.jobs := rfl
@[simp] theorem setDrbg_nextJob (s : State) (n : Nat) (d : Drbg) : (setDrbg s n d).nextJob = s.nextJob := rfl
@[simp] theorem setDrbg_sched (s : State) (n : Nat) (d : Drbg) : (setDrbg s n d).sched = s.sched := rfl
@[simp] theorem setDrbg_cfg (s : State) (n : Nat) (d : Drbg) : (setDrbg s n d).cfg = s.cfg := rfl
@[simp] theorem setDrbg_keys (s : State) (n : Nat) (d : Drbg) : (setDrbg s n d).keys = s.keys := rfl
@[simp] theorem setDrbg_mdp (s : State) (n : Nat) (d : Drbg) : (setDrbg s n d).mdp = s.mdp := rfl
@[simp] theorem setDrbg_ent (s : State) (n : Nat) (d : Drbg) : (setDrbg s n d).ent = { s.ent with drbgs := put s.ent.drbgs n d } := rfl
@[simp] theorem setDrbg_per (s : State) (n : Nat) (d : Drbg) : (setDrbg s n d).per = s.per := rfl
@[simp] theorem setDrbg_store (s : State) (n : Nat) (d : Drbg) : (setDrbg s n d).store = s.store := rfl
@[simp] theorem setDrbg_res (s : State) (n : Nat) (d : Drbg) : (setDrbg s n d).res = s.res := rfl
@[simp] theorem setDrbg_mgmt (s : State) (n : Nat) (d : Drbg) : (setDrbg s n d).mgmt = s.mgmt := rfl
@[simp] theorem setDrbg_pwr (s : State) (n : Nat) (d : Drbg) : (setDrbg s n d).pwr = s.pwr := rfl
@[simp] theorem setDrbg_mir (s : State) (n : Nat) (d : Drbg) : (setDrbg s n d).mir = s.mir := rfl
@[simp] theorem setDrbg_outbox (s : State) (n : Nat) (d : Drbg) : (setDrbg s n d).outbox = s.outbox := rfl
@[simp] theorem setDrbg_drawn (s : State) (n : Nat) (d : Drbg) : (setDrbg s n d).drawn = s.drawn := rfl

/-! `setHbs` -/

@[simp] theorem setHbs_pending (s : State) (h : Nat) (x : HbsState) : (setHbs s h x).pending = s.pending := rfl
@[simp] theorem setHbs_clock (s : State) (h : Nat) (x : HbsState) : (setHbs s h x).clock = s.clock := rfl
@[simp] theorem setHbs_glb (s : State) (h : Nat) (x : HbsState) : (setHbs s h x).glb = s.glb := rfl
@[simp] theorem setHbs_fabric (s : State) (h : Nat) (x : HbsState) : (setHbs s h x).fabric = s.fabric := rfl
@[simp] theorem setHbs_irq (s : State) (h : Nat) (x : HbsState) : (setHbs s h x).irq = s.irq := rfl
@[simp] theorem setHbs_links (s : State) (h : Nat) (x : HbsState) : (setHbs s h x).links = s.links := rfl
@[simp] theorem setHbs_slices (s : State) (h : Nat) (x : HbsState) : (setHbs s h x).slices = s.slices := rfl
@[simp] theorem setHbs_rings (s : State) (h : Nat) (x : HbsState) : (setHbs s h x).rings = s.rings := rfl
@[simp] theorem setHbs_pools (s : State) (h : Nat) (x : HbsState) : (setHbs s h x).pools = s.pools := rfl
@[simp] theorem setHbs_jobs (s : State) (h : Nat) (x : HbsState) : (setHbs s h x).jobs = s.jobs := rfl
@[simp] theorem setHbs_nextJob (s : State) (h : Nat) (x : HbsState) : (setHbs s h x).nextJob = s.nextJob := rfl
@[simp] theorem setHbs_sched (s : State) (h : Nat) (x : HbsState) : (setHbs s h x).sched = s.sched := rfl
@[simp] theorem setHbs_cfg (s : State) (h : Nat) (x : HbsState) : (setHbs s h x).cfg = s.cfg := rfl
@[simp] theorem setHbs_keys (s : State) (h : Nat) (x : HbsState) : (setHbs s h x).keys = s.keys := rfl
@[simp] theorem setHbs_mdp (s : State) (h : Nat) (x : HbsState) : (setHbs s h x).mdp = s.mdp := rfl
@[simp] theorem setHbs_ent (s : State) (h : Nat) (x : HbsState) : (setHbs s h x).ent = s.ent := rfl
@[simp] theorem setHbs_per (s : State) (h : Nat) (x : HbsState) : (setHbs s h x).per = s.per := rfl
@[simp] theorem setHbs_store (s : State) (h : Nat) (x : HbsState) : (setHbs s h x).store = s.store := rfl
@[simp] theorem setHbs_res (s : State) (h : Nat) (x : HbsState) : (setHbs s h x).res = { s.res with hbs := put s.res.hbs h x } := rfl
@[simp] theorem setHbs_mgmt (s : State) (h : Nat) (x : HbsState) : (setHbs s h x).mgmt = s.mgmt := rfl
@[simp] theorem setHbs_pwr (s : State) (h : Nat) (x : HbsState) : (setHbs s h x).pwr = s.pwr := rfl
@[simp] theorem setHbs_mir (s : State) (h : Nat) (x : HbsState) : (setHbs s h x).mir = s.mir := rfl
@[simp] theorem setHbs_outbox (s : State) (h : Nat) (x : HbsState) : (setHbs s h x).outbox = s.outbox := rfl
@[simp] theorem setHbs_drawn (s : State) (h : Nat) (x : HbsState) : (setHbs s h x).drawn = s.drawn := rfl

/-! `setPeer` -/

@[simp] theorem setPeer_pending (s : State) (i : Nat) (p : Peer) : (setPeer s i p).pending = s.pending := rfl
@[simp] theorem setPeer_clock (s : State) (i : Nat) (p : Peer) : (setPeer s i p).clock = s.clock := rfl
@[simp] theorem setPeer_glb (s : State) (i : Nat) (p : Peer) : (setPeer s i p).glb = s.glb := rfl
@[simp] theorem setPeer_fabric (s : State) (i : Nat) (p : Peer) : (setPeer s i p).fabric = s.fabric := rfl
@[simp] theorem setPeer_irq (s : State) (i : Nat) (p : Peer) : (setPeer s i p).irq = s.irq := rfl
@[simp] theorem setPeer_links (s : State) (i : Nat) (p : Peer) : (setPeer s i p).links = s.links := rfl
@[simp] theorem setPeer_slices (s : State) (i : Nat) (p : Peer) : (setPeer s i p).slices = s.slices := rfl
@[simp] theorem setPeer_rings (s : State) (i : Nat) (p : Peer) : (setPeer s i p).rings = s.rings := rfl
@[simp] theorem setPeer_pools (s : State) (i : Nat) (p : Peer) : (setPeer s i p).pools = s.pools := rfl
@[simp] theorem setPeer_jobs (s : State) (i : Nat) (p : Peer) : (setPeer s i p).jobs = s.jobs := rfl
@[simp] theorem setPeer_nextJob (s : State) (i : Nat) (p : Peer) : (setPeer s i p).nextJob = s.nextJob := rfl
@[simp] theorem setPeer_sched (s : State) (i : Nat) (p : Peer) : (setPeer s i p).sched = s.sched := rfl
@[simp] theorem setPeer_cfg (s : State) (i : Nat) (p : Peer) : (setPeer s i p).cfg = s.cfg := rfl
@[simp] theorem setPeer_keys (s : State) (i : Nat) (p : Peer) : (setPeer s i p).keys = s.keys := rfl
@[simp] theorem setPeer_mdp (s : State) (i : Nat) (p : Peer) : (setPeer s i p).mdp = s.mdp := rfl
@[simp] theorem setPeer_ent (s : State) (i : Nat) (p : Peer) : (setPeer s i p).ent = s.ent := rfl
@[simp] theorem setPeer_per (s : State) (i : Nat) (p : Peer) : (setPeer s i p).per = s.per := rfl
@[simp] theorem setPeer_store (s : State) (i : Nat) (p : Peer) : (setPeer s i p).store = s.store := rfl
@[simp] theorem setPeer_res (s : State) (i : Nat) (p : Peer) : (setPeer s i p).res = s.res := rfl
@[simp] theorem setPeer_mgmt (s : State) (i : Nat) (p : Peer) : (setPeer s i p).mgmt = s.mgmt := rfl
@[simp] theorem setPeer_pwr (s : State) (i : Nat) (p : Peer) : (setPeer s i p).pwr = s.pwr := rfl
@[simp] theorem setPeer_mir (s : State) (i : Nat) (p : Peer) : (setPeer s i p).mir = { s.mir with peers := put s.mir.peers i p } := rfl
@[simp] theorem setPeer_outbox (s : State) (i : Nat) (p : Peer) : (setPeer s i p).outbox = s.outbox := rfl
@[simp] theorem setPeer_drawn (s : State) (i : Nat) (p : Peer) : (setPeer s i p).drawn = s.drawn := rfl

/-! `setSource` -/

@[simp] theorem setSource_pending (s : State) (n : Nat) (x : Source) : (setSource s n x).pending = s.pending := rfl
@[simp] theorem setSource_clock (s : State) (n : Nat) (x : Source) : (setSource s n x).clock = s.clock := rfl
@[simp] theorem setSource_glb (s : State) (n : Nat) (x : Source) : (setSource s n x).glb = s.glb := rfl
@[simp] theorem setSource_fabric (s : State) (n : Nat) (x : Source) : (setSource s n x).fabric = s.fabric := rfl
@[simp] theorem setSource_irq (s : State) (n : Nat) (x : Source) : (setSource s n x).irq = s.irq := rfl
@[simp] theorem setSource_links (s : State) (n : Nat) (x : Source) : (setSource s n x).links = s.links := rfl
@[simp] theorem setSource_slices (s : State) (n : Nat) (x : Source) : (setSource s n x).slices = s.slices := rfl
@[simp] theorem setSource_rings (s : State) (n : Nat) (x : Source) : (setSource s n x).rings = s.rings := rfl
@[simp] theorem setSource_pools (s : State) (n : Nat) (x : Source) : (setSource s n x).pools = s.pools := rfl
@[simp] theorem setSource_jobs (s : State) (n : Nat) (x : Source) : (setSource s n x).jobs = s.jobs := rfl
@[simp] theorem setSource_nextJob (s : State) (n : Nat) (x : Source) : (setSource s n x).nextJob = s.nextJob := rfl
@[simp] theorem setSource_sched (s : State) (n : Nat) (x : Source) : (setSource s n x).sched = s.sched := rfl
@[simp] theorem setSource_cfg (s : State) (n : Nat) (x : Source) : (setSource s n x).cfg = s.cfg := rfl
@[simp] theorem setSource_keys (s : State) (n : Nat) (x : Source) : (setSource s n x).keys = s.keys := rfl
@[simp] theorem setSource_mdp (s : State) (n : Nat) (x : Source) : (setSource s n x).mdp = s.mdp := rfl
@[simp] theorem setSource_ent (s : State) (n : Nat) (x : Source) : (setSource s n x).ent = { s.ent with sources := put s.ent.sources n x } := rfl
@[simp] theorem setSource_per (s : State) (n : Nat) (x : Source) : (setSource s n x).per = s.per := rfl
@[simp] theorem setSource_store (s : State) (n : Nat) (x : Source) : (setSource s n x).store = s.store := rfl
@[simp] theorem setSource_res (s : State) (n : Nat) (x : Source) : (setSource s n x).res = s.res := rfl
@[simp] theorem setSource_mgmt (s : State) (n : Nat) (x : Source) : (setSource s n x).mgmt = s.mgmt := rfl
@[simp] theorem setSource_pwr (s : State) (n : Nat) (x : Source) : (setSource s n x).pwr = s.pwr := rfl
@[simp] theorem setSource_mir (s : State) (n : Nat) (x : Source) : (setSource s n x).mir = s.mir := rfl
@[simp] theorem setSource_outbox (s : State) (n : Nat) (x : Source) : (setSource s n x).outbox = s.outbox := rfl
@[simp] theorem setSource_drawn (s : State) (n : Nat) (x : Source) : (setSource s n x).drawn = s.drawn := rfl

/-! `setMdp` -/

@[simp] theorem setMdp_pending (s : State) (m : Mdp) : (setMdp s m).pending = s.pending := rfl
@[simp] theorem setMdp_clock (s : State) (m : Mdp) : (setMdp s m).clock = s.clock := rfl
@[simp] theorem setMdp_glb (s : State) (m : Mdp) : (setMdp s m).glb = s.glb := rfl
@[simp] theorem setMdp_fabric (s : State) (m : Mdp) : (setMdp s m).fabric = s.fabric := rfl
@[simp] theorem setMdp_irq (s : State) (m : Mdp) : (setMdp s m).irq = s.irq := rfl
@[simp] theorem setMdp_links (s : State) (m : Mdp) : (setMdp s m).links = s.links := rfl
@[simp] theorem setMdp_slices (s : State) (m : Mdp) : (setMdp s m).slices = s.slices := rfl
@[simp] theorem setMdp_rings (s : State) (m : Mdp) : (setMdp s m).rings = s.rings := rfl
@[simp] theorem setMdp_pools (s : State) (m : Mdp) : (setMdp s m).pools = s.pools := rfl
@[simp] theorem setMdp_jobs (s : State) (m : Mdp) : (setMdp s m).jobs = s.jobs := rfl
@[simp] theorem setMdp_nextJob (s : State) (m : Mdp) : (setMdp s m).nextJob = s.nextJob := rfl
@[simp] theorem setMdp_sched (s : State) (m : Mdp) : (setMdp s m).sched = s.sched := rfl
@[simp] theorem setMdp_cfg (s : State) (m : Mdp) : (setMdp s m).cfg = s.cfg := rfl
@[simp] theorem setMdp_keys (s : State) (m : Mdp) : (setMdp s m).keys = s.keys := rfl
@[simp] theorem setMdp_mdp (s : State) (m : Mdp) : (setMdp s m).mdp = m := rfl
@[simp] theorem setMdp_ent (s : State) (m : Mdp) : (setMdp s m).ent = s.ent := rfl
@[simp] theorem setMdp_per (s : State) (m : Mdp) : (setMdp s m).per = s.per := rfl
@[simp] theorem setMdp_store (s : State) (m : Mdp) : (setMdp s m).store = s.store := rfl
@[simp] theorem setMdp_res (s : State) (m : Mdp) : (setMdp s m).res = s.res := rfl
@[simp] theorem setMdp_mgmt (s : State) (m : Mdp) : (setMdp s m).mgmt = s.mgmt := rfl
@[simp] theorem setMdp_pwr (s : State) (m : Mdp) : (setMdp s m).pwr = s.pwr := rfl
@[simp] theorem setMdp_mir (s : State) (m : Mdp) : (setMdp s m).mir = s.mir := rfl
@[simp] theorem setMdp_outbox (s : State) (m : Mdp) : (setMdp s m).outbox = s.outbox := rfl
@[simp] theorem setMdp_drawn (s : State) (m : Mdp) : (setMdp s m).drawn = s.drawn := rfl

/-! `setGlb` -/

@[simp] theorem setGlb_pending (s : State) (g : Glb) : (setGlb s g).pending = s.pending := rfl
@[simp] theorem setGlb_clock (s : State) (g : Glb) : (setGlb s g).clock = s.clock := rfl
@[simp] theorem setGlb_glb (s : State) (g : Glb) : (setGlb s g).glb = g := rfl
@[simp] theorem setGlb_fabric (s : State) (g : Glb) : (setGlb s g).fabric = s.fabric := rfl
@[simp] theorem setGlb_irq (s : State) (g : Glb) : (setGlb s g).irq = s.irq := rfl
@[simp] theorem setGlb_links (s : State) (g : Glb) : (setGlb s g).links = s.links := rfl
@[simp] theorem setGlb_slices (s : State) (g : Glb) : (setGlb s g).slices = s.slices := rfl
@[simp] theorem setGlb_rings (s : State) (g : Glb) : (setGlb s g).rings = s.rings := rfl
@[simp] theorem setGlb_pools (s : State) (g : Glb) : (setGlb s g).pools = s.pools := rfl
@[simp] theorem setGlb_jobs (s : State) (g : Glb) : (setGlb s g).jobs = s.jobs := rfl
@[simp] theorem setGlb_nextJob (s : State) (g : Glb) : (setGlb s g).nextJob = s.nextJob := rfl
@[simp] theorem setGlb_sched (s : State) (g : Glb) : (setGlb s g).sched = s.sched := rfl
@[simp] theorem setGlb_cfg (s : State) (g : Glb) : (setGlb s g).cfg = s.cfg := rfl
@[simp] theorem setGlb_keys (s : State) (g : Glb) : (setGlb s g).keys = s.keys := rfl
@[simp] theorem setGlb_mdp (s : State) (g : Glb) : (setGlb s g).mdp = s.mdp := rfl
@[simp] theorem setGlb_ent (s : State) (g : Glb) : (setGlb s g).ent = s.ent := rfl
@[simp] theorem setGlb_per (s : State) (g : Glb) : (setGlb s g).per = s.per := rfl
@[simp] theorem setGlb_store (s : State) (g : Glb) : (setGlb s g).store = s.store := rfl
@[simp] theorem setGlb_res (s : State) (g : Glb) : (setGlb s g).res = s.res := rfl
@[simp] theorem setGlb_mgmt (s : State) (g : Glb) : (setGlb s g).mgmt = s.mgmt := rfl
@[simp] theorem setGlb_pwr (s : State) (g : Glb) : (setGlb s g).pwr = s.pwr := rfl
@[simp] theorem setGlb_mir (s : State) (g : Glb) : (setGlb s g).mir = s.mir := rfl
@[simp] theorem setGlb_outbox (s : State) (g : Glb) : (setGlb s g).outbox = s.outbox := rfl
@[simp] theorem setGlb_drawn (s : State) (g : Glb) : (setGlb s g).drawn = s.drawn := rfl

/-! `setStaged` -/

@[simp] theorem setStaged_pending (s : State) (c : CfgImage) : (setStaged s c).pending = s.pending := rfl
@[simp] theorem setStaged_clock (s : State) (c : CfgImage) : (setStaged s c).clock = s.clock := rfl
@[simp] theorem setStaged_glb (s : State) (c : CfgImage) : (setStaged s c).glb = s.glb := rfl
@[simp] theorem setStaged_fabric (s : State) (c : CfgImage) : (setStaged s c).fabric = s.fabric := rfl
@[simp] theorem setStaged_irq (s : State) (c : CfgImage) : (setStaged s c).irq = s.irq := rfl
@[simp] theorem setStaged_links (s : State) (c : CfgImage) : (setStaged s c).links = s.links := rfl
@[simp] theorem setStaged_slices (s : State) (c : CfgImage) : (setStaged s c).slices = s.slices := rfl
@[simp] theorem setStaged_rings (s : State) (c : CfgImage) : (setStaged s c).rings = s.rings := rfl
@[simp] theorem setStaged_pools (s : State) (c : CfgImage) : (setStaged s c).pools = s.pools := rfl
@[simp] theorem setStaged_jobs (s : State) (c : CfgImage) : (setStaged s c).jobs = s.jobs := rfl
@[simp] theorem setStaged_nextJob (s : State) (c : CfgImage) : (setStaged s c).nextJob = s.nextJob := rfl
@[simp] theorem setStaged_sched (s : State) (c : CfgImage) : (setStaged s c).sched = s.sched := rfl
@[simp] theorem setStaged_cfg (s : State) (c : CfgImage) : (setStaged s c).cfg = { s.cfg with staged := c } := rfl
@[simp] theorem setStaged_keys (s : State) (c : CfgImage) : (setStaged s c).keys = s.keys := rfl
@[simp] theorem setStaged_mdp (s : State) (c : CfgImage) : (setStaged s c).mdp = s.mdp := rfl
@[simp] theorem setStaged_ent (s : State) (c : CfgImage) : (setStaged s c).ent = s.ent := rfl
@[simp] theorem setStaged_per (s : State) (c : CfgImage) : (setStaged s c).per = s.per := rfl
@[simp] theorem setStaged_store (s : State) (c : CfgImage) : (setStaged s c).store = s.store := rfl
@[simp] theorem setStaged_res (s : State) (c : CfgImage) : (setStaged s c).res = s.res := rfl
@[simp] theorem setStaged_mgmt (s : State) (c : CfgImage) : (setStaged s c).mgmt = s.mgmt := rfl
@[simp] theorem setStaged_pwr (s : State) (c : CfgImage) : (setStaged s c).pwr = s.pwr := rfl
@[simp] theorem setStaged_mir (s : State) (c : CfgImage) : (setStaged s c).mir = s.mir := rfl
@[simp] theorem setStaged_outbox (s : State) (c : CfgImage) : (setStaged s c).outbox = s.outbox := rfl
@[simp] theorem setStaged_drawn (s : State) (c : CfgImage) : (setStaged s c).drawn = s.drawn := rfl

/-! `lockedWrite` -/

@[simp] theorem lockedWrite_pending (s : State) : (lockedWrite s).pending = s.pending := rfl
@[simp] theorem lockedWrite_clock (s : State) : (lockedWrite s).clock = s.clock := rfl
@[simp] theorem lockedWrite_glb (s : State) : (lockedWrite s).glb = { s.glb with lockedWrite := true } := rfl
@[simp] theorem lockedWrite_fabric (s : State) : (lockedWrite s).fabric = s.fabric := rfl
@[simp] theorem lockedWrite_irq (s : State) : (lockedWrite s).irq = s.irq := rfl
@[simp] theorem lockedWrite_links (s : State) : (lockedWrite s).links = s.links := rfl
@[simp] theorem lockedWrite_slices (s : State) : (lockedWrite s).slices = s.slices := rfl
@[simp] theorem lockedWrite_rings (s : State) : (lockedWrite s).rings = s.rings := rfl
@[simp] theorem lockedWrite_pools (s : State) : (lockedWrite s).pools = s.pools := rfl
@[simp] theorem lockedWrite_jobs (s : State) : (lockedWrite s).jobs = s.jobs := rfl
@[simp] theorem lockedWrite_nextJob (s : State) : (lockedWrite s).nextJob = s.nextJob := rfl
@[simp] theorem lockedWrite_sched (s : State) : (lockedWrite s).sched = s.sched := rfl
@[simp] theorem lockedWrite_cfg (s : State) : (lockedWrite s).cfg = s.cfg := rfl
@[simp] theorem lockedWrite_keys (s : State) : (lockedWrite s).keys = s.keys := rfl
@[simp] theorem lockedWrite_mdp (s : State) : (lockedWrite s).mdp = s.mdp := rfl
@[simp] theorem lockedWrite_ent (s : State) : (lockedWrite s).ent = s.ent := rfl
@[simp] theorem lockedWrite_per (s : State) : (lockedWrite s).per = s.per := rfl
@[simp] theorem lockedWrite_store (s : State) : (lockedWrite s).store = s.store := rfl
@[simp] theorem lockedWrite_res (s : State) : (lockedWrite s).res = s.res := rfl
@[simp] theorem lockedWrite_mgmt (s : State) : (lockedWrite s).mgmt = s.mgmt := rfl
@[simp] theorem lockedWrite_pwr (s : State) : (lockedWrite s).pwr = s.pwr := rfl
@[simp] theorem lockedWrite_mir (s : State) : (lockedWrite s).mir = s.mir := rfl
@[simp] theorem lockedWrite_outbox (s : State) : (lockedWrite s).outbox = s.outbox := rfl
@[simp] theorem lockedWrite_drawn (s : State) : (lockedWrite s).drawn = s.drawn := rfl

/-! `strayResponse` -/

@[simp] theorem strayResponse_pending (s : State) : (strayResponse s).pending = s.pending := rfl
@[simp] theorem strayResponse_clock (s : State) : (strayResponse s).clock = s.clock := rfl
@[simp] theorem strayResponse_glb (s : State) : (strayResponse s).glb = { s.glb with dupResponse := true } := rfl
@[simp] theorem strayResponse_fabric (s : State) : (strayResponse s).fabric = s.fabric := rfl
@[simp] theorem strayResponse_irq (s : State) : (strayResponse s).irq = s.irq := rfl
@[simp] theorem strayResponse_links (s : State) : (strayResponse s).links = s.links := rfl
@[simp] theorem strayResponse_slices (s : State) : (strayResponse s).slices = s.slices := rfl
@[simp] theorem strayResponse_rings (s : State) : (strayResponse s).rings = s.rings := rfl
@[simp] theorem strayResponse_pools (s : State) : (strayResponse s).pools = s.pools := rfl
@[simp] theorem strayResponse_jobs (s : State) : (strayResponse s).jobs = s.jobs := rfl
@[simp] theorem strayResponse_nextJob (s : State) : (strayResponse s).nextJob = s.nextJob := rfl
@[simp] theorem strayResponse_sched (s : State) : (strayResponse s).sched = s.sched := rfl
@[simp] theorem strayResponse_cfg (s : State) : (strayResponse s).cfg = s.cfg := rfl
@[simp] theorem strayResponse_keys (s : State) : (strayResponse s).keys = s.keys := rfl
@[simp] theorem strayResponse_mdp (s : State) : (strayResponse s).mdp = s.mdp := rfl
@[simp] theorem strayResponse_ent (s : State) : (strayResponse s).ent = s.ent := rfl
@[simp] theorem strayResponse_per (s : State) : (strayResponse s).per = s.per := rfl
@[simp] theorem strayResponse_store (s : State) : (strayResponse s).store = s.store := rfl
@[simp] theorem strayResponse_res (s : State) : (strayResponse s).res = s.res := rfl
@[simp] theorem strayResponse_mgmt (s : State) : (strayResponse s).mgmt = s.mgmt := rfl
@[simp] theorem strayResponse_pwr (s : State) : (strayResponse s).pwr = s.pwr := rfl
@[simp] theorem strayResponse_mir (s : State) : (strayResponse s).mir = s.mir := rfl
@[simp] theorem strayResponse_outbox (s : State) : (strayResponse s).outbox = s.outbox := rfl
@[simp] theorem strayResponse_drawn (s : State) : (strayResponse s).drawn = s.drawn := rfl

/-! `draw` -/

@[simp] theorem draw_value (s : State) : (draw s).1 = s.drawn := rfl
@[simp] theorem draw_pending (s : State) : (draw s).2.pending = s.pending := rfl
@[simp] theorem draw_clock (s : State) : (draw s).2.clock = s.clock := rfl
@[simp] theorem draw_glb (s : State) : (draw s).2.glb = s.glb := rfl
@[simp] theorem draw_fabric (s : State) : (draw s).2.fabric = s.fabric := rfl
@[simp] theorem draw_irq (s : State) : (draw s).2.irq = s.irq := rfl
@[simp] theorem draw_links (s : State) : (draw s).2.links = s.links := rfl
@[simp] theorem draw_slices (s : State) : (draw s).2.slices = s.slices := rfl
@[simp] theorem draw_rings (s : State) : (draw s).2.rings = s.rings := rfl
@[simp] theorem draw_pools (s : State) : (draw s).2.pools = s.pools := rfl
@[simp] theorem draw_jobs (s : State) : (draw s).2.jobs = s.jobs := rfl
@[simp] theorem draw_nextJob (s : State) : (draw s).2.nextJob = s.nextJob := rfl
@[simp] theorem draw_sched (s : State) : (draw s).2.sched = s.sched := rfl
@[simp] theorem draw_cfg (s : State) : (draw s).2.cfg = s.cfg := rfl
@[simp] theorem draw_keys (s : State) : (draw s).2.keys = s.keys := rfl
@[simp] theorem draw_mdp (s : State) : (draw s).2.mdp = s.mdp := rfl
@[simp] theorem draw_ent (s : State) : (draw s).2.ent = s.ent := rfl
@[simp] theorem draw_per (s : State) : (draw s).2.per = s.per := rfl
@[simp] theorem draw_store (s : State) : (draw s).2.store = s.store := rfl
@[simp] theorem draw_res (s : State) : (draw s).2.res = s.res := rfl
@[simp] theorem draw_mgmt (s : State) : (draw s).2.mgmt = s.mgmt := rfl
@[simp] theorem draw_pwr (s : State) : (draw s).2.pwr = s.pwr := rfl
@[simp] theorem draw_mir (s : State) : (draw s).2.mir = s.mir := rfl
@[simp] theorem draw_outbox (s : State) : (draw s).2.outbox = s.outbox := rfl
@[simp] theorem draw_drawn (s : State) : (draw s).2.drawn = s.drawn + 1 := rfl

end Sys2Proof.Machine
end

