-- ==== Sys2Proof/Laws/Tables.lean ====
section
/-! SUPPORT. Laws of the sparse tables and of the byte memory: a read after a write gives what was written, other entries stay, and
a write keeps the memory's canonical form. -/
namespace Sys2Proof.Machine

/-- Reading a table after setting one of its entries. -/
theorem look_put {α : Type} (t : Tbl α) (k c : Nat) (v d : α) : look (put t k v) c d = if c = k then v else look t c d := by
  induction t with
  | nil =>
    by_cases h : c = k
    · simp [put, look, h]
    · simp [put, look, h, Ne.symm h]
  | cons e r ih =>
    obtain ⟨k', v'⟩ := e
    unfold put
    split
    · by_cases h : c = k
      · simp [look, h]
      · simp [look, h, Ne.symm h]
    · split
      · rename_i h1 h2
        subst h2
        by_cases h : c = k'
        · simp [look, h]
        · simp [look, h, Ne.symm h]
      · rename_i h1 h2
        by_cases h : c = k
        · subst h; simp [look, h2, ih]
        · simp [look, ih, h]

/-- The same for a read that tells whether there is an entry. -/
theorem look?_put {α : Type} (t : Tbl α) (k c : Nat) (v : α) : look? (put t k v) c = if c = k then some v else look? t c := by
  induction t with
  | nil =>
    by_cases h : c = k
    · simp [put, look?, h]
    · simp [put, look?, h, Ne.symm h]
  | cons e r ih =>
    obtain ⟨k', v'⟩ := e
    unfold put
    split
    · by_cases h : c = k
      · simp [look?, h]
      · simp [look?, h, Ne.symm h]
    · split
      · rename_i h1 h2
        subst h2
        by_cases h : c = k'
        · simp [look?, h]
        · simp [look?, h, Ne.symm h]
      · rename_i h1 h2
        by_cases h : c = k
        · subst h; simp [look?, h2, ih]
        · simp [look?, ih, h]

@[simp] theorem look_put_same {α : Type} (t : Tbl α) (k : Nat) (v d : α) : look (put t k v) k d = v := by
  simp [look_put]

theorem look_put_other {α : Type} (t : Tbl α) {k c : Nat} (v d : α) (h : c ≠ k) : look (put t k v) c d = look t c d := by
  simp [look_put, h]

/-! ## The byte memory (R23, log entry 8) -/

/-- Every listed address lies above a bound. -/
def Above (n : Nat) (m : Mem) : Prop := ∀ e ∈ m, n < e.1

/-- The canonical form, entry by entry. -/
theorem memWf_cons (a : Nat) (b : BitVec 8) (m : Mem) : memWf ((a, b) :: m) = true ↔ b ≠ 0 ∧ Above a m ∧ memWf m = true := by
  induction m generalizing a b with
  | nil => simp [memWf, Above]
  | cons e r ih =>
    obtain ⟨a', b'⟩ := e
    have key : memWf ((a, b) :: (a', b') :: r) = (b != 0 && decide (a < a') && memWf ((a', b') :: r)) := rfl
    rw [key]
    simp only [Bool.and_eq_true, bne_iff_ne, decide_eq_true_eq]
    constructor
    · rintro ⟨⟨h1, h2⟩, h3⟩
      refine ⟨h1, fun x hx => ?_, h3⟩
      rcases List.mem_cons.mp hx with rfl | hx
      · exact h2
      · exact Nat.lt_trans h2 (((ih a' b').mp h3).2.1 x hx)
    · rintro ⟨h1, h2, h3⟩
      exact ⟨⟨h1, h2 (a', b') (List.mem_cons_self ..)⟩, h3⟩

theorem above_put {n k : Nat} {m : Mem} (b : BitVec 8) (h : Above n m) (hk : n < k) : Above n (put m k b) := by
  induction m with
  | nil => intro e he; simp [put] at he; subst he; exact hk
  | cons x r ih =>
    obtain ⟨a', b'⟩ := x
    have hr : Above n r := fun e he => h e (List.mem_cons_of_mem _ he)
    unfold put
    split
    · intro e he
      rcases List.mem_cons.mp he with rfl | he
      · exact hk
      · exact h e he
    · split
      · intro e he
        rcases List.mem_cons.mp he with rfl | he
        · exact hk
        · exact hr e he
      · intro e he
        rcases List.mem_cons.mp he with rfl | he
        · exact h _ (List.mem_cons_self ..)
        · exact ih hr e he

/-- Reading a table after removing an entry. -/
theorem look_del {α : Type} (t : Tbl α) (k c : Nat) (d : α) : look (del t k) c d = if c = k then d else look t c d := by
  induction t with
  | nil => by_cases h : c = k <;> simp [del, look, h]
  | cons e r ih =>
    obtain ⟨k', v'⟩ := e
    unfold del at *
    by_cases hk : k' = k
    · subst hk
      by_cases h : c = k'
      · subst h; simpa using ih
      · simp [look, Ne.symm h, ih, h]
    · by_cases h : c = k
      · subst h; simp [look, hk, ih]
      · simp [look, hk, ih, h]

theorem above_del {n k : Nat} {m : Mem} (h : Above n m) : Above n (del m k) :=
  fun e he => h e (List.mem_filter.mp he).1

theorem memWf_put {m : Mem} {k : Nat} {b : BitVec 8} (hb : b ≠ 0) (h : memWf m = true) : memWf (put m k b) = true := by
  induction m with
  | nil => simpa [put, memWf] using hb
  | cons x r ih =>
    obtain ⟨a', b'⟩ := x
    obtain ⟨h1, h2, h3⟩ := (memWf_cons a' b' r).mp h
    unfold put
    split
    · rename_i hlt
      refine (memWf_cons ..).mpr ⟨hb, fun e he => ?_, h⟩
      rcases List.mem_cons.mp he with rfl | he
      · exact hlt
      · exact Nat.lt_trans hlt (h2 e he)
    · split
      · rename_i hge heq
        subst heq
        exact (memWf_cons ..).mpr ⟨hb, h2, h3⟩
      · rename_i hge hne
        exact (memWf_cons ..).mpr ⟨h1, above_put b h2 (by omega), ih h3⟩

theorem memWf_del {m : Mem} {k : Nat} (h : memWf m = true) : memWf (del m k) = true := by
  induction m with
  | nil => rfl
  | cons x r ih =>
    obtain ⟨a', b'⟩ := x
    obtain ⟨h1, h2, h3⟩ := (memWf_cons a' b' r).mp h
    have hd := above_del (k := k) h2
    unfold del at *
    by_cases hk : a' = k
    · simpa [hk] using ih h3
    · rw [List.filter_cons_of_pos (by simpa using hk)]
      exact (memWf_cons ..).mpr ⟨h1, hd, ih h3⟩

/-- A write of one byte keeps the canonical form. -/
theorem memWf_memWrite {m : Mem} (a : Nat) (b : BitVec 8) (h : memWf m = true) : memWf (memWrite m a b) = true := by
  unfold memWrite
  split
  · exact memWf_del h
  · rename_i hb
    exact memWf_put hb h

/-- A write of a string of bytes keeps the canonical form. -/
theorem memWf_memWriteBytes (bs : Bytes) : ∀ {m : Mem} (a : Nat), memWf m = true → memWf (memWriteBytes m a bs) = true := by
  induction bs with
  | nil => intro m a h; exact h
  | cons b r ih => intro m a h; exact ih _ (memWf_memWrite a b h)

/-- A read after a write of one byte gives that byte there and the old one elsewhere. -/
theorem memRead_memWrite (m : Mem) (a c : Nat) (b : BitVec 8) : memRead (memWrite m a b) c = if c = a then b else memRead m c := by
  unfold memRead memWrite
  split
  · rename_i hb
    rw [look_del, hb]
  · exact look_put m a c b 0

/-- A write of a string of bytes changes no byte outside it. -/
theorem memRead_memWriteBytes_other (bs : Bytes) : ∀ {m : Mem} (a c : Nat), (c < a ∨ a + bs.length ≤ c) →
    memRead (memWriteBytes m a bs) c = memRead m c := by
  induction bs with
  | nil => intro m a c _; rfl
  | cons b r ih =>
    intro m a c hc
    have hl : (b :: r).length = r.length + 1 := rfl
    have hca : c ≠ a := by omega
    unfold memWriteBytes
    rw [ih (a + 1) c (by omega), memRead_memWrite m a c b, if_neg hca]

end Sys2Proof.Machine
end

