-- ==== Sys2Proof/Laws/Jobs.lean ====
section
/-! SUPPORT. Submissions by number, and what running an opcode does. -/
namespace Sys2Proof.Machine

theorem jobOf_id {s : State} {id : Nat} {j : Job} (h : jobOf s id = some j) : j.id = id := by
  have := List.find?_some h
  simpa using this

/-- Reading a submission back after it was written. -/
theorem jobOf_setJob_same {s : State} {id : Nat} {j : Job} (u : Job) (h : jobOf s id = some j) (hu : u.id = id) :
    jobOf (setJob s u) id = some u := by
  unfold jobOf at *
  rw [setJob_jobs]
  generalize s.jobs = l at h
  induction l with
  | nil => simp at h
  | cons a r ih =>
    by_cases ha : a.id = id
    · simp [ha, hu]
    · have ha' : ¬ a.id = u.id := by rw [hu]; exact ha
      simp only [List.map_cons, List.find?_cons, ha', if_false]
      simp only [List.find?_cons, beq_eq_false_iff_ne.mpr ha] at h ⊢
      exact ih h

/-- Writing one submission leaves the others. -/
theorem jobOf_setJob_other {s : State} {i : Nat} {u : Job} (h : i ≠ u.id) : jobOf (setJob s u) i = jobOf s i := by
  unfold jobOf
  rw [setJob_jobs]
  generalize s.jobs = l
  induction l with
  | nil => rfl
  | cons a r ih =>
    by_cases ha : a.id = u.id
    · have hi : (u.id == i) = false := beq_eq_false_iff_ne.mpr (Ne.symm h)
      simp only [List.map_cons, List.find?_cons, ha, if_true, hi]
      exact ih
    · simp only [List.map_cons, List.find?_cons, ha, if_false]
      split
      · rfl
      · exact ih

/-- A charge touches the fair shares only. -/
theorem charge_sched (s : State) (j : Job) (k : Engine) (c : Nat) : ∃ x, charge s j k c = { s with sched := x } := by
  unfold charge setVt
  split
  · exact ⟨s.sched, rfl⟩
  · exact ⟨_, rfl⟩

theorem chargeRest_sched (s : State) (j : Job) (d : Desc) (c : List Nat × List Nat) :
    ∃ x, chargeRest s j d c = { s with sched := x } := by
  have second : ∀ (x : Sched) (n : Engine → Nat), ∃ y, (match j.more.head? with
      | some (k, _) => if c.2 = [] ∨ ownWork j then { s with sched := x } else charge { s with sched := x } j k (n k)
      | none => { s with sched := x }) = { s with sched := y } := by
    intro x n
    cases j.more.head? with
    | none => exact ⟨x, rfl⟩
    | some q =>
      dsimp only
      split
      · exact ⟨x, rfl⟩
      · exact charge_sched { s with sched := x } j q.1 (n q.1)
  unfold chargeRest
  cases j.part with
  | none => exact second s.sched _
  | some p =>
    obtain ⟨x, hx⟩ := charge_sched s j p.1 (vtShare s j p.1 (partCost s j d p.1 c.1) - j.charged.1)
    dsimp only
    rw [hx]
    exact second x _

/-- Taking computed work writes the submission and the fair shares, nothing else. -/
theorem takeWork_spec {s : State} {id : Nat} {j j0 : Job} {d : Desc} {k : Option Key} {w : Work}
    (h : jobOf s id = some j0) (hj : j.id = id) (hd : d.dst = (stepEff j).dst) :
    Took (takeWork s j d k w) id j w ∧ ∃ x u, u.id = id ∧ takeWork s j d k w = setJob { s with sched := x } u := by
  unfold takeWork Took
  dsimp only
  obtain ⟨x, hx⟩ := chargeRest_sched s j d (opClasses s j d k)
  rw [hx]
  refine ⟨⟨_, jobOf_setJob_same (j := j0) _ h hj, rfl, rfl, rfl, rfl, rfl, rfl, rfl, ?_, ?_⟩, x, _, ?_, rfl⟩
  · intro hs; simp only [hs, if_true]
  · intro h' hh
    simp only [hh, ← hd, look_put_same]
  · exact hj

/-- Such a state keeps everything outside. -/
theorem outsideKept_setJob {s : State} {id : Nat} (x : Sched) (u : Job) (hu : u.id = id) :
    OutsideKept s (setJob { s with sched := x } u) id :=
  ⟨fun i hi => jobOf_setJob_other (s := { s with sched := x }) (by rw [hu]; exact hi),
   rfl, rfl, rfl, rfl, rfl, rfl, rfl, rfl, rfl, rfl, rfl, rfl, rfl, rfl, rfl, rfl, rfl⟩

/-- An opcode that stands runs the submission's computation. -/
theorem runOp_stands {s : State} {op id : Nat} {j : Job} (h : Stands s op id j) : runOp op id s = .next (compute s j) := by
  unfold runOp
  rw [h.found]
  simp only [h.ready, if_true]

/-- With its value settled, the computation is that of the step. -/
theorem compute_stands {s : State} {op id : Nat} {j : Job} (h : Stands s op id j) : compute s j = computeNow s j := by
  unfold compute
  dsimp only
  split
  · rfl
  · by_cases e : valueLater j (stepEff j) = true
    · have := h.settled e
      rw [if_pos]
      cases hv : j.value <;> simp_all
    · rw [if_pos]; simp [e]

/-- The step's opcode is the one it stands at. -/
theorem Stands.opcode {s : State} {op id : Nat} {j : Job} (h : Stands s op id j) : (stepDesc j).opcode = op := by
  have := h.ready
  unfold canRun at this
  simp only [Bool.and_eq_true, beq_iff_eq] at this
  exact this.1.1.2

theorem effDesc_opcode (j : Job) (d : Desc) : (effDesc j d).opcode = d.opcode := by
  unfold effDesc; split <;> rfl
theorem Stands.effOpcode {s : State} {op id : Nat} {j : Job} (h : Stands s op id j) : (stepEff j).opcode = op := by
  unfold stepEff; rw [effDesc_opcode]; exact h.opcode


/-! ## Runs of opcodes -/

theorem effDesc_dst (j : Job) (d : Desc) : (effDesc j d).dst = d.dst := by unfold effDesc; split <;> rfl

/-- The run of a step that is not random. -/
theorem computeNow_draw {s : State} {j : Job} (hf : family (stepEff j).opcode ≠ 7)
    (hb : (stepEff j).opcode = 0x0903 → s.per.broken.contains (ordCounter j) = false)
    (hr : RandomReady s j) (h1 : family (stepEff j).opcode ≠ 1) :
    computeNow s j = computeWith (drawn s j).2 (drawnJob s j) (stepEff j) j.loaded (drawn s j).1 := by
  unfold computeNow
  dsimp only
  rw [if_neg hf, if_neg (by intro ⟨a, b⟩; rw [hb a] at b; cases b)]
  by_cases hx : opRandom s (stepEff j) (j.part.map (·.1)) j.loaded = true
  · rw [if_pos ⟨h1, hx⟩]
    unfold drawnJob drawn drawFor
    simp only [if_pos hx]
    cases hk : keptDraw j (stepEff j) with
    | some n => rw [if_neg (by simp)]
    | none =>
      have hi : internalReady s = true := by
        rcases hr hx with h | h
        · rw [hk] at h; cases h
        · exact h
      have he : entropyDown s = false := by
        unfold internalReady at hi
        unfold entropyDown
        simp only [Bool.and_eq_true, beq_iff_eq] at hi
        simp [hi.1.1]
      rw [if_neg (by simp [he])]
      simp only [if_pos hi]
  · rw [if_neg (by simp [hx])]
    unfold drawnJob drawn
    simp only [if_neg hx]

theorem drawRandom_ent (s : State) : ∃ e, (drawRandom s).2 = { s with ent := e } := by
  have hr : ∃ e, reseedIfDue s = { s with ent := e } := by
    unfold reseedIfDue
    split
    · exact ⟨_, rfl⟩
    · exact ⟨s.ent, rfl⟩
  obtain ⟨e, he⟩ := hr
  unfold drawRandom
  dsimp only
  rw [he]
  exact ⟨_, rfl⟩

theorem drawn_eq (s : State) (j : Job) : ∃ e n, (drawn s j).2 = { s with ent := e, drawn := n } := by
  unfold drawn
  split
  · split
    · exact ⟨s.ent, s.drawn, rfl⟩
    · obtain ⟨e, he⟩ := drawRandom_ent s
      exact ⟨e, s.drawn, he⟩
  · exact ⟨s.ent, _, rfl⟩

theorem drawnJob_id (s j) : (drawnJob s j).id = j.id := by unfold drawnJob; split <;> rfl
theorem drawnJob_dst (s j) : (stepEff (drawnJob s j)).dst = (stepEff j).dst := by unfold drawnJob; split <;> rfl

/-- Loading the key to export touches no submission. -/
theorem exportLoaded_jobs (s : State) (j : Job) (d : Desc) : (exportLoaded s j d).jobs = s.jobs := by
  have dh : ∀ (x : State) n, (dropHmac x n).jobs = x.jobs := fun _ _ => rfl
  unfold exportLoaded
  split
  · split
    · rfl
    · rename_i e _ _
      have h : (writeLog s 0x0004 e.owner (leBytes 4 e.handle)).jobs = s.jobs := by
        have := writeLog_logged s 0x0004 e.owner (leBytes 4 e.handle)
        unfold OnlyLogged at this
        rw [this]
      unfold keyDamaged
      dsimp only
      split
      · exact h
      · exact h
  · rfl

theorem exportLoaded_other {s : State} {j : Job} {d : Desc} (h : d.opcode ≠ 0x0800) : exportLoaded s j d = s := by
  unfold exportLoaded
  rw [if_neg h]

/-- Computed work is taken, and nothing but the submission and the fair shares is touched. -/
theorem took_of {s1 : State} {id : Nat} {j j1 : Job} {k w} (h : jobOf s1 id = some j) (hj : j1.id = j.id)
    (hd : (stepEff j1).dst = (stepEff j).dst) :
    Took (takeWork s1 j1 (stepEff j) k w) id j w ∧ OutsideKept s1 (takeWork s1 j1 (stepEff j) k w) id ∧
      (takeWork s1 j1 (stepEff j) k w).keys = s1.keys := by
  have hid : j1.id = id := hj.trans (jobOf_id h)
  obtain ⟨ht, x, u, hu, he⟩ := takeWork_spec (k := k) (w := w) h hid hd.symm
  refine ⟨?_, ?_, ?_⟩
  · obtain ⟨v, a, b⟩ := ht
    exact ⟨v, a, by rw [hd] at b; exact b⟩
  · rw [he]; exact outsideKept_setJob x u hu
  · rw [he]; rfl

theorem outside_trans0 {s t : State} {e n} {id : Nat} (h : OutsideKept { s with ent := e, drawn := n } t id) : OutsideKept s t id :=
  ⟨h.1, h.2, h.3, h.4, h.5, h.6, h.7, h.8, h.9, h.10, h.11, h.12, h.13, h.14, h.15, h.16, h.17, h.18⟩

/-- The run of an opcode that may draw and whose result may be checked. -/
theorem main_run {op id : Nat} {s : State} {j : Job} (h : Stands s op id j) (hf : family op ≠ 7) (h1 : family op ≠ 1)
    (hb : op = 0x0903 → s.per.broken.contains (ordCounter j) = false) (hr : RandomReady s j) :
    ∃ t, runOp op id s = .next t ∧
      let s1 := (drawn s j).2
      let s2 := exportLoaded s1 (drawnJob s j) (stepEff j)
      let w := opWork s1 (drawnJob s j) (stepEff j) j.loaded (drawn s j).1
      let bad := w.checked && (Config.resultCheckFails (drawn s j).1 || w.wrong)
      (bad = false → Took t id j w ∧ OutsideKept s2 t id ∧ t.keys = s2.keys ∧ (s2 = s1 → OutsideKept s t id ∧ t.keys = s.keys)) ∧
      (bad = true → t = checkFails s2 (drawnJob s j) j.loaded) ∧ (op ≠ 0x0800 → s2 = s1) := by
  refine ⟨_, runOp_stands h, ?_⟩
  rw [compute_stands h]
  have ho := h.effOpcode
  rw [computeNow_draw (by rw [ho]; exact hf) (by rw [ho]; exact hb) hr (by rw [ho]; exact h1)]
  obtain ⟨e, n, he⟩ := drawn_eq s j
  have hj : jobOf (exportLoaded (drawn s j).2 (drawnJob s j) (stepEff j)) id = some j := by
    unfold jobOf
    rw [exportLoaded_jobs, he]
    exact h.found
  dsimp only
  unfold computeWith
  dsimp only
  refine ⟨fun hc => ?_, fun a => ?_, fun a => exportLoaded_other (by rw [ho]; exact a)⟩
  · rw [if_neg (by rw [hc]; simp)]
    obtain ⟨a, b, c⟩ := took_of (k := j.loaded) (w := opWork (drawn s j).2 (drawnJob s j) (stepEff j) j.loaded (drawn s j).1) hj
      (drawnJob_id s j) (drawnJob_dst s j)
    refine ⟨a, b, c, fun hs => ⟨?_, ?_⟩⟩
    · rw [hs] at b
      rw [hs]
      generalize takeWork (drawn s j).2 _ _ _ _ = u at b ⊢
      rw [he] at b
      exact outside_trans0 b
    · rw [c, hs, he]
  · rw [if_pos a]

theorem plain_run {op id : Nat} {s : State} {j : Job} (h : Stands s op id j) (hf : family op ≠ 7) (hb : op ≠ 0x0903)
    (hn : family op = 1 ∨ opRandom s (stepEff j) (j.part.map (·.1)) j.loaded = false) :
    runOp op id s = .next (computeWith (draw s).2 j (stepEff j) j.loaded (draw s).1) := by
  rw [runOp_stands h, compute_stands h]
  unfold computeNow
  dsimp only
  have ho := h.effOpcode
  rw [ho, if_neg hf, if_neg (by simp [hb]), if_neg]
  rintro ⟨a, b⟩
  rcases hn with c | c
  · exact a c
  · rw [c] at b; cases b

/-- Opcodes of lanes and hash lanes. -/
theorem lane_run {op id : Nat} {s : State} {j : Job} (h : Stands s op id j) (hf : family op = 1 ∨ family op = 2)
    (hc : ∀ s n, (opWork s j (stepEff j) j.loaded n).checked = false) :
    ∃ t n s1, runOp op id s = .next t ∧ Took t id j (opWork s1 j (stepEff j) j.loaded n) ∧ OutsideKept s t id ∧ t.keys = s.keys := by
  have hb : op ≠ 0x0903 := by intro e; subst e; rcases hf with c | c <;> exact absurd c (by decide)
  have hx : op ≠ 0x0800 := by intro e; subst e; rcases hf with c | c <;> exact absurd c (by decide)
  have h7 : family op ≠ 7 := by rcases hf with c | c <;> omega
  have hr : family op = 1 ∨ opRandom s (stepEff j) (j.part.map (·.1)) j.loaded = false := by
    rcases hf with c | c
    · exact .inl c
    · right; unfold opRandom; rw [h.effOpcode, c]; rfl
  refine ⟨_, (draw s).1, (draw s).2, plain_run h h7 hb hr, ?_⟩
  unfold computeWith
  dsimp only
  rw [hc, if_neg (by simp), exportLoaded_other (by rw [h.effOpcode]; exact hx)]
  obtain ⟨a, b, c⟩ := took_of (s1 := (draw s).2) (k := j.loaded) (w := opWork (draw s).2 j (stepEff j) j.loaded (draw s).1) h.found
    rfl rfl
  exact ⟨a, outside_trans0 (s := s) (e := s.ent) (n := s.drawn + 1) b, c⟩

end Sys2Proof.Machine
end

