-- ==== Sys2Proof/Laws/Kept.lean ====
section
/-! SUPPORT. What running commands keeps, as a preorder on states, and the part of the state that decides it. -/
namespace Sys2Proof.Machine

/-- The fields on which `Kept` depends. -/
structure Prot where
  queue : List Instr
  clock : Nat
  otp : Bool × Bool × Bool × Nat × Nat
  counters : Tbl Nat
  images : Mem × Mem × Mem
  pair : Nat × List Reply
  ent : Nat × Nat
  pwr : Nat × Nat × Nat
  sel : Nat × Nat × Nat × Nat
  txns : List Txn

/-- Those fields of a state. -/
def prot (s : State) : Prot :=
  { queue := s.pending, clock := s.clock.now
    otp := (s.per.otpEnrolled, s.per.otpRetired, s.per.otpDegraded, s.per.otpTamper, s.per.otpFloor)
    counters := s.per.counters, images := (s.per.image0, s.per.image1, s.mgmt.mem), pair := (s.mgmt.wdtTimeout, s.mgmt.replies)
    ent := (s.ent.minSources, s.ent.drbgSel), pwr := (s.pwr.bstPeriod, s.pwr.latchSel, s.pwr.bstSel)
    sel := (s.glb.cadSel, s.glb.gridSel, s.glb.partSel, s.mdp.measSel), txns := s.fabric.txns }

theorem OtpKept.refl (s : State) : OtpKept s s := ⟨id, id, id, Nat.min_le_right _ _, Nat.le_refl _⟩
theorem OtpKept.trans {a b c : State} (h : OtpKept a b) (k : OtpKept b c) : OtpKept a c :=
  ⟨fun x => k.enrolled (h.enrolled x), fun x => k.retired (h.retired x), fun x => k.degraded (h.degraded x),
   by have := h.tamper; have := k.tamper; omega, Nat.le_trans h.floor k.floor⟩

theorem Kept.refl (s : State) : Kept s s := ⟨rfl, rfl, .refl s, fun _ => Nat.le_refl _, id⟩
theorem Kept.trans {a b c : State} (h : Kept a b) (k : Kept b c) : Kept a c :=
  ⟨k.queue.trans h.queue, k.clock.trans h.clock, h.otp.trans k.otp, fun n => Nat.le_trans (h.counters n) (k.counters n),
   fun x => k.legal (h.legal x)⟩

/-- States that agree on those fields keep each other. -/
theorem Kept.of_prot {a b : State} (h : prot b = prot a) : Kept a b := by
  simp only [prot, Prot.mk.injEq, Prod.mk.injEq] at h
  obtain ⟨h1, h2, ⟨h3, h4, h5, h6, h7⟩, h8, ⟨h9, h10, hm⟩, ⟨h11, h12⟩, ⟨h13, h14⟩, ⟨h15, h16, h17⟩, ⟨h18, h19, h20, h21⟩, h22⟩ := h
  refine ⟨h1, h2, ⟨?_, ?_, ?_, ?_, ?_⟩, fun c => ?_, fun ⟨r, i, c, p⟩ => ⟨⟨?_, ?_, ?_, ?_, ?_, ?_, ?_, ?_, ?_, ?_, ?_⟩, ?_, fun k w => ?_, ?_⟩⟩
  · rw [h3]; exact id
  · rw [h4]; exact id
  · rw [h5]; exact id
  · rw [h6]; exact Nat.min_le_right _ _
  · exact Nat.le_of_eq h7.symm
  · exact Nat.le_of_eq (by unfold counterOf; rw [h8])
  · rw [h11]; exact r.watchdog
  · rw [h13]; exact r.sources
  · rw [h15]; exact r.testPeriod
  · rw [h14]; exact r.drbgSelect
  · rw [h16]; exact r.latchSelect
  · rw [h17]; exact r.testSelect
  · rw [h18]; exact r.cadenceSelect
  · rw [h19]; exact r.gridSelect
  · rw [h20]; exact r.partSelect
  · rw [h21]; exact r.measureSelect
  · rw [h6]; exact r.tamper
  · unfold MemoriesCanonical; rw [h9, h10, hm]; exact i
  · have := c k w; unfold outstanding at *; rw [h22]; exact this
  · unfold RepliesFit; rw [h12]; exact p

/-- An update outside those fields. -/
theorem Kept.upd {r a b : State} (h : Kept r a) (e : prot b = prot a) : Kept r b := h.trans (.of_prot e)

/-- A fold keeps what its step keeps. -/
theorem Kept.foldl {α : Type} {r : State} {f : State → α → State} (hf : ∀ s a, Kept r s → Kept r (f s a)) :
    ∀ (l : List α) {s : State}, Kept r s → Kept r (l.foldl f s)
  | [], _, h => h
  | a :: l, _, h => Kept.foldl hf l (hf _ a h)

/-- A state written as a record; only `written_record` proves it. -/
def Written (_ : State) : Prop := True
theorem written_record {pending : List Instr} {clock : Clock} {glb : Glb} {fabric : Fabric} {irq : Interrupts} {links : Tbl Link} {slices : Tbl Slice} {rings :
    Tbl Ring} {pools : List Pool} {jobs : List Job} {nextJob : Nat} {sched : Sched} {cfg : Cfg} {keys : Keys} {mdp :
    Mdp} {ent : Entropy} {per : Persist} {store : Store} {res : Reserve} {mgmt : Mgmt} {pwr : Power} {mir : Mirror}
    {outbox : List Out} {drawn : Nat} :
    Written ⟨pending, clock, glb, fabric, irq, links, slices, rings, pools, jobs, nextJob, sched, cfg, keys, mdp, ent,
      per, store, res, mgmt, pwr, mir, outbox, drawn⟩ := trivial
theorem Kept.written {r a : State} (_ : Written a) (h : Kept r a) : Kept r a := h

/-- An update written as a record, outside those fields. -/
theorem Kept.record {r a : State} {clock : Clock} {glb : Glb} {fabric : Fabric} {irq : Interrupts} {links : Tbl Link} {slices : Tbl Slice} {rings :
    Tbl Ring} {pools : List Pool} {jobs : List Job} {nextJob : Nat} {sched : Sched} {cfg : Cfg} {keys : Keys} {mdp :
    Mdp} {ent : Entropy} {per : Persist} {store : Store} {res : Reserve} {mgmt : Mgmt} {pwr : Power} {mir : Mirror}
    {outbox : List Out} {drawn : Nat}
    (h : Kept r a) (e : prot ⟨a.pending, clock, glb, fabric, irq, links, slices, rings, pools, jobs, nextJob, sched, cfg, keys, mdp, ent,
      per, store, res, mgmt, pwr, mir, outbox, drawn⟩ = prot a) :
    Kept r ⟨a.pending, clock, glb, fabric, irq, links, slices, rings, pools, jobs, nextJob, sched, cfg, keys, mdp, ent,
      per, store, res, mgmt, pwr, mir, outbox, drawn⟩ := h.upd e

/-- The state of an outcome that goes on is kept. -/
def KeptRes (r : State) : Res → Prop
  | .next t => Kept r t
  | .fault _ => True
  | .refused _ => True

theorem KeptRes.next {r t : State} (h : Kept r t) : KeptRes r (.next t) := h

/-- The state in an optional state is kept. -/
def KeptOpt (r : State) : Option State → Prop
  | some t => Kept r t
  | none => True

theorem KeptOpt.some {r t : State} (h : Kept r t) : KeptOpt r (some t) := h
theorem KeptOpt.none {r : State} : KeptOpt r none := trivial
theorem KeptOpt.map {α : Type} {r : State} {f : α → State} {o : Option α} (h : ∀ a, Kept r (f a)) : KeptOpt r (o.map f) := by
  cases o with
  | none => trivial
  | some a => exact h a

/-- The state of an optional pair is kept. -/
def KeptOptSnd {α : Type} (r : State) : Option (α × State) → Prop
  | some p => Kept r p.2
  | none => True

theorem KeptOptSnd.some {α : Type} {r : State} {p : α × State} (h : Kept r p.2) : KeptOptSnd r (some p) := h
theorem KeptOptSnd.none {α : Type} {r : State} : KeptOptSnd (α := α) r none := trivial

/-- An update of the outstanding requests alone keeps a state when the channels still fit. -/
theorem Kept.requests {r a b : State} (h : Kept r a) (e : { prot b with txns := [] } = { prot a with txns := [] })
    (hc : ChannelsFit a → ChannelsFit b) : Kept r b := by
  have hx : ∀ x : State, { prot x with txns := [] } = prot { x with fabric := { x.fabric with txns := [] } } := fun _ => rfl
  rw [hx, hx] at e
  have k := Kept.of_prot e
  exact h.trans ⟨k.queue, k.clock, ⟨k.otp.1, k.otp.2, k.otp.3, k.otp.4, k.otp.5⟩, k.counters, fun l =>
    have l' := k.legal ⟨⟨l.1.1, l.1.2, l.1.3, l.1.4, l.1.5, l.1.6, l.1.7, l.1.8, l.1.9, l.1.10, l.1.11⟩, l.2,
      fun _ _ => Nat.zero_le _, l.4⟩
    ⟨⟨l'.1.1, l'.1.2, l'.1.3, l'.1.4, l'.1.5, l'.1.6, l'.1.7, l'.1.8, l'.1.9, l'.1.10, l'.1.11⟩, l'.2, hc l.3, l'.4⟩⟩

/-- Forgetting outstanding requests keeps the channels within their limits. -/
theorem ChannelsFit.sub {a b : State} (h : ChannelsFit a) (e : b.fabric.txns.Sublist a.fabric.txns) : ChannelsFit b :=
  fun k w => Nat.le_trans (e.countP_le) (h k w)

/-- An update of the registers with legal values alone keeps a state when their values stay legal. -/
theorem Kept.registers {r a b : State} (h : Kept r a)
    (e : (b.pending, now b, b.per, b.mgmt.replies, b.mgmt.mem, b.fabric.txns) =
      (a.pending, now a, a.per, a.mgmt.replies, a.mgmt.mem, a.fabric.txns))
    (hl : LegalRegisters a → LegalRegisters b) : Kept r b := by
  simp only [Prod.mk.injEq] at e
  obtain ⟨h1, h2, h3, h4, hm, h5⟩ := e
  refine h.trans ⟨h1, h2, ⟨?_, ?_, ?_, ?_, ?_⟩, fun c => ?_, fun ⟨r, i, c, p⟩ => ⟨hl r, ?_, fun k w => ?_, ?_⟩⟩
  · rw [h3]; exact id
  · rw [h3]; exact id
  · rw [h3]; exact id
  · rw [h3]; exact Nat.min_le_right _ _
  · exact Nat.le_of_eq (by rw [h3])
  · exact Nat.le_of_eq (by unfold counterOf; rw [h3])
  · unfold MemoriesCanonical; rw [h3, hm]; exact i
  · have := c k w; unfold outstanding at *; rw [h5]; exact this
  · unfold RepliesFit; rw [h4]; exact p

/-- An update of the pair's memory alone keeps a state when that memory stays in canonical form. -/
theorem Kept.pairMem {r a b : State} (h : Kept r a)
    (e : { prot b with images := (b.per.image0, b.per.image1, []) } = { prot a with images := (a.per.image0, a.per.image1, []) })
    (hc : memWf a.mgmt.mem = true → memWf b.mgmt.mem = true) : Kept r b := by
  have hx : ∀ x : State, { prot x with images := (x.per.image0, x.per.image1, []) } = prot { x with mgmt := { x.mgmt with mem := [] } } :=
    fun _ => rfl
  rw [hx, hx] at e
  have k := Kept.of_prot e
  exact h.trans ⟨k.queue, k.clock, ⟨k.otp.1, k.otp.2, k.otp.3, k.otp.4, k.otp.5⟩, k.counters, fun l =>
    have l' := k.legal ⟨⟨l.1.1, l.1.2, l.1.3, l.1.4, l.1.5, l.1.6, l.1.7, l.1.8, l.1.9, l.1.10, l.1.11⟩, ⟨l.2.1, l.2.2.1, rfl⟩, l.3, l.4⟩
    ⟨⟨l'.1.1, l'.1.2, l'.1.3, l'.1.4, l'.1.5, l'.1.6, l'.1.7, l'.1.8, l'.1.9, l'.1.10, l'.1.11⟩, ⟨l'.2.1, l'.2.2.1, hc l.2.2.2⟩, l'.3, l'.4⟩⟩

/-- A field of a register is less than its range. -/
theorem part_lt (v : W32) (start len : Nat) : part v start len < 2 ^ len := (v.extractLsb' start len).isLt

/-- An update that leaves the queue, TREF, OTP and the counters alone. -/
theorem Kept.legalOnly {r a b : State} (h : Kept r a) (e : (b.pending, now b, b.per.counters) = (a.pending, now a, a.per.counters))
    (o : OtpKept a b) (hl : Legal a → Legal b) : Kept r b := by
  simp only [Prod.mk.injEq] at e
  obtain ⟨h1, h2, h3⟩ := e
  refine h.trans ⟨h1, h2, o, fun c => ?_, hl⟩
  exact Nat.le_of_eq (by unfold counterOf; rw [h3])

end Sys2Proof.Machine
end

