-- ==== Sys2Proof/Laws/KeptOps.lean ====
section
/-! SUPPORT. Frames: what the shared operations on requests, ports, log, cadences, jobs and keys keep (`Kept`). -/
set_option linter.unusedSimpArgs false
set_option linter.unusedVariables false
namespace Sys2Proof.Machine

theorem keeps_draw {z0 : State} {s : State} (kp : Kept z0 s) : Kept z0 (draw s).2 := by
  unfold draw
  repeat' first
    | with_reducible assumption
    | (refine Kept.written ?_ ?_; (· simp only [written_record]); refine Kept.record ?_ ?_; rotate_left;
          (· first | (dsimp only [prot]; done) | (dsimp only [prot]; (repeat' first | rfl | split); done)))
    | dsimp only | intro

theorem keepsE_draw {z0 : State} {s : State} {v z1} (he : draw s = (v, z1)) (kp : Kept z0 s) : Kept z0 z1 := by
  have h9 := keeps_draw (kp := kp)
  rw [he] at h9; exact h9

theorem keeps_emit {z0 : State} {s : State} (o : Out) (kp : Kept z0 s) : Kept z0 (emit s o) := by
  unfold emit
  repeat' first
    | with_reducible assumption
    | (refine Kept.written ?_ ?_; (· simp only [written_record]); refine Kept.record ?_ ?_; rotate_left;
          (· first | (dsimp only [prot]; done) | (dsimp only [prot]; (repeat' first | rfl | split); done)))
    | dsimp only | intro

theorem keeps_guardAnswer {z0 : State} {s : State} (kp : Kept z0 s) : Kept z0 (guardAnswer s) := by
  unfold guardAnswer
  repeat' first | with_reducible assumption | with_reducible apply keeps_emit | split | dsimp only | intro

theorem keeps_regWrite {z0 : State} {s : State} {f : State → State} (kp : Kept z0 s) (kp_f : ∀ x, Kept z0 x → Kept z0 (f x))
    : Kept z0 (regWrite s f) := by
  unfold regWrite
  repeat' first
    | with_reducible assumption | with_reducible apply keeps_emit | with_reducible apply keeps_guardAnswer
    | with_reducible apply kp_f | split | dsimp only | intro

theorem keeps_setPort {z0 : State} {s : State} (k : Nat) (p : Port) (kp : Kept z0 s) : Kept z0 (setPort s k p) := by
  unfold setPort
  repeat' first
    | with_reducible assumption
    | (refine Kept.written ?_ ?_; (· simp only [written_record]); refine Kept.record ?_ ?_; rotate_left;
          (· first | (dsimp only [prot]; done) | (dsimp only [prot]; (repeat' first | rfl | split); done)))
    | dsimp only | intro

theorem keeps_setSlice {z0 : State} {s : State} (n : Nat) (x : Slice) (kp : Kept z0 s) : Kept z0 (setSlice s n x) := by
  unfold setSlice
  repeat' first
    | with_reducible assumption
    | (refine Kept.written ?_ ?_; (· simp only [written_record]); refine Kept.record ?_ ?_; rotate_left;
          (· first | (dsimp only [prot]; done) | (dsimp only [prot]; (repeat' first | rfl | split); done)))
    | dsimp only | intro

theorem keeps_updSlice {z0 : State} {s : State} (n : Nat) (f : Slice → Slice) (kp : Kept z0 s) : Kept z0 (updSlice s n f) := by
  unfold updSlice
  repeat' first | with_reducible assumption | with_reducible apply keeps_setSlice | dsimp only | intro

theorem keeps_setRing {z0 : State} {s : State} (r : Nat) (x : Ring) (kp : Kept z0 s) : Kept z0 (setRing s r x) := by
  unfold setRing
  repeat' first
    | with_reducible assumption
    | (refine Kept.written ?_ ?_; (· simp only [written_record]); refine Kept.record ?_ ?_; rotate_left;
          (· first | (dsimp only [prot]; done) | (dsimp only [prot]; (repeat' first | rfl | split); done)))
    | dsimp only | intro

theorem keeps_updRing {z0 : State} {s : State} (r : Nat) (f : Ring → Ring) (kp : Kept z0 s) : Kept z0 (updRing s r f) := by
  unfold updRing
  repeat' first | with_reducible assumption | with_reducible apply keeps_setRing | dsimp only | intro

theorem keeps_setLink {z0 : State} {s : State} (k : Nat) (x : Link) (kp : Kept z0 s) : Kept z0 (setLink s k x) := by
  unfold setLink
  repeat' first
    | with_reducible assumption
    | (refine Kept.written ?_ ?_; (· simp only [written_record]); refine Kept.record ?_ ?_; rotate_left;
          (· first | (dsimp only [prot]; done) | (dsimp only [prot]; (repeat' first | rfl | split); done)))
    | dsimp only | intro

theorem keeps_portAccess {z0 : State} (c : Held) {s : State} {r : Res} (kp : Kept z0 s) (kp_r : KeptRes z0 r) : KeptRes z0
    (portAccess c s r) := by
  unfold portAccess
  repeat' first
    | with_reducible assumption | exact trivial | with_reducible refine KeptRes.next ?_
    | (refine Kept.written ?_ ?_; (· simp only [written_record]); refine Kept.record ?_ ?_; rotate_left;
          (· first | (dsimp only [prot]; done) | (dsimp only [prot]; (repeat' first | rfl | split); done)))
    | split | dsimp only | intro

theorem keeps_pathAccess {z0 : State} (p : Path) (c : Held) {s : State} {r : Res} (kp : Kept z0 s) (kp_r : KeptRes z0 r) :
    KeptRes z0 (pathAccess p c s r) := by
  unfold pathAccess
  repeat' first
    | with_reducible assumption | exact trivial | with_reducible refine KeptRes.next ?_
    | with_reducible apply keeps_portAccess
    | (refine Kept.written ?_ ?_; (· simp only [written_record]); refine Kept.record ?_ ?_; rotate_left;
          (· first | (dsimp only [prot]; done) | (dsimp only [prot]; (repeat' first | rfl | split); done)))
    | split | dsimp only | intro

theorem keeps_pathWrite {z0 : State} (p : Path) {s : State} {f : State → State} (kp : Kept z0 s) (kp_f : ∀ x, Kept z0 x →
    Kept z0 (f x)) : Kept z0 (pathWrite p s f) := by
  unfold pathWrite
  repeat' first
    | with_reducible assumption | with_reducible apply keeps_regWrite | with_reducible apply kp_f
    | (refine Kept.written ?_ ?_; (· simp only [written_record]); refine Kept.record ?_ ?_; rotate_left;
          (· first | (dsimp only [prot]; done) | (dsimp only [prot]; (repeat' first | rfl | split); done)))
    | split | dsimp only | intro

theorem keeps_setJob {z0 : State} {s : State} (j : Job) (kp : Kept z0 s) : Kept z0 (setJob s j) := by
  unfold setJob
  repeat' first
    | with_reducible assumption
    | (refine Kept.written ?_ ?_; (· simp only [written_record]); refine Kept.record ?_ ?_; rotate_left;
          (· first | (dsimp only [prot]; done) | (dsimp only [prot]; (repeat' first | rfl | split); done)))
    | split | dsimp only | intro

theorem keeps_updJob {z0 : State} {s : State} (id : Nat) (f : Job → Job) (kp : Kept z0 s) : Kept z0 (updJob s id f) := by
  unfold updJob
  repeat' first
    | with_reducible assumption
    | (refine Kept.written ?_ ?_; (· simp only [written_record]); refine Kept.record ?_ ?_; rotate_left;
          (· first | (dsimp only [prot]; done) | (dsimp only [prot]; (repeat' first | rfl | split); done)))
    | split | dsimp only | intro

theorem keeps_dropJob {z0 : State} {s : State} (id : Nat) (kp : Kept z0 s) : Kept z0 (dropJob s id) := by
  unfold dropJob
  repeat' first
    | with_reducible assumption
    | (refine Kept.written ?_ ?_; (· simp only [written_record]); refine Kept.record ?_ ?_; rotate_left;
          (· first | (dsimp only [prot]; done) | (dsimp only [prot]; (repeat' first | rfl | split); done)))
    | dsimp only | intro

theorem keeps_setPart {z0 : State} {s : State} (k : Engine) (n : Nat) (p : Part) (kp : Kept z0 s) : Kept z0 (setPart s k n
    p) := by
  unfold setPart
  repeat' first
    | with_reducible assumption
    | (refine Kept.written ?_ ?_; (· simp only [written_record]); refine Kept.record ?_ ?_; rotate_left;
          (· first | (dsimp only [prot]; done) | (dsimp only [prot]; (repeat' first | rfl | split); done)))
    | dsimp only | intro

theorem keeps_updPart {z0 : State} {s : State} (k : Engine) (n : Nat) (f : Part → Part) (kp : Kept z0 s) : Kept z0 (updPart
    s k n f) := by
  unfold updPart
  repeat' first | with_reducible assumption | with_reducible apply keeps_setPart | dsimp only | intro

theorem keeps_revoke {z0 : State} {s : State} (r : Leased) (kp : Kept z0 s) : Kept z0 (revoke s r) := by
  unfold revoke
  repeat' first
    | with_reducible assumption
    | (refine Kept.written ?_ ?_; (· simp only [written_record]); refine Kept.record ?_ ?_; rotate_left;
          (· first | (dsimp only [prot]; done) | (dsimp only [prot]; (repeat' first | rfl | split); done)))
    | dsimp only | intro

theorem keeps_revokeParts {z0 : State} {s : State} (j : Job) (kp : Kept z0 s) : Kept z0 (revokeParts s j) := by
  unfold revokeParts
  repeat' first
    | with_reducible assumption | with_reducible apply keeps_revoke | with_reducible refine Kept.foldl (fun _ _ _ => ?_) _ ?_
    | dsimp only | intro

theorem keeps_freePart {z0 : State} (id : Nat) {s : State} (p : Engine × Nat) (kp : Kept z0 s) : Kept z0 (freePart id s p) := by
  unfold freePart
  repeat' first
    | with_reducible assumption | with_reducible apply keeps_updPart
    | (refine Kept.written ?_ ?_; (· simp only [written_record]); refine Kept.record ?_ ?_; rotate_left;
          (· first | (dsimp only [prot]; done) | (dsimp only [prot]; (repeat' first | rfl | split); done)))
    | split | dsimp only | intro

theorem keeps_freeParts {z0 s : State} (j : Job) (h : Kept z0 s) : Kept z0 (freeParts s j) := by
  unfold freeParts
  exact Kept.foldl (fun s a h => keeps_freePart _ _ h) _ h

theorem keeps_pendVector {z0 : State} {s : State} (n : Nat) (kp : Kept z0 s) : Kept z0 (pendVector s n) := by
  unfold pendVector
  repeat' first
    | with_reducible assumption
    | (refine Kept.written ?_ ?_; (· simp only [written_record]); refine Kept.record ?_ ?_; rotate_left;
          (· first | (dsimp only [prot]; done) | (dsimp only [prot]; (repeat' first | rfl | split); done)))
    | split | dsimp only | intro

theorem keeps_raiseManager {z0 : State} {s : State} (n : Nat) (kp : Kept z0 s) : Kept z0 (raiseManager s n) := by
  unfold raiseManager
  repeat' first
    | with_reducible assumption | with_reducible apply keeps_pendVector
    | (refine Kept.written ?_ ?_; (· simp only [written_record]); refine Kept.record ?_ ?_; rotate_left;
          (· first | (dsimp only [prot]; done) | (dsimp only [prot]; (repeat' first | rfl | split); done)))
    | dsimp only | intro

/-- A request goes out only where its channel has room (R44). -/
theorem chan_append {s : State} {t : Txn} {t' : State} (hc : ChannelsFit s) (hr : outstanding s t.port t.isWrite <
    channelRoom t.isWrite)
    (he : t'.fabric.txns = s.fabric.txns ++ [t]) : ChannelsFit t' := by
  intro k w
  have h := hc k w
  unfold outstanding at *
  rw [he, List.countP_append, List.countP_singleton]
  by_cases e : (t.port == k && t.isWrite == w) = true
  · simp only [e, if_true]
    simp only [Bool.and_eq_true, beq_iff_eq] at e
    obtain ⟨rfl, rfl⟩ := e
    omega
  · simp only [e]
    simpa using h

theorem getD_mem {α : Type} (l : List α) (n : Nat) (d : α) (h : l ≠ []) : l.getD (n % l.length) d ∈ l := by
  have hl : 0 < l.length := List.length_pos_iff.mpr h
  have : n % l.length < l.length := Nat.mod_lt _ hl
  rw [List.getD_eq_getElem?_getD, List.getElem?_eq_getElem this]
  exact List.getElem_mem this

theorem openPorts_room {s : State} {w : Bool} {k len : Nat} (h : k ∈ openPorts s w len) : outstanding s k w < channelRoom w
    := by
  unfold openPorts at h
  simp only [List.mem_filter, Bool.and_eq_true, decide_eq_true_eq] at h
  exact h.2.1.2

theorem keepsE_tryIssue {z0 s : State} {t : Txn} {z1 : State} (e : tryIssue s t = some z1) (h : Kept z0 s) : Kept z0 z1 := by
  unfold tryIssue at e
  simp only [draw] at e
  split at e
  · cases e
  rename_i hn
  simp only [not_or] at hn
  simp only [Option.some.injEq] at e
  subst e
  refine h.trans ⟨rfl, rfl, ⟨id, id, id, Nat.min_le_right _ _, Nat.le_refl _⟩, fun _ => Nat.le_refl _, fun ⟨r, i, c, p⟩ =>
      ⟨⟨r.1, r.2, r.3, r.4, r.5, r.6, r.7, r.8, r.9, r.10, r.11⟩, i, ?_, p⟩⟩
  exact chan_append c (openPorts_room (getD_mem _ _ _ hn.1)) rfl

theorem keeps_pumpList {z0 : State} : ∀ (l : List Txn) {s : State}, Kept z0 s → Kept z0 (pumpList l s)
  | [], _, h => h
  | t :: r, s, h => by
    unfold pumpList
    split
    · exact keeps_pumpList r (keepsE_tryIssue (by assumption) h)
    · exact keeps_pumpList r (h.upd rfl)

theorem keeps_pump {z0 s : State} (h : Kept z0 s) : Kept z0 (pump s) := keeps_pumpList _ (h.upd rfl)

theorem keeps_request {z0 : State} {s : State} (ts : List Txn) (kp : Kept z0 s) : Kept z0 (request s ts) := by
  unfold request
  repeat' first
    | with_reducible assumption | with_reducible apply keeps_pump
    | (refine Kept.written ?_ ?_; (· simp only [written_record]); refine Kept.record ?_ ?_; rotate_left;
          (· first | (dsimp only [prot]; done) | (dsimp only [prot]; (repeat' first | rfl | split); done)))
    | dsimp only | intro

theorem keeps_dropUnissued {z0 : State} {s : State} (f : Purpose → Bool) (kp : Kept z0 s) : Kept z0 (dropUnissued s f) := by
  unfold dropUnissued
  repeat' first
    | with_reducible assumption
    | (refine Kept.written ?_ ?_; (· simp only [written_record]); refine Kept.record ?_ ?_; rotate_left;
          (· first | (dsimp only [prot]; done) | (dsimp only [prot]; (repeat' first | rfl | split); done)))
    | dsimp only | intro

theorem keeps_pumpVectors {z0 : State} {s : State} (kp : Kept z0 s) : Kept z0 (pumpVectors s) := by
  unfold pumpVectors
  repeat' first
    | with_reducible assumption | with_reducible apply keeps_request
    | (refine Kept.written ?_ ?_; (· simp only [written_record]); refine Kept.record ?_ ?_; rotate_left;
          (· first | (dsimp only [prot]; done) | (dsimp only [prot]; (repeat' first | rfl | split); done)))
    | split | dsimp only | intro

theorem keeps_notifyManager {z0 : State} {s : State} (n : Nat) (kp : Kept z0 s) : Kept z0 (notifyManager s n) := by
  unfold notifyManager
  repeat' first
    | with_reducible assumption | with_reducible apply keeps_pumpVectors | with_reducible apply keeps_raiseManager
    | dsimp only | intro

theorem keeps_setPool {z0 : State} {s : State} (p : Pool) (kp : Kept z0 s) : Kept z0 (setPool s p) := by
  unfold setPool
  repeat' first
    | with_reducible assumption
    | (refine Kept.written ?_ ?_; (· simp only [written_record]); refine Kept.record ?_ ?_; rotate_left;
          (· first | (dsimp only [prot]; done) | (dsimp only [prot]; (repeat' first | rfl | split); done)))
    | dsimp only | intro

theorem keeps_poolWriteBack {z0 : State} {s : State} (r : Nat) (kp : Kept z0 s) : Kept z0 (poolWriteBack s r) := by
  unfold poolWriteBack
  repeat' first
    | with_reducible assumption | with_reducible apply keeps_request | with_reducible apply keeps_setPool
    | (refine Kept.written ?_ ?_; (· simp only [written_record]); refine Kept.record ?_ ?_; rotate_left;
          (· first | (dsimp only [prot]; done) | (dsimp only [prot]; (repeat' first | rfl | split); done)))
    | split | dsimp only | intro

theorem keeps_writeBack {z0 : State} {s : State} (r : Nat) (kp : Kept z0 s) : Kept z0 (writeBack s r) := by
  unfold writeBack
  repeat' first
    | with_reducible assumption | with_reducible apply keeps_poolWriteBack | with_reducible apply keeps_request
    | with_reducible apply keeps_updRing
    | (refine Kept.written ?_ ?_; (· simp only [written_record]); refine Kept.record ?_ ?_; rotate_left;
          (· first | (dsimp only [prot]; done) | (dsimp only [prot]; (repeat' first | rfl | split); done)))
    | dsimp only | intro

theorem keeps_readDoorbell {z0 : State} {s : State} (r : Nat) (drain : Bool) (ordered : Bool) (kp : Kept z0 s) : Kept z0
    (readDoorbell s r drain ordered) := by
  unfold readDoorbell
  repeat' first | with_reducible assumption | with_reducible apply keeps_request | split | dsimp only | intro

theorem keeps_moveCounter {z0 s : State} (m : Nat × Nat) (h : Kept z0 s) : Kept z0 (moveCounter s m) := by
  refine h.trans ⟨rfl, rfl, ⟨id, id, id, Nat.min_le_right _ _, Nat.le_refl _⟩, fun c => ?_, fun l => ?_⟩
  · unfold moveCounter counterOf
    rw [look_put]
    split
    · rename_i e; subst e; exact Nat.le_max_left _ _
    · exact Nat.le_refl _
  · exact ⟨⟨l.1.1, l.1.2, l.1.3, l.1.4, l.1.5, l.1.6, l.1.7, l.1.8, l.1.9, l.1.10, l.1.11⟩, l.2, l.3, l.4⟩

theorem keeps_enqueue {z0 : State} {s : State} (p : LPayload) (e : Effect) (kp : Kept z0 s) : Kept z0 (enqueue s p e) := by
  unfold enqueue
  repeat' first
    | with_reducible assumption
    | (refine Kept.written ?_ ?_; (· simp only [written_record]); refine Kept.record ?_ ?_; rotate_left;
          (· first | (dsimp only [prot]; done) | (dsimp only [prot]; (repeat' first | rfl | split); done)))
    | dsimp only | intro

theorem keeps_dequeue {z0 : State} {s : State} (kp : Kept z0 s) : Kept z0 (dequeue s) := by
  unfold dequeue
  repeat' first
    | with_reducible assumption
    | (refine Kept.written ?_ ?_; (· simp only [written_record]); refine Kept.record ?_ ?_; rotate_left;
          (· first | (dsimp only [prot]; done) | (dsimp only [prot]; (repeat' first | rfl | split); done)))
    | dsimp only | intro

theorem keeps_clearZone {z0 : State} {s : State} (seq : Nat) (kp : Kept z0 s) : Kept z0 (clearZone s seq) := by
  unfold clearZone
  repeat' first
    | with_reducible assumption | with_reducible refine Kept.foldl (fun _ _ _ => ?_) _ ?_
    | (refine Kept.written ?_ ?_; (· simp only [written_record]); refine Kept.record ?_ ?_; rotate_left;
          (· first | (dsimp only [prot]; done) | (dsimp only [prot]; (repeat' first | rfl | split); done)))
    | split | dsimp only | intro

theorem keeps_applyRecord {z0 : State} {s : State} (seq : Nat) (r : LRec) (kp : Kept z0 s) : Kept z0 (applyRecord s seq r) := by
  unfold applyRecord
  repeat' first
    | with_reducible assumption | with_reducible apply keeps_moveCounter
    | with_reducible refine Kept.foldl (fun _ _ _ => ?_) _ ?_
    | (refine Kept.written ?_ ?_; (· simp only [written_record]); refine Kept.record ?_ ?_; rotate_left;
          (· first | (dsimp only [prot]; done) | (dsimp only [prot]; (repeat' first | rfl | split); done)))
    | split | dsimp only | intro

theorem keeps_throttle {z0 : State} {s : State} (kp : Kept z0 s) : Kept z0 (throttle s) := by
  unfold throttle
  repeat' first
    | with_reducible assumption | with_reducible apply keeps_notifyManager
    | (refine Kept.written ?_ ?_; (· simp only [written_record]); refine Kept.record ?_ ?_; rotate_left;
          (· first | (dsimp only [prot]; done) | (dsimp only [prot]; (repeat' first | rfl | split); done)))
    | split | dsimp only | intro

theorem keeps_spendCredit {z0 : State} {s : State} (carried : Bool) (kp : Kept z0 s) : Kept z0 (spendCredit s carried) := by
  unfold spendCredit
  repeat' first
    | with_reducible assumption | with_reducible apply keeps_throttle
    | (refine Kept.written ?_ ?_; (· simp only [written_record]); refine Kept.record ?_ ?_; rotate_left;
          (· first | (dsimp only [prot]; done) | (dsimp only [prot]; (repeat' first | rfl | split); done)))
    | split | dsimp only | intro

theorem keeps_commitRecord {z0 : State} {s : State} (r : LRec) (b2 : Bool) (b3 : Bool) (kp : Kept z0 s) : Kept z0
    (commitRecord s r b2 b3) := by
  unfold commitRecord
  repeat' first
    | with_reducible assumption | with_reducible apply keeps_applyRecord | with_reducible apply keeps_clearZone
    | with_reducible apply keeps_spendCredit
    | (refine Kept.written ?_ ?_; (· simp only [written_record]); refine Kept.record ?_ ?_; rotate_left;
          (· first | (dsimp only [prot]; done) | (dsimp only [prot]; (repeat' first | rfl | split); done)))
    | dsimp only | intro

theorem keeps_commitNow {z0 : State} {s : State} (p : LPayload) (kp : Kept z0 s) : Kept z0 (commitNow s p) := by
  unfold commitNow
  repeat' first
    | with_reducible assumption | with_reducible apply keeps_applyRecord | with_reducible apply keeps_clearZone
    | (refine Kept.written ?_ ?_; (· simp only [written_record]); refine Kept.record ?_ ?_; rotate_left;
          (· first | (dsimp only [prot]; done) | (dsimp only [prot]; (repeat' first | rfl | split); done)))
    | dsimp only | intro

theorem keeps_emergencyWrite {z0 s : State} (r : AuditRec) (h : Kept z0 s) : Kept z0 (emergencyWrite s r) := by
  unfold emergencyWrite
  refine keeps_notifyManager _ (h.trans ⟨rfl, rfl, ⟨id, id, fun _ => rfl, Nat.min_le_right _ _, Nat.le_refl _⟩, fun _ =>
      Nat.le_refl _, fun l => ?_⟩)
  exact ⟨⟨l.1.1, l.1.2, l.1.3, l.1.4, l.1.5, l.1.6, l.1.7, l.1.8, l.1.9, l.1.10, l.1.11⟩, l.2, l.3, l.4⟩

theorem keeps_countOver {z0 : State} {s : State} (kp : Kept z0 s) : Kept z0 (countOver s) := by
  unfold countOver
  repeat' first
    | with_reducible assumption | with_reducible apply keeps_enqueue
    | (refine Kept.written ?_ ?_; (· simp only [written_record]); refine Kept.record ?_ ?_; rotate_left;
          (· first | (dsimp only [prot]; done) | (dsimp only [prot]; (repeat' first | rfl | split); done)))
    | split | dsimp only | intro

theorem keeps_placeAudit {z0 : State} {s : State} (r : AuditRec) (kp : Kept z0 s) : Kept z0 (placeAudit s r) := by
  unfold placeAudit
  repeat' first
    | with_reducible assumption | with_reducible apply keeps_countOver | with_reducible apply keeps_enqueue
    | with_reducible apply keeps_notifyManager
    | (refine Kept.written ?_ ?_; (· simp only [written_record]); refine Kept.record ?_ ?_; rotate_left;
          (· first | (dsimp only [prot]; done) | (dsimp only [prot]; (repeat' first | rfl | split); done)))
    | split | dsimp only | intro

theorem keeps_appendLog {z0 : State} {s : State} (code : Nat) (sl : Nat) (data : Bytes) (kp : Kept z0 s) : Kept z0
    (appendLog s code sl data) := by
  unfold appendLog
  repeat' first
    | with_reducible assumption | with_reducible apply keeps_emergencyWrite | with_reducible apply keeps_placeAudit
    | (refine Kept.written ?_ ?_; (· simp only [written_record]); refine Kept.record ?_ ?_; rotate_left;
          (· first | (dsimp only [prot]; done) | (dsimp only [prot]; (repeat' first | rfl | split); done)))
    | split | dsimp only | intro

theorem keeps_writeLog {z0 : State} {s : State} (code : Nat) (sl : Nat) (data : Bytes) (kp : Kept z0 s) : Kept z0 (writeLog
    s code sl data) := by
  unfold writeLog
  repeat' first
    | with_reducible assumption | with_reducible apply keeps_appendLog
    | (refine Kept.written ?_ ?_; (· simp only [written_record]); refine Kept.record ?_ ?_; rotate_left;
          (· first | (dsimp only [prot]; done) | (dsimp only [prot]; (repeat' first | rfl | split); done)))
    | split | dsimp only | intro

theorem keeps_latch {z0 : State} {s : State} (kind : Nat) (sensor : Nat) (kp : Kept z0 s) : Kept z0 (latch s kind sensor) := by
  unfold latch
  repeat' first
    | with_reducible assumption
    | (refine Kept.written ?_ ?_; (· simp only [written_record]); refine Kept.record ?_ ?_; rotate_left;
          (· first | (dsimp only [prot]; done) | (dsimp only [prot]; (repeat' first | rfl | split); done)))
    | split | dsimp only | intro

theorem keeps_updCad {z0 : State} {s : State} (r : Nat) (f : Cadence → Cadence) (kp : Kept z0 s) : Kept z0 (updCad s r f) := by
  unfold updCad
  repeat' first
    | with_reducible assumption | with_reducible apply keeps_updRing
    | (refine Kept.written ?_ ?_; (· simp only [written_record]); refine Kept.record ?_ ?_; rotate_left;
          (· first | (dsimp only [prot]; done) | (dsimp only [prot]; (repeat' first | rfl | split); done)))
    | dsimp only | intro

theorem keeps_openPeriod {z0 : State} {s : State} (r : Nat) (b : Nat) (kp : Kept z0 s) : Kept z0 (openPeriod s r b) := by
  unfold openPeriod
  repeat' first | with_reducible assumption | with_reducible apply keeps_updRing | dsimp only | intro

theorem keeps_logLost {z0 : State} {s : State} (r : Nat) (m : Nat) (kp : Kept z0 s) : Kept z0 (logLost s r m) := by
  unfold logLost
  repeat' first | with_reducible assumption | with_reducible apply keeps_writeLog | dsimp only | intro

theorem keeps_openOnGrid {z0 : State} {s : State} (r : Nat) (m : Nat) (kp : Kept z0 s) : Kept z0 (openOnGrid s r m) := by
  unfold openOnGrid
  repeat' first
    | with_reducible assumption | with_reducible apply keeps_openPeriod | with_reducible apply keeps_updCad
    | (refine Kept.written ?_ ?_; (· simp only [written_record]); refine Kept.record ?_ ?_; rotate_left;
          (· first | (dsimp only [prot]; done) | (dsimp only [prot]; (repeat' first | rfl | split); done)))
    | split | dsimp only | intro

theorem keeps_rejoinGrid {z0 : State} {s : State} (r : Nat) (kp : Kept z0 s) : Kept z0 (rejoinGrid s r) := by
  unfold rejoinGrid
  repeat' first
    | with_reducible assumption | with_reducible apply keeps_logLost | with_reducible apply keeps_openOnGrid | dsimp only
    | intro

theorem keeps_lateWorkDone {z0 : State} {s : State} (r : Nat) (kp : Kept z0 s) : Kept z0 (lateWorkDone s r) := by
  unfold lateWorkDone
  repeat' first
    | with_reducible assumption | with_reducible apply keeps_openOnGrid | with_reducible apply keeps_openPeriod
    | with_reducible apply keeps_rejoinGrid | with_reducible apply keeps_updCad
    | (refine Kept.written ?_ ?_; (· simp only [written_record]); refine Kept.record ?_ ?_; rotate_left;
          (· first | (dsimp only [prot]; done) | (dsimp only [prot]; (repeat' first | rfl | split); done)))
    | split | dsimp only | intro

theorem keeps_stopCadence {z0 : State} {s : State} (r : Nat) (kp : Kept z0 s) : Kept z0 (stopCadence s r) := by
  unfold stopCadence
  repeat' first
    | with_reducible assumption | with_reducible apply keeps_updCad
    | (refine Kept.written ?_ ?_; (· simp only [written_record]); refine Kept.record ?_ ?_; rotate_left;
          (· first | (dsimp only [prot]; done) | (dsimp only [prot]; (repeat' first | rfl | split); done)))
    | dsimp only | intro

theorem keeps_reportLost {z0 : State} {s : State} (r : Nat) (kp : Kept z0 s) : Kept z0 (reportLost s r) := by
  unfold reportLost
  repeat' first
    | with_reducible assumption | with_reducible apply keeps_notifyManager | with_reducible apply keeps_updCad
    | (refine Kept.written ?_ ?_; (· simp only [written_record]); refine Kept.record ?_ ?_; rotate_left;
          (· first | (dsimp only [prot]; done) | (dsimp only [prot]; (repeat' first | rfl | split); done)))
    | dsimp only | intro

theorem keeps_sequencer {z0 : State} {s : State} (r : Nat) (kp : Kept z0 s) : Kept z0 (sequencer s r) := by
  unfold sequencer
  repeat' first
    | with_reducible assumption | with_reducible apply keeps_request | with_reducible apply keeps_setJob
    | (refine Kept.written ?_ ?_; (· simp only [written_record]); refine Kept.record ?_ ?_; rotate_left;
          (· first | (dsimp only [prot]; done) | (dsimp only [prot]; (repeat' first | rfl | split); done)))
    | split | dsimp only | intro

theorem keeps_writeBody {z0 : State} {s : State} (j : Job) (kp : Kept z0 s) : Kept z0 (writeBody s j) := by
  unfold writeBody
  repeat' first
    | with_reducible assumption | with_reducible apply keeps_request | with_reducible apply keeps_setJob
    | (refine Kept.written ?_ ?_; (· simp only [written_record]); refine Kept.record ?_ ?_; rotate_left;
          (· first | (dsimp only [prot]; done) | (dsimp only [prot]; (repeat' first | rfl | split); done)))
    | dsimp only | intro

theorem keeps_writeHead {z0 : State} {s : State} (j : Job) (kp : Kept z0 s) : Kept z0 (writeHead s j) := by
  unfold writeHead
  repeat' first
    | with_reducible assumption | with_reducible apply keeps_request | with_reducible apply keeps_setJob
    | with_reducible apply keeps_writeBody
    | (refine Kept.written ?_ ?_; (· simp only [written_record]); refine Kept.record ?_ ?_; rotate_left;
          (· first | (dsimp only [prot]; done) | (dsimp only [prot]; (repeat' first | rfl | split); done)))
    | split | dsimp only | intro

theorem keeps_returnBuffer {z0 : State} {s : State} (r : Nat) (b : Option Nat) (kp : Kept z0 s) : Kept z0 (returnBuffer s r
    b) := by
  unfold returnBuffer
  repeat' first
    | with_reducible assumption | with_reducible apply keeps_setPool
    | (refine Kept.written ?_ ?_; (· simp only [written_record]); refine Kept.record ?_ ?_; rotate_left;
          (· first | (dsimp only [prot]; done) | (dsimp only [prot]; (repeat' first | rfl | split); done)))
    | split | dsimp only | intro

theorem keeps_dropIdlePools {z0 : State} {s : State} (kp : Kept z0 s) : Kept z0 (dropIdlePools s) := by
  unfold dropIdlePools
  repeat' first
    | with_reducible assumption
    | (refine Kept.written ?_ ?_; (· simp only [written_record]); refine Kept.record ?_ ?_; rotate_left;
          (· first | (dsimp only [prot]; done) | (dsimp only [prot]; (repeat' first | rfl | split); done)))
    | dsimp only | intro

theorem keeps_offerNotice {z0 : State} {s : State} (r : Nat) (kp : Kept z0 s) : Kept z0 (offerNotice s r) := by
  unfold offerNotice
  repeat' first
    | with_reducible assumption | with_reducible apply keeps_setLink | with_reducible apply keeps_updSlice
    | (refine Kept.written ?_ ?_; (· simp only [written_record]); refine Kept.record ?_ ?_; rotate_left;
          (· first | (dsimp only [prot]; done) | (dsimp only [prot]; (repeat' first | rfl | split); done)))
    | split | dsimp only | intro

theorem keeps_announce {z0 : State} {s : State} (r : Nat) (kp : Kept z0 s) : Kept z0 (announce s r) := by
  unfold announce
  repeat' first
    | with_reducible assumption | with_reducible apply keeps_updRing | with_reducible apply keeps_writeBack
    | (refine Kept.written ?_ ?_; (· simp only [written_record]); refine Kept.record ?_ ?_; rotate_left;
          (· first | (dsimp only [prot]; done) | (dsimp only [prot]; (repeat' first | rfl | split); done)))
    | split | dsimp only | intro

theorem keeps_sendMessage {z0 : State} {s : State} (r : Nat) (kp : Kept z0 s) : Kept z0 (sendMessage s r) := by
  unfold sendMessage
  repeat' first
    | with_reducible assumption | with_reducible apply keeps_notifyManager | with_reducible apply keeps_offerNotice
    | with_reducible apply keeps_pendVector | with_reducible apply keeps_pumpVectors | with_reducible apply keeps_updRing
    | (refine Kept.written ?_ ?_; (· simp only [written_record]); refine Kept.record ?_ ?_; rotate_left;
          (· first | (dsimp only [prot]; done) | (dsimp only [prot]; (repeat' first | rfl | split); done)))
    | split | dsimp only | intro

theorem keeps_coalesce {z0 : State} {s : State} (r : Nat) (kp : Kept z0 s) : Kept z0 (coalesce s r) := by
  unfold coalesce
  repeat' first | with_reducible assumption | with_reducible apply keeps_announce | split | dsimp only | intro

theorem keeps_serveEntries {z0 : State} {s : State} (kp : Kept z0 s) : Kept z0 (serveEntries s) := by
  unfold serveEntries
  repeat' first
    | with_reducible assumption
    | (refine Kept.written ?_ ?_; (· simp only [written_record]); refine Kept.record ?_ ?_; rotate_left;
          (· first | (dsimp only [prot]; done) | (dsimp only [prot]; (repeat' first | rfl | split); done)))
    | dsimp only | intro

theorem keeps_fetchNext {z0 : State} {s : State} (r : Nat) (kp : Kept z0 s) : Kept z0 (fetchNext s r) := by
  unfold fetchNext
  repeat' first
    | with_reducible assumption | with_reducible apply keeps_request | with_reducible apply keeps_updRing
    | (refine Kept.written ?_ ?_; (· simp only [written_record]); refine Kept.record ?_ ?_; rotate_left;
          (· first | (dsimp only [prot]; done) | (dsimp only [prot]; (repeat' first | rfl | split); done)))
    | split | dsimp only | intro

theorem keeps_giveOwed {z0 : State} {s : State} (r : Nat) (kp : Kept z0 s) : Kept z0 (giveOwed s r) := by
  unfold giveOwed
  repeat' first
    | with_reducible assumption | with_reducible apply keeps_setJob | with_reducible apply keeps_updRing
    | (refine Kept.written ?_ ?_; (· simp only [written_record]); refine Kept.record ?_ ?_; rotate_left;
          (· first | (dsimp only [prot]; done) | (dsimp only [prot]; (repeat' first | rfl | split); done)))
    | split | dsimp only | intro

theorem keeps_seekBuffer {z0 : State} {s : State} (r : Nat) (kp : Kept z0 s) : Kept z0 (seekBuffer s r) := by
  unfold seekBuffer
  repeat' first
    | with_reducible assumption | with_reducible apply keeps_request | with_reducible apply keeps_setPool
    | with_reducible apply keeps_updRing
    | (refine Kept.written ?_ ?_; (· simp only [written_record]); refine Kept.record ?_ ?_; rotate_left;
          (· first | (dsimp only [prot]; done) | (dsimp only [prot]; (repeat' first | rfl | split); done)))
    | split | dsimp only | intro

theorem keeps_serveOwed {z0 : State} : ∀ (n : Nat) {s : State} (r : Nat), Kept z0 s → Kept z0 (serveOwed n s r)
  | 0, _, _, h => h
  | n + 1, s, r, h => by
    have k := keeps_seekBuffer r (keeps_giveOwed r h)
    unfold serveOwed
    dsimp only
    split
    · split
      · exact k
      · exact keeps_serveOwed n r k
    · exact keeps_giveOwed r h

theorem keeps_fetchTurn {z0 : State} {s : State} (r : Nat) (kp : Kept z0 s) : Kept z0 (fetchTurn s r) := by
  unfold fetchTurn
  repeat' first
    | with_reducible assumption | with_reducible apply keeps_fetchNext | with_reducible apply keeps_seekBuffer
    | with_reducible apply keeps_serveEntries | with_reducible apply keeps_serveOwed
    | with_reducible refine keepsE_serveOwed (by assumption) ?_ | split | dsimp only | intro

theorem keeps_fetchPump {z0 : State} {s : State} (kp : Kept z0 s) : Kept z0 (fetchPump s) := by
  unfold fetchPump
  repeat' first
    | with_reducible assumption | with_reducible apply keeps_fetchTurn
    | with_reducible refine Kept.foldl (fun _ _ _ => ?_) _ ?_ | dsimp only | intro

theorem keeps_drainRead {z0 : State} {s : State} (r : Nat) (kp : Kept z0 s) : Kept z0 (drainRead s r) := by
  unfold drainRead
  repeat' first
    | with_reducible assumption | with_reducible apply keeps_readDoorbell | with_reducible apply keeps_updRing
    | (refine Kept.written ?_ ?_; (· simp only [written_record]); refine Kept.record ?_ ?_; rotate_left;
          (· first | (dsimp only [prot]; done) | (dsimp only [prot]; (repeat' first | rfl | split); done)))
    | split | dsimp only | intro

theorem keeps_settleFault {z0 : State} {s : State} (sl : Nat) (kp : Kept z0 s) : Kept z0 (settleFault s sl) := by
  unfold settleFault
  repeat' first
    | with_reducible assumption | with_reducible apply keeps_notifyManager | with_reducible apply keeps_updSlice
    | with_reducible apply keeps_writeLog
    | (refine Kept.written ?_ ?_; (· simp only [written_record]); refine Kept.record ?_ ?_; rotate_left;
          (· first | (dsimp only [prot]; done) | (dsimp only [prot]; (repeat' first | rfl | split); done)))
    | split | dsimp only | intro

theorem keeps_release {z0 : State} {s : State} (j : Job) (kp : Kept z0 s) : Kept z0 (release s j) := by
  unfold release
  repeat' first
    | with_reducible assumption | with_reducible apply keeps_coalesce | with_reducible apply keeps_drainRead
    | with_reducible apply keeps_dropJob | with_reducible apply keeps_fetchPump | with_reducible apply keeps_lateWorkDone
    | with_reducible apply keeps_recovered | with_reducible apply keeps_returnBuffer | with_reducible apply keeps_sequencer
    | with_reducible apply keeps_settleFault | with_reducible apply keeps_updRing
    | (refine Kept.written ?_ ?_; (· simp only [written_record]); refine Kept.record ?_ ?_; rotate_left;
          (· first | (dsimp only [prot]; done) | (dsimp only [prot]; (repeat' first | rfl | split); done)))
    | split | dsimp only | intro

theorem keeps_endJob {z0 : State} {s : State} (j : Job) (kp : Kept z0 s) : Kept z0 (endJob s j) := by
  unfold endJob
  repeat' first
    | with_reducible assumption | with_reducible apply keeps_freeParts | with_reducible apply keeps_sequencer
    | with_reducible apply keeps_setJob
    | (refine Kept.written ?_ ?_; (· simp only [written_record]); refine Kept.record ?_ ?_; rotate_left;
          (· first | (dsimp only [prot]; done) | (dsimp only [prot]; (repeat' first | rfl | split); done)))
    | dsimp only | intro

theorem keeps_endWith {z0 : State} {s : State} (j : Job) (e : Ending) (kp : Kept z0 s) : Kept z0 (endWith s j e) := by
  unfold endWith
  repeat' first
    | with_reducible assumption | with_reducible apply keeps_endJob
    | (refine Kept.written ?_ ?_; (· simp only [written_record]); refine Kept.record ?_ ?_; rotate_left;
          (· first | (dsimp only [prot]; done) | (dsimp only [prot]; (repeat' first | rfl | split); done)))
    | dsimp only | intro

theorem keeps_failStep {z0 : State} {s : State} (j : Job) (e : Ending) (kp : Kept z0 s) : Kept z0 (failStep s j e) := by
  unfold failStep
  repeat' first
    | with_reducible assumption | with_reducible apply keeps_endJob
    | (refine Kept.written ?_ ?_; (· simp only [written_record]); refine Kept.record ?_ ?_; rotate_left;
          (· first | (dsimp only [prot]; done) | (dsimp only [prot]; (repeat' first | rfl | split); done)))
    | dsimp only | intro

theorem keeps_setSource {z0 : State} {s : State} (n : Nat) (x : Source) (kp : Kept z0 s) : Kept z0 (setSource s n x) := by
  unfold setSource
  repeat' first
    | with_reducible assumption
    | (refine Kept.written ?_ ?_; (· simp only [written_record]); refine Kept.record ?_ ?_; rotate_left;
          (· first | (dsimp only [prot]; done) | (dsimp only [prot]; (repeat' first | rfl | split); done)))
    | dsimp only | intro

theorem keeps_absorbGroup {z0 : State} {s : State} (kp : Kept z0 s) : Kept z0 (absorbGroup s) := by
  unfold absorbGroup
  repeat' first
    | with_reducible assumption | with_reducible apply keeps_setSource
    | (refine Kept.written ?_ ?_; (· simp only [written_record]); refine Kept.record ?_ ?_; rotate_left;
          (· first | (dsimp only [prot]; done) | (dsimp only [prot]; (repeat' first | rfl | split); done)))
    | split | dsimp only | intro

theorem keeps_absorbGroups {z0 : State} : ∀ (n : Nat) {s : State}, Kept z0 s → Kept z0 (absorbGroups n s)
  | 0, _, h => h
  | n + 1, s, h => by
    unfold absorbGroups
    exact keeps_absorbGroups n (keeps_absorbGroup h)

theorem keeps_finishBlock {z0 : State} {s : State} (kp : Kept z0 s) : Kept z0 (finishBlock s) := by
  unfold finishBlock
  repeat' first
    | with_reducible assumption | with_reducible apply keeps_absorbGroups
    | with_reducible refine keepsE_absorbGroups (by assumption) ?_
    | (refine Kept.written ?_ ?_; (· simp only [written_record]); refine Kept.record ?_ ?_; rotate_left;
          (· first | (dsimp only [prot]; done) | (dsimp only [prot]; (repeat' first | rfl | split); done)))
    | dsimp only | intro

theorem keeps_conditionedSoFar {z0 : State} {s : State} (kp : Kept z0 s) : Kept z0 (conditionedSoFar s) := by
  unfold conditionedSoFar
  repeat' first
    | with_reducible assumption | with_reducible apply keeps_absorbGroups
    | with_reducible refine keepsE_absorbGroups (by assumption) ?_ | with_reducible apply keeps_draw
    | with_reducible refine keepsE_draw (by assumption) ?_ | split | dsimp only | intro

theorem keeps_discardSource {z0 : State} {s : State} (n : Nat) (kp : Kept z0 s) : Kept z0 (discardSource s n) := by
  unfold discardSource
  repeat' first
    | with_reducible assumption | with_reducible apply keeps_conditionedSoFar | with_reducible apply keeps_setSource
    | (refine Kept.written ?_ ?_; (· simp only [written_record]); refine Kept.record ?_ ?_; rotate_left;
          (· first | (dsimp only [prot]; done) | (dsimp only [prot]; (repeat' first | rfl | split); done)))
    | split | dsimp only | intro

theorem keeps_dropBlocks {z0 : State} {s : State} (kp : Kept z0 s) : Kept z0 (dropBlocks s) := by
  unfold dropBlocks
  repeat' first
    | with_reducible assumption
    | (refine Kept.written ?_ ?_; (· simp only [written_record]); refine Kept.record ?_ ?_; rotate_left;
          (· first | (dsimp only [prot]; done) | (dsimp only [prot]; (repeat' first | rfl | split); done)))
    | dsimp only | intro

theorem keeps_setDrbg {z0 : State} {s : State} (n : Nat) (d : Drbg) (kp : Kept z0 s) : Kept z0 (setDrbg s n d) := by
  unfold setDrbg
  repeat' first
    | with_reducible assumption
    | (refine Kept.written ?_ ?_; (· simp only [written_record]); refine Kept.record ?_ ?_; rotate_left;
          (· first | (dsimp only [prot]; done) | (dsimp only [prot]; (repeat' first | rfl | split); done)))
    | dsimp only | intro

theorem keeps_wipeDrbg {z0 : State} {s : State} (n : Nat) (kp : Kept z0 s) : Kept z0 (wipeDrbg s n) := by
  unfold wipeDrbg
  repeat' first | with_reducible assumption | with_reducible apply keeps_setDrbg | dsimp only | intro

theorem keeps_wipeAllDrbgs {z0 : State} {s : State} (kp : Kept z0 s) : Kept z0 (wipeAllDrbgs s) := by
  unfold wipeAllDrbgs
  repeat' first
    | with_reducible assumption
    | (refine Kept.written ?_ ?_; (· simp only [written_record]); refine Kept.record ?_ ?_; rotate_left;
          (· first | (dsimp only [prot]; done) | (dsimp only [prot]; (repeat' first | rfl | split); done)))
    | dsimp only | intro

theorem keeps_askSerials {z0 : State} {s : State} (kp : Kept z0 s) : Kept z0 (askSerials s) := by
  unfold askSerials
  repeat' first | with_reducible assumption | with_reducible apply keeps_enqueue | split | dsimp only | intro

theorem keeps_seedFrom {z0 : State} {s : State} (n : Nat) (extra : Bytes) (kp : Kept z0 s) : Kept z0 (seedFrom s n extra) := by
  unfold seedFrom
  repeat' first
    | with_reducible assumption | with_reducible apply keeps_setDrbg
    | (refine Kept.written ?_ ?_; (· simp only [written_record]); refine Kept.record ?_ ?_; rotate_left;
          (· first | (dsimp only [prot]; done) | (dsimp only [prot]; (repeat' first | rfl | split); done)))
    | split | dsimp only | intro

theorem keeps_reseedIfDue {z0 : State} {s : State} (kp : Kept z0 s) : Kept z0 (reseedIfDue s) := by
  unfold reseedIfDue
  repeat' first
    | with_reducible assumption | with_reducible apply keeps_seedFrom
    | (refine Kept.written ?_ ?_; (· simp only [written_record]); refine Kept.record ?_ ?_; rotate_left;
          (· first | (dsimp only [prot]; done) | (dsimp only [prot]; (repeat' first | rfl | split); done)))
    | split | dsimp only | intro

theorem keeps_drawRandom {z0 : State} {s : State} (kp : Kept z0 s) : Kept z0 (drawRandom s).2 := by
  unfold drawRandom
  repeat' first
    | with_reducible assumption | with_reducible apply keeps_reseedIfDue | with_reducible apply keeps_setDrbg | dsimp only
    | intro

theorem keepsE_drawRandom {z0 : State} {s : State} {v z1} (he : drawRandom s = (v, z1)) (kp : Kept z0 s) : Kept z0 z1 := by
  have h9 := keeps_drawRandom (kp := kp)
  rw [he] at h9; exact h9

theorem keeps_drawMany {z0 : State} {s : State} (k : Nat) (kp : Kept z0 s) : Kept z0 (drawMany s k).2 := by
  unfold drawMany
  repeat' first
    | with_reducible assumption | with_reducible apply keeps_reseedIfDue | with_reducible apply keeps_setDrbg | dsimp only
    | intro

theorem keepsE_drawMany {z0 : State} {s : State} {k : Nat} {v z1} (he : drawMany s k = (v, z1)) (kp : Kept z0 s) : Kept z0
    z1 := by
  have h9 := keeps_drawMany (k := k) (kp := kp)
  rw [he] at h9; exact h9

theorem keeps_eraseData {z0 : State} {s : State} (n : Nat) (kp : Kept z0 s) : Kept z0 (eraseData s n).2 := by
  unfold eraseData
  repeat' first
    | with_reducible assumption | with_reducible apply keeps_draw | with_reducible refine keepsE_draw (by assumption) ?_
    | with_reducible apply keeps_drawRandom | with_reducible refine keepsE_drawRandom (by assumption) ?_ | split | dsimp only
    | intro

theorem keepsE_eraseData {z0 : State} {s : State} {n : Nat} {v z1} (he : eraseData s n = (v, z1)) (kp : Kept z0 s) : Kept
    z0 z1 := by
  have h9 := keeps_eraseData (n := n) (kp := kp)
  rw [he] at h9; exact h9

theorem keeps_writeRoot {z0 : State} {s : State} (r : Bytes) (kp : Kept z0 s) : Kept z0 (writeRoot s r) := by
  unfold writeRoot
  repeat' first
    | with_reducible assumption
    | (refine Kept.written ?_ ?_; (· simp only [written_record]); refine Kept.record ?_ ?_; rotate_left;
          (· first | (dsimp only [prot]; done) | (dsimp only [prot]; (repeat' first | rfl | split); done)))
    | dsimp only | intro

theorem keeps_loadRegisters {z0 : State} {s : State} (root : Bytes) (kp : Kept z0 s) : Kept z0 (loadRegisters s root) := by
  unfold loadRegisters
  repeat' first
    | with_reducible assumption
    | (refine Kept.written ?_ ?_; (· simp only [written_record]); refine Kept.record ?_ ?_; rotate_left;
          (· first | (dsimp only [prot]; done) | (dsimp only [prot]; (repeat' first | rfl | split); done)))
    | dsimp only | intro

theorem keeps_wipeRegisters {z0 : State} {s : State} (kp : Kept z0 s) : Kept z0 (wipeRegisters s) := by
  unfold wipeRegisters
  repeat' first
    | with_reducible assumption
    | (refine Kept.written ?_ ?_; (· simp only [written_record]); refine Kept.record ?_ ?_; rotate_left;
          (· first | (dsimp only [prot]; done) | (dsimp only [prot]; (repeat' first | rfl | split); done)))
    | dsimp only | intro

theorem keeps_putKey {z0 : State} {s : State} (k : Key) (kp : Kept z0 s) : Kept z0 (putKey s k) := by
  unfold putKey
  repeat' first
    | with_reducible assumption
    | (refine Kept.written ?_ ?_; (· simp only [written_record]); refine Kept.record ?_ ?_; rotate_left;
          (· first | (dsimp only [prot]; done) | (dsimp only [prot]; (repeat' first | rfl | split); done)))
    | dsimp only | intro

theorem keeps_putTagged {z0 : State} {s : State} (k : Key) (kp : Kept z0 s) : Kept z0 (putTagged s k) := by
  unfold putTagged
  repeat' first
    | with_reducible assumption | with_reducible apply keeps_putKey
    | (refine Kept.written ?_ ?_; (· simp only [written_record]); refine Kept.record ?_ ?_; rotate_left;
          (· first | (dsimp only [prot]; done) | (dsimp only [prot]; (repeat' first | rfl | split); done)))
    | dsimp only | intro

theorem keeps_dropHmac {z0 : State} {s : State} (slot : Nat) (kp : Kept z0 s) : Kept z0 (dropHmac s slot) := by
  unfold dropHmac
  repeat' first
    | with_reducible assumption
    | (refine Kept.written ?_ ?_; (· simp only [written_record]); refine Kept.record ?_ ?_; rotate_left;
          (· first | (dsimp only [prot]; done) | (dsimp only [prot]; (repeat' first | rfl | split); done)))
    | dsimp only | intro

theorem keeps_dropKey {z0 : State} {s : State} (slot : Nat) (kp : Kept z0 s) : Kept z0 (dropKey s slot) := by
  unfold dropKey
  repeat' first
    | with_reducible assumption | with_reducible apply keeps_dropHmac
    | (refine Kept.written ?_ ?_; (· simp only [written_record]); refine Kept.record ?_ ?_; rotate_left;
          (· first | (dsimp only [prot]; done) | (dsimp only [prot]; (repeat' first | rfl | split); done)))
    | dsimp only | intro

theorem keeps_evictUntil {z0 : State} (ok : State → Bool) : ∀ (l : List Nat) {s : State}, Kept z0 s → Kept z0 (evictUntil ok
    l s)
  | [], _, h => h
  | n :: r, s, h => by
    unfold evictUntil
    split
    · exact h
    · exact keeps_evictUntil ok r (keeps_dropKey n h)

theorem keeps_makeRoom {z0 s : State} (sl span : Nat) (kp : Kept z0 s) : KeptOptSnd z0 (makeRoom s sl span) := by
  have step : ∀ (f : State → Bool) (l : List Nat) (x : State), Kept z0 x → Kept z0 (if f x then x else evictUntil f l x) := by
    intro f l x hx
    split
    · exact hx
    · exact keeps_evictUntil f l hx
  unfold makeRoom
  extract_lets q s1 f s2
  have k1 : Kept z0 s1 := step q _ s kp
  have k2 : Kept z0 s2 := step f _ s1 k1
  clear_value s2 s1
  split
  · exact KeptOptSnd.none
  · split
    · exact KeptOptSnd.some (Kept.upd k2 (by dsimp only [prot]))
    · exact KeptOptSnd.none

theorem keepsE_makeRoom {z0 : State} {s : State} {sl : Nat} {span : Nat} {v z1} (he : makeRoom s sl span = some (v, z1))
    (kp : Kept z0 s) : Kept z0 z1 := by
  have h9 := keeps_makeRoom (sl := sl) (span := span) (kp := kp)
  rw [he] at h9; exact h9

theorem keeps_touchKey {z0 : State} {s : State} (slot : Nat) (kp : Kept z0 s) : Kept z0 (touchKey s slot) := by
  unfold touchKey
  repeat' first
    | with_reducible assumption
    | (refine Kept.written ?_ ?_; (· simp only [written_record]); refine Kept.record ?_ ?_; rotate_left;
          (· first | (dsimp only [prot]; done) | (dsimp only [prot]; (repeat' first | rfl | split); done)))
    | dsimp only | intro

theorem keeps_createVolatile {z0 s : State} (k : Key) (kp : Kept z0 s) : KeptOptSnd z0 (createVolatile s k) := by
  unfold createVolatile
  dsimp only
  split
  · exact KeptOptSnd.none
  · refine KeptOptSnd.some ?_
    refine keeps_touchKey _ (keeps_putTagged _ ?_)
    exact (keepsE_makeRoom (by assumption) kp).upd (by dsimp only [prot])

theorem keepsE_createVolatile {z0 : State} {s : State} {k : Key} {v z1} (he : createVolatile s k = some (v, z1)) (kp : Kept
    z0 s) : Kept z0 z1 := by
  have h9 := keeps_createVolatile (k := k) (kp := kp)
  rw [he] at h9; exact h9

theorem keeps_wipeSliceKeys {z0 : State} {s : State} (sl : Nat) (kp : Kept z0 s) : Kept z0 (wipeSliceKeys s sl) := by
  unfold wipeSliceKeys
  repeat' first
    | with_reducible assumption
    | (refine Kept.written ?_ ?_; (· simp only [written_record]); refine Kept.record ?_ ?_; rotate_left;
          (· first | (dsimp only [prot]; done) | (dsimp only [prot]; (repeat' first | rfl | split); done)))
    | dsimp only | intro

theorem keeps_wipeAllKeys {z0 : State} {s : State} (kp : Kept z0 s) : Kept z0 (wipeAllKeys s) := by
  unfold wipeAllKeys
  repeat' first
    | with_reducible assumption
    | (refine Kept.written ?_ ?_; (· simp only [written_record]); refine Kept.record ?_ ?_; rotate_left;
          (· first | (dsimp only [prot]; done) | (dsimp only [prot]; (repeat' first | rfl | split); done)))
    | dsimp only | intro

theorem keeps_setPeer {z0 : State} {s : State} (i : Nat) (p : Peer) (kp : Kept z0 s) : Kept z0 (setPeer s i p) := by
  unfold setPeer
  repeat' first
    | with_reducible assumption
    | (refine Kept.written ?_ ?_; (· simp only [written_record]); refine Kept.record ?_ ?_; rotate_left;
          (· first | (dsimp only [prot]; done) | (dsimp only [prot]; (repeat' first | rfl | split); done)))
    | dsimp only | intro

theorem keeps_mirrorVector {z0 : State} {s : State} (kp : Kept z0 s) : Kept z0 (mirrorVector s) := by
  unfold mirrorVector
  repeat' first
    | with_reducible assumption | with_reducible apply keeps_notifyManager
    | (refine Kept.written ?_ ?_; (· simp only [written_record]); refine Kept.record ?_ ?_; rotate_left;
          (· first | (dsimp only [prot]; done) | (dsimp only [prot]; (repeat' first | rfl | split); done)))
    | split | dsimp only | intro

theorem keeps_setMirror {z0 : State} {s : State} (x : MirSt) (kp : Kept z0 s) : Kept z0 (setMirror s x) := by
  unfold setMirror
  repeat' first
    | with_reducible assumption | with_reducible apply keeps_notifyManager
    | (refine Kept.written ?_ ?_; (· simp only [written_record]); refine Kept.record ?_ ?_; rotate_left;
          (· first | (dsimp only [prot]; done) | (dsimp only [prot]; (repeat' first | rfl | split); done)))
    | split | dsimp only | intro

theorem keeps_mirSend {z0 : State} {s : State} (dest : Nat) (type : Nat) (body : Bytes) (kp : Kept z0 s) : Kept z0 (mirSend
    s dest type body) := by
  unfold mirSend
  repeat' first
    | with_reducible assumption | with_reducible apply keeps_mirrorVector | with_reducible apply keeps_setPeer
    | (refine Kept.written ?_ ?_; (· simp only [written_record]); refine Kept.record ?_ ?_; rotate_left;
          (· first | (dsimp only [prot]; done) | (dsimp only [prot]; (repeat' first | rfl | split); done)))
    | split | dsimp only | intro

theorem keeps_skipBlocks {z0 : State} {s : State} (kp : Kept z0 s) : Kept z0 (skipBlocks s) := by
  unfold skipBlocks
  repeat' first
    | with_reducible assumption
    | (refine Kept.written ?_ ?_; (· simp only [written_record]); refine Kept.record ?_ ?_; rotate_left;
          (· first | (dsimp only [prot]; done) | (dsimp only [prot]; (repeat' first | rfl | split); done)))
    | dsimp only | intro

theorem keeps_leaveGroup {z0 : State} {s : State} (reason : Nat) (kp : Kept z0 s) : Kept z0 (leaveGroup s reason) := by
  unfold leaveGroup
  repeat' first
    | with_reducible assumption | with_reducible apply keeps_mirSend | with_reducible apply keeps_notifyManager
    | with_reducible apply keeps_skipBlocks | with_reducible refine Kept.foldl (fun _ _ _ => ?_) _ ?_
    | (refine Kept.written ?_ ?_; (· simp only [written_record]); refine Kept.record ?_ ?_; rotate_left;
          (· first | (dsimp only [prot]; done) | (dsimp only [prot]; (repeat' first | rfl | split); done)))
    | split | dsimp only | intro

theorem keeps_countWindow {z0 : State} {s : State} (sl : Nat) (kp : Kept z0 s) : Kept z0 (countWindow s sl) := by
  unfold countWindow
  repeat' first
    | with_reducible assumption | with_reducible apply keeps_updSlice
    | (refine Kept.written ?_ ?_; (· simp only [written_record]); refine Kept.record ?_ ?_; rotate_left;
          (· first | (dsimp only [prot]; done) | (dsimp only [prot]; (repeat' first | rfl | split); done)))
    | dsimp only | intro

theorem keeps_fetchFuel {z0 : State} : ∀ (f : Nat) {s : State} (id : Nat), Kept z0 s → Kept z0 (fetchFuel f s id)
  | 0, _, _, h => h
  | f + 1, s, id, h => by
    unfold fetchFuel
    repeat' first
      | with_reducible assumption | with_reducible apply keeps_endWith | with_reducible apply keeps_failStep
      | with_reducible apply keeps_setJob | with_reducible apply keeps_countWindow | with_reducible apply keeps_request
      | apply keeps_fetchFuel f | with_reducible refine Kept.foldl (fun _ _ _ => ?_) _ ?_
      | (refine Kept.written ?_ ?_; (· simp only [written_record]); refine Kept.record ?_ ?_; rotate_left;
          (· first | (dsimp only [prot]; done) | (dsimp only [prot]; (repeat' first | rfl | split); done)))
      | split | dsimp only | intro

theorem keeps_fetchOperands {z0 : State} {s : State} (id : Nat) (kp : Kept z0 s) : Kept z0 (fetchOperands s id) := by
  unfold fetchOperands
  repeat' first
    | with_reducible assumption | with_reducible apply keeps_fetchFuel
    | with_reducible refine keepsE_fetchFuel (by assumption) ?_ | dsimp only | intro

theorem keeps_takeOperand {z0 : State} {s : State} (id : Nat) (r : Range) (off : Nat) (data : Bytes) (kp : Kept z0 s) : Kept
    z0 (takeOperand s id r off data) := by
  unfold takeOperand
  repeat' first
    | with_reducible assumption | with_reducible apply keeps_fetchOperands | with_reducible apply keeps_updJob
    | (refine Kept.written ?_ ?_; (· simp only [written_record]); refine Kept.record ?_ ?_; rotate_left;
          (· first | (dsimp only [prot]; done) | (dsimp only [prot]; (repeat' first | rfl | split); done)))
    | split | dsimp only | intro

theorem keeps_badOperand {z0 : State} {s : State} (id : Nat) (e : Ending) (kp : Kept z0 s) : Kept z0 (badOperand s id e) := by
  unfold badOperand
  repeat' first
    | with_reducible assumption | with_reducible apply keeps_fetchOperands | with_reducible apply keeps_updJob
    | (refine Kept.written ?_ ?_; (· simp only [written_record]); refine Kept.record ?_ ?_; rotate_left;
          (· first | (dsimp only [prot]; done) | (dsimp only [prot]; (repeat' first | rfl | split); done)))
    | split | dsimp only | intro

theorem keeps_sinkOperands {z0 s : State} (id : Nat) (h : Kept z0 s) : Kept z0 (sinkOperands s id) := by
  unfold sinkOperands
  dsimp only
  refine Kept.requests (keeps_dropUnissued (fun p => match p with | .operand i _ _ => i == id | _ => false) h) rfl (fun hc k
      w => ?_)
  have e := hc k w
  unfold outstanding at *
  rw [List.countP_map]
  refine Nat.le_trans (Nat.le_of_eq (List.countP_congr (fun t _ => ?_))) e
  simp only [Function.comp]
  split <;> exact Iff.rfl

end Sys2Proof.Machine
end

