-- ==== Sys2Proof/Laws/KeptStore.lean ====
section
/-! SUPPORT. Frames: what the store, the pair buckets, the reserves and the alarm keep (`Kept`). -/
set_option linter.unusedSimpArgs false
set_option linter.unusedVariables false
namespace Sys2Proof.Machine

theorem keeps_storeIssue {z0 : State} {s : State} (a : Attach) (r : StoreReq) (kp : Kept z0 s) : Kept z0 (storeIssue s a r)
    := by
  unfold storeIssue
  repeat' first
    | with_reducible assumption | with_reducible apply keeps_request
    | (refine Kept.written ?_ ?_; (· simp only [written_record]); refine Kept.record ?_ ?_; rotate_left;
          (· first | (dsimp only [prot]; done) | (dsimp only [prot]; (repeat' first | rfl | split); done)))
    | split | dsimp only | intro

theorem keeps_storePumpList {z0 : State} (a : Attach) : ∀ (l : List StoreReq) {s : State}, Kept z0 s → Kept z0
    (storePumpList a l s)
  | [], _, h => h
  | r :: rest, s, h => by
    unfold storePumpList
    repeat' first
      | with_reducible assumption | with_reducible apply keeps_storeIssue | apply keeps_storePumpList a rest
      | with_reducible refine Kept.foldl (fun _ _ _ => ?_) _ ?_
      | (refine Kept.written ?_ ?_; (· simp only [written_record]); refine Kept.record ?_ ?_; rotate_left;
          (· first | (dsimp only [prot]; done) | (dsimp only [prot]; (repeat' first | rfl | split); done)))
      | split | dsimp only | intro

theorem keeps_storePump {z0 : State} {s : State} (kp : Kept z0 s) : Kept z0 (storePump s) := by
  unfold storePump
  repeat' first
    | with_reducible assumption | with_reducible apply keeps_storePumpList
    | with_reducible refine keepsE_storePumpList (by assumption) ?_
    | (refine Kept.written ?_ ?_; (· simp only [written_record]); refine Kept.record ?_ ?_; rotate_left;
          (· first | (dsimp only [prot]; done) | (dsimp only [prot]; (repeat' first | rfl | split); done)))
    | split | dsimp only | intro

theorem keeps_sealWant {z0 : State} {s : State} (ts : List SealTask) (kp : Kept z0 s) : Kept z0 (sealWant s ts) := by
  unfold sealWant
  repeat' first
    | with_reducible assumption
    | (refine Kept.written ?_ ?_; (· simp only [written_record]); refine Kept.record ?_ ?_; rotate_left;
          (· first | (dsimp only [prot]; done) | (dsimp only [prot]; (repeat' first | rfl | split); done)))
    | dsimp only | intro

theorem keeps_dropSeals {z0 : State} {s : State} (f : SealTask → Bool) (kp : Kept z0 s) : Kept z0 (dropSeals s f) := by
  unfold dropSeals
  repeat' first
    | with_reducible assumption
    | (refine Kept.written ?_ ?_; (· simp only [written_record]); refine Kept.record ?_ ?_; rotate_left;
          (· first | (dsimp only [prot]; done) | (dsimp only [prot]; (repeat' first | rfl | split); done)))
    | split | dsimp only | intro

theorem keeps_abandonSeal {z0 : State} {s : State} (n : Nat) (kp : Kept z0 s) : Kept z0 (abandonSeal s n) := by
  unfold abandonSeal
  repeat' first
    | with_reducible assumption
    | (refine Kept.written ?_ ?_; (· simp only [written_record]); refine Kept.record ?_ ?_; rotate_left;
          (· first | (dsimp only [prot]; done) | (dsimp only [prot]; (repeat' first | rfl | split); done)))
    | split | dsimp only | intro

theorem keeps_haltSeals {z0 : State} {s : State} (kp : Kept z0 s) : Kept z0 (haltSeals s) := by
  unfold haltSeals
  repeat' first
    | with_reducible assumption | with_reducible apply keeps_abandonSeal | with_reducible apply keeps_updPart
    | with_reducible refine Kept.foldl (fun _ _ _ => ?_) _ ?_
    | (refine Kept.written ?_ ?_; (· simp only [written_record]); refine Kept.record ?_ ?_; rotate_left;
          (· first | (dsimp only [prot]; done) | (dsimp only [prot]; (repeat' first | rfl | split); done)))
    | dsimp only | intro

theorem keeps_storeWant {z0 : State} {s : State} (rs : List StoreReq) (kp : Kept z0 s) : Kept z0 (storeWant s rs) := by
  unfold storeWant
  repeat' first
    | with_reducible assumption | with_reducible apply keeps_storePump
    | (refine Kept.written ?_ ?_; (· simp only [written_record]); refine Kept.record ?_ ?_; rotate_left;
          (· first | (dsimp only [prot]; done) | (dsimp only [prot]; (repeat' first | rfl | split); done)))
    | dsimp only | intro

theorem keeps_storeIndices {z0 : State} {s : State} (rid : Nat) (kp : Kept z0 s) : Kept z0 (storeIndices s rid) := by
  unfold storeIndices
  repeat' first
    | with_reducible assumption | with_reducible apply keeps_request
    | (refine Kept.written ?_ ?_; (· simp only [written_record]); refine Kept.record ?_ ?_; rotate_left;
          (· first | (dsimp only [prot]; done) | (dsimp only [prot]; (repeat' first | rfl | split); done)))
    | split | dsimp only | intro

theorem keeps_storeMessage {z0 : State} {s : State} (kp : Kept z0 s) : Kept z0 (storeMessage s) := by
  unfold storeMessage
  repeat' first
    | with_reducible assumption | with_reducible apply keeps_notifyManager
    | (refine Kept.written ?_ ?_; (· simp only [written_record]); refine Kept.record ?_ ?_; rotate_left;
          (· first | (dsimp only [prot]; done) | (dsimp only [prot]; (repeat' first | rfl | split); done)))
    | split | dsimp only | intro

theorem keeps_loadObject {z0 : State} {s : State} (o : Nat) (e : Entry) (kp : Kept z0 s) : Kept z0 (loadObject s o e).2 := by
  unfold loadObject
  repeat' first
    | with_reducible assumption | with_reducible apply keeps_storeWant
    | (refine Kept.written ?_ ?_; (· simp only [written_record]); refine Kept.record ?_ ?_; rotate_left;
          (· first | (dsimp only [prot]; done) | (dsimp only [prot]; (repeat' first | rfl | split); done)))
    | split | dsimp only | intro

theorem keepsE_loadObject {z0 : State} {s : State} {o : Nat} {e : Entry} {v z1} (he : loadObject s o e = (v, z1)) (kp :
    Kept z0 s) : Kept z0 z1 := by
  have h9 := keeps_loadObject (o := o) (e := e) (kp := kp)
  rw [he] at h9; exact h9

theorem keeps_touchPath {z0 : State} {s : State} (i : Nat) (kp : Kept z0 s) : Kept z0 (touchPath s i) := by
  unfold touchPath
  repeat' first
    | with_reducible assumption
    | (refine Kept.written ?_ ?_; (· simp only [written_record]); refine Kept.record ?_ ?_; rotate_left;
          (· first | (dsimp only [prot]; done) | (dsimp only [prot]; (repeat' first | rfl | split); done)))
    | dsimp only | intro

theorem keeps_storeRead {z0 : State} {s : State} (i : Nat) (kp : Kept z0 s) : Kept z0 (storeRead s i).2 := by
  unfold storeRead
  repeat' first
    | with_reducible assumption | with_reducible apply keeps_loadObject
    | with_reducible refine keepsE_loadObject (by assumption) ?_ | with_reducible apply keeps_touchPath
    | (refine Kept.written ?_ ?_; (· simp only [written_record]); refine Kept.record ?_ ?_; rotate_left;
          (· first | (dsimp only [prot]; done) | (dsimp only [prot]; (repeat' first | rfl | split); done)))
    | split | dsimp only | intro

theorem keepsE_storeRead {z0 : State} {s : State} {i : Nat} {v z1} (he : storeRead s i = (v, z1)) (kp : Kept z0 s) : Kept
    z0 z1 := by
  have h9 := keeps_storeRead (i := i) (kp := kp)
  rw [he] at h9; exact h9

theorem keeps_loadPath {z0 : State} {s : State} (i : Nat) (kp : Kept z0 s) : Kept z0 (loadPath s i).2 := by
  unfold loadPath
  repeat' first
    | with_reducible assumption | with_reducible apply keeps_loadObject
    | with_reducible refine keepsE_loadObject (by assumption) ?_ | with_reducible apply keeps_touchPath
    | (refine Kept.written ?_ ?_; (· simp only [written_record]); refine Kept.record ?_ ?_; rotate_left;
          (· first | (dsimp only [prot]; done) | (dsimp only [prot]; (repeat' first | rfl | split); done)))
    | split | dsimp only | intro

theorem keepsE_loadPath {z0 : State} {s : State} {i : Nat} {v z1} (he : loadPath s i = (v, z1)) (kp : Kept z0 s) : Kept z0
    z1 := by
  have h9 := keeps_loadPath (i := i) (kp := kp)
  rw [he] at h9; exact h9

theorem keeps_cacheNode {z0 : State} {s : State} (o : Nat) (t : Tbl Entry) (kp : Kept z0 s) : Kept z0 (cacheNode s o t) := by
  unfold cacheNode
  repeat' first
    | with_reducible assumption
    | (refine Kept.written ?_ ?_; (· simp only [written_record]); refine Kept.record ?_ ?_; rotate_left;
          (· first | (dsimp only [prot]; done) | (dsimp only [prot]; (repeat' first | rfl | split); done)))
    | split | dsimp only | intro

theorem keeps_cacheObject {z0 : State} {s : State} (i : Nat) (b : Bytes) (kp : Kept z0 s) : Kept z0 (cacheObject s i b) := by
  unfold cacheObject
  repeat' first
    | with_reducible assumption
    | (refine Kept.written ?_ ?_; (· simp only [written_record]); refine Kept.record ?_ ?_; rotate_left;
          (· first | (dsimp only [prot]; done) | (dsimp only [prot]; (repeat' first | rfl | split); done)))
    | split | dsimp only | intro

theorem keeps_openBatch {z0 : State} {s : State} (f : Batch → Batch) (kp : Kept z0 s) : Kept z0 (openBatch s f) := by
  unfold openBatch
  repeat' first
    | with_reducible assumption
    | (refine Kept.written ?_ ?_; (· simp only [written_record]); refine Kept.record ?_ ?_; rotate_left;
          (· first | (dsimp only [prot]; done) | (dsimp only [prot]; (repeat' first | rfl | split); done)))
    | split | dsimp only | intro

theorem keeps_joinBatch {z0 : State} {s : State} (f : Batch → Batch) (kp : Kept z0 s) : Kept z0 (joinBatch s f) := by
  unfold joinBatch
  repeat' first
    | with_reducible assumption | with_reducible apply keeps_openBatch
    | (refine Kept.written ?_ ?_; (· simp only [written_record]); refine Kept.record ?_ ?_; rotate_left;
          (· first | (dsimp only [prot]; done) | (dsimp only [prot]; (repeat' first | rfl | split); done)))
    | dsimp only | intro

theorem keeps_changeObject {z0 : State} {s : State} (i : Nat) (content : Bytes) (kp : Kept z0 s) : Kept z0 (changeObject s i
    content) := by
  unfold changeObject
  repeat' first
    | with_reducible assumption | with_reducible apply keeps_openBatch
    | (refine Kept.written ?_ ?_; (· simp only [written_record]); refine Kept.record ?_ ?_; rotate_left;
          (· first | (dsimp only [prot]; done) | (dsimp only [prot]; (repeat' first | rfl | split); done)))
    | dsimp only | intro

theorem keeps_startBatch {z0 : State} {s : State} (b : Batch) (kp : Kept z0 s) : Kept z0 (startBatch s b) := by
  unfold startBatch
  repeat' first
    | with_reducible assumption | with_reducible apply keeps_sealWant
    | with_reducible refine Kept.foldl (fun _ _ _ => ?_) _ ?_
    | (refine Kept.written ?_ ?_; (· simp only [written_record]); refine Kept.record ?_ ?_; rotate_left;
          (· first | (dsimp only [prot]; done) | (dsimp only [prot]; (repeat' first | rfl | split); done)))
    | dsimp only | intro

theorem keeps_clearReserving {z0 : State} {s : State} (r : Nat × Nat × Nat) (kp : Kept z0 s) : Kept z0 (clearReserving s r)
    := by
  unfold clearReserving
  repeat' first
    | with_reducible assumption
    | (refine Kept.written ?_ ?_; (· simp only [written_record]); refine Kept.record ?_ ?_; rotate_left;
          (· first | (dsimp only [prot]; done) | (dsimp only [prot]; (repeat' first | rfl | split); done)))
    | split | dsimp only | intro

theorem keeps_findPairFuel {z0 : State} : ∀ (n : Nat) {s : State} (b h t : Nat), Kept z0 s → Kept z0 (findPairFuel n s b h t).2
  | 0, _, _, _, _, h => h
  | n + 1, s, b, i, t, h => by
    unfold findPairFuel
    repeat' first
      | with_reducible assumption | with_reducible refine keepsE_storeRead (by assumption) ?_ | apply keeps_findPairFuel n
      | with_reducible refine Kept.foldl (fun _ _ _ => ?_) _ ?_
      | (refine Kept.written ?_ ?_; (· simp only [written_record]); refine Kept.record ?_ ?_; rotate_left;
          (· first | (dsimp only [prot]; done) | (dsimp only [prot]; (repeat' first | rfl | split); done)))
      | split | dsimp only | intro

theorem keeps_findPair {z0 : State} {s : State} (h : Nat) (t : Nat) (kp : Kept z0 s) : Kept z0 (findPair s h t).2 := by
  unfold findPair
  repeat' first
    | with_reducible assumption | with_reducible apply keeps_findPairFuel
    | with_reducible refine keepsE_findPairFuel (by assumption) ?_ | split | dsimp only | intro

theorem keepsE_findPair {z0 : State} {s : State} {h : Nat} {t : Nat} {v z1} (he : findPair s h t = (v, z1)) (kp : Kept z0
    s) : Kept z0 z1 := by
  have h9 := keeps_findPair (h := h) (t := t) (kp := kp)
  rw [he] at h9; exact h9

theorem keeps_writePair {z0 : State} {s : State} (p : Place) (h : Nat) (sl : Nat) (t : Nat) (e : Nat) (block : Nat) (kp :
    Kept z0 s) : Kept z0 (writePair s p h sl t e block) := by
  unfold writePair
  repeat' first
    | with_reducible assumption | with_reducible apply keeps_changeObject
    | (refine Kept.written ?_ ?_; (· simp only [written_record]); refine Kept.record ?_ ?_; rotate_left;
          (· first | (dsimp only [prot]; done) | (dsimp only [prot]; (repeat' first | rfl | split); done)))
    | split | dsimp only | intro

theorem keeps_markRecordBad {z0 : State} {s : State} (r : KeyRec) (kp : Kept z0 s) : Kept z0 (markRecordBad s r) := by
  unfold markRecordBad
  repeat' first
    | with_reducible assumption | with_reducible apply keeps_changeObject | with_reducible apply keeps_writeLog
    | (refine Kept.written ?_ ?_; (· simp only [written_record]); refine Kept.record ?_ ?_; rotate_left;
          (· first | (dsimp only [prot]; done) | (dsimp only [prot]; (repeat' first | rfl | split); done)))
    | split | dsimp only | intro

theorem keeps_cacheRecord {z0 : State} {s : State} (r : KeyRec) (useCount : Nat) (kp : Kept z0 s) : Kept z0 (cacheRecord s r
    useCount).2 := by
  unfold cacheRecord
  repeat' first
    | with_reducible assumption | with_reducible apply keeps_makeRoom
    | with_reducible refine keepsE_makeRoom (by assumption) ?_ | with_reducible apply keeps_markRecordBad
    | with_reducible apply keeps_putKey | with_reducible apply keeps_touchKey
    | (refine Kept.written ?_ ?_; (· simp only [written_record]); refine Kept.record ?_ ?_; rotate_left;
          (· first | (dsimp only [prot]; done) | (dsimp only [prot]; (repeat' first | rfl | split); done)))
    | split | dsimp only | intro

theorem keepsE_cacheRecord {z0 : State} {s : State} {r : KeyRec} {useCount : Nat} {v z1} (he : cacheRecord s r useCount =
    (v, z1)) (kp : Kept z0 s) : Kept z0 z1 := by
  have h9 := keeps_cacheRecord (r := r) (useCount := useCount) (kp := kp)
  rw [he] at h9; exact h9

theorem keeps_keyDamaged {z0 : State} {s : State} (k : Key) (kp : Kept z0 s) : Kept z0 (keyDamaged s k) := by
  unfold keyDamaged
  repeat' first
    | with_reducible assumption | with_reducible apply keeps_dropHmac | with_reducible apply keeps_dropKey
    | with_reducible apply keeps_putTagged | with_reducible apply keeps_writeLog
    | (refine Kept.written ?_ ?_; (· simp only [written_record]); refine Kept.record ?_ ?_; rotate_left;
          (· first | (dsimp only [prot]; done) | (dsimp only [prot]; (repeat' first | rfl | split); done)))
    | split | dsimp only | intro

theorem keeps_findKey {z0 : State} {s : State} (sl : Nat) (h : Nat) (kp : Kept z0 s) : Kept z0 (findKey s sl h).2 := by
  unfold findKey
  repeat' first
    | with_reducible assumption | with_reducible apply keeps_cacheRecord
    | with_reducible refine keepsE_cacheRecord (by assumption) ?_ | with_reducible apply keeps_storeRead
    | with_reducible refine keepsE_storeRead (by assumption) ?_ | with_reducible apply keeps_touchKey
    | (refine Kept.written ?_ ?_; (· simp only [written_record]); refine Kept.record ?_ ?_; rotate_left;
          (· first | (dsimp only [prot]; done) | (dsimp only [prot]; (repeat' first | rfl | split); done)))
    | split | dsimp only | intro

theorem keepsE_findKey {z0 : State} {s : State} {sl : Nat} {h : Nat} {v z1} (he : findKey s sl h = (v, z1)) (kp : Kept z0
    s) : Kept z0 z1 := by
  have h9 := keeps_findKey (sl := sl) (h := h) (kp := kp)
  rw [he] at h9; exact h9

theorem keeps_askUseBlock {z0 : State} {s : State} (k : Key) (kp : Kept z0 s) : Kept z0 (askUseBlock s k) := by
  unfold askUseBlock
  repeat' first
    | with_reducible assumption | with_reducible apply keeps_changeObject | with_reducible apply keeps_enqueue
    | with_reducible apply keeps_joinBatch
    | (refine Kept.written ?_ ?_; (· simp only [written_record]); refine Kept.record ?_ ?_; rotate_left;
          (· first | (dsimp only [prot]; done) | (dsimp only [prot]; (repeat' first | rfl | split); done)))
    | split | dsimp only | intro

theorem keeps_countUse {z0 : State} {s : State} (k : Key) (kp : Kept z0 s) : Kept z0 (countUse s k) := by
  unfold countUse
  repeat' first
    | with_reducible assumption | with_reducible apply keeps_putTagged
    | (refine Kept.written ?_ ?_; (· simp only [written_record]); refine Kept.record ?_ ?_; rotate_left;
          (· first | (dsimp only [prot]; done) | (dsimp only [prot]; (repeat' first | rfl | split); done)))
    | split | dsimp only | intro

theorem keeps_noteAsk {z0 : State} {s : State} (dest : Nat) (type : Nat) (body : Bytes) (kp : Kept z0 s) : Kept z0 (noteAsk
    s dest type body) := by
  unfold noteAsk
  repeat' first
    | with_reducible assumption | with_reducible apply keeps_setPeer
    | (refine Kept.written ?_ ?_; (· simp only [written_record]); refine Kept.record ?_ ?_; rotate_left;
          (· first | (dsimp only [prot]; done) | (dsimp only [prot]; (repeat' first | rfl | split); done)))
    | dsimp only | intro

theorem keeps_dropAsks {z0 : State} {s : State} (dest : Nat) (f : Ask → Bool) (kp : Kept z0 s) : Kept z0 (dropAsks s dest f)
    := by
  unfold dropAsks
  repeat' first
    | with_reducible assumption | with_reducible apply keeps_setPeer
    | (refine Kept.written ?_ ?_; (· simp only [written_record]); refine Kept.record ?_ ?_; rotate_left;
          (· first | (dsimp only [prot]; done) | (dsimp only [prot]; (repeat' first | rfl | split); done)))
    | dsimp only | intro

theorem keeps_dropAllAsks {z0 : State} {s : State} (types : List Nat) (kp : Kept z0 s) : Kept z0 (dropAllAsks s types) := by
  unfold dropAllAsks
  repeat' first
    | with_reducible assumption | with_reducible apply keeps_dropAsks
    | with_reducible refine Kept.foldl (fun _ _ _ => ?_) _ ?_ | dsimp only | intro

theorem keeps_mirAsk {z0 : State} {s : State} (dest : Nat) (type : Nat) (body : Bytes) (kp : Kept z0 s) : Kept z0 (mirAsk s
    dest type body) := by
  unfold mirAsk
  repeat' first
    | with_reducible assumption | with_reducible apply keeps_mirSend | with_reducible apply keeps_noteAsk | split
    | dsimp only | intro

theorem keeps_mirSendSigned {z0 : State} {s : State} (dest : Nat) (type : Nat) (body : Bytes) (kp : Kept z0 s) : Kept z0
    (mirSendSigned s dest type body) := by
  unfold mirSendSigned
  repeat' first
    | with_reducible assumption | with_reducible apply keeps_drawRandom
    | with_reducible refine keepsE_drawRandom (by assumption) ?_ | with_reducible apply keeps_mirrorVector
    | with_reducible apply keeps_setPeer
    | (refine Kept.written ?_ ?_; (· simp only [written_record]); refine Kept.record ?_ ?_; rotate_left;
          (· first | (dsimp only [prot]; done) | (dsimp only [prot]; (repeat' first | rfl | split); done)))
    | split | dsimp only | intro

theorem keeps_blockDone {z0 : State} {s : State} (handle : Nat) (target : Nat) (kp : Kept z0 s) : Kept z0 (blockDone s
    handle target) := by
  unfold blockDone
  repeat' first | with_reducible assumption | with_reducible apply keeps_clearReserving | dsimp only | intro

theorem keeps_blockOpens {z0 : State} {s : State} (handle : Nat) (target : Nat) (a : Nat) (b : Nat) (kp : Kept z0 s) : Kept
    z0 (blockOpens s handle target a b) := by
  unfold blockOpens
  repeat' first
    | with_reducible assumption | with_reducible apply keeps_blockDone
    | (refine Kept.written ?_ ?_; (· simp only [written_record]); refine Kept.record ?_ ?_; rotate_left;
          (· first | (dsimp only [prot]; done) | (dsimp only [prot]; (repeat' first | rfl | split); done)))
    | split | dsimp only | intro

theorem keeps_commitEnd {z0 : State} {s : State} (leader : Nat) (requester : Nat) (id : Nat) (kind : Nat) (handle : Nat)
    (target : Nat) (block : Nat) (e : Nat) (kp : Kept z0 s) : Kept z0 (commitEnd s leader requester id kind handle target
    block e) := by
  unfold commitEnd
  repeat' first
    | with_reducible assumption | with_reducible apply keeps_findPair
    | with_reducible refine keepsE_findPair (by assumption) ?_ | with_reducible apply keeps_joinBatch
    | with_reducible apply keeps_writePair
    | (refine Kept.written ?_ ?_; (· simp only [written_record]); refine Kept.record ?_ ?_; rotate_left;
          (· first | (dsimp only [prot]; done) | (dsimp only [prot]; (repeat' first | rfl | split); done)))
    | split | dsimp only | intro

theorem keeps_pumpGrant {z0 : State} {s : State} (g : Granting) (kp : Kept z0 s) : Kept z0 (pumpGrant s g).1 := by
  unfold pumpGrant
  repeat' first
    | with_reducible assumption | with_reducible apply keeps_commitEnd | with_reducible apply keeps_findPair
    | with_reducible refine keepsE_findPair (by assumption) ?_ | with_reducible apply keeps_mirAsk
    | with_reducible refine Kept.foldl (fun _ _ _ => ?_) _ ?_
    | (refine Kept.written ?_ ?_; (· simp only [written_record]); refine Kept.record ?_ ?_; rotate_left;
          (· first | (dsimp only [prot]; done) | (dsimp only [prot]; (repeat' first | rfl | split); done)))
    | split | dsimp only | intro

theorem keeps_pumpGrants {z0 s : State} (kp : Kept z0 s) : Kept z0 (pumpGrants s) := by
  have hf : ∀ (l : List Granting) (a : State × List Granting), Kept z0 a.1 →
      Kept z0 (l.foldl (fun (a : State × List Granting) g => ((pumpGrant a.1 g).1, a.2 ++ [(pumpGrant a.1 g).2])) a).1 := by
    intro l
    induction l with
    | nil => exact fun _ h => h
    | cons g l ih => exact fun a h => ih _ (keeps_pumpGrant g h)
  unfold pumpGrants
  dsimp only
  have k : Kept z0 { s with mir := { s.mir with granting := [] } } := kp.upd rfl
  exact (hf _ _ k).upd rfl

theorem keeps_startGrant {z0 : State} {s : State} (requester : Nat) (id : Nat) (kind : Nat) (handle : Nat) (target : Nat)
    (size : Nat) (kp : Kept z0 s) : Kept z0 (startGrant s requester id kind handle target size) := by
  unfold startGrant
  repeat' first
    | with_reducible assumption | with_reducible apply keeps_mirAsk | with_reducible apply keeps_pumpGrants
    | with_reducible refine Kept.foldl (fun _ _ _ => ?_) _ ?_
    | (refine Kept.written ?_ ?_; (· simp only [written_record]); refine Kept.record ?_ ?_; rotate_left;
          (· first | (dsimp only [prot]; done) | (dsimp only [prot]; (repeat' first | rfl | split); done)))
    | split | dsimp only | intro

theorem keeps_finishGrants {z0 : State} {s : State} (kp : Kept z0 s) : Kept z0 (finishGrants s) := by
  unfold finishGrants
  repeat' first
    | with_reducible assumption | with_reducible apply keeps_blockOpens | with_reducible apply keeps_mirSend
    | with_reducible refine Kept.foldl (fun _ _ _ => ?_) _ ?_
    | (refine Kept.written ?_ ?_; (· simp only [written_record]); refine Kept.record ?_ ?_; rotate_left;
          (· first | (dsimp only [prot]; done) | (dsimp only [prot]; (repeat' first | rfl | split); done)))
    | split | dsimp only | intro

theorem keeps_ackGrant {z0 : State} {s : State} (member : Nat) (requester : Nat) (id : Nat) (e : Nat) (kp : Kept z0 s) :
    Kept z0 (ackGrant s member requester id e) := by
  unfold ackGrant
  repeat' first
    | with_reducible assumption | with_reducible apply keeps_finishGrants
    | (refine Kept.written ?_ ?_; (· simp only [written_record]); refine Kept.record ?_ ?_; rotate_left;
          (· first | (dsimp only [prot]; done) | (dsimp only [prot]; (repeat' first | rfl | split); done)))
    | split | dsimp only | intro

theorem keeps_askBlock {z0 : State} {s : State} (kind : Nat) (handle : Nat) (target : Nat) (size : Nat) (kp : Kept z0 s) :
    Kept z0 (askBlock s kind handle target size) := by
  unfold askBlock
  repeat' first
    | with_reducible assumption | with_reducible apply keeps_mirAsk | with_reducible apply keeps_startGrant
    | (refine Kept.written ?_ ?_; (· simp only [written_record]); refine Kept.record ?_ ?_; rotate_left;
          (· first | (dsimp only [prot]; done) | (dsimp only [prot]; (repeat' first | rfl | split); done)))
    | split | dsimp only | intro

theorem keeps_endCommitted {z0 : State} {s : State} (handle : Nat) (target : Nat) (e : Nat) (kp : Kept z0 s) : Kept z0
    (endCommitted s handle target e) := by
  unfold endCommitted
  repeat' first
    | with_reducible assumption | with_reducible apply keeps_ackGrant | with_reducible apply keeps_mirSend
    | with_reducible refine Kept.foldl (fun _ _ _ => ?_) _ ?_
    | (refine Kept.written ?_ ?_; (· simp only [written_record]); refine Kept.record ?_ ?_; rotate_left;
          (· first | (dsimp only [prot]; done) | (dsimp only [prot]; (repeat' first | rfl | split); done)))
    | split | dsimp only | intro

theorem keeps_endHeard {z0 : State} {s : State} (member : Nat) (id : Nat) (e : Nat) (kp : Kept z0 s) : Kept z0 (endHeard s
    member id e) := by
  unfold endHeard
  repeat' first
    | with_reducible assumption | with_reducible apply keeps_pumpGrants
    | (refine Kept.written ?_ ?_; (· simp only [written_record]); refine Kept.record ?_ ?_; rotate_left;
          (· first | (dsimp only [prot]; done) | (dsimp only [prot]; (repeat' first | rfl | split); done)))
    | split | dsimp only | intro

theorem keeps_judgeBehind {z0 : State} {s : State} (kp : Kept z0 s) : Kept z0 (judgeBehind s) := by
  unfold judgeBehind
  repeat' first
    | with_reducible assumption | with_reducible apply keeps_mirAsk
    | (refine Kept.written ?_ ?_; (· simp only [written_record]); refine Kept.record ?_ ?_; rotate_left;
          (· first | (dsimp only [prot]; done) | (dsimp only [prot]; (repeat' first | rfl | split); done)))
    | split | dsimp only | intro

theorem keeps_setHbs {z0 : State} {s : State} (h : Nat) (x : HbsState) (kp : Kept z0 s) : Kept z0 (setHbs s h x) := by
  unfold setHbs
  repeat' first
    | with_reducible assumption | with_reducible apply kp_x
    | (refine Kept.written ?_ ?_; (· simp only [written_record]); refine Kept.record ?_ ?_; rotate_left;
          (· first | (dsimp only [prot]; done) | (dsimp only [prot]; (repeat' first | rfl | split); done)))
    | dsimp only | intro

theorem keeps_noteFresh {z0 : State} {s : State} (h : Nat) (t : Nat) (v : Nat) (kp : Kept z0 s) : Kept z0 (noteFresh s h t
    v) := by
  unfold noteFresh
  repeat' first
    | with_reducible assumption
    | (refine Kept.written ?_ ?_; (· simp only [written_record]); refine Kept.record ?_ ?_; rotate_left;
          (· first | (dsimp only [prot]; done) | (dsimp only [prot]; (repeat' first | rfl | split); done)))
    | split | dsimp only | intro

theorem keeps_readPages {z0 : State} : ∀ (l : List Nat) {s : State}, Kept z0 s → Kept z0 (readPages l s).2
  | [], _, h => h
  | p :: r, s, h => by
    unfold readPages
    repeat' first
      | with_reducible assumption | with_reducible refine keepsE_storeRead (by assumption) ?_ | apply keeps_readPages r
      | with_reducible refine Kept.foldl (fun _ _ _ => ?_) _ ?_
      | (refine Kept.written ?_ ?_; (· simp only [written_record]); refine Kept.record ?_ ?_; rotate_left;
          (· first | (dsimp only [prot]; done) | (dsimp only [prot]; (repeat' first | rfl | split); done)))
      | split | dsimp only | intro

theorem keepsE_readPages {z0 : State} {l : List Nat} {s : State} {v z1} (he : readPages l s = (v, z1)) (h : Kept z0 s) :
    Kept z0 z1 := by
  have h9 := keeps_readPages l h
  rw [he] at h9; exact h9

theorem keeps_loadHbs {z0 : State} {s : State} (k : Key) (kp : Kept z0 s) : Kept z0 (loadHbs s k).2 := by
  unfold loadHbs
  repeat' first
    | with_reducible assumption | with_reducible apply keeps_findPair
    | with_reducible refine keepsE_findPair (by assumption) ?_ | with_reducible apply keeps_noteFresh
    | with_reducible apply keeps_readPages | with_reducible refine keepsE_readPages (by assumption) ?_
    | with_reducible apply keeps_setHbs | with_reducible apply keeps_storeRead
    | with_reducible refine keepsE_storeRead (by assumption) ?_
    | (refine Kept.written ?_ ?_; (· simp only [written_record]); refine Kept.record ?_ ?_; rotate_left;
          (· first | (dsimp only [prot]; done) | (dsimp only [prot]; (repeat' first | rfl | split); done)))
    | split | dsimp only | intro

theorem keepsE_loadHbs {z0 : State} {s : State} {k : Key} {v z1} (he : loadHbs s k = (v, z1)) (kp : Kept z0 s) : Kept z0 z1
    := by
  have h9 := keeps_loadHbs (k := k) (kp := kp)
  rw [he] at h9; exact h9

theorem keeps_trimWindows {z0 : State} (n : Nat) : ∀ (l : List Nat) {s : State}, Kept z0 s → Kept z0 (trimWindows n l s)
  | [], _, h => h
  | p :: r, s, h => by
    unfold trimWindows
    repeat' first
      | with_reducible assumption | with_reducible apply keeps_setHbs | apply keeps_trimWindows n r
      | with_reducible refine Kept.foldl (fun _ _ _ => ?_) _ ?_
      | (refine Kept.written ?_ ?_; (· simp only [written_record]); refine Kept.record ?_ ?_; rotate_left;
          (· first | (dsimp only [prot]; done) | (dsimp only [prot]; (repeat' first | rfl | split); done)))
      | split | dsimp only | intro

theorem keeps_takeRoom {z0 : State} {s : State} (k : Key) (kp : Kept z0 s) : Kept z0 (takeRoom s k).2 := by
  unfold takeRoom
  repeat' first
    | with_reducible assumption | with_reducible apply keeps_setHbs | with_reducible apply keeps_trimWindows
    | with_reducible refine keepsE_trimWindows (by assumption) ?_
    | (refine Kept.written ?_ ?_; (· simp only [written_record]); refine Kept.record ?_ ?_; rotate_left;
          (· first | (dsimp only [prot]; done) | (dsimp only [prot]; (repeat' first | rfl | split); done)))
    | split | dsimp only | intro

theorem keepsE_takeRoom {z0 : State} {s : State} {k : Key} {v z1} (he : takeRoom s k = (v, z1)) (kp : Kept z0 s) : Kept z0
    z1 := by
  have h9 := keeps_takeRoom (k := k) (kp := kp)
  rw [he] at h9; exact h9

theorem keeps_loadWindow {z0 : State} {s : State} (k : Key) (kp : Kept z0 s) : Kept z0 (loadWindow s k).2 := by
  unfold loadWindow
  repeat' first
    | with_reducible assumption | with_reducible apply keeps_readPages
    | with_reducible refine keepsE_readPages (by assumption) ?_ | with_reducible apply keeps_setHbs
    | with_reducible apply keeps_takeRoom | with_reducible refine keepsE_takeRoom (by assumption) ?_
    | (refine Kept.written ?_ ?_; (· simp only [written_record]); refine Kept.record ?_ ?_; rotate_left;
          (· first | (dsimp only [prot]; done) | (dsimp only [prot]; (repeat' first | rfl | split); done)))
    | split | dsimp only | intro

theorem keepsE_loadWindow {z0 : State} {s : State} {k : Key} {v z1} (he : loadWindow s k = (v, z1)) (kp : Kept z0 s) : Kept
    z0 z1 := by
  have h9 := keeps_loadWindow (k := k) (kp := kp)
  rw [he] at h9; exact h9

theorem keeps_reserveBlock {z0 : State} {s : State} (sl : Nat) (h : Nat) (t : Nat) (e : Nat) (block : Nat) (kp : Kept z0 s)
    : Kept z0 (reserveBlock s sl h t e block).2 := by
  unfold reserveBlock
  repeat' first
    | with_reducible assumption | with_reducible apply keeps_findPair
    | with_reducible refine keepsE_findPair (by assumption) ?_ | with_reducible apply keeps_joinBatch
    | with_reducible apply keeps_writePair
    | (refine Kept.written ?_ ?_; (· simp only [written_record]); refine Kept.record ?_ ?_; rotate_left;
          (· first | (dsimp only [prot]; done) | (dsimp only [prot]; (repeat' first | rfl | split); done)))
    | split | dsimp only | intro

theorem keepsE_reserveBlock {z0 : State} {s : State} {sl : Nat} {h : Nat} {t : Nat} {e : Nat} {block : Nat} {v z1} (he :
    reserveBlock s sl h t e block = (v, z1)) (kp : Kept z0 s) : Kept z0 z1 := by
  have h9 := keeps_reserveBlock (sl := sl) (h := h) (t := t) (e := e) (block := block) (kp := kp)
  rw [he] at h9; exact h9

theorem keeps_hbsIndex {z0 : State} {s : State} (sl : Nat) (k : Key) (kp : Kept z0 s) : Kept z0 (hbsIndex s sl k).2 := by
  unfold hbsIndex
  repeat' first
    | with_reducible assumption | with_reducible apply keeps_askBlock | with_reducible apply keeps_loadHbs
    | with_reducible refine keepsE_loadHbs (by assumption) ?_ | with_reducible apply keeps_loadWindow
    | with_reducible refine keepsE_loadWindow (by assumption) ?_ | with_reducible apply keeps_reserveBlock
    | with_reducible refine keepsE_reserveBlock (by assumption) ?_ | with_reducible apply keeps_setHbs
    | (refine Kept.written ?_ ?_; (· simp only [written_record]); refine Kept.record ?_ ?_; rotate_left;
          (· first | (dsimp only [prot]; done) | (dsimp only [prot]; (repeat' first | rfl | split); done)))
    | split | dsimp only | intro

theorem keepsE_hbsIndex {z0 : State} {s : State} {sl : Nat} {k : Key} {v z1} (he : hbsIndex s sl k = (v, z1)) (kp : Kept z0
    s) : Kept z0 z1 := by
  have h9 := keeps_hbsIndex (sl := sl) (k := k) (kp := kp)
  rw [he] at h9; exact h9

theorem keeps_takeIndex {z0 : State} {s : State} (k : Key) (kp : Kept z0 s) : Kept z0 (takeIndex s k) := by
  unfold takeIndex
  repeat' first
    | with_reducible assumption | with_reducible apply keeps_setHbs
    | (refine Kept.written ?_ ?_; (· simp only [written_record]); refine Kept.record ?_ ?_; rotate_left;
          (· first | (dsimp only [prot]; done) | (dsimp only [prot]; (repeat' first | rfl | split); done)))
    | dsimp only | intro

theorem keeps_setOrd {z0 : State} {s : State} (e : OrdEntry) (kp : Kept z0 s) : Kept z0 (setOrd s e) := by
  unfold setOrd
  repeat' first
    | with_reducible assumption
    | (refine Kept.written ?_ ?_; (· simp only [written_record]); refine Kept.record ?_ ?_; rotate_left;
          (· first | (dsimp only [prot]; done) | (dsimp only [prot]; (repeat' first | rfl | split); done)))
    | dsimp only | intro

theorem keeps_dropOrd {z0 : State} {s : State} (h : Nat) (t : Nat) (kp : Kept z0 s) : Kept z0 (dropOrd s h t) := by
  unfold dropOrd
  repeat' first
    | with_reducible assumption
    | (refine Kept.written ?_ ?_; (· simp only [written_record]); refine Kept.record ?_ ?_; rotate_left;
          (· first | (dsimp only [prot]; done) | (dsimp only [prot]; (repeat' first | rfl | split); done)))
    | dsimp only | intro

theorem keeps_evictOrd {z0 : State} {s : State} (e : OrdEntry) (kp : Kept z0 s) : Kept z0 (evictOrd s e).2 := by
  unfold evictOrd
  repeat' first
    | with_reducible assumption | with_reducible apply keeps_findPair
    | with_reducible refine keepsE_findPair (by assumption) ?_ | with_reducible apply keeps_joinBatch
    | with_reducible apply keeps_setOrd | with_reducible apply keeps_writePair
    | (refine Kept.written ?_ ?_; (· simp only [written_record]); refine Kept.record ?_ ?_; rotate_left;
          (· first | (dsimp only [prot]; done) | (dsimp only [prot]; (repeat' first | rfl | split); done)))
    | split | dsimp only | intro

theorem keepsE_evictOrd {z0 : State} {s : State} {e : OrdEntry} {v z1} (he : evictOrd s e = (v, z1)) (kp : Kept z0 s) :
    Kept z0 z1 := by
  have h9 := keeps_evictOrd (e := e) (kp := kp)
  rw [he] at h9; exact h9

theorem keeps_loadOrd {z0 : State} {s : State} (sl : Nat) (k : Key) (t : Nat) (kp : Kept z0 s) : Kept z0 (loadOrd s sl k
    t).2 := by
  unfold loadOrd
  repeat' first
    | with_reducible assumption | with_reducible apply keeps_evictOrd
    | with_reducible refine keepsE_evictOrd (by assumption) ?_ | with_reducible apply keeps_findPair
    | with_reducible refine keepsE_findPair (by assumption) ?_ | with_reducible apply keeps_noteFresh
    | with_reducible apply keeps_setOrd
    | (refine Kept.written ?_ ?_; (· simp only [written_record]); refine Kept.record ?_ ?_; rotate_left;
          (· first | (dsimp only [prot]; done) | (dsimp only [prot]; (repeat' first | rfl | split); done)))
    | split | dsimp only | intro

theorem keepsE_loadOrd {z0 : State} {s : State} {sl : Nat} {k : Key} {t : Nat} {v z1} (he : loadOrd s sl k t = (v, z1)) (kp
    : Kept z0 s) : Kept z0 z1 := by
  have h9 := keeps_loadOrd (sl := sl) (k := k) (t := t) (kp := kp)
  rw [he] at h9; exact h9

theorem keeps_ordNumber {z0 : State} {s : State} (sl : Nat) (k : Key) (t : Nat) (kp : Kept z0 s) : Kept z0 (ordNumber s sl k
    t).2 := by
  unfold ordNumber
  repeat' first
    | with_reducible assumption | with_reducible apply keeps_askBlock | with_reducible apply keeps_loadOrd
    | with_reducible refine keepsE_loadOrd (by assumption) ?_ | with_reducible apply keeps_reserveBlock
    | with_reducible refine keepsE_reserveBlock (by assumption) ?_ | with_reducible apply keeps_setOrd
    | (refine Kept.written ?_ ?_; (· simp only [written_record]); refine Kept.record ?_ ?_; rotate_left;
          (· first | (dsimp only [prot]; done) | (dsimp only [prot]; (repeat' first | rfl | split); done)))
    | split | dsimp only | intro

theorem keepsE_ordNumber {z0 : State} {s : State} {sl : Nat} {k : Key} {t : Nat} {v z1} (he : ordNumber s sl k t = (v, z1))
    (kp : Kept z0 s) : Kept z0 z1 := by
  have h9 := keeps_ordNumber (sl := sl) (k := k) (t := t) (kp := kp)
  rw [he] at h9; exact h9

theorem keeps_takeOrdinal {z0 : State} {s : State} (sl : Nat) (h : Nat) (t : Nat) (kp : Kept z0 s) : Kept z0 (takeOrdinal s
    sl h t) := by
  unfold takeOrdinal
  repeat' first
    | with_reducible assumption | with_reducible apply keeps_setOrd
    | (refine Kept.written ?_ ?_; (· simp only [written_record]); refine Kept.record ?_ ?_; rotate_left;
          (· first | (dsimp only [prot]; done) | (dsimp only [prot]; (repeat' first | rfl | split); done)))
    | split | dsimp only | intro

theorem keeps_assign {z0 : State} {s : State} (sl : Nat) (d : Desc) (k : Option Key) (kp : Kept z0 s) : Kept z0 (assign s sl
    d k).2 := by
  unfold assign
  repeat' first
    | with_reducible assumption | with_reducible apply keeps_hbsIndex
    | with_reducible refine keepsE_hbsIndex (by assumption) ?_ | with_reducible apply keeps_loadHbs
    | with_reducible refine keepsE_loadHbs (by assumption) ?_ | with_reducible apply keeps_loadOrd
    | with_reducible refine keepsE_loadOrd (by assumption) ?_ | with_reducible apply keeps_ordNumber
    | with_reducible refine keepsE_ordNumber (by assumption) ?_
    | (refine Kept.written ?_ ?_; (· simp only [written_record]); refine Kept.record ?_ ?_; rotate_left;
          (· first | (dsimp only [prot]; done) | (dsimp only [prot]; (repeat' first | rfl | split); done)))
    | split | dsimp only | intro

theorem keepsE_assign {z0 : State} {s : State} {sl : Nat} {d : Desc} {k : Option Key} {v z1} (he : assign s sl d k = (v,
    z1)) (kp : Kept z0 s) : Kept z0 z1 := by
  have h9 := keeps_assign (sl := sl) (d := d) (k := k) (kp := kp)
  rw [he] at h9; exact h9

theorem keeps_takeAssigned {z0 : State} {s : State} (sl : Nat) (d : Desc) (k : Option Key) (kp : Kept z0 s) : Kept z0
    (takeAssigned s sl d k) := by
  unfold takeAssigned
  repeat' first
    | with_reducible assumption | with_reducible apply keeps_takeIndex | with_reducible apply keeps_takeOrdinal
    | (refine Kept.written ?_ ?_; (· simp only [written_record]); refine Kept.record ?_ ?_; rotate_left;
          (· first | (dsimp only [prot]; done) | (dsimp only [prot]; (repeat' first | rfl | split); done)))
    | split | dsimp only | intro

theorem keeps_setVt {z0 : State} {s : State} (k : Engine) (sl : Nat) (v : Nat) (kp : Kept z0 s) : Kept z0 (setVt s k sl v) := by
  unfold setVt
  repeat' first
    | with_reducible assumption
    | (refine Kept.written ?_ ?_; (· simp only [written_record]); refine Kept.record ?_ ?_; rotate_left;
          (· first | (dsimp only [prot]; done) | (dsimp only [prot]; (repeat' first | rfl | split); done)))
    | dsimp only | intro

theorem keeps_raiseVt {z0 : State} {s : State} (sl : Nat) (k : Engine) (kp : Kept z0 s) : Kept z0 (raiseVt s sl k) := by
  unfold raiseVt
  repeat' first
    | with_reducible assumption | with_reducible apply keeps_setVt | with_reducible refine Kept.foldl (fun _ _ _ => ?_) _ ?_
    | (refine Kept.written ?_ ?_; (· simp only [written_record]); refine Kept.record ?_ ?_; rotate_left;
          (· first | (dsimp only [prot]; done) | (dsimp only [prot]; (repeat' first | rfl | split); done)))
    | split | dsimp only | intro

theorem keeps_gainWork {z0 : State} {s : State} (id : Nat) (kp : Kept z0 s) : Kept z0 (gainWork s id) := by
  unfold gainWork
  repeat' first
    | with_reducible assumption | with_reducible apply keeps_raiseVt | with_reducible apply keeps_setJob
    | (refine Kept.written ?_ ?_; (· simp only [written_record]); refine Kept.record ?_ ?_; rotate_left;
          (· first | (dsimp only [prot]; done) | (dsimp only [prot]; (repeat' first | rfl | split); done)))
    | split | dsimp only | intro

theorem keeps_setBuilds {z0 : State} {s : State} (bs : List TreeBuild) (kp : Kept z0 s) : Kept z0 (setBuilds s bs) := by
  unfold setBuilds
  repeat' first
    | with_reducible assumption
    | (refine Kept.written ?_ ?_; (· simp only [written_record]); refine Kept.record ?_ ?_; rotate_left;
          (· first | (dsimp only [prot]; done) | (dsimp only [prot]; (repeat' first | rfl | split); done)))
    | dsimp only | intro

theorem keeps_noteTree {z0 : State} {s : State} (b : TreeBuild) (kp : Kept z0 s) : Kept z0 (noteTree s b) := by
  unfold noteTree
  repeat' first
    | with_reducible assumption | with_reducible apply keeps_raiseVt | with_reducible apply keeps_setBuilds | dsimp only
    | intro

theorem keeps_abandonBuild {z0 : State} {s : State} (n : Nat) (kp : Kept z0 s) : Kept z0 (abandonBuild s n) := by
  unfold abandonBuild
  repeat' first
    | with_reducible assumption | with_reducible apply keeps_setBuilds
    | (refine Kept.written ?_ ?_; (· simp only [written_record]); refine Kept.record ?_ ?_; rotate_left;
          (· first | (dsimp only [prot]; done) | (dsimp only [prot]; (repeat' first | rfl | split); done)))
    | split | dsimp only | intro

theorem keeps_freeBuildLane {z0 : State} {s : State} (n : Nat) (kp : Kept z0 s) : Kept z0 (freeBuildLane s n) := by
  unfold freeBuildLane
  repeat' first
    | with_reducible assumption | with_reducible apply keeps_updPart
    | (refine Kept.written ?_ ?_; (· simp only [written_record]); refine Kept.record ?_ ?_; rotate_left;
          (· first | (dsimp only [prot]; done) | (dsimp only [prot]; (repeat' first | rfl | split); done)))
    | dsimp only | intro

theorem keeps_haltBuilds {z0 : State} {s : State} (kp : Kept z0 s) : Kept z0 (haltBuilds s) := by
  unfold haltBuilds
  repeat' first
    | with_reducible assumption | with_reducible apply keeps_abandonBuild | with_reducible apply keeps_freeBuildLane
    | with_reducible refine Kept.foldl (fun _ _ _ => ?_) _ ?_ | dsimp only | intro

theorem keeps_dropBuilds {z0 : State} {s : State} (h : Nat) (kp : Kept z0 s) : Kept z0 (dropBuilds s h) := by
  unfold dropBuilds
  repeat' first
    | with_reducible assumption | with_reducible apply keeps_freeBuildLane | with_reducible apply keeps_setBuilds
    | with_reducible refine Kept.foldl (fun _ _ _ => ?_) _ ?_ | dsimp only | intro

theorem keeps_noteWork {z0 : State} {s : State} (kp : Kept z0 s) : Kept z0 (noteWork s) := by
  unfold noteWork
  repeat' first
    | with_reducible assumption | with_reducible apply keeps_gainWork | with_reducible apply keeps_noteTree
    | with_reducible refine Kept.foldl (fun _ _ _ => ?_) _ ?_ | dsimp only | intro

theorem keeps_makeReady {z0 : State} {s : State} (j : Job) (kp : Kept z0 s) : Kept z0 (makeReady s j) := by
  unfold makeReady
  repeat' first
    | with_reducible assumption | with_reducible apply keeps_gainWork | with_reducible apply keeps_setJob
    | (refine Kept.written ?_ ?_; (· simp only [written_record]); refine Kept.record ?_ ?_; rotate_left;
          (· first | (dsimp only [prot]; done) | (dsimp only [prot]; (repeat' first | rfl | split); done)))
    | dsimp only | intro

theorem keeps_setEntropy {z0 : State} {s : State} (x : EntSt) (kp : Kept z0 s) : Kept z0 (setEntropy s x) := by
  unfold setEntropy
  repeat' first
    | with_reducible assumption | with_reducible apply keeps_notifyManager
    | (refine Kept.written ?_ ?_; (· simp only [written_record]); refine Kept.record ?_ ?_; rotate_left;
          (· first | (dsimp only [prot]; done) | (dsimp only [prot]; (repeat' first | rfl | split); done)))
    | split | dsimp only | intro

theorem keeps_conditionerCheck {z0 : State} {s : State} (kp : Kept z0 s) : Kept z0 (conditionerCheck s) := by
  unfold conditionerCheck
  repeat' first | with_reducible assumption | with_reducible apply keeps_dropBlocks | split | dsimp only | intro

theorem keeps_dropWaiting {z0 : State} {s : State} (j : Job) (kp : Kept z0 s) : Kept z0 (dropWaiting s j) := by
  unfold dropWaiting
  repeat' first
    | with_reducible assumption | with_reducible apply keeps_dropJob | with_reducible apply keeps_returnBuffer | dsimp only
    | intro

theorem keeps_ledgerAbort {z0 : State} {s : State} (j : Job) (kp : Kept z0 s) : Kept z0 (ledgerAbort s j) := by
  unfold ledgerAbort
  repeat' first
    | with_reducible assumption | with_reducible apply keeps_enqueue
    | (refine Kept.written ?_ ?_; (· simp only [written_record]); refine Kept.record ?_ ?_; rotate_left;
          (· first | (dsimp only [prot]; done) | (dsimp only [prot]; (repeat' first | rfl | split); done)))
    | split | dsimp only | intro

theorem keeps_stopJob {z0 : State} (e : Ending) {s : State} (id : Nat) (kp : Kept z0 s) : Kept z0 (stopJob e s id) := by
  unfold stopJob
  repeat' first
    | with_reducible assumption | with_reducible apply keeps_dropWaiting | with_reducible apply keeps_endWith
    | with_reducible apply keeps_ledgerAbort | with_reducible apply keeps_setJob
    | (refine Kept.written ?_ ?_; (· simp only [written_record]); refine Kept.record ?_ ?_; rotate_left;
          (· first | (dsimp only [prot]; done) | (dsimp only [prot]; (repeat' first | rfl | split); done)))
    | split | dsimp only | intro

theorem keeps_alarmJob {z0 : State} {s : State} (id : Nat) (kp : Kept z0 s) : Kept z0 (alarmJob s id) := by
  unfold alarmJob
  repeat' first
    | with_reducible assumption | with_reducible apply keeps_dropWaiting | with_reducible apply keeps_endWith
    | with_reducible apply keeps_setJob
    | (refine Kept.written ?_ ?_; (· simp only [written_record]); refine Kept.record ?_ ?_; rotate_left;
          (· first | (dsimp only [prot]; done) | (dsimp only [prot]; (repeat' first | rfl | split); done)))
    | split | dsimp only | intro

theorem keeps_rerunJob {z0 : State} {s : State} (j : Job) (kp : Kept z0 s) : Kept z0 (rerunJob s j) := by
  unfold rerunJob
  repeat' first
    | with_reducible assumption | with_reducible apply keeps_freeParts | with_reducible apply keeps_makeReady
    | with_reducible apply keeps_sinkOperands
    | (refine Kept.written ?_ ?_; (· simp only [written_record]); refine Kept.record ?_ ?_; rotate_left;
          (· first | (dsimp only [prot]; done) | (dsimp only [prot]; (repeat' first | rfl | split); done)))
    | split | dsimp only | intro

theorem keeps_alarmBJob {z0 : State} {s : State} (id : Nat) (kp : Kept z0 s) : Kept z0 (alarmBJob s id) := by
  unfold alarmBJob
  repeat' first
    | with_reducible assumption | with_reducible apply keeps_failStep | with_reducible apply keeps_rerunJob
    | with_reducible apply keeps_setJob
    | (refine Kept.written ?_ ?_; (· simp only [written_record]); refine Kept.record ?_ ?_; rotate_left;
          (· first | (dsimp only [prot]; done) | (dsimp only [prot]; (repeat' first | rfl | split); done)))
    | split | dsimp only | intro

theorem keeps_revokeSlice {z0 : State} {s : State} (sl : Nat) (kp : Kept z0 s) : Kept z0 (revokeSlice s sl) := by
  unfold revokeSlice
  repeat' first
    | with_reducible assumption | with_reducible apply keeps_revokeParts
    | with_reducible refine Kept.foldl (fun _ _ _ => ?_) _ ?_ | dsimp only | intro

theorem keeps_stopSlice {z0 : State} {s : State} (sl : Nat) (st : Nat) (kp : Kept z0 s) : Kept z0 (stopSlice s sl st) := by
  unfold stopSlice
  repeat' first
    | with_reducible assumption | with_reducible apply keeps_dropUnissued | with_reducible apply keeps_returnBuffer
    | with_reducible apply keeps_revokeSlice | with_reducible apply keeps_stopJob | with_reducible apply keeps_wipeDrbg
    | with_reducible apply keeps_wipeSliceKeys | with_reducible refine Kept.foldl (fun _ _ _ => ?_) _ ?_
    | (refine Kept.written ?_ ?_; (· simp only [written_record]); refine Kept.record ?_ ?_; rotate_left;
          (· first | (dsimp only [prot]; done) | (dsimp only [prot]; (repeat' first | rfl | split); done)))
    | split | dsimp only | intro

theorem keeps_sliceFault {z0 : State} {s : State} (sl : Nat) (cause : Nat) (kp : Kept z0 s) : Kept z0 (sliceFault s sl
    cause) := by
  unfold sliceFault
  repeat' first
    | with_reducible assumption | with_reducible apply keeps_settleFault | with_reducible apply keeps_stopSlice
    | with_reducible apply keeps_updSlice
    | (refine Kept.written ?_ ?_; (· simp only [written_record]); refine Kept.record ?_ ?_; rotate_left;
          (· first | (dsimp only [prot]; done) | (dsimp only [prot]; (repeat' first | rfl | split); done)))
    | split | dsimp only | intro

theorem keeps_recordAlarm {z0 : State} {s : State} (cls : Nat) (cause : Nat) (sl : Nat) (kp : Kept z0 s) : Kept z0
    (recordAlarm s cls cause sl) := by
  unfold recordAlarm
  repeat' first
    | with_reducible assumption | with_reducible apply keeps_notifyManager | with_reducible apply keeps_writeLog
    | (refine Kept.written ?_ ?_; (· simp only [written_record]); refine Kept.record ?_ ?_; rotate_left;
          (· first | (dsimp only [prot]; done) | (dsimp only [prot]; (repeat' first | rfl | split); done)))
    | split | dsimp only | intro

theorem keeps_loseVolatile {z0 s : State} (kp : Kept z0 s) : Kept z0 (loseVolatile s) := by
  refine (keeps_wipeAllKeys kp).trans ⟨rfl, rfl, ⟨id, id, id, Nat.min_le_right _ _, Nat.le_refl _⟩, fun _ => Nat.le_refl _,
      fun ⟨r, i, _, p⟩ => ?_⟩
  exact ⟨⟨r.1, r.2, r.3, r.4, r.5, r.6, (by show 0 < 4096; decide), (by show 0 < 256; decide), (by show 0 < 2048; decide),
      r.10, r.11⟩, i, fun _ _ => Nat.zero_le _, p⟩

theorem keeps_enterSafe {z0 : State} {s : State} (kp : Kept z0 s) : Kept z0 (enterSafe s) := by
  unfold enterSafe
  repeat' first
    | with_reducible assumption | with_reducible apply keeps_loseVolatile
    | (refine Kept.written ?_ ?_; (· simp only [written_record]); refine Kept.record ?_ ?_; rotate_left;
          (· first | (dsimp only [prot]; done) | (dsimp only [prot]; (repeat' first | rfl | split); done)))
    | split | dsimp only | intro

theorem keeps_zeroRoot {z0 : State} {s : State} (kp : Kept z0 s) : Kept z0 (zeroRoot s) := by
  unfold zeroRoot
  repeat' first
    | with_reducible assumption
    | (refine Kept.written ?_ ?_; (· simp only [written_record]); refine Kept.record ?_ ?_; rotate_left;
          (· first | (dsimp only [prot]; done) | (dsimp only [prot]; (repeat' first | rfl | split); done)))
    | dsimp only | intro

theorem keeps_classAMain {z0 : State} {s : State} (kp : Kept z0 s) : Kept z0 (classAMain s) := by
  unfold classAMain
  repeat' first
    | with_reducible assumption | with_reducible apply keeps_alarmJob | with_reducible apply keeps_enterSafe
    | with_reducible apply keeps_haltBuilds | with_reducible apply keeps_haltSeals | with_reducible apply keeps_leaveGroup
    | with_reducible apply keeps_wipeAllDrbgs | with_reducible apply keeps_wipeAllKeys
    | with_reducible apply keeps_wipeRegisters | with_reducible refine Kept.foldl (fun _ _ _ => ?_) _ ?_
    | (refine Kept.written ?_ ?_; (· simp only [written_record]); refine Kept.record ?_ ?_; rotate_left;
          (· first | (dsimp only [prot]; done) | (dsimp only [prot]; (repeat' first | rfl | split); done)))
    | dsimp only | intro

theorem keeps_classA {z0 : State} {s : State} (cause : Nat) (kp : Kept z0 s) : Kept z0 (classA s cause) := by
  unfold classA
  repeat' first
    | with_reducible assumption | with_reducible apply keeps_classAMain | with_reducible apply keeps_recordAlarm
    | with_reducible apply keeps_zeroRoot
    | (refine Kept.written ?_ ?_; (· simp only [written_record]); refine Kept.record ?_ ?_; rotate_left;
          (· first | (dsimp only [prot]; done) | (dsimp only [prot]; (repeat' first | rfl | split); done)))
    | split | dsimp only | intro

theorem keeps_recomputeRegisters {z0 : State} {s : State} (kp : Kept z0 s) : Kept z0 (recomputeRegisters s) := by
  unfold recomputeRegisters
  repeat' first
    | with_reducible assumption | with_reducible apply keeps_loadRegisters
    | (refine Kept.written ?_ ?_; (· simp only [written_record]); refine Kept.record ?_ ?_; rotate_left;
          (· first | (dsimp only [prot]; done) | (dsimp only [prot]; (repeat' first | rfl | split); done)))
    | split | dsimp only | intro

theorem keeps_retestSources {z0 : State} {s : State} (kp : Kept z0 s) : Kept z0 (retestSources s) := by
  unfold retestSources
  repeat' first
    | with_reducible assumption | with_reducible apply keeps_setSource
    | with_reducible refine Kept.foldl (fun _ _ _ => ?_) _ ?_
    | (refine Kept.written ?_ ?_; (· simp only [written_record]); refine Kept.record ?_ ?_; rotate_left;
          (· first | (dsimp only [prot]; done) | (dsimp only [prot]; (repeat' first | rfl | split); done)))
    | split | dsimp only | intro

theorem keeps_classB {z0 : State} {s : State} (cause : Nat) (kp : Kept z0 s) : Kept z0 (classB s cause) := by
  unfold classB
  repeat' first
    | with_reducible assumption | with_reducible apply keeps_alarmBJob | with_reducible apply keeps_dropBlocks
    | with_reducible apply keeps_haltBuilds | with_reducible apply keeps_haltSeals | with_reducible apply keeps_leaveGroup
    | with_reducible apply keeps_recomputeRegisters | with_reducible apply keeps_recordAlarm
    | with_reducible apply keeps_retestSources | with_reducible apply keeps_setEntropy
    | with_reducible apply keeps_wipeAllDrbgs | with_reducible apply keeps_wipeAllKeys
    | with_reducible apply keeps_wipeRegisters | with_reducible refine Kept.foldl (fun _ _ _ => ?_) _ ?_
    | (refine Kept.written ?_ ?_; (· simp only [written_record]); refine Kept.record ?_ ?_; rotate_left;
          (· first | (dsimp only [prot]; done) | (dsimp only [prot]; (repeat' first | rfl | split); done)))
    | dsimp only | intro

theorem keeps_classC {z0 : State} {s : State} (cause : Nat) (sl : Nat) (kp : Kept z0 s) : Kept z0 (classC s cause sl) := by
  unfold classC
  repeat' first
    | with_reducible assumption | with_reducible apply keeps_leaveGroup | with_reducible apply keeps_recordAlarm
    | with_reducible apply keeps_sliceFault | dsimp only | intro

theorem keeps_refreshEntropy {z0 : State} {s : State} (kp : Kept z0 s) : Kept z0 (refreshEntropy s) := by
  unfold refreshEntropy
  repeat' first
    | with_reducible assumption | with_reducible apply keeps_classB | with_reducible apply keeps_conditionerCheck
    | with_reducible apply keeps_setEntropy | split | dsimp only | intro

end Sys2Proof.Machine
end

