-- ==== Sys2Proof/Laws/KeptJobs.lean ====
section
/-! SUPPORT. Frames: what admission, the parts, the scheduler and the run of an operation keep (`Kept`). -/
set_option linter.unusedSimpArgs false
set_option linter.unusedVariables false
namespace Sys2Proof.Machine

theorem keeps_keyChecks {z0 : State} {s : State} (j : Job) (i : Nat) (d : Desc) (k : Key) (kp : Kept z0 s) : Kept z0
    (keyChecks s j i d k).2 := by
  unfold keyChecks
  repeat' first
    | with_reducible assumption | with_reducible apply keeps_keyDamaged
    | (refine Kept.written ?_ ?_; (· simp only [written_record]); refine Kept.record ?_ ?_; rotate_left;
          (· first | (dsimp only [prot]; done) | (dsimp only [prot]; (repeat' first | rfl | split); done)))
    | split | dsimp only | intro

theorem keepsE_keyChecks {z0 : State} {s : State} {j : Job} {i : Nat} {d : Desc} {k : Key} {v z1} (he : keyChecks s j i d k
    = (v, z1)) (kp : Kept z0 s) : Kept z0 z1 := by
  have h9 := keeps_keyChecks (j := j) (i := i) (d := d) (k := k) (kp := kp)
  rw [he] at h9; exact h9

theorem keeps_exportLook {z0 : State} {s : State} (sl : Nat) (d : Desc) (kp : Kept z0 s) : Kept z0 (exportLook s sl d).2 := by
  unfold exportLook
  repeat' first
    | with_reducible assumption | with_reducible apply keeps_findKey
    | with_reducible refine keepsE_findKey (by assumption) ?_ | split | dsimp only | intro

theorem keepsE_exportLook {z0 : State} {s : State} {sl : Nat} {d : Desc} {v z1} (he : exportLook s sl d = (v, z1)) (kp :
    Kept z0 s) : Kept z0 z1 := by
  have h9 := keeps_exportLook (sl := sl) (d := d) (kp := kp)
  rw [he] at h9; exact h9

theorem keeps_checkKeyed {z0 : State} {s : State} (j : Job) (i : Nat) (d : Desc) (k : Option Key) (kp : Kept z0 s) : Kept z0
    (checkKeyed s j i d k).2 := by
  unfold checkKeyed
  cases k <;> dsimp only <;>
  repeat' first
    | with_reducible assumption | with_reducible apply keeps_keyChecks
    | with_reducible refine keepsE_keyChecks (by assumption) ?_ | with_reducible apply keeps_exportLook
    | with_reducible refine keepsE_exportLook (by assumption) ?_ | with_reducible apply keeps_askUseBlock
    | with_reducible refine Kept.foldl (fun _ _ _ => ?_) _ ?_
    | (refine Kept.written ?_ ?_; (· simp only [written_record]); refine Kept.record ?_ ?_; rotate_left;
          (· first | (dsimp only [prot]; done) | (dsimp only [prot]; (repeat' first | rfl | split); done)))
    | split | dsimp only | intro

theorem keepsE_checkKeyed {z0 : State} {s : State} {j : Job} {i : Nat} {d : Desc} {k : Option Key} {v z1} (he : checkKeyed
    s j i d k = (v, z1)) (kp : Kept z0 s) : Kept z0 z1 := by
  have h9 := keeps_checkKeyed (j := j) (i := i) (d := d) (k := k) (kp := kp)
  rw [he] at h9; exact h9

theorem keeps_checkStep {z0 : State} {s : State} (j : Job) (i : Nat) (kp : Kept z0 s) : Kept z0 (checkStep s j i).2 := by
  unfold checkStep
  repeat' first
    | with_reducible assumption | with_reducible apply keeps_checkKeyed
    | with_reducible refine keepsE_checkKeyed (by assumption) ?_ | with_reducible apply keeps_findKey
    | with_reducible refine keepsE_findKey (by assumption) ?_
    | (refine Kept.written ?_ ?_; (· simp only [written_record]); refine Kept.record ?_ ?_; rotate_left;
          (· first | (dsimp only [prot]; done) | (dsimp only [prot]; (repeat' first | rfl | split); done)))
    | split | dsimp only | intro

theorem keepsE_checkStep {z0 : State} {s : State} {j : Job} {i : Nat} {v z1} (he : checkStep s j i = (v, z1)) (kp : Kept z0
    s) : Kept z0 z1 := by
  have h9 := keeps_checkStep (j := j) (i := i) (kp := kp)
  rw [he] at h9; exact h9

theorem keeps_checkSteps {z0 : State} (j : Job) : ∀ (l : List Nat) {s : State}, Kept z0 s → Kept z0 (checkSteps j l s).2.2
  | [], _, h => h
  | p :: r, s, h => by
    unfold checkSteps
    repeat' first
      | with_reducible assumption | with_reducible refine keepsE_checkStep (by assumption) ?_ | apply keeps_checkSteps j r
      | with_reducible refine Kept.foldl (fun _ _ _ => ?_) _ ?_
      | (refine Kept.written ?_ ?_; (· simp only [written_record]); refine Kept.record ?_ ?_; rotate_left;
          (· first | (dsimp only [prot]; done) | (dsimp only [prot]; (repeat' first | rfl | split); done)))
      | split | dsimp only | intro

theorem keepsE_checkSteps {z0 : State} {j : Job} {l : List Nat} {s : State} {v w z1} (he : checkSteps j l s = (v, w, z1)) (h
    : Kept z0 s) : Kept z0 z1 := by
  have h9 := keeps_checkSteps j l h
  rw [he] at h9; exact h9

theorem keeps_grantScratch {z0 : State} {s : State} (j : Job) (need : Nat) (kp : Kept z0 s) : KeptOpt z0 (grantScratch s j
    need).1 ∧ Kept z0 (grantScratch s j need).2 := by
  unfold grantScratch
  repeat' first
    | with_reducible assumption | with_reducible refine And.intro ?_ ?_ | exact KeptOpt.none
    | with_reducible refine KeptOpt.some ?_ | exact KeptOptSnd.none | with_reducible refine KeptOptSnd.some ?_
    | with_reducible apply keeps_setJob
    | (refine Kept.written ?_ ?_; (· simp only [written_record]); refine Kept.record ?_ ?_; rotate_left;
          (· first | (dsimp only [prot]; done) | (dsimp only [prot]; (repeat' first | rfl | split); done)))
    | split | dsimp only | intro

theorem keepsE_grantScratch {z0 : State} {s : State} {j : Job} {need : Nat} {v z1} (he : grantScratch s j need = (v, z1))
    (kp : Kept z0 s) : Kept z0 z1 := by
  have h9 := (keeps_grantScratch (j := j) (need := need) (kp := kp)).2
  rw [he] at h9; exact h9

theorem keepsO_grantScratch {z0 : State} {s : State} {j : Job} {need : Nat} {v z1} (he : grantScratch s j need = (some z1,
    v)) (kp : Kept z0 s) : Kept z0 z1 := by
  have h9 := (keeps_grantScratch (j := j) (need := need) (kp := kp)).1
  rw [he] at h9; exact h9

theorem keeps_stampsDone {z0 : State} {s : State} (id : Nat) (kp : Kept z0 s) : Kept z0 (stampsDone s id) := by
  unfold stampsDone
  repeat' first
    | with_reducible assumption | with_reducible apply keeps_endJob | with_reducible apply keeps_makeReady
    | (refine Kept.written ?_ ?_; (· simp only [written_record]); refine Kept.record ?_ ?_; rotate_left;
          (· first | (dsimp only [prot]; done) | (dsimp only [prot]; (repeat' first | rfl | split); done)))
    | split | dsimp only | intro

theorem keeps_acceptAgain {z0 : State} {s : State} (j : Job) (kp : Kept z0 s) : Kept z0 (acceptAgain s j) := by
  unfold acceptAgain
  repeat' first
    | with_reducible assumption | with_reducible apply keeps_request | with_reducible apply keeps_setJob
    | with_reducible apply keeps_stampsDone
    | (refine Kept.written ?_ ?_; (· simp only [written_record]); refine Kept.record ?_ ?_; rotate_left;
          (· first | (dsimp only [prot]; done) | (dsimp only [prot]; (repeat' first | rfl | split); done)))
    | dsimp only | intro

theorem keeps_acceptNew {z0 : State} {s : State} (j : Job) (kp : Kept z0 s) : Kept z0 (acceptNew s j) := by
  unfold acceptNew
  repeat' first
    | with_reducible assumption | with_reducible apply keeps_request | with_reducible apply keeps_setJob
    | with_reducible apply keeps_updRing
    | (refine Kept.written ?_ ?_; (· simp only [written_record]); refine Kept.record ?_ ?_; rotate_left;
          (· first | (dsimp only [prot]; done) | (dsimp only [prot]; (repeat' first | rfl | split); done)))
    | split | dsimp only | intro

theorem keeps_accept {z0 : State} {s : State} (j : Job) (kp : Kept z0 s) : Kept z0 (accept s j) := by
  unfold accept
  repeat' first
    | with_reducible assumption | with_reducible apply keeps_acceptAgain | with_reducible apply keeps_acceptNew | split
    | dsimp only | intro

theorem keeps_acceptDecided {z0 : State} {s : State} (j : Job) (step : Nat) (e : Ending) (kp : Kept z0 s) : Kept z0
    (acceptDecided s j step e) := by
  unfold acceptDecided
  repeat' first
    | with_reducible assumption | with_reducible apply keeps_accept
    | (refine Kept.written ?_ ?_; (· simp only [written_record]); refine Kept.record ?_ ?_; rotate_left;
          (· first | (dsimp only [prot]; done) | (dsimp only [prot]; (repeat' first | rfl | split); done)))
    | dsimp only | intro

theorem keeps_refuse {z0 : State} {s : State} (j : Job) (step : Nat) (e : Ending) (kp : Kept z0 s) : Kept z0 (refuse s j
    step e) := by
  unfold refuse
  repeat' first
    | with_reducible assumption | with_reducible apply keeps_acceptDecided | with_reducible apply keeps_countWindow | split
    | dsimp only | intro

theorem keeps_countUses {z0 : State} {s : State} (j : Job) (kp : Kept z0 s) : Kept z0 (countUses s j) := by
  unfold countUses
  repeat' first
    | with_reducible assumption | with_reducible apply keeps_countUse
    | with_reducible refine Kept.foldl (fun _ _ _ => ?_) _ ?_
    | (refine Kept.written ?_ ?_; (· simp only [written_record]); refine Kept.record ?_ ?_; rotate_left;
          (· first | (dsimp only [prot]; done) | (dsimp only [prot]; (repeat' first | rfl | split); done)))
    | split | dsimp only | intro

theorem keeps_hold {z0 : State} {s : State} (j : Job) (kp : Kept z0 s) : Kept z0 (hold s j) := by
  unfold hold
  repeat' first
    | with_reducible assumption | with_reducible apply keeps_updJob
    | (refine Kept.written ?_ ?_; (· simp only [written_record]); refine Kept.record ?_ ?_; rotate_left;
          (· first | (dsimp only [prot]; done) | (dsimp only [prot]; (repeat' first | rfl | split); done)))
    | split | dsimp only | intro

theorem keeps_holdBlock {z0 : State} {s : State} (j : Job) (kp : Kept z0 s) : Kept z0 (holdBlock s j) := by
  unfold holdBlock
  repeat' first
    | with_reducible assumption | with_reducible apply keeps_updJob
    | (refine Kept.written ?_ ?_; (· simp only [written_record]); refine Kept.record ?_ ?_; rotate_left;
          (· first | (dsimp only [prot]; done) | (dsimp only [prot]; (repeat' first | rfl | split); done)))
    | split | dsimp only | intro

theorem keeps_assignFor {z0 : State} {s : State} (j : Job) (d : Desc) (k : Option Key) (kp : Kept z0 s) : Kept z0 (assignFor
    s j d k).2 := by
  unfold assignFor
  repeat' first
    | with_reducible assumption | with_reducible apply keeps_assign | with_reducible refine keepsE_assign (by assumption) ?_
    | split | dsimp only | intro

theorem keepsE_assignFor {z0 : State} {s : State} {j : Job} {d : Desc} {k : Option Key} {v z1} (he : assignFor s j d k =
    (v, z1)) (kp : Kept z0 s) : Kept z0 z1 := by
  have h9 := keeps_assignFor (j := j) (d := d) (k := k) (kp := kp)
  rw [he] at h9; exact h9

theorem keeps_takeValue {z0 : State} {s : State} (j : Job) (d : Desc) (n : Nat) (kp : Kept z0 s) : Kept z0 (takeValue s j d
    n).1 := by
  unfold takeValue
  repeat' first | with_reducible assumption | with_reducible apply keeps_takeAssigned | split | dsimp only | intro

theorem keepsE_takeValue {z0 : State} {s : State} {j : Job} {d : Desc} {n : Nat} {v z1} (he : takeValue s j d n = (z1, v))
    (kp : Kept z0 s) : Kept z0 z1 := by
  have h9 := keeps_takeValue (j := j) (d := d) (n := n) (kp := kp)
  rw [he] at h9; exact h9

theorem keeps_admitValue {z0 : State} {s : State} (j : Job) (kp : Kept z0 s) : Kept z0 (admitValue s j) := by
  unfold admitValue
  repeat' first
    | with_reducible assumption | with_reducible apply keeps_accept | with_reducible apply keeps_assignFor
    | with_reducible refine keepsE_assignFor (by assumption) ?_ | with_reducible apply keeps_countUses
    | (with_reducible apply And.left; with_reducible apply keeps_grantScratch)
    | (with_reducible apply And.right; with_reducible apply keeps_grantScratch)
    | with_reducible refine keepsE_grantScratch (by assumption) ?_
    | with_reducible refine keepsO_grantScratch (by assumption) ?_ | with_reducible apply keeps_holdBlock
    | with_reducible apply keeps_refuse | with_reducible apply keeps_takeValue
    | with_reducible refine keepsE_takeValue (by assumption) ?_
    | (refine Kept.written ?_ ?_; (· simp only [written_record]); refine Kept.record ?_ ?_; rotate_left;
          (· first | (dsimp only [prot]; done) | (dsimp only [prot]; (repeat' first | rfl | split); done)))
    | split | dsimp only | intro

theorem keeps_tryAdmit {z0 : State} {s : State} (j : Job) (kp : Kept z0 s) : Kept z0 (tryAdmit s j) := by
  unfold tryAdmit
  repeat' first
    | with_reducible assumption | with_reducible apply keeps_acceptDecided | with_reducible apply keeps_admitValue
    | with_reducible apply keeps_checkSteps | with_reducible refine keepsE_checkSteps (by assumption) ?_
    | with_reducible apply keeps_hold | with_reducible apply keeps_refuse | with_reducible apply keeps_sliceFault
    | (refine Kept.written ?_ ?_; (· simp only [written_record]); refine Kept.record ?_ ?_; rotate_left;
          (· first | (dsimp only [prot]; done) | (dsimp only [prot]; (repeat' first | rfl | split); done)))
    | split | dsimp only | intro

theorem keeps_execAdmission {z0 : State} (job : Nat) {s : State} (kp : Kept z0 s) : KeptRes z0 (execAdmission job s) := by
  unfold execAdmission
  repeat' first
    | with_reducible assumption | exact trivial | with_reducible refine KeptRes.next ?_ | with_reducible apply keeps_tryAdmit
    | (refine Kept.written ?_ ?_; (· simp only [written_record]); refine Kept.record ?_ ?_; rotate_left;
          (· first | (dsimp only [prot]; done) | (dsimp only [prot]; (repeat' first | rfl | split); done)))
    | split | dsimp only | intro

theorem keeps_closeOldPeriods {z0 : State} {s : State} (r : Nat) (kp : Kept z0 s) : Kept z0 (closeOldPeriods s r) := by
  unfold closeOldPeriods
  repeat' first
    | with_reducible assumption
    | (refine Kept.written ?_ ?_; (· simp only [written_record]); refine Kept.record ?_ ?_; rotate_left;
          (· first | (dsimp only [prot]; done) | (dsimp only [prot]; (repeat' first | rfl | split); done)))
    | split | dsimp only | intro

theorem keeps_startCadence {z0 : State} {s : State} (r : Nat) (kp : Kept z0 s) : Kept z0 (startCadence s r) := by
  unfold startCadence
  repeat' first
    | with_reducible assumption | with_reducible apply keeps_closeOldPeriods | with_reducible apply keeps_updCad
    | (refine Kept.written ?_ ?_; (· simp only [written_record]); refine Kept.record ?_ ?_; rotate_left;
          (· first | (dsimp only [prot]; done) | (dsimp only [prot]; (repeat' first | rfl | split); done)))
    | split | dsimp only | intro

theorem keeps_execCadenceStart {z0 : State} (ring : Nat) {s : State} (kp : Kept z0 s) : KeptRes z0 (execCadenceStart ring s)
    := by
  unfold execCadenceStart
  repeat' first
    | with_reducible assumption | exact trivial | with_reducible refine KeptRes.next ?_
    | with_reducible apply keeps_portAccess | with_reducible apply keeps_regWrite | with_reducible apply keeps_startCadence
    | dsimp only | intro

theorem keeps_execCadenceStop {z0 : State} (ring : Nat) {s : State} (kp : Kept z0 s) : KeptRes z0 (execCadenceStop ring s) := by
  unfold execCadenceStop
  repeat' first
    | with_reducible assumption | exact trivial | with_reducible refine KeptRes.next ?_
    | with_reducible apply keeps_portAccess | with_reducible apply keeps_regWrite | with_reducible apply keeps_stopCadence
    | with_reducible apply keeps_updCad
    | (refine Kept.written ?_ ?_; (· simp only [written_record]); refine Kept.record ?_ ?_; rotate_left;
          (· first | (dsimp only [prot]; done) | (dsimp only [prot]; (repeat' first | rfl | split); done)))
    | split | dsimp only | intro

theorem keeps_execCadenceOrigin {z0 : State} (ring : Nat) {s : State} (kp : Kept z0 s) : KeptRes z0 (execCadenceOrigin ring
    s) := by
  unfold execCadenceOrigin
  repeat' first
    | with_reducible assumption | exact trivial | with_reducible refine KeptRes.next ?_
    | with_reducible apply keeps_openPeriod | split | dsimp only | intro

theorem keeps_execPeriodEnd {z0 : State} (ring : Nat) {s : State} (kp : Kept z0 s) : KeptRes z0 (execPeriodEnd ring s) := by
  unfold execPeriodEnd
  repeat' first
    | with_reducible assumption | exact trivial | with_reducible refine KeptRes.next ?_
    | with_reducible apply keeps_openPeriod | with_reducible apply keeps_updCad
    | (refine Kept.written ?_ ?_; (· simp only [written_record]); refine Kept.record ?_ ?_; rotate_left;
          (· first | (dsimp only [prot]; done) | (dsimp only [prot]; (repeat' first | rfl | split); done)))
    | split | dsimp only | intro

theorem keeps_execCadenceLost {z0 : State} (ring : Nat) {s : State} (kp : Kept z0 s) : KeptRes z0 (execCadenceLost ring s) := by
  unfold execCadenceLost
  repeat' first
    | with_reducible assumption | exact trivial | with_reducible refine KeptRes.next ?_
    | with_reducible apply keeps_reportLost | split | dsimp only | intro

theorem keeps_execTrefStop {z0 : State} {s : State} (kp : Kept z0 s) : KeptRes z0 (execTrefStop s) := by
  unfold execTrefStop
  repeat' first
    | with_reducible assumption | exact trivial | with_reducible refine KeptRes.next ?_
    | with_reducible apply keeps_reportLost | with_reducible refine Kept.foldl (fun _ _ _ => ?_) _ ?_
    | (refine Kept.written ?_ ?_; (· simp only [written_record]); refine Kept.record ?_ ?_; rotate_left;
          (· first | (dsimp only [prot]; done) | (dsimp only [prot]; (repeat' first | rfl | split); done)))
    | split | dsimp only | intro

theorem keeps_regainGrid {z0 : State} {s : State} (r : Nat) (kp : Kept z0 s) : Kept z0 (regainGrid s r) := by
  unfold regainGrid
  repeat' first
    | with_reducible assumption | with_reducible apply keeps_logLost | with_reducible apply keeps_openOnGrid
    | with_reducible apply keeps_updCad
    | (refine Kept.written ?_ ?_; (· simp only [written_record]); refine Kept.record ?_ ?_; rotate_left;
          (· first | (dsimp only [prot]; done) | (dsimp only [prot]; (repeat' first | rfl | split); done)))
    | split | dsimp only | intro

theorem keeps_regainOrigin {z0 : State} {s : State} (r : Nat) (kp : Kept z0 s) : Kept z0 (regainOrigin s r) := by
  unfold regainOrigin
  repeat' first
    | with_reducible assumption | with_reducible apply keeps_updCad
    | (refine Kept.written ?_ ?_; (· simp only [written_record]); refine Kept.record ?_ ?_; rotate_left;
          (· first | (dsimp only [prot]; done) | (dsimp only [prot]; (repeat' first | rfl | split); done)))
    | split | dsimp only | intro

theorem keeps_execTrefReturn {z0 : State} {s : State} (kp : Kept z0 s) : KeptRes z0 (execTrefReturn s) := by
  unfold execTrefReturn
  repeat' first
    | with_reducible assumption | exact trivial | with_reducible refine KeptRes.next ?_
    | with_reducible apply keeps_regainGrid | with_reducible apply keeps_regainOrigin
    | with_reducible refine Kept.foldl (fun _ _ _ => ?_) _ ?_
    | (refine Kept.written ?_ ?_; (· simp only [written_record]); refine Kept.record ?_ ?_; rotate_left;
          (· first | (dsimp only [prot]; done) | (dsimp only [prot]; (repeat' first | rfl | split); done)))
    | split | dsimp only | intro

theorem keeps_kindGoneJob {z0 : State} (k : Engine) {s : State} (id : Nat) (kp : Kept z0 s) : Kept z0 (kindGoneJob k s id) := by
  unfold kindGoneJob
  repeat' first
    | with_reducible assumption | with_reducible apply keeps_failStep
    | (refine Kept.written ?_ ?_; (· simp only [written_record]); refine Kept.record ?_ ?_; rotate_left;
          (· first | (dsimp only [prot]; done) | (dsimp only [prot]; (repeat' first | rfl | split); done)))
    | split | dsimp only | intro

theorem keeps_sweepKind {z0 : State} {s : State} (k : Engine) (kp : Kept z0 s) : Kept z0 (sweepKind s k) := by
  unfold sweepKind
  repeat' first
    | with_reducible assumption | with_reducible apply keeps_kindGoneJob
    | with_reducible refine Kept.foldl (fun _ _ _ => ?_) _ ?_ | split | dsimp only | intro

theorem keeps_sendToTest {z0 : State} {s : State} (p : Engine × Nat) (kp : Kept z0 s) : Kept z0 (sendToTest s p) := by
  unfold sendToTest
  repeat' first
    | with_reducible assumption | with_reducible apply keeps_updPart
    | (refine Kept.written ?_ ?_; (· simp only [written_record]); refine Kept.record ?_ ?_; rotate_left;
          (· first | (dsimp only [prot]; done) | (dsimp only [prot]; (repeat' first | rfl | split); done)))
    | dsimp only | intro

theorem keeps_recoverJob {z0 : State} {s : State} (j : Job) (p : Engine × Nat) (alarm : Bool) (kp : Kept z0 s) : Kept z0
    (recoverJob s j p alarm) := by
  unfold recoverJob
  repeat' first
    | with_reducible assumption | with_reducible apply keeps_failStep | with_reducible apply keeps_recovered
    | with_reducible apply keeps_rerunJob | with_reducible apply keeps_sendToTest | with_reducible apply keeps_setJob
    | with_reducible refine Kept.foldl (fun _ _ _ => ?_) _ ?_
    | (refine Kept.written ?_ ?_; (· simp only [written_record]); refine Kept.record ?_ ?_; rotate_left;
          (· first | (dsimp only [prot]; done) | (dsimp only [prot]; (repeat' first | rfl | split); done)))
    | split | dsimp only | intro

theorem keeps_fencePart {z0 : State} {s : State} (p : Engine × Nat) (why : FenceSt) (kp : Kept z0 s) : Kept z0 (fencePart s
    p why) := by
  unfold fencePart
  repeat' first
    | with_reducible assumption | with_reducible apply keeps_abandonBuild | with_reducible apply keeps_abandonSeal
    | with_reducible apply keeps_notifyManager | with_reducible apply keeps_revoke | with_reducible apply keeps_updPart
    | with_reducible apply keeps_writeLog
    | (refine Kept.written ?_ ?_; (· simp only [written_record]); refine Kept.record ?_ ?_; rotate_left;
          (· first | (dsimp only [prot]; done) | (dsimp only [prot]; (repeat' first | rfl | split); done)))
    | split | dsimp only | intro

theorem keeps_partFault {z0 : State} {s : State} (k : Engine) (n : Nat) (why : FenceSt) (kp : Kept z0 s) : Kept z0
    (partFault s k n why) := by
  unfold partFault
  repeat' first
    | with_reducible assumption | with_reducible apply keeps_classB | with_reducible apply keeps_fencePart
    | with_reducible apply keeps_recoverJob | with_reducible apply keeps_sweepKind | with_reducible apply keeps_updPart
    | (refine Kept.written ?_ ?_; (· simp only [written_record]); refine Kept.record ?_ ?_; rotate_left;
          (· first | (dsimp only [prot]; done) | (dsimp only [prot]; (repeat' first | rfl | split); done)))
    | split | dsimp only | intro

theorem keeps_takeTurn {z0 : State} {s : State} (k : Engine) (j : Job) (kp : Kept z0 s) : Kept z0 (takeTurn s k j) := by
  unfold takeTurn
  repeat' first
    | with_reducible assumption
    | (refine Kept.written ?_ ?_; (· simp only [written_record]); refine Kept.record ?_ ?_; rotate_left;
          (· first | (dsimp only [prot]; done) | (dsimp only [prot]; (repeat' first | rfl | split); done)))
    | dsimp only | intro

theorem keeps_charge {z0 : State} {s : State} (j : Job) (k : Engine) (x : Nat) (kp : Kept z0 s) : Kept z0 (charge s j k x) := by
  unfold charge
  repeat' first | with_reducible assumption | with_reducible apply keeps_setVt | split | dsimp only | intro

theorem keeps_chargeRest {z0 : State} {s : State} (j : Job) (d : Desc) (c : List Nat × List Nat) (kp : Kept z0 s) : Kept z0
    (chargeRest s j d c) := by
  unfold chargeRest
  repeat' first
    | with_reducible assumption | with_reducible apply keeps_charge
    | (refine Kept.written ?_ ?_; (· simp only [written_record]); refine Kept.record ?_ ?_; rotate_left;
          (· first | (dsimp only [prot]; done) | (dsimp only [prot]; (repeat' first | rfl | split); done)))
    | split | dsimp only | intro

theorem keeps_seedLane {z0 : State} {s : State} (k : Engine) (kp : Kept z0 s) : Kept z0 (seedLane s k) := by
  unfold seedLane
  repeat' first
    | with_reducible assumption | with_reducible apply keeps_drawRandom
    | with_reducible refine keepsE_drawRandom (by assumption) ?_
    | (refine Kept.written ?_ ?_; (· simp only [written_record]); refine Kept.record ?_ ?_; rotate_left;
          (· first | (dsimp only [prot]; done) | (dsimp only [prot]; (repeat' first | rfl | split); done)))
    | split | dsimp only | intro

theorem keeps_setHmac {z0 : State} {s : State} (es : List HmacEntry) (kp : Kept z0 s) : Kept z0 (setHmac s es) := by
  unfold setHmac
  repeat' first
    | with_reducible assumption
    | (refine Kept.written ?_ ?_; (· simp only [written_record]); refine Kept.record ?_ ?_; rotate_left;
          (· first | (dsimp only [prot]; done) | (dsimp only [prot]; (repeat' first | rfl | split); done)))
    | dsimp only | intro

theorem keeps_findHmac {z0 : State} {s : State} (k : Key) (code : Nat) (kp : Kept z0 s) : Kept z0 (findHmac s k code).2 := by
  unfold findHmac
  repeat' first
    | with_reducible assumption | with_reducible apply keeps_setHmac
    | (refine Kept.written ?_ ?_; (· simp only [written_record]); refine Kept.record ?_ ?_; rotate_left;
          (· first | (dsimp only [prot]; done) | (dsimp only [prot]; (repeat' first | rfl | split); done)))
    | split | dsimp only | intro

theorem keepsE_findHmac {z0 : State} {s : State} {k : Key} {code : Nat} {v z1} (he : findHmac s k code = (v, z1)) (kp :
    Kept z0 s) : Kept z0 z1 := by
  have h9 := keeps_findHmac (k := k) (code := code) (kp := kp)
  rw [he] at h9; exact h9

theorem keeps_storeHmac {z0 : State} {s : State} (k : Key) (code : Nat) (kp : Kept z0 s) : Kept z0 (storeHmac s k code) := by
  unfold storeHmac
  repeat' first | with_reducible assumption | with_reducible apply keeps_setHmac | split | dsimp only | intro

theorem keeps_takeKey {z0 s : State} (k : Key) (hmacOp : Option Nat) (bad : Bool) (kp : Kept z0 s) : Kept z0 (takeKey s k
    hmacOp bad).2 := by
  have h0 : ∀ x, hmacOp.map (findHmac s k) = x → Kept z0 ((x.map (·.2)).getD s) := by
    intro x hx
    subst hx
    cases hmacOp with
    | none => exact kp
    | some c => exact keeps_findHmac _ _ kp
  unfold takeKey
  split
  · rename_i e
    exact h0 _ e
  · rename_i e
    have k1 := h0 _ rfl
    generalize (hmacOp.map (findHmac s k)).map (·.2) = y at k1 ⊢
    repeat' first
      | with_reducible assumption | with_reducible apply keeps_keyDamaged | with_reducible apply keeps_storeHmac | split
      | dsimp only

theorem keepsE_takeKey {z0 : State} {s : State} {k : Key} {hmacOp : Option Nat} {bad : Bool} {v z1} (he : takeKey s k
    hmacOp bad = (v, z1)) (kp : Kept z0 s) : Kept z0 z1 := by
  have h9 := keeps_takeKey (k := k) (hmacOp := hmacOp) (bad := bad) (kp := kp)
  rw [he] at h9; exact h9

theorem keeps_loadKey {z0 : State} {s : State} (j : Job) (kp : Kept z0 s) : Kept z0 (loadKey s j).2 := by
  unfold loadKey
  repeat' first
    | with_reducible assumption | with_reducible apply keeps_findKey
    | with_reducible refine keepsE_findKey (by assumption) ?_ | with_reducible apply keeps_takeKey
    | with_reducible refine keepsE_takeKey (by assumption) ?_
    | (refine Kept.written ?_ ?_; (· simp only [written_record]); refine Kept.record ?_ ?_; rotate_left;
          (· first | (dsimp only [prot]; done) | (dsimp only [prot]; (repeat' first | rfl | split); done)))
    | split | dsimp only | intro

theorem keepsE_loadKey {z0 : State} {s : State} {j : Job} {v z1} (he : loadKey s j = (v, z1)) (kp : Kept z0 s) : Kept z0 z1
    := by
  have h9 := keeps_loadKey (j := j) (kp := kp)
  rw [he] at h9; exact h9

theorem keeps_startStep {z0 : State} {s : State} (j : Job) (k : Engine) (n : Nat) (key : Option Key) (kp : Kept z0 s) : Kept
    z0 (startStep s j k n key) := by
  unfold startStep
  repeat' first
    | with_reducible assumption | with_reducible apply keeps_charge | with_reducible apply keeps_fetchOperands
    | with_reducible apply keeps_seedLane | with_reducible apply keeps_setJob | with_reducible apply keeps_takeTurn
    | with_reducible apply keeps_updPart
    | (refine Kept.written ?_ ?_; (· simp only [written_record]); refine Kept.record ?_ ?_; rotate_left;
          (· first | (dsimp only [prot]; done) | (dsimp only [prot]; (repeat' first | rfl | split); done)))
    | split | dsimp only | intro

theorem keeps_takeMore {z0 : State} {s : State} (j : Job) (k : Engine) (n : Nat) (kp : Kept z0 s) : Kept z0 (takeMore s j k
    n) := by
  unfold takeMore
  repeat' first
    | with_reducible assumption | with_reducible apply keeps_charge | with_reducible apply keeps_gainWork
    | with_reducible apply keeps_seedLane | with_reducible apply keeps_setJob | with_reducible apply keeps_takeTurn
    | with_reducible apply keeps_updPart
    | (refine Kept.written ?_ ?_; (· simp only [written_record]); refine Kept.record ?_ ?_; rotate_left;
          (· first | (dsimp only [prot]; done) | (dsimp only [prot]; (repeat' first | rfl | split); done)))
    | split | dsimp only | intro

theorem keeps_dispatch {z0 : State} {s : State} (j : Job) (k : Engine) (n : Nat) (kp : Kept z0 s) : Kept z0 (dispatch s j k
    n) := by
  unfold dispatch
  repeat' first
    | with_reducible assumption | with_reducible apply keeps_failStep | with_reducible apply keeps_gainWork
    | with_reducible apply keeps_loadKey | with_reducible refine keepsE_loadKey (by assumption) ?_
    | with_reducible apply keeps_setJob | with_reducible apply keeps_startStep | with_reducible apply keeps_takeMore
    | (refine Kept.written ?_ ?_; (· simp only [written_record]); refine Kept.record ?_ ?_; rotate_left;
          (· first | (dsimp only [prot]; done) | (dsimp only [prot]; (repeat' first | rfl | split); done)))
    | split | dsimp only | intro

theorem keeps_dispatchSeal {z0 : State} {s : State} (k : Engine) (n : Nat) (kp : Kept z0 s) : KeptOpt z0 (dispatchSeal s k
    n) := by
  unfold dispatchSeal
  repeat' first
    | with_reducible assumption | with_reducible refine KeptOpt.map (fun _ => ?_) | exact KeptOpt.none
    | with_reducible refine KeptOpt.some ?_ | with_reducible apply keeps_seedLane | with_reducible apply keeps_updPart
    | (refine Kept.written ?_ ?_; (· simp only [written_record]); refine Kept.record ?_ ?_; rotate_left;
          (· first | (dsimp only [prot]; done) | (dsimp only [prot]; (repeat' first | rfl | split); done)))
    | split | dsimp only | intro

theorem keeps_startBuild {z0 : State} {s : State} (b : TreeBuild) (n : Nat) (kp : Kept z0 s) : Kept z0 (startBuild s b n) := by
  unfold startBuild
  repeat' first
    | with_reducible assumption | with_reducible apply keeps_setBuilds | with_reducible apply keeps_setVt
    | with_reducible apply keeps_updPart
    | (refine Kept.written ?_ ?_; (· simp only [written_record]); refine Kept.record ?_ ?_; rotate_left;
          (· first | (dsimp only [prot]; done) | (dsimp only [prot]; (repeat' first | rfl | split); done)))
    | split | dsimp only | intro

theorem keeps_dispatchBuild {z0 : State} {s : State} (k : Engine) (n : Nat) (kp : Kept z0 s) : KeptOpt z0 (dispatchBuild s k
    n) := by
  unfold dispatchBuild
  repeat' first
    | with_reducible assumption | with_reducible refine KeptOpt.map (fun _ => ?_) | exact KeptOpt.none
    | with_reducible refine KeptOpt.some ?_ | with_reducible apply keeps_startBuild | split | dsimp only | intro

theorem KeptOpt.or {r : State} {a b : Option State} (h : KeptOpt r a) (k : KeptOpt r b) : KeptOpt r (a.or b) := by
  cases a with
  | none => exact k
  | some x => exact h

theorem keeps_execJobDispatch {z0 s : State} (kind : Engine) (part : Nat) (kp : Kept z0 s) : KeptRes z0 (execJobDispatch
    kind part s) := by
  have k := keeps_noteWork kp
  have h := KeptOpt.or (keeps_dispatchSeal kind part k) (keeps_dispatchBuild kind part k)
  unfold execJobDispatch
  dsimp only
  split
  · exact k
  · split
    · rename_i e
      rw [e] at h
      exact keeps_noteWork h
    · split
      · exact k
      · split
        · exact keeps_noteWork (keeps_failStep _ _ k)
        · exact keeps_noteWork (keeps_dispatch _ _ _ k)

theorem keeps_seedInstance {z0 : State} {s : State} (n : Nat) (extra : Bytes) (kp : Kept z0 s) : KeptOpt z0 (seedInstance s
    n extra).1 ∧ Kept z0 (seedInstance s n extra).2 := by
  unfold seedInstance
  repeat' first
    | with_reducible assumption | with_reducible refine And.intro ?_ ?_ | exact KeptOpt.none
    | with_reducible refine KeptOpt.some ?_ | exact KeptOptSnd.none | with_reducible refine KeptOptSnd.some ?_
    | with_reducible apply keeps_askSerials | with_reducible apply keeps_reseedIfDue | with_reducible apply keeps_seedFrom
    | split | dsimp only | intro

theorem keepsE_seedInstance {z0 : State} {s : State} {n : Nat} {extra : Bytes} {v z1} (he : seedInstance s n extra = (v,
    z1)) (kp : Kept z0 s) : Kept z0 z1 := by
  have h9 := (keeps_seedInstance (n := n) (extra := extra) (kp := kp)).2
  rw [he] at h9; exact h9

theorem keepsO_seedInstance {z0 : State} {s : State} {n : Nat} {extra : Bytes} {v z1} (he : seedInstance s n extra = (some
    z1, v)) (kp : Kept z0 s) : Kept z0 z1 := by
  have h9 := (keeps_seedInstance (n := n) (extra := extra) (kp := kp)).1
  rw [he] at h9; exact h9

theorem keeps_readyInstance {z0 s : State} (j : Job) (d : Desc) (kp : Kept z0 s) :
    (∀ p, (readyInstance s j d).1 = some p → Kept z0 p.1) ∧ Kept z0 (readyInstance s j d).2 := by
  unfold readyInstance
  dsimp only
  repeat' first
    | with_reducible refine And.intro ?_ ?_ | (intro p hp; cases hp) | with_reducible assumption
    | with_reducible refine keepsE_seedInstance (by assumption) ?_
    | with_reducible refine keepsO_seedInstance (by assumption) ?_ | with_reducible apply keeps_setDrbg | split | dsimp only

theorem keeps_randomWork {z0 s : State} (j : Job) (d : Desc) (kp : Kept z0 s) :
    KeptOptSnd z0 (randomWork s j d).1 ∧ Kept z0 (randomWork s j d).2 := by
  unfold randomWork
  have h := keeps_readyInstance j d kp
  split
  · rename_i e
    rw [e] at h
    exact ⟨KeptOptSnd.none, h.2⟩
  · rename_i u x t e
    rw [e] at h
    have k := h.1 _ rfl
    split
    · exact ⟨KeptOptSnd.some k, k⟩
    · exact ⟨KeptOptSnd.some (keeps_setDrbg _ _ k), keeps_setDrbg _ _ k⟩

theorem keepsE_randomWork {z0 : State} {s : State} {j : Job} {d : Desc} {v z1} (he : randomWork s j d = (v, z1)) (kp : Kept
    z0 s) : Kept z0 z1 := by
  have h9 := (keeps_randomWork (j := j) (d := d) (kp := kp)).2
  rw [he] at h9; exact h9

theorem keepsO_randomWork {z0 : State} {s : State} {j : Job} {d : Desc} {w v z1} (he : randomWork s j d = (some (w, z1),
    v)) (kp : Kept z0 s) : Kept z0 z1 := by
  have h9 := (keeps_randomWork (j := j) (d := d) (kp := kp)).1
  rw [he] at h9; exact h9

theorem keeps_stepDone {z0 : State} {s : State} (j : Job) (kp : Kept z0 s) : Kept z0 (stepDone s j) := by
  unfold stepDone
  repeat' first
    | with_reducible assumption | with_reducible apply keeps_draw | with_reducible refine keepsE_draw (by assumption) ?_
    | with_reducible apply keeps_endJob | with_reducible apply keeps_endWith | with_reducible apply keeps_failStep
    | with_reducible apply keeps_freeParts | with_reducible apply keeps_makeReady
    | (refine Kept.written ?_ ?_; (· simp only [written_record]); refine Kept.record ?_ ?_; rotate_left;
          (· first | (dsimp only [prot]; done) | (dsimp only [prot]; (repeat' first | rfl | split); done)))
    | split | dsimp only | intro

theorem keeps_stepOver {z0 : State} {s : State} (id : Nat) (kp : Kept z0 s) : Kept z0 (stepOver s id) := by
  unfold stepOver
  repeat' first
    | with_reducible assumption | with_reducible apply keeps_stepDone
    | (refine Kept.written ?_ ?_; (· simp only [written_record]); refine Kept.record ?_ ?_; rotate_left;
          (· first | (dsimp only [prot]; done) | (dsimp only [prot]; (repeat' first | rfl | split); done)))
    | split | dsimp only | intro

theorem keeps_issueResults {z0 : State} {s : State} (j : Job) (ws : List (Nat × Bytes)) (kp : Kept z0 s) : KeptOpt z0
    (issueResults s j ws) := by
  unfold issueResults
  repeat' first
    | with_reducible assumption | exact KeptOpt.none | with_reducible refine KeptOpt.some ?_
    | with_reducible apply keeps_request | split | dsimp only | intro

theorem keepsE_issueResults {z0 : State} {s : State} {j : Job} {ws : List (Nat × Bytes)} {z1} (he : issueResults s j ws =
    some z1) (kp : Kept z0 s) : Kept z0 z1 := by
  have h9 := keeps_issueResults (j := j) (ws := ws) (kp := kp)
  rw [he] at h9; exact h9

theorem keeps_giveUpParts {z0 : State} {s : State} (j : Job) (kp : Kept z0 s) : Kept z0 (giveUpParts s j).1 := by
  unfold giveUpParts
  repeat' first
    | with_reducible assumption | with_reducible apply keeps_freeParts
    | (refine Kept.written ?_ ?_; (· simp only [written_record]); refine Kept.record ?_ ?_; rotate_left;
          (· first | (dsimp only [prot]; done) | (dsimp only [prot]; (repeat' first | rfl | split); done)))
    | dsimp only | intro

theorem keepsE_giveUpParts {z0 : State} {s : State} {j : Job} {v z1} (he : giveUpParts s j = (z1, v)) (kp : Kept z0 s) :
    Kept z0 z1 := by
  have h9 := keeps_giveUpParts (j := j) (kp := kp)
  rw [he] at h9; exact h9

theorem keeps_startResults {z0 : State} {s : State} (j : Job) (released : Nat) (kp : Kept z0 s) : Kept z0 (startResults s j
    released) := by
  unfold startResults
  repeat' first
    | with_reducible assumption | with_reducible apply keeps_countWindow | with_reducible apply keeps_failStep
    | with_reducible apply keeps_giveUpParts | with_reducible refine keepsE_giveUpParts (by assumption) ?_
    | with_reducible apply keeps_issueResults | with_reducible refine keepsE_issueResults (by assumption) ?_
    | with_reducible apply keeps_setJob | with_reducible apply keeps_stepOver
    | (refine Kept.written ?_ ?_; (· simp only [written_record]); refine Kept.record ?_ ?_; rotate_left;
          (· first | (dsimp only [prot]; done) | (dsimp only [prot]; (repeat' first | rfl | split); done)))
    | split | dsimp only | intro

theorem keeps_raiseCounter {z0 : State} {s : State} (id : Nat) (m : Nat × Nat) (kp : Kept z0 s) : Kept z0 (raiseCounter s id
    m) := by
  unfold raiseCounter
  repeat' first
    | with_reducible assumption | with_reducible apply keeps_enqueue
    | (refine Kept.written ?_ ?_; (· simp only [written_record]); refine Kept.record ?_ ?_; rotate_left;
          (· first | (dsimp only [prot]; done) | (dsimp only [prot]; (repeat' first | rfl | split); done)))
    | split | dsimp only | intro

theorem keeps_afterRelease {z0 : State} {s : State} (j : Job) (released : Nat) (kp : Kept z0 s) : Kept z0 (afterRelease s j
    released) := by
  unfold afterRelease
  repeat' first
    | with_reducible assumption | with_reducible apply keeps_applyKum | with_reducible apply keeps_enqueue
    | with_reducible apply keeps_failStep | with_reducible apply keeps_findPair
    | with_reducible refine keepsE_findPair (by assumption) ?_ | with_reducible apply keeps_giveUpParts
    | with_reducible refine keepsE_giveUpParts (by assumption) ?_ | with_reducible apply keeps_joinBatch
    | with_reducible apply keeps_makeRoom | with_reducible refine keepsE_makeRoom (by assumption) ?_
    | with_reducible apply keeps_raiseCounter | with_reducible apply keeps_setJob | with_reducible apply keeps_setOrd
    | with_reducible apply keeps_startResults | with_reducible apply keeps_writePair
    | (refine Kept.written ?_ ?_; (· simp only [written_record]); refine Kept.record ?_ ?_; rotate_left;
          (· first | (dsimp only [prot]; done) | (dsimp only [prot]; (repeat' first | rfl | split); done)))
    | split | dsimp only | intro

theorem keeps_takeWork {z0 : State} {s : State} (j : Job) (d : Desc) (k : Option Key) (w : Work) (kp : Kept z0 s) : Kept z0
    (takeWork s j d k w) := by
  unfold takeWork
  repeat' first
    | with_reducible assumption | with_reducible apply keeps_chargeRest | with_reducible apply keeps_setJob
    | (refine Kept.written ?_ ?_; (· simp only [written_record]); refine Kept.record ?_ ?_; rotate_left;
          (· first | (dsimp only [prot]; done) | (dsimp only [prot]; (repeat' first | rfl | split); done)))
    | split | dsimp only | intro

theorem keeps_checkFails {z0 : State} {s : State} (j : Job) (k : Option Key) (kp : Kept z0 s) : Kept z0 (checkFails s j k) := by
  unfold checkFails
  repeat' first
    | with_reducible assumption | with_reducible apply keeps_failStep | with_reducible apply keeps_partFault
    | with_reducible apply keeps_putTagged | with_reducible apply keeps_rerunJob | with_reducible apply keeps_setJob
    | with_reducible apply keeps_writeLog
    | (refine Kept.written ?_ ?_; (· simp only [written_record]); refine Kept.record ?_ ?_; rotate_left;
          (· first | (dsimp only [prot]; done) | (dsimp only [prot]; (repeat' first | rfl | split); done)))
    | split | dsimp only | intro

theorem keeps_exportLoaded {z0 : State} {s : State} (j : Job) (d : Desc) (kp : Kept z0 s) : Kept z0 (exportLoaded s j d) := by
  unfold exportLoaded
  repeat' first
    | with_reducible assumption | with_reducible apply keeps_keyDamaged
    | (refine Kept.written ?_ ?_; (· simp only [written_record]); refine Kept.record ?_ ?_; rotate_left;
          (· first | (dsimp only [prot]; done) | (dsimp only [prot]; (repeat' first | rfl | split); done)))
    | split | dsimp only | intro

theorem keeps_computeWith {z0 : State} {s : State} (j : Job) (d : Desc) (k : Option Key) (n : Nat) (kp : Kept z0 s) : Kept
    z0 (computeWith s j d k n) := by
  unfold computeWith
  repeat' first
    | with_reducible assumption | with_reducible apply keeps_checkFails | with_reducible apply keeps_exportLoaded
    | with_reducible apply keeps_takeWork | split | dsimp only | intro

theorem keeps_drawFor {z0 : State} {s : State} (j : Job) (d : Desc) (kp : Kept z0 s) : KeptOptSnd z0 (drawFor s j d) := by
  unfold drawFor
  repeat' first
    | with_reducible assumption | exact KeptOptSnd.none | with_reducible refine KeptOptSnd.some ?_
    | with_reducible apply keeps_drawRandom | with_reducible refine keepsE_drawRandom (by assumption) ?_
    | (refine Kept.written ?_ ?_; (· simp only [written_record]); refine Kept.record ?_ ?_; rotate_left;
          (· first | (dsimp only [prot]; done) | (dsimp only [prot]; (repeat' first | rfl | split); done)))
    | split | dsimp only | intro

theorem keepsE_drawFor {z0 : State} {s : State} {j : Job} {d : Desc} {v z1} (he : drawFor s j d = some (v, z1)) (kp : Kept
    z0 s) : Kept z0 z1 := by
  have h9 := keeps_drawFor (j := j) (d := d) (kp := kp)
  rw [he] at h9; exact h9

theorem keeps_freshValue {z0 : State} {s : State} (j : Job) (d : Desc) (k : Key) (kp : Kept z0 s) : Kept z0 (freshValue s j
    d k).2 := by
  unfold freshValue
  repeat' first
    | with_reducible assumption | with_reducible apply keeps_assign | with_reducible refine keepsE_assign (by assumption) ?_
    | with_reducible apply keeps_holdBlock | with_reducible apply keeps_takeAssigned
    | (refine Kept.written ?_ ?_; (· simp only [written_record]); refine Kept.record ?_ ?_; rotate_left;
          (· first | (dsimp only [prot]; done) | (dsimp only [prot]; (repeat' first | rfl | split); done)))
    | split | dsimp only | intro

theorem keepsE_freshValue {z0 : State} {s : State} {j : Job} {d : Desc} {k : Key} {v z1} (he : freshValue s j d k = (v,
    z1)) (kp : Kept z0 s) : Kept z0 z1 := by
  have h9 := keeps_freshValue (j := j) (d := d) (k := k) (kp := kp)
  rw [he] at h9; exact h9

theorem keeps_computeNow {z0 : State} {s : State} (j : Job) (kp : Kept z0 s) : Kept z0 (computeNow s j) := by
  unfold computeNow
  repeat' first
    | with_reducible assumption | with_reducible apply keeps_computeWith | with_reducible apply keeps_draw
    | with_reducible refine keepsE_draw (by assumption) ?_ | with_reducible apply keeps_drawFor
    | with_reducible refine keepsE_drawFor (by assumption) ?_ | with_reducible apply keeps_failStep
    | (with_reducible apply And.left; with_reducible apply keeps_randomWork)
    | (with_reducible apply And.right; with_reducible apply keeps_randomWork)
    | with_reducible refine keepsE_randomWork (by assumption) ?_ | with_reducible refine keepsO_randomWork (by assumption) ?_
    | with_reducible apply keeps_takeWork | with_reducible apply keeps_writeLog
    | (refine Kept.written ?_ ?_; (· simp only [written_record]); refine Kept.record ?_ ?_; rotate_left;
          (· first | (dsimp only [prot]; done) | (dsimp only [prot]; (repeat' first | rfl | split); done)))
    | split | dsimp only | intro

theorem keeps_compute {z0 : State} {s : State} (j : Job) (kp : Kept z0 s) : Kept z0 (compute s j) := by
  unfold compute
  repeat' first
    | with_reducible assumption | with_reducible apply keeps_computeNow | with_reducible apply keeps_failStep
    | with_reducible apply keeps_freshValue | with_reducible refine keepsE_freshValue (by assumption) ?_
    | with_reducible apply keeps_setJob | with_reducible apply keeps_takeWork
    | (refine Kept.written ?_ ?_; (· simp only [written_record]); refine Kept.record ?_ ?_; rotate_left;
          (· first | (dsimp only [prot]; done) | (dsimp only [prot]; (repeat' first | rfl | split); done)))
    | split | dsimp only | intro

theorem keeps_runOp {z0 : State} (op : Nat) (id : Nat) {s : State} (kp : Kept z0 s) : KeptRes z0 (runOp op id s) := by
  unfold runOp
  repeat' first
    | with_reducible assumption | exact trivial | with_reducible refine KeptRes.next ?_ | with_reducible apply keeps_compute
    | (refine Kept.written ?_ ?_; (· simp only [written_record]); refine Kept.record ?_ ?_; rotate_left;
          (· first | (dsimp only [prot]; done) | (dsimp only [prot]; (repeat' first | rfl | split); done)))
    | split | dsimp only | intro

theorem keeps_runControl {z0 : State} (op : Nat) (id : Nat) {s : State} (kp : Kept z0 s) : KeptRes z0 (runControl op id s) := by
  unfold runControl
  repeat' first
    | with_reducible assumption | exact trivial | with_reducible refine KeptRes.next ?_
    | with_reducible apply keeps_startResults
    | (refine Kept.written ?_ ?_; (· simp only [written_record]); refine Kept.record ?_ ?_; rotate_left;
          (· first | (dsimp only [prot]; done) | (dsimp only [prot]; (repeat' first | rfl | split); done)))
    | split | dsimp only | intro

end Sys2Proof.Machine
end

