-- ==== Sys2Proof/Laws/KeptRings.lean ====
section
/-! SUPPORT. Frames: what rings, doorbells, commits, the mailbox and the entropy commands keep (`Kept`). -/
set_option linter.unusedSimpArgs false
set_option linter.unusedVariables false
namespace Sys2Proof.Machine

theorem keeps_takeProducer {z0 : State} {s : State} (r : Nat) (p : W32) (kp : Kept z0 s) : Kept z0 (takeProducer s r p) := by
  unfold takeProducer
  repeat' first
    | with_reducible assumption | with_reducible apply keeps_fetchPump | with_reducible apply keeps_updRing
    | with_reducible apply keeps_updSlice
    | (refine Kept.written ?_ ?_; (· simp only [written_record]); refine Kept.record ?_ ?_; rotate_left;
          (· first | (dsimp only [prot]; done) | (dsimp only [prot]; (repeat' first | rfl | split); done)))
    | split | dsimp only | intro

theorem keeps_takeDoorbell {z0 : State} {s : State} (r : Nat) (data : Bytes) (kp : Kept z0 s) : Kept z0 (takeDoorbell s r
    data) := by
  unfold takeDoorbell
  repeat' first
    | with_reducible assumption | with_reducible apply keeps_takeProducer | with_reducible apply keeps_updRing
    | (refine Kept.written ?_ ?_; (· simp only [written_record]); refine Kept.record ?_ ?_; rotate_left;
          (· first | (dsimp only [prot]; done) | (dsimp only [prot]; (repeat' first | rfl | split); done)))
    | dsimp only | intro

theorem keeps_missDoorbell {z0 : State} {s : State} (r : Nat) (kp : Kept z0 s) : Kept z0 (missDoorbell s r) := by
  unfold missDoorbell
  repeat' first
    | with_reducible assumption | with_reducible apply keeps_updRing
    | (refine Kept.written ?_ ?_; (· simp only [written_record]); refine Kept.record ?_ ?_; rotate_left;
          (· first | (dsimp only [prot]; done) | (dsimp only [prot]; (repeat' first | rfl | split); done)))
    | dsimp only | intro

theorem keeps_formJob {z0 : State} {s : State} (r : Nat) (bad : Option Ending) (kp : Kept z0 s) : Kept z0 (formJob s r bad)
    := by
  unfold formJob
  repeat' first
    | with_reducible assumption | with_reducible apply keeps_updRing
    | (refine Kept.written ?_ ?_; (· simp only [written_record]); refine Kept.record ?_ ?_; rotate_left;
          (· first | (dsimp only [prot]; done) | (dsimp only [prot]; (repeat' first | rfl | split); done)))
    | dsimp only | intro

theorem keeps_takeDescriptor {z0 : State} {s : State} (r : Nat) (i : Nat) (data : Bytes) (kp : Kept z0 s) : Kept z0
    (takeDescriptor s r i data) := by
  unfold takeDescriptor
  repeat' first
    | with_reducible assumption | with_reducible apply keeps_fetchPump | with_reducible apply keeps_formJob
    | with_reducible apply keeps_updRing
    | (refine Kept.written ?_ ?_; (· simp only [written_record]); refine Kept.record ?_ ?_; rotate_left;
          (· first | (dsimp only [prot]; done) | (dsimp only [prot]; (repeat' first | rfl | split); done)))
    | split | dsimp only | intro

theorem keeps_missDescriptor {z0 : State} {s : State} (r : Nat) (i : Nat) (kp : Kept z0 s) : Kept z0 (missDescriptor s r i)
    := by
  unfold missDescriptor
  repeat' first
    | with_reducible assumption | with_reducible apply keeps_fetchPump | with_reducible apply keeps_formJob
    | with_reducible apply keeps_updRing
    | (refine Kept.written ?_ ?_; (· simp only [written_record]); refine Kept.record ?_ ?_; rotate_left;
          (· first | (dsimp only [prot]; done) | (dsimp only [prot]; (repeat' first | rfl | split); done)))
    | split | dsimp only | intro

theorem keeps_takePoolHeader {z0 : State} {s : State} (sl : Nat) (base : Nat) (data : Bytes) (kp : Kept z0 s) : Kept z0
    (takePoolHeader s sl base data) := by
  unfold takePoolHeader
  repeat' first
    | with_reducible assumption | with_reducible apply keeps_fetchPump | with_reducible apply keeps_setPool
    | (refine Kept.written ?_ ?_; (· simp only [written_record]); refine Kept.record ?_ ?_; rotate_left;
          (· first | (dsimp only [prot]; done) | (dsimp only [prot]; (repeat' first | rfl | split); done)))
    | split | dsimp only | intro

theorem keeps_takePoolIndex {z0 : State} {s : State} (sl : Nat) (base : Nat) (data : Bytes) (kp : Kept z0 s) : Kept z0
    (takePoolIndex s sl base data) := by
  unfold takePoolIndex
  repeat' first
    | with_reducible assumption | with_reducible apply keeps_fetchPump | with_reducible apply keeps_setPool
    | with_reducible apply keeps_updSlice
    | (refine Kept.written ?_ ?_; (· simp only [written_record]); refine Kept.record ?_ ?_; rotate_left;
          (· first | (dsimp only [prot]; done) | (dsimp only [prot]; (repeat' first | rfl | split); done)))
    | split | dsimp only | intro

theorem keeps_failPool {z0 : State} {s : State} (r : Nat) (st : Nat) (cause : Nat) (kp : Kept z0 s) : Kept z0 (failPool s r
    st cause) := by
  unfold failPool
  repeat' first
    | with_reducible assumption | with_reducible apply keeps_fetchPump | with_reducible apply keeps_updRing
    | (refine Kept.written ?_ ?_; (· simp only [written_record]); refine Kept.record ?_ ?_; rotate_left;
          (· first | (dsimp only [prot]; done) | (dsimp only [prot]; (repeat' first | rfl | split); done)))
    | split | dsimp only | intro

theorem keeps_takePoolEntry {z0 : State} {s : State} (r : Nat) (data : Bytes) (kp : Kept z0 s) : Kept z0 (takePoolEntry s r
    data) := by
  unfold takePoolEntry
  repeat' first
    | with_reducible assumption | with_reducible apply keeps_failPool | with_reducible apply keeps_fetchPump
    | with_reducible apply keeps_returnBuffer | with_reducible apply keeps_updRing | with_reducible apply keeps_updSlice
    | (refine Kept.written ?_ ?_; (· simp only [written_record]); refine Kept.record ?_ ?_; rotate_left;
          (· first | (dsimp only [prot]; done) | (dsimp only [prot]; (repeat' first | rfl | split); done)))
    | split | dsimp only | intro

theorem keeps_namePool {z0 : State} {s : State} (r : Nat) (kp : Kept z0 s) : Kept z0 (namePool s r) := by
  unfold namePool
  repeat' first
    | with_reducible assumption | with_reducible apply keeps_request | with_reducible apply keeps_setPool | split
    | dsimp only | intro

theorem keeps_giveWatches {z0 : State} {s : State} (sl : Nat) (kp : Kept z0 s) : Kept z0 (giveWatches s sl) := by
  unfold giveWatches
  repeat' first
    | with_reducible assumption
    | (refine Kept.written ?_ ?_; (· simp only [written_record]); refine Kept.record ?_ ?_; rotate_left;
          (· first | (dsimp only [prot]; done) | (dsimp only [prot]; (repeat' first | rfl | split); done)))
    | split | dsimp only | intro

theorem keeps_dropWatches {z0 : State} {s : State} (r : Nat) (kp : Kept z0 s) : Kept z0 (dropWatches s r) := by
  unfold dropWatches
  repeat' first
    | with_reducible assumption
    | (refine Kept.written ?_ ?_; (· simp only [written_record]); refine Kept.record ?_ ?_; rotate_left;
          (· first | (dsimp only [prot]; done) | (dsimp only [prot]; (repeat' first | rfl | split); done)))
    | dsimp only | intro

theorem keeps_armRing {z0 : State} {s : State} (r : Nat) (kp : Kept z0 s) : Kept z0 (armRing s r) := by
  unfold armRing
  repeat' first
    | with_reducible assumption | with_reducible apply keeps_readDoorbell | with_reducible apply keeps_updRing
    | (refine Kept.written ?_ ?_; (· simp only [written_record]); refine Kept.record ?_ ?_; rotate_left;
          (· first | (dsimp only [prot]; done) | (dsimp only [prot]; (repeat' first | rfl | split); done)))
    | dsimp only | intro

theorem keeps_openRingNow {z0 : State} {s : State} (r : Nat) (x : Ring) (kp : Kept z0 s) : Kept z0 (openRingNow s r x) := by
  unfold openRingNow
  repeat' first
    | with_reducible assumption | with_reducible apply keeps_armRing | with_reducible apply keeps_giveWatches
    | with_reducible apply keeps_namePool | with_reducible apply keeps_setRing | with_reducible apply keeps_writeBack
    | dsimp only | intro

theorem keeps_stopFetching {z0 : State} {s : State} (r : Nat) (kp : Kept z0 s) : Kept z0 (stopFetching s r) := by
  unfold stopFetching
  repeat' first
    | with_reducible assumption | with_reducible apply keeps_dropWaiting | with_reducible apply keeps_returnBuffer
    | with_reducible apply keeps_updRing | with_reducible refine Kept.foldl (fun _ _ _ => ?_) _ ?_
    | (refine Kept.written ?_ ?_; (· simp only [written_record]); refine Kept.record ?_ ?_; rotate_left;
          (· first | (dsimp only [prot]; done) | (dsimp only [prot]; (repeat' first | rfl | split); done)))
    | dsimp only | intro

theorem keeps_closeRing {z0 : State} {s : State} (r : Nat) (kp : Kept z0 s) : Kept z0 (closeRing s r) := by
  unfold closeRing
  repeat' first
    | with_reducible assumption | with_reducible apply keeps_dropIdlePools | with_reducible apply keeps_dropUnissued
    | with_reducible apply keeps_dropWatches | with_reducible apply keeps_giveWatches | with_reducible apply keeps_updRing
    | with_reducible apply keeps_writeBack
    | (refine Kept.written ?_ ?_; (· simp only [written_record]); refine Kept.record ?_ ?_; rotate_left;
          (· first | (dsimp only [prot]; done) | (dsimp only [prot]; (repeat' first | rfl | split); done)))
    | split | dsimp only | intro

theorem keeps_failCommit {z0 : State} {s : State} (item : Nat) (kp : Kept z0 s) : Kept z0 (failCommit s item) := by
  unfold failCommit
  repeat' first
    | with_reducible assumption
    | (refine Kept.written ?_ ?_; (· simp only [written_record]); refine Kept.record ?_ ?_; rotate_left;
          (· first | (dsimp only [prot]; done) | (dsimp only [prot]; (repeat' first | rfl | split); done)))
    | dsimp only | intro

theorem keeps_snapshotCommit {z0 : State} {s : State} (contexts : Tbl Bytes) (kp : Kept z0 s) : Kept z0 (snapshotCommit s
    contexts) := by
  unfold snapshotCommit
  repeat' first
    | with_reducible assumption
    | (refine Kept.written ?_ ?_; (· simp only [written_record]); refine Kept.record ?_ ?_; rotate_left;
          (· first | (dsimp only [prot]; done) | (dsimp only [prot]; (repeat' first | rfl | split); done)))
    | dsimp only | intro

theorem keeps_requestCommit {z0 : State} {s : State} (contexts : Tbl Bytes) (kp : Kept z0 s) : Kept z0 (requestCommit s
    contexts) := by
  unfold requestCommit
  repeat' first
    | with_reducible assumption | with_reducible apply keeps_failCommit | with_reducible apply keeps_snapshotCommit
    | (refine Kept.written ?_ ?_; (· simp only [written_record]); refine Kept.record ?_ ?_; rotate_left;
          (· first | (dsimp only [prot]; done) | (dsimp only [prot]; (repeat' first | rfl | split); done)))
    | split | dsimp only | intro

theorem keeps_execCfgCommit {z0 : State} (value : W32) (contexts : Tbl Bytes) {s : State} (kp : Kept z0 s) : KeptRes z0
    (execCfgCommit value contexts s) := by
  unfold execCfgCommit
  repeat' first
    | with_reducible assumption | exact trivial | with_reducible refine KeptRes.next ?_
    | with_reducible apply keeps_portAccess | with_reducible apply keeps_regWrite | with_reducible apply keeps_requestCommit
    | split | dsimp only | intro

theorem keeps_commitCadence {z0 : State} {s : State} (e : Nat × Nat × Nat × Nat) (kp : Kept z0 s) : Kept z0 (commitCadence s
    e) := by
  unfold commitCadence
  repeat' first
    | with_reducible assumption | with_reducible apply keeps_updRing
    | (refine Kept.written ?_ ?_; (· simp only [written_record]); refine Kept.record ?_ ?_; rotate_left;
          (· first | (dsimp only [prot]; done) | (dsimp only [prot]; (repeat' first | rfl | split); done)))
    | split | dsimp only | intro

theorem keeps_applyCommit {z0 : State} {s : State} (c : CfgImage) (tab : Option (List VecEntry)) (kp : Kept z0 s) : Kept z0
    (applyCommit s c tab) := by
  unfold applyCommit
  repeat' first
    | with_reducible assumption | with_reducible apply keeps_commitCadence | with_reducible apply keeps_fetchPump
    | with_reducible apply keeps_giveWatches | with_reducible apply keeps_notifyManager
    | with_reducible refine Kept.foldl (fun _ _ _ => ?_) _ ?_
    | (refine Kept.written ?_ ?_; (· simp only [written_record]); refine Kept.record ?_ ?_; rotate_left;
          (· first | (dsimp only [prot]; done) | (dsimp only [prot]; (repeat' first | rfl | split); done)))
    | split | dsimp only | intro

theorem keeps_execCommitTakesEffect {z0 : State} (table : ReadOutcome) {s : State} (kp : Kept z0 s) : KeptRes z0
    (execCommitTakesEffect table s) := by
  unfold execCommitTakesEffect
  repeat' first
    | with_reducible assumption | exact trivial | with_reducible refine KeptRes.next ?_
    | with_reducible apply keeps_applyCommit | with_reducible apply keeps_emit | with_reducible apply keeps_failCommit
    | (refine Kept.written ?_ ?_; (· simp only [written_record]); refine Kept.record ?_ ?_; rotate_left;
          (· first | (dsimp only [prot]; done) | (dsimp only [prot]; (repeat' first | rfl | split); done)))
    | split | dsimp only | intro

theorem keeps_execTbGridDefault {z0 : State} (value : W32) {s : State} (kp : Kept z0 s) : KeptRes z0 (execTbGridDefault
    value s) := by
  unfold execTbGridDefault
  repeat' first
    | with_reducible assumption | exact trivial | with_reducible refine KeptRes.next ?_
    | with_reducible apply keeps_portAccess | with_reducible apply keeps_regWrite
    | (refine Kept.written ?_ ?_; (· simp only [written_record]); refine Kept.record ?_ ?_; rotate_left;
          (· first | (dsimp only [prot]; done) | (dsimp only [prot]; (repeat' first | rfl | split); done)))
    | split | dsimp only | intro

theorem keeps_execNop {z0 : State} (job : Nat) {s : State} (kp : Kept z0 s) : KeptRes z0 (execNop job s) := by
  unfold execNop
  repeat' first
    | with_reducible assumption | exact trivial | with_reducible refine KeptRes.next ?_
    | with_reducible apply keeps_runControl | dsimp only | intro

theorem keeps_execFence {z0 : State} (job : Nat) {s : State} (kp : Kept z0 s) : KeptRes z0 (execFence job s) := by
  unfold execFence
  repeat' first
    | with_reducible assumption | exact trivial | with_reducible refine KeptRes.next ?_
    | with_reducible apply keeps_runControl | dsimp only | intro

theorem keeps_execSnoopNotification {z0 : State} (port : Nat) (line : Nat) {s : State} (kp : Kept z0 s) : KeptRes z0
    (execSnoopNotification port line s) := by
  unfold execSnoopNotification
  repeat' first
    | with_reducible assumption | exact trivial | with_reducible refine KeptRes.next ?_ | with_reducible apply keeps_emit
    | with_reducible apply keeps_readDoorbell | with_reducible refine Kept.foldl (fun _ _ _ => ?_) _ ?_
    | (refine Kept.written ?_ ?_; (· simp only [written_record]); refine Kept.record ?_ ?_; rotate_left;
          (· first | (dsimp only [prot]; done) | (dsimp only [prot]; (repeat' first | rfl | split); done)))
    | split | dsimp only | intro

theorem keeps_execPollIntervalExpiry {z0 : State} (ring : Nat) {s : State} (kp : Kept z0 s) : KeptRes z0
    (execPollIntervalExpiry ring s) := by
  unfold execPollIntervalExpiry
  repeat' first
    | with_reducible assumption | exact trivial | with_reducible refine KeptRes.next ?_ | with_reducible apply keeps_armRing
    | split | dsimp only | intro

theorem keeps_execPoolPollExpiry {z0 : State} (ring : Nat) {s : State} (kp : Kept z0 s) : KeptRes z0 (execPoolPollExpiry
    ring s) := by
  unfold execPoolPollExpiry
  repeat' first
    | with_reducible assumption | exact trivial | with_reducible refine KeptRes.next ?_ | with_reducible apply keeps_request
    | with_reducible apply keeps_updRing
    | (refine Kept.written ?_ ?_; (· simp only [written_record]); refine Kept.record ?_ ?_; rotate_left;
          (· first | (dsimp only [prot]; done) | (dsimp only [prot]; (repeat' first | rfl | split); done)))
    | split | dsimp only | intro

theorem keeps_execCoalesceTimeout {z0 : State} (ring : Nat) {s : State} (kp : Kept z0 s) : KeptRes z0 (execCoalesceTimeout
    ring s) := by
  unfold execCoalesceTimeout
  repeat' first
    | with_reducible assumption | exact trivial | with_reducible refine KeptRes.next ?_ | with_reducible apply keeps_announce
    | split | dsimp only | intro

theorem keeps_execContextWritebackTimer {z0 : State} (ring : Nat) {s : State} (kp : Kept z0 s) : KeptRes z0
    (execContextWritebackTimer ring s) := by
  unfold execContextWritebackTimer
  repeat' first
    | with_reducible assumption | exact trivial | with_reducible refine KeptRes.next ?_
    | with_reducible apply keeps_writeBack | split | dsimp only | intro

theorem keeps_ringLink {z0 : State} {s : State} (link : Nat) (ring : Nat) (pidx : W32) (kp : Kept z0 s) : Kept z0 (ringLink
    s link ring pidx) := by
  unfold ringLink
  repeat' first
    | with_reducible assumption | with_reducible apply keeps_emit | with_reducible apply keeps_setLink
    | with_reducible apply keeps_takeProducer
    | (refine Kept.written ?_ ?_; (· simp only [written_record]); refine Kept.record ?_ ?_; rotate_left;
          (· first | (dsimp only [prot]; done) | (dsimp only [prot]; (repeat' first | rfl | split); done)))
    | split | dsimp only | intro

theorem keeps_execAgentDoorbell {z0 : State} (link : Nat) (ring : Nat) (pidx : W32) {s : State} (kp : Kept z0 s) : KeptRes
    z0 (execAgentDoorbell link ring pidx s) := by
  unfold execAgentDoorbell
  repeat' first
    | with_reducible assumption | exact trivial | with_reducible refine KeptRes.next ?_ | with_reducible apply keeps_ringLink
    | with_reducible apply keeps_setLink
    | (refine Kept.written ?_ ?_; (· simp only [written_record]); refine Kept.record ?_ ?_; rotate_left;
          (· first | (dsimp only [prot]; done) | (dsimp only [prot]; (repeat' first | rfl | split); done)))
    | split | dsimp only | intro

theorem keeps_offerNext {z0 : State} (link : Nat) : ∀ (l : Tbl W32) {s : State}, Kept z0 s → Kept z0 (offerNext link l s)
  | [], s, h => by
    unfold offerNext
    exact keeps_setLink _ _ h
  | (r, c) :: rest, s, h => by
    unfold offerNext
    repeat' first
      | with_reducible assumption | with_reducible apply keeps_setLink | with_reducible apply keeps_updSlice
      | apply keeps_offerNext link rest | with_reducible refine Kept.foldl (fun _ _ _ => ?_) _ ?_
      | (refine Kept.written ?_ ?_; (· simp only [written_record]); refine Kept.record ?_ ?_; rotate_left;
          (· first | (dsimp only [prot]; done) | (dsimp only [prot]; (repeat' first | rfl | split); done)))
      | split | dsimp only | intro

theorem keeps_execCompletionNoticeTaken {z0 : State} (link : Nat) {s : State} (kp : Kept z0 s) : KeptRes z0
    (execCompletionNoticeTaken link s) := by
  unfold execCompletionNoticeTaken
  repeat' first
    | with_reducible assumption | exact trivial | with_reducible refine KeptRes.next ?_
    | with_reducible apply keeps_offerNext | with_reducible refine keepsE_offerNext (by assumption) ?_ | split | dsimp only
    | intro

theorem replies_grow {s : State} {q : Req} {l : List Req} (h : Legal s) (hr : ¬ 16 ≤ s.mgmt.replies.length) :
    Legal { s with mgmt := { s.mgmt with requests := l, replies := s.mgmt.replies ++ q.reply.toList } } := by
  refine ⟨⟨h.1.1, h.1.2, h.1.3, h.1.4, h.1.5, h.1.6, h.1.7, h.1.8, h.1.9, h.1.10, h.1.11⟩, h.2, h.3, ?_⟩
  have : q.reply.toList.length ≤ 1 := by cases q.reply <;> simp
  unfold RepliesFit
  simp only [List.length_append]
  omega

theorem keeps_flushFuel {z0 : State} : ∀ (n : Nat) {s : State}, Kept z0 s → Kept z0 (flushFuel n s)
  | 0, _, h => h
  | n + 1, s, h => by
    unfold flushFuel
    dsimp only
    split
    · exact h
    · split
      · exact h
      · rename_i hr
        refine keeps_flushFuel n ?_
        have k := Kept.legalOnly h (b := { s with mgmt := { s.mgmt with
          requests := s.mgmt.requests.eraseP (fun x => x.st == .replyHeld), replies := s.mgmt.replies ++ (Req.reply
              ‹Req›).toList } })
          rfl ⟨id, id, id, Nat.min_le_right _ _, Nat.le_refl _⟩ (fun l => replies_grow l hr)
        split
        · exact keeps_notifyManager _ k
        · exact k

theorem keeps_flushReplies {z0 : State} {s : State} (kp : Kept z0 s) : Kept z0 (flushReplies s) := by
  unfold flushReplies
  repeat' first
    | with_reducible assumption | with_reducible apply keeps_flushFuel
    | with_reducible refine keepsE_flushFuel (by assumption) ?_ | split | dsimp only | intro

theorem keeps_finishReq {z0 : State} {s : State} (i : Nat) (a : Ans) (kp : Kept z0 s) : Kept z0 (finishReq s i a) := by
  unfold finishReq
  repeat' first
    | with_reducible assumption | with_reducible apply keeps_flushReplies
    | (refine Kept.written ?_ ?_; (· simp only [written_record]); refine Kept.record ?_ ?_; rotate_left;
          (· first | (dsimp only [prot]; done) | (dsimp only [prot]; (repeat' first | rfl | split); done)))
    | split | dsimp only | intro

theorem keeps_finishParked {z0 : State} {s : State} (f : Req → Bool) (a : Ans) (kp : Kept z0 s) : Kept z0 (finishParked s f
    a) := by
  unfold finishParked
  repeat' first
    | with_reducible assumption | with_reducible apply keeps_finishReq
    | (refine Kept.written ?_ ?_; (· simp only [written_record]); refine Kept.record ?_ ?_; rotate_left;
          (· first | (dsimp only [prot]; done) | (dsimp only [prot]; (repeat' first | rfl | split); done)))
    | split | dsimp only | intro

theorem keeps_runMailbox {z0 : State} (code : Nat) (mine : Req → Bool) {f : Req → State → Ran × State} {s : State} (kp_f : ∀
    v0 v1, Kept z0 v1 → Kept z0 (f v0 v1).2) (kp : Kept z0 s) : KeptRes z0 (runMailbox code mine f s) := by
  have kf : ∀ q v z1, f q s = (v, z1) → Kept z0 z1 := fun q v z1 e => by
    have h9 := kp_f q s kp
    rw [e] at h9; exact h9
  unfold runMailbox
  repeat' first
    | with_reducible assumption | exact trivial | with_reducible refine KeptRes.next ?_
    | with_reducible apply keeps_finishReq | exact kf _ _ _ (by assumption)
    | with_reducible refine Kept.foldl (fun _ _ _ => ?_) _ ?_
    | (refine Kept.written ?_ ?_; (· simp only [written_record]); refine Kept.record ?_ ?_; rotate_left;
          (· first | (dsimp only [prot]; done) | (dsimp only [prot]; (repeat' first | rfl | split); done)))
    | split | dsimp only | intro

theorem keeps_readInput {z0 : State} {s : State} (a : Nat) (n : Nat) (r : ReadOutcome) (kp : Kept z0 s) : Kept z0 (readInput
    s a n r).2 := by
  unfold readInput
  repeat' first
    | with_reducible assumption | with_reducible apply keeps_emit
    | (refine Kept.written ?_ ?_; (· simp only [written_record]); refine Kept.record ?_ ?_; rotate_left;
          (· first | (dsimp only [prot]; done) | (dsimp only [prot]; (repeat' first | rfl | split); done)))
    | split | dsimp only | intro

theorem keepsE_readInput {z0 : State} {s : State} {a : Nat} {n : Nat} {r : ReadOutcome} {v z1} (he : readInput s a n r =
    (v, z1)) (kp : Kept z0 s) : Kept z0 z1 := by
  have h9 := keeps_readInput (a := a) (n := n) (r := r) (kp := kp)
  rw [he] at h9; exact h9

theorem keeps_writeOutput {z0 : State} {s : State} (a : Nat) (b : Bytes) (w : WriteOutcome) (ok : Ans) (kp : Kept z0 s) :
    Kept z0 (writeOutput s a b w ok).2 := by
  unfold writeOutput
  repeat' first
    | with_reducible assumption | with_reducible apply keeps_emit
    | (refine Kept.written ?_ ?_; (· simp only [written_record]); refine Kept.record ?_ ?_; rotate_left;
          (· first | (dsimp only [prot]; done) | (dsimp only [prot]; (repeat' first | rfl | split); done)))
    | split | dsimp only | intro

theorem keepsE_writeOutput {z0 : State} {s : State} {a : Nat} {b : Bytes} {w : WriteOutcome} {ok : Ans} {v z1} (he :
    writeOutput s a b w ok = (v, z1)) (kp : Kept z0 s) : Kept z0 z1 := by
  have h9 := keeps_writeOutput (a := a) (b := b) (w := w) (ok := ok) (kp := kp)
  rw [he] at h9; exact h9

theorem keeps_reportBlock {z0 : State} (q : Req) (io : MbxIo) (n : Nat) (f : State → Bytes) {s : State} (kp : Kept z0 s) :
    Kept z0 (reportBlock q io n f s).2 := by
  unfold reportBlock
  repeat' first
    | with_reducible assumption | with_reducible apply keeps_writeOutput
    | with_reducible refine keepsE_writeOutput (by assumption) ?_ | with_reducible apply kp_f
    | (refine Kept.written ?_ ?_; (· simp only [written_record]); refine Kept.record ?_ ?_; rotate_left;
          (· first | (dsimp only [prot]; done) | (dsimp only [prot]; (repeat' first | rfl | split); done)))
    | split | dsimp only | intro

theorem keepsE_reportBlock {z0 : State} {q : Req} {io : MbxIo} {n : Nat} {f : State → Bytes} {s : State} {v z1} (he :
    reportBlock q io n f s = (v, z1)) (kp : Kept z0 s) : Kept z0 z1 := by
  have h9 := keeps_reportBlock (q := q) (io := io) (n := n) (f := f) (kp := kp)
  rw [he] at h9; exact h9

theorem keeps_submitReq {z0 : State} {s : State} (kp : Kept z0 s) : Kept z0 (submitReq s) := by
  unfold submitReq
  repeat' first
    | with_reducible assumption
    | (refine Kept.written ?_ ?_; (· simp only [written_record]); refine Kept.record ?_ ?_; rotate_left;
          (· first | (dsimp only [prot]; done) | (dsimp only [prot]; (repeat' first | rfl | split); done)))
    | split | dsimp only | intro

theorem keeps_execMbxReqSubmit {z0 : State} (value : W32) {s : State} (kp : Kept z0 s) : KeptRes z0 (execMbxReqSubmit value
    s) := by
  unfold execMbxReqSubmit
  repeat' first
    | with_reducible assumption | exact trivial | with_reducible refine KeptRes.next ?_
    | with_reducible apply keeps_portAccess | with_reducible apply keeps_regWrite | with_reducible apply keeps_submitReq
    | split | dsimp only | intro

theorem keeps_popReply {z0 s : State} (kp : Kept z0 s) : Kept z0 (popReply s) := by
  unfold popReply
  dsimp only
  split
  · exact kp
  · rename_i hr
    have k := Kept.legalOnly kp (b := { s with mgmt := { s.mgmt with replies := ‹List Reply› } }) rfl ⟨id, id, id,
        Nat.min_le_right _ _, Nat.le_refl _⟩
      (fun l => ⟨⟨l.1.1, l.1.2, l.1.3, l.1.4, l.1.5, l.1.6, l.1.7, l.1.8, l.1.9, l.1.10, l.1.11⟩, l.2, l.3, by
        have := l.4; unfold RepliesFit at *; rw [hr] at this; simp only [List.length_cons] at this; dsimp only; omega⟩)
    have k2 := keeps_flushReplies k
    split
    · exact k2
    · exact keeps_notifyManager _ k2

theorem keeps_execMbxRplPop {z0 : State} (value : W32) {s : State} (kp : Kept z0 s) : KeptRes z0 (execMbxRplPop value s) := by
  unfold execMbxRplPop
  repeat' first
    | with_reducible assumption | exact trivial | with_reducible refine KeptRes.next ?_ | with_reducible apply keeps_popReply
    | with_reducible apply keeps_portAccess | with_reducible apply keeps_regWrite | split | dsimp only | intro

theorem keeps_execUnknownCommand {z0 : State} {s : State} (kp : Kept z0 s) : KeptRes z0 (execUnknownCommand s) := by
  unfold execUnknownCommand
  repeat' first
    | with_reducible assumption | exact trivial | with_reducible refine KeptRes.next ?_
    | with_reducible apply keeps_finishReq
    | (refine Kept.written ?_ ?_; (· simp only [written_record]); refine Kept.record ?_ ?_; rotate_left;
          (· first | (dsimp only [prot]; done) | (dsimp only [prot]; (repeat' first | rfl | split); done)))
    | split | dsimp only | intro

theorem keeps_execPing {z0 : State} {s : State} (kp : Kept z0 s) : KeptRes z0 (execPing s) := by
  unfold execPing
  repeat' first
    | with_reducible assumption | exact trivial | with_reducible refine KeptRes.next ?_
    | with_reducible apply keeps_runMailbox | split | dsimp only | intro

theorem keeps_atStep {z0 : State} {s : State} (n : Nat) (kp : Kept z0 s) : Kept z0 (atStep s n) := by
  unfold atStep
  repeat' first
    | with_reducible assumption | with_reducible apply keeps_startStep
    | (refine Kept.written ?_ ?_; (· simp only [written_record]); refine Kept.record ?_ ?_; rotate_left;
          (· first | (dsimp only [prot]; done) | (dsimp only [prot]; (repeat' first | rfl | split); done)))
    | dsimp only | intro

theorem keeps_startFailed {z0 : State} {s : State} (code : Nat) (kp : Kept z0 s) : Kept z0 (startFailed s code) := by
  unfold startFailed
  repeat' first
    | with_reducible assumption | with_reducible apply keeps_enterSafe | with_reducible apply keeps_wipeAllDrbgs
    | with_reducible apply keeps_wipeAllKeys | with_reducible apply keeps_wipeRegisters
    | (refine Kept.written ?_ ?_; (· simp only [written_record]); refine Kept.record ?_ ?_; rotate_left;
          (· first | (dsimp only [prot]; done) | (dsimp only [prot]; (repeat' first | rfl | split); done)))
    | dsimp only | intro

theorem keeps_holdBoundary {z0 s : State} (kp : Kept z0 s) : Kept z0 (holdBoundary s) := by
  unfold holdBoundary
  have k0 : Kept z0 (s.fabric.heldAccess.foldl (fun s _ => guardAnswer s) s) := Kept.foldl (fun _ _ h => keeps_guardAnswer
      h) _ kp
  generalize s.fabric.heldAccess.foldl (fun s _ => guardAnswer s) s = v at k0
  have k : Kept z0 ((v.links.filter (fun e => e.2.held.isSome)).foldl (fun s e => emit s (.dbAck e.1 .refusedAbsent)) v) :=
    Kept.foldl (fun _ _ h => keeps_emit _ h) _ k0
  dsimp only
  generalize (v.links.filter (fun e => e.2.held.isSome)).foldl (fun s e => emit s (.dbAck e.1 .refusedAbsent)) v = u at k
  refine k.legalOnly rfl ⟨id, id, id, Nat.min_le_right _ _, Nat.le_refl _⟩ (fun l => ⟨⟨l.1.1, l.1.2, l.1.3, l.1.4, l.1.5,
      l.1.6, l.1.7, l.1.8, l.1.9, l.1.10, l.1.11⟩, l.2, fun _ _ => Nat.zero_le _, l.4⟩)

theorem keeps_commitHead {z0 : State} {s : State} (kp : Kept z0 s) : Kept z0 (commitHead s) := by
  unfold commitHead
  repeat' first
    | with_reducible assumption | with_reducible apply keeps_commitRecord
    | (refine Kept.written ?_ ?_; (· simp only [written_record]); refine Kept.record ?_ ?_; rotate_left;
          (· first | (dsimp only [prot]; done) | (dsimp only [prot]; (repeat' first | rfl | split); done)))
    | split | dsimp only | intro

theorem keeps_enterReset {z0 : State} {s : State} (kp : Kept z0 s) : Kept z0 (enterReset s) := by
  unfold enterReset
  repeat' first
    | with_reducible assumption | with_reducible apply keeps_commitHead | with_reducible apply keeps_draw
    | with_reducible refine keepsE_draw (by assumption) ?_ | with_reducible apply keeps_holdBoundary
    | (refine Kept.written ?_ ?_; (· simp only [written_record]); refine Kept.record ?_ ?_; rotate_left;
          (· first | (dsimp only [prot]; done) | (dsimp only [prot]; (repeat' first | rfl | split); done)))
    | split | dsimp only | intro

theorem keeps_aonDown {z0 : State} {s : State} (kp : Kept z0 s) : Kept z0 (aonDown s) := by
  unfold aonDown
  repeat' first | with_reducible assumption | with_reducible apply keeps_enterReset | split | dsimp only | intro

theorem keeps_recovered {z0 : State} {s : State} (p : CorePart) (kp : Kept z0 s) : Kept z0 (recovered s p) := by
  unfold recovered
  repeat' first
    | with_reducible assumption
    | (refine Kept.written ?_ ?_; (· simp only [written_record]); refine Kept.record ?_ ?_; rotate_left;
          (· first | (dsimp only [prot]; done) | (dsimp only [prot]; (repeat' first | rfl | split); done)))
    | dsimp only | intro

theorem keeps_coreFault {z0 : State} {s : State} (p : CorePart) {f : State → State} (kp : Kept z0 s) (kp_f : ∀ x, Kept z0 x
    → Kept z0 (f x)) : Kept z0 (coreFault s p f) := by
  unfold coreFault
  repeat' first
    | with_reducible assumption | with_reducible apply keeps_enterSafe | with_reducible apply kp_f
    | (refine Kept.written ?_ ?_; (· simp only [written_record]); refine Kept.record ?_ ?_; rotate_left;
          (· first | (dsimp only [prot]; done) | (dsimp only [prot]; (repeat' first | rfl | split); done)))
    | split | dsimp only | intro

theorem keeps_wipePair {z0 s : State} (kp : Kept z0 s) : Kept z0 (wipePair s) := kp.pairMem rfl (fun _ => rfl)

theorem keeps_restartPair {z0 : State} {s : State} (kind : Nat) (cause : Byte) (pc : W64) (sp : W64) (kp : Kept z0 s) : Kept
    z0 (restartPair s kind cause pc sp) := by
  unfold restartPair
  repeat' first
    | with_reducible assumption | with_reducible apply keeps_wipePair | with_reducible apply keeps_enterSafe | with_reducible apply keeps_notifyManager
    | with_reducible apply keeps_revoke
    | (refine Kept.written ?_ ?_; (· simp only [written_record]); refine Kept.record ?_ ?_; rotate_left;
          (· first | (dsimp only [prot]; done) | (dsimp only [prot]; (repeat' first | rfl | split); done)))
    | split | dsimp only | intro

theorem keeps_restartUnseen {z0 : State} {s : State} (kind : Nat) (kp : Kept z0 s) : Kept z0 (restartUnseen s kind) := by
  unfold restartUnseen
  repeat' first
    | with_reducible assumption | with_reducible apply keeps_draw | with_reducible refine keepsE_draw (by assumption) ?_
    | with_reducible apply keeps_restartPair | split | dsimp only | intro

theorem keeps_pairFault {z0 : State} {s : State} {f : State → State} (kp : Kept z0 s) (kp_f : ∀ x, Kept z0 x → Kept z0 (f
    x)) : Kept z0 (pairFault s f) := by
  unfold pairFault
  repeat' first
    | with_reducible assumption | with_reducible apply keeps_coreFault | with_reducible apply kp_f | dsimp only | intro

theorem keeps_settleEntropy {z0 : State} {s : State} (kp : Kept z0 s) : Kept z0 (settleEntropy s) := by
  unfold settleEntropy
  repeat' first
    | with_reducible assumption | with_reducible apply keeps_refreshEntropy | with_reducible apply keeps_startFailed | split
    | dsimp only | intro

theorem keeps_entropyFailed {z0 : State} {s : State} (kp : Kept z0 s) : Kept z0 (entropyFailed s) := by
  unfold entropyFailed
  repeat' first
    | with_reducible assumption | with_reducible apply keeps_classB | with_reducible apply keeps_dropBlocks
    | with_reducible apply keeps_setEntropy | with_reducible apply keeps_startFailed | split | dsimp only | intro

theorem keeps_sourceFatal {z0 : State} {s : State} (n : Nat) (x : Source) (kp : Kept z0 s) : Kept z0 (sourceFatal s n x) := by
  unfold sourceFatal
  repeat' first
    | with_reducible assumption | with_reducible apply keeps_notifyManager | with_reducible apply keeps_setSource
    | with_reducible apply keeps_writeLog
    | (refine Kept.written ?_ ?_; (· simp only [written_record]); refine Kept.record ?_ ?_; rotate_left;
          (· first | (dsimp only [prot]; done) | (dsimp only [prot]; (repeat' first | rfl | split); done)))
    | dsimp only | intro

theorem keeps_execEntropyStartupTestEnd {z0 : State} (source : Nat) (pass : Bool) {s : State} (kp : Kept z0 s) : KeptRes z0
    (execEntropyStartupTestEnd source pass s) := by
  unfold execEntropyStartupTestEnd
  repeat' first
    | with_reducible assumption | exact trivial | with_reducible refine KeptRes.next ?_
    | with_reducible apply keeps_setSource | with_reducible apply keeps_settleEntropy
    | with_reducible apply keeps_sourceFatal
    | (refine Kept.written ?_ ?_; (· simp only [written_record]); refine Kept.record ?_ ?_; rotate_left;
          (· first | (dsimp only [prot]; done) | (dsimp only [prot]; (repeat' first | rfl | split); done)))
    | split | dsimp only | intro

theorem keeps_continuousFailure {z0 : State} {s : State} (n : Nat) (kp : Kept z0 s) : Kept z0 (continuousFailure s n) := by
  unfold continuousFailure
  repeat' first
    | with_reducible assumption | with_reducible apply keeps_discardSource | with_reducible apply keeps_setSource
    | with_reducible apply keeps_settleEntropy | with_reducible apply keeps_sourceFatal
    | (refine Kept.written ?_ ?_; (· simp only [written_record]); refine Kept.record ?_ ?_; rotate_left;
          (· first | (dsimp only [prot]; done) | (dsimp only [prot]; (repeat' first | rfl | split); done)))
    | split | dsimp only | intro

theorem keeps_execRepetitionCountFailure {z0 : State} (source : Nat) {s : State} (kp : Kept z0 s) : KeptRes z0
    (execRepetitionCountFailure source s) := by
  unfold execRepetitionCountFailure
  repeat' first
    | with_reducible assumption | exact trivial | with_reducible refine KeptRes.next ?_
    | with_reducible apply keeps_continuousFailure | with_reducible apply keeps_setSource
    | (refine Kept.written ?_ ?_; (· simp only [written_record]); refine Kept.record ?_ ?_; rotate_left;
          (· first | (dsimp only [prot]; done) | (dsimp only [prot]; (repeat' first | rfl | split); done)))
    | split | dsimp only | intro

theorem keeps_execAdaptiveProportionFailure {z0 : State} (source : Nat) {s : State} (kp : Kept z0 s) : KeptRes z0
    (execAdaptiveProportionFailure source s) := by
  unfold execAdaptiveProportionFailure
  repeat' first
    | with_reducible assumption | exact trivial | with_reducible refine KeptRes.next ?_
    | with_reducible apply keeps_continuousFailure | with_reducible apply keeps_setSource
    | (refine Kept.written ?_ ?_; (· simp only [written_record]); refine Kept.record ?_ ?_; rotate_left;
          (· first | (dsimp only [prot]; done) | (dsimp only [prot]; (repeat' first | rfl | split); done)))
    | split | dsimp only | intro

theorem keeps_runKats {z0 : State} {s : State} (conditioner : Bool) (drbg : Bool) (kp : Kept z0 s) : Kept z0 (runKats s
    conditioner drbg) := by
  unfold runKats
  repeat' first
    | with_reducible assumption
    | (refine Kept.written ?_ ?_; (· simp only [written_record]); refine Kept.record ?_ ?_; rotate_left;
          (· first | (dsimp only [prot]; done) | (dsimp only [prot]; (repeat' first | rfl | split); done)))
    | dsimp only | intro

theorem keeps_execConditionedBlock {z0 : State} (katPass : Bool) (drbgKatPass : Bool) {s : State} (kp : Kept z0 s) : KeptRes
    z0 (execConditionedBlock katPass drbgKatPass s) := by
  unfold execConditionedBlock
  repeat' first
    | with_reducible assumption | exact trivial | with_reducible refine KeptRes.next ?_
    | with_reducible apply keeps_entropyFailed | with_reducible apply keeps_finishBlock
    | with_reducible apply keeps_recovered | with_reducible apply keeps_runKats | with_reducible apply keeps_settleEntropy
    | split | dsimp only | intro

theorem keeps_leaveStarting {z0 : State} {s : State} (kp : Kept z0 s) : Kept z0 (leaveStarting s) := by
  unfold leaveStarting
  repeat' first | with_reducible assumption | with_reducible apply keeps_setEntropy | split | dsimp only | intro

theorem keeps_reseedInternal {z0 : State} {s : State} (kp : Kept z0 s) : Kept z0 (reseedInternal s) := by
  unfold reseedInternal
  repeat' first
    | with_reducible assumption | with_reducible apply keeps_askSerials | with_reducible apply keeps_leaveStarting
    | with_reducible apply keeps_refreshEntropy | with_reducible apply keeps_seedFrom | with_reducible apply keeps_setDrbg
    | (refine Kept.written ?_ ?_; (· simp only [written_record]); refine Kept.record ?_ ?_; rotate_left;
          (· first | (dsimp only [prot]; done) | (dsimp only [prot]; (repeat' first | rfl | split); done)))
    | split | dsimp only | intro

theorem keeps_maskSources {z0 : State} {s : State} (kp : Kept z0 s) : Kept z0 (maskSources s) := by
  unfold maskSources
  repeat' first
    | with_reducible assumption | with_reducible apply keeps_setSource
    | with_reducible refine Kept.foldl (fun _ _ _ => ?_) _ ?_
    | (refine Kept.written ?_ ?_; (· simp only [written_record]); refine Kept.record ?_ ?_; rotate_left;
          (· first | (dsimp only [prot]; done) | (dsimp only [prot]; (repeat' first | rfl | split); done)))
    | split | dsimp only | intro

theorem keeps_execEntSrcMaskWrite {z0 : State} (value : W32) {s : State} (kp : Kept z0 s) : KeptRes z0 (execEntSrcMaskWrite
    value s) := by
  unfold execEntSrcMaskWrite
  repeat' first
    | with_reducible assumption | exact trivial | with_reducible refine KeptRes.next ?_
    | with_reducible apply keeps_lockedWrite | with_reducible apply keeps_maskSources | with_reducible apply keeps_portAccess
    | with_reducible apply keeps_regWrite | with_reducible apply keeps_settleEntropy
    | (refine Kept.written ?_ ?_; (· simp only [written_record]); refine Kept.record ?_ ?_; rotate_left;
          (· first | (dsimp only [prot]; done) | (dsimp only [prot]; (repeat' first | rfl | split); done)))
    | split | dsimp only | intro

end Sys2Proof.Machine
end

