-- ==== Sys2Proof/Laws/KeptLedger.lean ====
section
/-! SUPPORT. Frames: what key management, journal, updates and the ledger keep (`Kept`). -/
set_option linter.unusedSimpArgs false
set_option linter.unusedVariables false
namespace Sys2Proof.Machine

theorem keeps_findRecord {z0 : State} {s : State} (h : Nat) (kp : Kept z0 s) : Kept z0 (findRecord s h).2 := by
  unfold findRecord
  repeat' first
    | with_reducible assumption | with_reducible apply keeps_storeRead
    | with_reducible refine keepsE_storeRead (by assumption) ?_
    | (refine Kept.written ?_ ?_; (· simp only [written_record]); refine Kept.record ?_ ?_; rotate_left;
          (· first | (dsimp only [prot]; done) | (dsimp only [prot]; (repeat' first | rfl | split); done)))
    | split | dsimp only | intro

theorem keepsE_findRecord {z0 : State} {s : State} {h : Nat} {v z1} (he : findRecord s h = (v, z1)) (kp : Kept z0 s) : Kept
    z0 z1 := by
  have h9 := keeps_findRecord (h := h) (kp := kp)
  rw [he] at h9; exact h9

theorem keeps_scanBitmap {z0 : State} : ∀ (n : Nat) {s : State} (o r m : Nat), Kept z0 s → Kept z0 (scanBitmap n s o r m).2
  | 0, _, _, _, _, h => h
  | n + 1, s, o, r, m, h => by
    unfold scanBitmap
    repeat' first
      | with_reducible assumption | with_reducible refine keepsE_storeRead (by assumption) ?_ | apply keeps_scanBitmap n
      | with_reducible refine Kept.foldl (fun _ _ _ => ?_) _ ?_
      | (refine Kept.written ?_ ?_; (· simp only [written_record]); refine Kept.record ?_ ?_; rotate_left;
          (· first | (dsimp only [prot]; done) | (dsimp only [prot]; (repeat' first | rfl | split); done)))
      | split | dsimp only | intro

theorem keeps_freeRun {z0 : State} {s : State} (n : Nat) (kp : Kept z0 s) : Kept z0 (freeRun s n).2 := by
  unfold freeRun
  repeat' first
    | with_reducible assumption | with_reducible apply keeps_scanBitmap
    | with_reducible refine keepsE_scanBitmap (by assumption) ?_ | dsimp only | intro

theorem keepsE_freeRun {z0 : State} {s : State} {n : Nat} {v z1} (he : freeRun s n = (v, z1)) (kp : Kept z0 s) : Kept z0 z1
    := by
  have h9 := keeps_freeRun (n := n) (kp := kp)
  rw [he] at h9; exact h9

theorem keeps_markPages {z0 : State} (v : Bool) (first : Nat) (n : Nat) {s : State} (kp : Kept z0 s) : Kept z0 (markPages v
    first n s) := by
  unfold markPages
  repeat' first
    | with_reducible assumption | with_reducible apply keeps_changeObject
    | with_reducible refine Kept.foldl (fun _ _ _ => ?_) _ ?_
    | (refine Kept.written ?_ ?_; (· simp only [written_record]); refine Kept.record ?_ ?_; rotate_left;
          (· first | (dsimp only [prot]; done) | (dsimp only [prot]; (repeat' first | rfl | split); done)))
    | split | dsimp only | intro

theorem keeps_writeDirectory {z0 : State} {s : State} (h : Nat) (first : Nat) (n : Nat) (kp : Kept z0 s) : Kept z0
    (writeDirectory s h first n) := by
  unfold writeDirectory
  repeat' first
    | with_reducible assumption | with_reducible apply keeps_changeObject
    | (refine Kept.written ?_ ?_; (· simp only [written_record]); refine Kept.record ?_ ?_; rotate_left;
          (· first | (dsimp only [prot]; done) | (dsimp only [prot]; (repeat' first | rfl | split); done)))
    | split | dsimp only | intro

theorem keeps_changeObjects {z0 : State} {s : State} (xs : List (Nat × Bytes)) (kp : Kept z0 s) : Kept z0 (changeObjects s
    xs) := by
  unfold changeObjects
  repeat' first
    | with_reducible assumption | with_reducible apply keeps_changeObject
    | with_reducible refine Kept.foldl (fun _ _ _ => ?_) _ ?_ | dsimp only | intro

theorem keeps_kumKeyCheck {z0 : State} {s : State} (k : Kum) (again : Bool) (kp : Kept z0 s) : Kept z0 (kumKeyCheck s k
    again).2 := by
  unfold kumKeyCheck
  repeat' first
    | with_reducible assumption | with_reducible apply keeps_findRecord
    | with_reducible refine keepsE_findRecord (by assumption) ?_ | with_reducible apply keeps_freeRun
    | with_reducible refine keepsE_freeRun (by assumption) ?_
    | (refine Kept.written ?_ ?_; (· simp only [written_record]); refine Kept.record ?_ ?_; rotate_left;
          (· first | (dsimp only [prot]; done) | (dsimp only [prot]; (repeat' first | rfl | split); done)))
    | split | dsimp only | intro

theorem keepsE_kumKeyCheck {z0 : State} {s : State} {k : Kum} {again : Bool} {v z1} (he : kumKeyCheck s k again = (v, z1))
    (kp : Kept z0 s) : Kept z0 z1 := by
  have h9 := keeps_kumKeyCheck (k := k) (again := again) (kp := kp)
  rw [he] at h9; exact h9

theorem keeps_kumCheck {z0 : State} {s : State} (j : Job) (kp : Kept z0 s) : Kept z0 (kumCheck s j).2.2 := by
  unfold kumCheck
  repeat' first
    | with_reducible assumption | with_reducible apply keeps_kumKeyCheck
    | with_reducible refine keepsE_kumKeyCheck (by assumption) ?_
    | (refine Kept.written ?_ ?_; (· simp only [written_record]); refine Kept.record ?_ ?_; rotate_left;
          (· first | (dsimp only [prot]; done) | (dsimp only [prot]; (repeat' first | rfl | split); done)))
    | split | dsimp only | intro

theorem keepsE_kumCheck {z0 : State} {s : State} {j : Job} {v w z1} (he : kumCheck s j = (v, w, z1)) (kp : Kept z0 s) :
    Kept z0 z1 := by
  have h9 := keeps_kumCheck (j := j) (kp := kp)
  rw [he] at h9; exact h9

theorem keeps_keyGoneJob {z0 : State} (sl : Nat) (h : Nat) {s : State} (id : Nat) (kp : Kept z0 s) : Kept z0 (keyGoneJob sl
    h s id) := by
  unfold keyGoneJob
  repeat' first
    | with_reducible assumption | with_reducible apply keeps_failStep | with_reducible apply keeps_revokeParts
    | with_reducible apply keeps_setJob
    | (refine Kept.written ?_ ?_; (· simp only [written_record]); refine Kept.record ?_ ?_; rotate_left;
          (· first | (dsimp only [prot]; done) | (dsimp only [prot]; (repeat' first | rfl | split); done)))
    | split | dsimp only | intro

theorem keeps_revokeKey {z0 : State} {s : State} (k : Key) (kp : Kept z0 s) : Kept z0 (revokeKey s k) := by
  unfold revokeKey
  repeat' first
    | with_reducible assumption | with_reducible apply keeps_dropKey | with_reducible apply keeps_revoke | dsimp only | intro

theorem keeps_endKeyJobs {z0 : State} {s : State} (sl : Nat) (h : Nat) (but : Nat) (kp : Kept z0 s) : Kept z0 (endKeyJobs s
    sl h but) := by
  unfold endKeyJobs
  repeat' first
    | with_reducible assumption | with_reducible apply keeps_keyGoneJob
    | with_reducible refine Kept.foldl (fun _ _ _ => ?_) _ ?_ | dsimp only | intro

theorem keeps_wipeCopy {z0 : State} {s : State} (h : Nat) (but : Nat) (kp : Kept z0 s) : Kept z0 (wipeCopy s h but) := by
  unfold wipeCopy
  repeat' first
    | with_reducible assumption | with_reducible apply keeps_endKeyJobs | with_reducible apply keeps_revokeKey
    | (refine Kept.written ?_ ?_; (· simp only [written_record]); refine Kept.record ?_ ?_; rotate_left;
          (· first | (dsimp only [prot]; done) | (dsimp only [prot]; (repeat' first | rfl | split); done)))
    | split | dsimp only | intro

theorem keeps_dropPending {z0 : State} {s : State} (kp : Kept z0 s) : Kept z0 (dropPending s) := by
  unfold dropPending
  repeat' first
    | with_reducible assumption
    | (refine Kept.written ?_ ?_; (· simp only [written_record]); refine Kept.record ?_ ?_; rotate_left;
          (· first | (dsimp only [prot]; done) | (dsimp only [prot]; (repeat' first | rfl | split); done)))
    | split | dsimp only | intro

theorem keeps_destroyRecord {z0 : State} {s : State} (h : Nat) (kp : Kept z0 s) : Kept z0 (destroyRecord s h) := by
  unfold destroyRecord
  repeat' first
    | with_reducible assumption | with_reducible apply keeps_changeObject | with_reducible apply keeps_endKeyJobs
    | with_reducible apply keeps_joinBatch | with_reducible apply keeps_revokeKey
    | (refine Kept.written ?_ ?_; (· simp only [written_record]); refine Kept.record ?_ ?_; rotate_left;
          (· first | (dsimp only [prot]; done) | (dsimp only [prot]; (repeat' first | rfl | split); done)))
    | split | dsimp only | intro

theorem keeps_resolveOtherwise {z0 : State} {s : State} (opid : Nat) (p : LPayload) (kp : Kept z0 s) : Kept z0
    (resolveOtherwise s opid p) := by
  unfold resolveOtherwise
  repeat' first
    | with_reducible assumption | with_reducible apply keeps_destroyRecord | with_reducible apply keeps_dropPending
    | with_reducible apply keeps_enqueue | with_reducible apply keeps_writeLog
    | (refine Kept.written ?_ ?_; (· simp only [written_record]); refine Kept.record ?_ ?_; rotate_left;
          (· first | (dsimp only [prot]; done) | (dsimp only [prot]; (repeat' first | rfl | split); done)))
    | split | dsimp only | intro

theorem keeps_kumLog {z0 : State} {s : State} (k : Kum) (again : Bool) (kp : Kept z0 s) : Kept z0 (kumLog s k again) := by
  unfold kumLog
  repeat' first | with_reducible assumption | with_reducible apply keeps_writeLog | dsimp only | intro

theorem keeps_kumDone {z0 : State} {s : State} (j : Job) (k : Kum) (top : Nat) (kp : Kept z0 s) : Kept z0 (kumDone s j k
    top) := by
  unfold kumDone
  repeat' first
    | with_reducible assumption | with_reducible apply keeps_endJob | with_reducible apply keeps_enqueue
    | with_reducible apply keeps_kumLog | with_reducible apply keeps_setJob
    | (refine Kept.written ?_ ?_; (· simp only [written_record]); refine Kept.record ?_ ?_; rotate_left;
          (· first | (dsimp only [prot]; done) | (dsimp only [prot]; (repeat' first | rfl | split); done)))
    | dsimp only | intro

theorem keeps_raiseActive {z0 : State} {s : State} (k : Kum) (kp : Kept z0 s) : Kept z0 (raiseActive s k) := by
  unfold raiseActive
  repeat' first
    | with_reducible assumption
    | (refine Kept.written ?_ ?_; (· simp only [written_record]); refine Kept.record ?_ ?_; rotate_left;
          (· first | (dsimp only [prot]; done) | (dsimp only [prot]; (repeat' first | rfl | split); done)))
    | split | dsimp only | intro

theorem keeps_putPending {z0 : State} {s : State} (r : Roster) (kp : Kept z0 s) : Kept z0 (putPending s r) := by
  unfold putPending
  repeat' first
    | with_reducible assumption
    | (refine Kept.written ?_ ?_; (· simp only [written_record]); refine Kept.record ?_ ?_; rotate_left;
          (· first | (dsimp only [prot]; done) | (dsimp only [prot]; (repeat' first | rfl | split); done)))
    | split | dsimp only | intro

theorem keeps_applyEnrol {z0 s : State} (j : Job) (k : Kum) (kp : Kept z0 s) : Kept z0 (applyEnrol s j k) := by
  unfold applyEnrol
  dsimp only
  generalize raiseFloors k _ = x
  have k1 := keeps_putPending x kp
  generalize putPending s x = u at k1 ⊢
  refine keeps_kumDone _ _ _ (keeps_setJob _ (k1.legalOnly rfl ⟨fun _ => rfl, id, id, Nat.min_le_right _ _, Nat.le_refl _⟩
      (fun l => ⟨⟨l.1.1, l.1.2, l.1.3, l.1.4, l.1.5, l.1.6, l.1.7, l.1.8, l.1.9, l.1.10, l.1.11⟩, l.2, l.3, l.4⟩)))

theorem keeps_installRoster {z0 : State} {s : State} (k : Kum) (kp : Kept z0 s) : Kept z0 (installRoster s k) := by
  unfold installRoster
  repeat' first
    | with_reducible assumption | with_reducible apply keeps_putPending | with_reducible apply keeps_raiseActive
    | (refine Kept.written ?_ ?_; (· simp only [written_record]); refine Kept.record ?_ ?_; rotate_left;
          (· first | (dsimp only [prot]; done) | (dsimp only [prot]; (repeat' first | rfl | split); done)))
    | split | dsimp only | intro

theorem keeps_applyRoster {z0 : State} {s : State} (j : Job) (k : Kum) (kp : Kept z0 s) : Kept z0 (applyRoster s j k) := by
  unfold applyRoster
  repeat' first
    | with_reducible assumption | with_reducible apply keeps_installRoster | with_reducible apply keeps_kumDone | dsimp only
    | intro

theorem keeps_recordChanges {z0 : State} {s : State} (r : KeyRec) (m : Bytes) (isNew : Bool) (kp : Kept z0 s) : Kept z0
    (recordChanges s r m isNew) := by
  unfold recordChanges
  repeat' first
    | with_reducible assumption | with_reducible apply keeps_changeObject | with_reducible apply keeps_changeObjects
    | with_reducible apply keeps_freeRun | with_reducible refine keepsE_freeRun (by assumption) ?_
    | with_reducible apply keeps_markPages | with_reducible apply keeps_writeDirectory
    | (refine Kept.written ?_ ?_; (· simp only [written_record]); refine Kept.record ?_ ?_; rotate_left;
          (· first | (dsimp only [prot]; done) | (dsimp only [prot]; (repeat' first | rfl | split); done)))
    | split | dsimp only | intro

theorem keeps_storeRecord {z0 : State} {s : State} (j : Job) (r : KeyRec) (m : Bytes) (isNew : Bool) (kp : Kept z0 s) : Kept
    z0 (storeRecord s j r m isNew) := by
  unfold storeRecord
  repeat' first
    | with_reducible assumption | with_reducible apply keeps_joinBatch | with_reducible apply keeps_recordChanges
    | (refine Kept.written ?_ ?_; (· simp only [written_record]); refine Kept.record ?_ ?_; rotate_left;
          (· first | (dsimp only [prot]; done) | (dsimp only [prot]; (repeat' first | rfl | split); done)))
    | dsimp only | intro

theorem keeps_putRecord {z0 : State} {s : State} (r : KeyRec) (kp : Kept z0 s) : Kept z0 (putRecord s r) := by
  unfold putRecord
  repeat' first
    | with_reducible assumption
    | (refine Kept.written ?_ ?_; (· simp only [written_record]); refine Kept.record ?_ ?_; rotate_left;
          (· first | (dsimp only [prot]; done) | (dsimp only [prot]; (repeat' first | rfl | split); done)))
    | dsimp only | intro

theorem keeps_applyKey {z0 : State} {s : State} (j : Job) (k : Kum) (attempt : Nat) (kp : Kept z0 s) : Kept z0 (applyKey s j
    k attempt) := by
  unfold applyKey
  repeat' first
    | with_reducible assumption | with_reducible apply keeps_dropKey | with_reducible apply keeps_kumDone
    | with_reducible apply keeps_putRecord | with_reducible apply keeps_raiseActive | with_reducible apply keeps_setJob
    | with_reducible apply keeps_storeRecord
    | (refine Kept.written ?_ ?_; (· simp only [written_record]); refine Kept.record ?_ ?_; rotate_left;
          (· first | (dsimp only [prot]; done) | (dsimp only [prot]; (repeat' first | rfl | split); done)))
    | split | dsimp only | intro

theorem keeps_freeImage {z0 : State} {s : State} (h : Nat) (kp : Kept z0 s) : Kept z0 (freeImage s h) := by
  unfold freeImage
  repeat' first
    | with_reducible assumption | with_reducible apply keeps_markPages | with_reducible apply keeps_writeDirectory
    | (refine Kept.written ?_ ?_; (· simp only [written_record]); refine Kept.record ?_ ?_; rotate_left;
          (· first | (dsimp only [prot]; done) | (dsimp only [prot]; (repeat' first | rfl | split); done)))
    | split | dsimp only | intro

theorem keeps_forgetIndex {z0 : State} {s : State} (h : Nat) (kp : Kept z0 s) : Kept z0 (forgetIndex s h) := by
  unfold forgetIndex
  repeat' first
    | with_reducible assumption | with_reducible apply keeps_dropBuilds
    | (refine Kept.written ?_ ?_; (· simp only [written_record]); refine Kept.record ?_ ?_; rotate_left;
          (· first | (dsimp only [prot]; done) | (dsimp only [prot]; (repeat' first | rfl | split); done)))
    | dsimp only | intro

theorem keeps_eraseMram {z0 : State} {s : State} (h : Nat) (kp : Kept z0 s) : Kept z0 (eraseMram s h).2 := by
  unfold eraseMram
  repeat' first
    | with_reducible assumption | with_reducible apply keeps_draw | with_reducible refine keepsE_draw (by assumption) ?_
    | with_reducible apply keeps_forgetIndex | with_reducible apply keeps_writeLog
    | (refine Kept.written ?_ ?_; (· simp only [written_record]); refine Kept.record ?_ ?_; rotate_left;
          (· first | (dsimp only [prot]; done) | (dsimp only [prot]; (repeat' first | rfl | split); done)))
    | split | dsimp only | intro

theorem keepsE_eraseMram {z0 : State} {s : State} {h : Nat} {v z1} (he : eraseMram s h = (v, z1)) (kp : Kept z0 s) : Kept
    z0 z1 := by
  have h9 := keeps_eraseMram (h := h) (kp := kp)
  rw [he] at h9; exact h9

theorem keeps_eraseRecord {z0 : State} {s : State} (j : Job) (k : Kum) (kp : Kept z0 s) : Kept z0 (eraseRecord s j k) := by
  unfold eraseRecord
  repeat' first
    | with_reducible assumption | with_reducible apply keeps_eraseMram
    | with_reducible refine keepsE_eraseMram (by assumption) ?_ | with_reducible apply keeps_kumDone | split | dsimp only
    | intro

theorem keeps_applyDestroy {z0 : State} {s : State} (j : Job) (k : Kum) (kp : Kept z0 s) : Kept z0 (applyDestroy s j k) := by
  unfold applyDestroy
  repeat' first
    | with_reducible assumption | with_reducible apply keeps_changeObject | with_reducible apply keeps_eraseData
    | with_reducible refine keepsE_eraseData (by assumption) ?_ | with_reducible apply keeps_eraseRecord
    | with_reducible apply keeps_freeImage | with_reducible apply keeps_joinBatch | with_reducible apply keeps_raiseActive
    | with_reducible apply keeps_setJob | with_reducible apply keeps_wipeCopy
    | (refine Kept.written ?_ ?_; (· simp only [written_record]); refine Kept.record ?_ ?_; rotate_left;
          (· first | (dsimp only [prot]; done) | (dsimp only [prot]; (repeat' first | rfl | split); done)))
    | split | dsimp only | intro

theorem keeps_kumStored {z0 : State} {s : State} (j : Job) (kp : Kept z0 s) : Kept z0 (kumStored s j) := by
  unfold kumStored
  repeat' first
    | with_reducible assumption | with_reducible apply keeps_changeObject | with_reducible apply keeps_eraseRecord
    | with_reducible apply keeps_forgetIndex | with_reducible apply keeps_freeImage | with_reducible apply keeps_joinBatch
    | with_reducible apply keeps_kumDone | with_reducible apply keeps_putRecord | with_reducible apply keeps_setJob
    | (refine Kept.written ?_ ?_; (· simp only [written_record]); refine Kept.record ?_ ?_; rotate_left;
          (· first | (dsimp only [prot]; done) | (dsimp only [prot]; (repeat' first | rfl | split); done)))
    | split | dsimp only | intro

theorem keeps_applyRecover {z0 : State} {s : State} (j : Job) (k : Kum) (kp : Kept z0 s) : Kept z0 (applyRecover s j k) := by
  unfold applyRecover
  repeat' first
    | with_reducible assumption | with_reducible apply keeps_kumDone | with_reducible apply keeps_raiseActive
    | with_reducible apply keeps_recovered | with_reducible apply keeps_writeRoot
    | (refine Kept.written ?_ ?_; (· simp only [written_record]); refine Kept.record ?_ ?_; rotate_left;
          (· first | (dsimp only [prot]; done) | (dsimp only [prot]; (repeat' first | rfl | split); done)))
    | split | dsimp only | intro

theorem keeps_applyKum {z0 : State} {s : State} (j : Job) (attempt : Nat) (kp : Kept z0 s) : Kept z0 (applyKum s j attempt)
    := by
  unfold applyKum
  repeat' first
    | with_reducible assumption | with_reducible apply keeps_applyDestroy | with_reducible apply keeps_applyEnrol
    | with_reducible apply keeps_applyKey | with_reducible apply keeps_applyRecover | with_reducible apply keeps_applyRoster
    | with_reducible apply keeps_enqueue | with_reducible apply keeps_kumDone | with_reducible apply keeps_raiseActive
    | (refine Kept.written ?_ ?_; (· simp only [written_record]); refine Kept.record ?_ ?_; rotate_left;
          (· first | (dsimp only [prot]; done) | (dsimp only [prot]; (repeat' first | rfl | split); done)))
    | split | dsimp only | intro

theorem keeps_rosterChanged {z0 : State} {s : State} (op : Nat) (kp : Kept z0 s) : Kept z0 (rosterChanged s op) := by
  unfold rosterChanged
  repeat' first | with_reducible assumption | with_reducible apply keeps_leaveGroup | split | dsimp only | intro

theorem keeps_kumFinished {z0 : State} {s : State} (j : Job) (kp : Kept z0 s) : Kept z0 (kumFinished s j) := by
  unfold kumFinished
  repeat' first
    | with_reducible assumption | with_reducible apply keeps_rosterChanged
    | (refine Kept.written ?_ ?_; (· simp only [written_record]); refine Kept.record ?_ ?_; rotate_left;
          (· first | (dsimp only [prot]; done) | (dsimp only [prot]; (repeat' first | rfl | split); done)))
    | split | dsimp only | intro

theorem keeps_takeKum {z0 : State} {s : State} (j : Job) (w : Work) (cls : List Nat) (kp : Kept z0 s) : Kept z0 (takeKum s j
    w cls) := by
  unfold takeKum
  repeat' first
    | with_reducible assumption | with_reducible apply keeps_takeWork | with_reducible apply keeps_updJob
    | (refine Kept.written ?_ ?_; (· simp only [written_record]); refine Kept.record ?_ ?_; rotate_left;
          (· first | (dsimp only [prot]; done) | (dsimp only [prot]; (repeat' first | rfl | split); done)))
    | dsimp only | intro

theorem keeps_giveUpRepeat {z0 : State} {s : State} (j : Job) (kp : Kept z0 s) : Kept z0 (giveUpRepeat s j) := by
  unfold giveUpRepeat
  repeat' first
    | with_reducible assumption | with_reducible apply keeps_resolveOtherwise | with_reducible apply keeps_updJob
    | (refine Kept.written ?_ ?_; (· simp only [written_record]); refine Kept.record ?_ ?_; rotate_left;
          (· first | (dsimp only [prot]; done) | (dsimp only [prot]; (repeat' first | rfl | split); done)))
    | split | dsimp only | intro

theorem keeps_startKum {z0 : State} {s : State} (j : Job) (kp : Kept z0 s) : Kept z0 (startKum s j) := by
  unfold startKum
  repeat' first
    | with_reducible assumption | with_reducible apply keeps_countWindow | with_reducible apply keeps_draw
    | with_reducible refine keepsE_draw (by assumption) ?_ | with_reducible apply keeps_drawMany
    | with_reducible refine keepsE_drawMany (by assumption) ?_ | with_reducible apply keeps_failStep
    | with_reducible apply keeps_giveUpRepeat | with_reducible apply keeps_kumCheck
    | with_reducible refine keepsE_kumCheck (by assumption) ?_ | with_reducible apply keeps_takeKum
    | (refine Kept.written ?_ ?_; (· simp only [written_record]); refine Kept.record ?_ ?_; rotate_left;
          (· first | (dsimp only [prot]; done) | (dsimp only [prot]; (repeat' first | rfl | split); done)))
    | split | dsimp only | intro

theorem keeps_runKum {z0 : State} (op : Nat) (id : Nat) {s : State} (kp : Kept z0 s) : KeptRes z0 (runKum op id s) := by
  unfold runKum
  repeat' first
    | with_reducible assumption | exact trivial | with_reducible refine KeptRes.next ?_ | with_reducible apply keeps_failStep
    | with_reducible apply keeps_startKum
    | (refine Kept.written ?_ ?_; (· simp only [written_record]); refine Kept.record ?_ ?_; rotate_left;
          (· first | (dsimp only [prot]; done) | (dsimp only [prot]; (repeat' first | rfl | split); done)))
    | split | dsimp only | intro

theorem keeps_journalDone {z0 : State} {s : State} (g : Journal) (k : Kum) (kp : Kept z0 s) : Kept z0 (journalDone s g k) := by
  unfold journalDone
  repeat' first
    | with_reducible assumption | with_reducible apply keeps_enqueue | with_reducible apply keeps_kumLog | dsimp only | intro

theorem keeps_journalBatch {z0 : State} {s : State} (kp : Kept z0 s) : Kept z0 (journalBatch s) := by
  unfold journalBatch
  repeat' first
    | with_reducible assumption | with_reducible apply keeps_joinBatch
    | (refine Kept.written ?_ ?_; (· simp only [written_record]); refine Kept.record ?_ ?_; rotate_left;
          (· first | (dsimp only [prot]; done) | (dsimp only [prot]; (repeat' first | rfl | split); done)))
    | dsimp only | intro

theorem keeps_journalWrite {z0 : State} {s : State} (g : Journal) (k : Kum) (kp : Kept z0 s) : Kept z0 (journalWrite s g k)
    := by
  unfold journalWrite
  repeat' first
    | with_reducible assumption | with_reducible apply keeps_dropKey | with_reducible apply keeps_journalBatch
    | with_reducible apply keeps_journalDone | with_reducible apply keeps_putRecord
    | with_reducible apply keeps_recordChanges
    | (refine Kept.written ?_ ?_; (· simp only [written_record]); refine Kept.record ?_ ?_; rotate_left;
          (· first | (dsimp only [prot]; done) | (dsimp only [prot]; (repeat' first | rfl | split); done)))
    | split | dsimp only | intro

theorem keeps_journalErase {z0 : State} {s : State} (g : Journal) (k : Kum) (kp : Kept z0 s) : Kept z0 (journalErase s g k)
    := by
  unfold journalErase
  repeat' first
    | with_reducible assumption | with_reducible apply keeps_changeObject | with_reducible apply keeps_eraseData
    | with_reducible refine keepsE_eraseData (by assumption) ?_ | with_reducible apply keeps_eraseMram
    | with_reducible refine keepsE_eraseMram (by assumption) ?_ | with_reducible apply keeps_freeImage
    | with_reducible apply keeps_journalBatch | with_reducible apply keeps_journalDone | with_reducible apply keeps_wipeCopy
    | split | dsimp only | intro

theorem keeps_applyJournal {z0 : State} {s : State} (seq : Nat) (kp : Kept z0 s) : Kept z0 (applyJournal s seq) := by
  unfold applyJournal
  repeat' first
    | with_reducible assumption | with_reducible apply keeps_enqueue | with_reducible apply keeps_installRoster
    | with_reducible apply keeps_journalDone | with_reducible apply keeps_journalErase
    | with_reducible apply keeps_journalWrite | with_reducible apply keeps_raiseActive
    | (refine Kept.written ?_ ?_; (· simp only [written_record]); refine Kept.record ?_ ?_; rotate_left;
          (· first | (dsimp only [prot]; done) | (dsimp only [prot]; (repeat' first | rfl | split); done)))
    | split | dsimp only | intro

theorem keeps_journalStored {z0 : State} {s : State} (kp : Kept z0 s) : Kept z0 (journalStored s) := by
  unfold journalStored
  repeat' first
    | with_reducible assumption | with_reducible apply keeps_changeObject | with_reducible apply keeps_eraseMram
    | with_reducible refine keepsE_eraseMram (by assumption) ?_ | with_reducible apply keeps_forgetIndex
    | with_reducible apply keeps_freeImage | with_reducible apply keeps_journalBatch | with_reducible apply keeps_journalDone
    | with_reducible apply keeps_putRecord
    | (refine Kept.written ?_ ?_; (· simp only [written_record]); refine Kept.record ?_ ?_; rotate_left;
          (· first | (dsimp only [prot]; done) | (dsimp only [prot]; (repeat' first | rfl | split); done)))
    | split | dsimp only | intro

theorem keeps_journalLost {z0 : State} {s : State} (kp : Kept z0 s) : Kept z0 (journalLost s) := by
  unfold journalLost
  repeat' first
    | with_reducible assumption | with_reducible apply keeps_enqueue
    | (refine Kept.written ?_ ?_; (· simp only [written_record]); refine Kept.record ?_ ?_; rotate_left;
          (· first | (dsimp only [prot]; done) | (dsimp only [prot]; (repeat' first | rfl | split); done)))
    | split | dsimp only | intro

theorem keeps_journalFinished {z0 : State} {s : State} (kp : Kept z0 s) : Kept z0 (journalFinished s) := by
  unfold journalFinished
  repeat' first
    | with_reducible assumption | with_reducible apply keeps_judgeBehind | with_reducible apply keeps_rosterChanged
    | (refine Kept.written ?_ ?_; (· simp only [written_record]); refine Kept.record ?_ ?_; rotate_left;
          (· first | (dsimp only [prot]; done) | (dsimp only [prot]; (repeat' first | rfl | split); done)))
    | split | dsimp only | intro

theorem keeps_journalKeyCheck {z0 : State} {s : State} (g : Journal) (k : Kum) (kp : Kept z0 s) : Kept z0 (journalKeyCheck s
    g k).2 := by
  unfold journalKeyCheck
  repeat' first
    | with_reducible assumption | with_reducible apply keeps_findRecord
    | with_reducible refine keepsE_findRecord (by assumption) ?_ | with_reducible apply keeps_freeRun
    | with_reducible refine keepsE_freeRun (by assumption) ?_ | with_reducible apply keeps_storeRead
    | with_reducible refine keepsE_storeRead (by assumption) ?_
    | (refine Kept.written ?_ ?_; (· simp only [written_record]); refine Kept.record ?_ ?_; rotate_left;
          (· first | (dsimp only [prot]; done) | (dsimp only [prot]; (repeat' first | rfl | split); done)))
    | split | dsimp only | intro

theorem keepsE_journalKeyCheck {z0 : State} {s : State} {g : Journal} {k : Kum} {v z1} (he : journalKeyCheck s g k = (v,
    z1)) (kp : Kept z0 s) : Kept z0 z1 := by
  have h9 := keeps_journalKeyCheck (g := g) (k := k) (kp := kp)
  rw [he] at h9; exact h9

theorem keeps_journalCheck {z0 : State} {s : State} (g : Journal) (k : Kum) (kp : Kept z0 s) : Kept z0 (journalCheck s g
    k).2 := by
  unfold journalCheck
  repeat' first
    | with_reducible assumption | with_reducible apply keeps_journalKeyCheck
    | with_reducible refine keepsE_journalKeyCheck (by assumption) ?_
    | (refine Kept.written ?_ ?_; (· simp only [written_record]); refine Kept.record ?_ ?_; rotate_left;
          (· first | (dsimp only [prot]; done) | (dsimp only [prot]; (repeat' first | rfl | split); done)))
    | split | dsimp only | intro

theorem keepsE_journalCheck {z0 : State} {s : State} {g : Journal} {k : Kum} {v z1} (he : journalCheck s g k = (v, z1)) (kp
    : Kept z0 s) : Kept z0 z1 := by
  have h9 := keeps_journalCheck (g := g) (k := k) (kp := kp)
  rw [he] at h9; exact h9

theorem keeps_startJournal {z0 : State} {s : State} (g : Journal) (kp : Kept z0 s) : KeptOpt z0 (startJournal s g).1 ∧ Kept
    z0 (startJournal s g).2 := by
  unfold startJournal
  repeat' first
    | with_reducible assumption | with_reducible refine And.intro ?_ ?_ | exact KeptOpt.none
    | with_reducible refine KeptOpt.some ?_ | exact KeptOptSnd.none | with_reducible refine KeptOptSnd.some ?_
    | with_reducible apply keeps_applyJournal | with_reducible apply keeps_enqueue | with_reducible apply keeps_journalCheck
    | with_reducible refine keepsE_journalCheck (by assumption) ?_
    | (refine Kept.written ?_ ?_; (· simp only [written_record]); refine Kept.record ?_ ?_; rotate_left;
          (· first | (dsimp only [prot]; done) | (dsimp only [prot]; (repeat' first | rfl | split); done)))
    | split | dsimp only | intro

theorem keepsE_startJournal {z0 : State} {s : State} {g : Journal} {v z1} (he : startJournal s g = (v, z1)) (kp : Kept z0
    s) : Kept z0 z1 := by
  have h9 := (keeps_startJournal (g := g) (kp := kp)).2
  rw [he] at h9; exact h9

theorem keepsO_startJournal {z0 : State} {s : State} {g : Journal} {v z1} (he : startJournal s g = (some z1, v)) (kp : Kept
    z0 s) : Kept z0 z1 := by
  have h9 := (keeps_startJournal (g := g) (kp := kp)).1
  rw [he] at h9; exact h9

theorem keeps_restoreBlock {z0 : State} {s : State} (j : Job) (kp : Kept z0 s) : Kept z0 (restoreBlock s j) := by
  unfold restoreBlock
  repeat' first
    | with_reducible assumption | with_reducible apply keeps_setOrd
    | (refine Kept.written ?_ ?_; (· simp only [written_record]); refine Kept.record ?_ ?_; rotate_left;
          (· first | (dsimp only [prot]; done) | (dsimp only [prot]; (repeat' first | rfl | split); done)))
    | split | dsimp only | intro

theorem keeps_loseJob {z0 : State} (sub : Nat) {s : State} (id : Nat) (kp : Kept z0 s) : Kept z0 (loseJob sub s id) := by
  unfold loseJob
  repeat' first
    | with_reducible assumption | with_reducible apply keeps_failStep | with_reducible apply keeps_ledgerAbort
    | with_reducible apply keeps_restoreBlock
    | (refine Kept.written ?_ ?_; (· simp only [written_record]); refine Kept.record ?_ ?_; rotate_left;
          (· first | (dsimp only [prot]; done) | (dsimp only [prot]; (repeat' first | rfl | split); done)))
    | split | dsimp only | intro

theorem keeps_loseReservation {z0 : State} (sub : Nat) {s : State} (r : Nat × Nat × Nat) (kp : Kept z0 s) : Kept z0
    (loseReservation sub s r) := by
  unfold loseReservation
  repeat' first
    | with_reducible assumption | with_reducible apply keeps_clearReserving
    | (refine Kept.written ?_ ?_; (· simp only [written_record]); refine Kept.record ?_ ?_; rotate_left;
          (· first | (dsimp only [prot]; done) | (dsimp only [prot]; (repeat' first | rfl | split); done)))
    | split | dsimp only | intro

theorem keeps_evictAgain {z0 : State} {s : State} (p : Nat × Nat) (kp : Kept z0 s) : Kept z0 (evictAgain s p) := by
  unfold evictAgain
  repeat' first
    | with_reducible assumption | with_reducible apply keeps_evictOrd
    | with_reducible refine keepsE_evictOrd (by assumption) ?_ | with_reducible apply keeps_setOrd
    | (refine Kept.written ?_ ?_; (· simp only [written_record]); refine Kept.record ?_ ?_; rotate_left;
          (· first | (dsimp only [prot]; done) | (dsimp only [prot]; (repeat' first | rfl | split); done)))
    | split | dsimp only | intro

theorem keeps_carryBatch {z0 : State} {s : State} (b : Batch) (kp : Kept z0 s) : Kept z0 (carryBatch s b) := by
  unfold carryBatch
  repeat' first
    | with_reducible assumption | with_reducible apply keeps_evictAgain | with_reducible apply keeps_joinBatch
    | with_reducible refine Kept.foldl (fun _ _ _ => ?_) _ ?_
    | (refine Kept.written ?_ ?_; (· simp only [written_record]); refine Kept.record ?_ ?_; rotate_left;
          (· first | (dsimp only [prot]; done) | (dsimp only [prot]; (repeat' first | rfl | split); done)))
    | split | dsimp only | intro

theorem keeps_loseBatch {z0 : State} {s : State} (b : Batch) (sub : Nat) (kp : Kept z0 s) : Kept z0 (loseBatch s b sub) := by
  unfold loseBatch
  repeat' first
    | with_reducible assumption | with_reducible apply keeps_carryBatch | with_reducible apply keeps_journalLost
    | with_reducible apply keeps_loseJob | with_reducible apply keeps_loseReservation
    | with_reducible refine Kept.foldl (fun _ _ _ => ?_) _ ?_
    | (refine Kept.written ?_ ?_; (· simp only [written_record]); refine Kept.record ?_ ?_; rotate_left;
          (· first | (dsimp only [prot]; done) | (dsimp only [prot]; (repeat' first | rfl | split); done)))
    | split | dsimp only | intro

theorem keeps_abortBatch {z0 : State} {s : State} (sub : Nat) (kp : Kept z0 s) : Kept z0 (abortBatch s sub) := by
  unfold abortBatch
  repeat' first
    | with_reducible assumption | with_reducible apply keeps_dropSeals | with_reducible apply keeps_loseBatch
    | (refine Kept.written ?_ ?_; (· simp only [written_record]); refine Kept.record ?_ ?_; rotate_left;
          (· first | (dsimp only [prot]; done) | (dsimp only [prot]; (repeat' first | rfl | split); done)))
    | split | dsimp only | intro

theorem keeps_abortGathering {z0 : State} {s : State} (sub : Nat) (kp : Kept z0 s) : Kept z0 (abortGathering s sub) := by
  unfold abortGathering
  repeat' first
    | with_reducible assumption | with_reducible apply keeps_loseBatch
    | (refine Kept.written ?_ ?_; (· simp only [written_record]); refine Kept.record ?_ ?_; rotate_left;
          (· first | (dsimp only [prot]; done) | (dsimp only [prot]; (repeat' first | rfl | split); done)))
    | split | dsimp only | intro

theorem keeps_reservationStored {z0 : State} {s : State} (r : Nat × Nat × Nat) (kp : Kept z0 s) : Kept z0 (reservationStored
    s r) := by
  unfold reservationStored
  repeat' first
    | with_reducible assumption | with_reducible apply keeps_endCommitted | with_reducible apply keeps_putKey
    | (refine Kept.written ?_ ?_; (· simp only [written_record]); refine Kept.record ?_ ?_; rotate_left;
          (· first | (dsimp only [prot]; done) | (dsimp only [prot]; (repeat' first | rfl | split); done)))
    | split | dsimp only | intro

theorem keeps_treeStored {z0 : State} (changes : Tbl Bytes) {s : State} (p : Nat × Nat) (kp : Kept z0 s) : Kept z0
    (treeStored changes s p) := by
  unfold treeStored
  repeat' first
    | with_reducible assumption | with_reducible apply keeps_setHbs
    | (refine Kept.written ?_ ?_; (· simp only [written_record]); refine Kept.record ?_ ?_; rotate_left;
          (· first | (dsimp only [prot]; done) | (dsimp only [prot]; (repeat' first | rfl | split); done)))
    | dsimp only | intro

theorem keeps_jobStored {z0 : State} {s : State} (id : Nat) (kp : Kept z0 s) : Kept z0 (jobStored s id) := by
  unfold jobStored
  repeat' first
    | with_reducible assumption | with_reducible apply keeps_kumStored | with_reducible apply keeps_setOrd
    | with_reducible apply keeps_startResults
    | (refine Kept.written ?_ ?_; (· simp only [written_record]); refine Kept.record ?_ ?_; rotate_left;
          (· first | (dsimp only [prot]; done) | (dsimp only [prot]; (repeat' first | rfl | split); done)))
    | split | dsimp only | intro

theorem keeps_archiveStored {z0 : State} {s : State} (first : Nat) (kp : Kept z0 s) : Kept z0 (archiveStored s first) := by
  unfold archiveStored
  repeat' first
    | with_reducible assumption | with_reducible apply keeps_enqueue | with_reducible apply keeps_writeLog
    | (refine Kept.written ?_ ?_; (· simp only [written_record]); refine Kept.record ?_ ?_; rotate_left;
          (· first | (dsimp only [prot]; done) | (dsimp only [prot]; (repeat' first | rfl | split); done)))
    | split | dsimp only | intro

theorem keeps_batchCommitted {z0 : State} {s : State} (kp : Kept z0 s) : Kept z0 (batchCommitted s) := by
  unfold batchCommitted
  repeat' first
    | with_reducible assumption | with_reducible apply keeps_archiveStored | with_reducible apply keeps_cacheNode
    | with_reducible apply keeps_cacheObject | with_reducible apply keeps_dropOrd | with_reducible apply keeps_jobStored
    | with_reducible apply keeps_journalStored | with_reducible apply keeps_reservationStored
    | with_reducible apply keeps_storeWant | with_reducible apply keeps_treeStored
    | with_reducible refine Kept.foldl (fun _ _ _ => ?_) _ ?_
    | (refine Kept.written ?_ ?_; (· simp only [written_record]); refine Kept.record ?_ ?_; rotate_left;
          (· first | (dsimp only [prot]; done) | (dsimp only [prot]; (repeat' first | rfl | split); done)))
    | split | dsimp only | intro

theorem keeps_readFailed {z0 : State} {s : State} (r : StoreReq) (tag : Bool) (kp : Kept z0 s) : Kept z0 (readFailed s r
    tag) := by
  unfold readFailed
  repeat' first
    | with_reducible assumption | with_reducible apply keeps_notifyManager | with_reducible apply keeps_storeWant
    | (refine Kept.written ?_ ?_; (· simp only [written_record]); refine Kept.record ?_ ?_; rotate_left;
          (· first | (dsimp only [prot]; done) | (dsimp only [prot]; (repeat' first | rfl | split); done)))
    | split | dsimp only | intro

theorem keeps_readAnswered {z0 : State} {s : State} (r : StoreReq) (data : Bytes) (kp : Kept z0 s) : Kept z0 (readAnswered s
    r data) := by
  unfold readAnswered
  repeat' first
    | with_reducible assumption | with_reducible apply keeps_cacheNode | with_reducible apply keeps_cacheObject
    | with_reducible apply keeps_readFailed
    | (refine Kept.written ?_ ?_; (· simp only [written_record]); refine Kept.record ?_ ?_; rotate_left;
          (· first | (dsimp only [prot]; done) | (dsimp only [prot]; (repeat' first | rfl | split); done)))
    | split | dsimp only | intro

theorem keeps_writeAnswered {z0 : State} {s : State} (r : StoreReq) (kp : Kept z0 s) : Kept z0 (writeAnswered s r) := by
  unfold writeAnswered
  repeat' first
    | with_reducible assumption | with_reducible apply keeps_enqueue
    | (refine Kept.written ?_ ?_; (· simp only [written_record]); refine Kept.record ?_ ?_; rotate_left;
          (· first | (dsimp only [prot]; done) | (dsimp only [prot]; (repeat' first | rfl | split); done)))
    | split | dsimp only | intro

theorem keeps_trimAnswered {z0 : State} {s : State} (r : StoreReq) (kp : Kept z0 s) : Kept z0 (trimAnswered s r) := by
  unfold trimAnswered
  repeat' first
    | with_reducible assumption | with_reducible apply keeps_enqueue
    | (refine Kept.written ?_ ?_; (· simp only [written_record]); refine Kept.record ?_ ?_; rotate_left;
          (· first | (dsimp only [prot]; done) | (dsimp only [prot]; (repeat' first | rfl | split); done)))
    | split | dsimp only | intro

theorem keeps_storeAnswer {z0 : State} {s : State} (rid : Nat) (status : Byte) (data : Bytes) (kp : Kept z0 s) : Kept z0
    (storeAnswer s rid status data) := by
  unfold storeAnswer
  repeat' first
    | with_reducible assumption | with_reducible apply keeps_abortBatch | with_reducible apply keeps_pumpGrants
    | with_reducible apply keeps_readFailed | with_reducible apply keeps_sealWant | with_reducible apply keeps_storePump
    | with_reducible apply keeps_trimAnswered | with_reducible apply keeps_writeAnswered
    | (refine Kept.written ?_ ?_; (· simp only [written_record]); refine Kept.record ?_ ?_; rotate_left;
          (· first | (dsimp only [prot]; done) | (dsimp only [prot]; (repeat' first | rfl | split); done)))
    | split | dsimp only | intro

theorem keeps_execStoreResponse {z0 : State} (rid : Nat) (status : Byte) (data : Bytes) {s : State} (kp : Kept z0 s) :
    KeptRes z0 (execStoreResponse rid status data s) := by
  unfold execStoreResponse
  repeat' first
    | with_reducible assumption | exact trivial | with_reducible refine KeptRes.next ?_
    | with_reducible apply keeps_storeAnswer | with_reducible apply keeps_storeIndices
    | (refine Kept.written ?_ ?_; (· simp only [written_record]); refine Kept.record ?_ ?_; rotate_left;
          (· first | (dsimp only [prot]; done) | (dsimp only [prot]; (repeat' first | rfl | split); done)))
    | split | dsimp only | intro

theorem keeps_execStoreTimeout {z0 : State} (rid : Nat) {s : State} (kp : Kept z0 s) : KeptRes z0 (execStoreTimeout rid s) := by
  unfold execStoreTimeout
  repeat' first
    | with_reducible assumption | exact trivial | with_reducible refine KeptRes.next ?_
    | with_reducible apply keeps_abortBatch
    | (refine Kept.written ?_ ?_; (· simp only [written_record]); refine Kept.record ?_ ?_; rotate_left;
          (· first | (dsimp only [prot]; done) | (dsimp only [prot]; (repeat' first | rfl | split); done)))
    | split | dsimp only | intro

theorem keeps_execStoreInterruptWindow {z0 : State} {s : State} (kp : Kept z0 s) : KeptRes z0 (execStoreInterruptWindow s) := by
  unfold execStoreInterruptWindow
  repeat' first
    | with_reducible assumption | exact trivial | with_reducible refine KeptRes.next ?_
    | with_reducible apply keeps_storeMessage
    | (refine Kept.written ?_ ?_; (· simp only [written_record]); refine Kept.record ?_ ?_; rotate_left;
          (· first | (dsimp only [prot]; done) | (dsimp only [prot]; (repeat' first | rfl | split); done)))
    | split | dsimp only | intro

theorem keeps_loadPaths {z0 : State} : ∀ (l : List Nat) {s : State}, Kept z0 s → Kept z0 (loadPaths l s).2
  | [], _, h => h
  | p :: r, s, h => by
    unfold loadPaths
    repeat' first
      | with_reducible assumption | with_reducible refine keepsE_loadPath (by assumption) ?_ | apply keeps_loadPaths r
      | with_reducible apply keeps_loadPath | with_reducible refine Kept.foldl (fun _ _ _ => ?_) _ ?_
      | (refine Kept.written ?_ ?_; (· simp only [written_record]); refine Kept.record ?_ ?_; rotate_left;
          (· first | (dsimp only [prot]; done) | (dsimp only [prot]; (repeat' first | rfl | split); done)))
      | split | dsimp only | intro

theorem keepsE_loadPaths {z0 : State} {l : List Nat} {s : State} {v z1} (he : loadPaths l s = (v, z1)) (h : Kept z0 s) :
    Kept z0 z1 := by
  have h9 := keeps_loadPaths l h
  rw [he] at h9; exact h9

theorem keeps_execBatchStart {z0 : State} {s : State} (kp : Kept z0 s) : KeptRes z0 (execBatchStart s) := by
  unfold execBatchStart
  repeat' first
    | with_reducible assumption | exact trivial | with_reducible refine KeptRes.next ?_
    | with_reducible apply keeps_abortGathering | with_reducible apply keeps_loadPaths
    | with_reducible refine keepsE_loadPaths (by assumption) ?_ | with_reducible apply keeps_startBatch
    | (refine Kept.written ?_ ?_; (· simp only [written_record]); refine Kept.record ?_ ?_; rotate_left;
          (· first | (dsimp only [prot]; done) | (dsimp only [prot]; (repeat' first | rfl | split); done)))
    | split | dsimp only | intro

theorem keeps_setBank {z0 s : State} (b : Nat) (m : Mem) (kp : Kept z0 s) (hm : MemoriesCanonical s → memWf m = true) : Kept
    z0 (setBank s b m) := by
  unfold setBank
  split
  · exact kp.legalOnly rfl ⟨id, id, id, Nat.min_le_right _ _, Nat.le_refl _⟩ (fun l => ⟨⟨l.1.1, l.1.2, l.1.3, l.1.4, l.1.5,
      l.1.6, l.1.7, l.1.8, l.1.9, l.1.10, l.1.11⟩, ⟨hm l.2, l.2.2⟩, l.3, l.4⟩)
  · exact kp.legalOnly rfl ⟨id, id, id, Nat.min_le_right _ _, Nat.le_refl _⟩ (fun l => ⟨⟨l.1.1, l.1.2, l.1.3, l.1.4, l.1.5,
      l.1.6, l.1.7, l.1.8, l.1.9, l.1.10, l.1.11⟩, ⟨l.2.1, hm l.2, l.2.2.2⟩, l.3, l.4⟩)

theorem keeps_writeBank {z0 s : State} (b a : Nat) (x : Bytes) (kp : Kept z0 s) : Kept z0 (writeBank s b a x) := by
  unfold writeBank
  refine keeps_setBank _ _ kp (fun i => memWf_memWriteBytes _ _ ?_)
  unfold bankMem
  split
  · exact i.1
  · exact i.2.1

theorem keeps_wrapNext {z0 : State} {s : State} (m : Bytes) (kp : Kept z0 s) : Kept z0 (wrapNext s m) := by
  unfold wrapNext
  repeat' first
    | with_reducible assumption
    | (refine Kept.written ?_ ?_; (· simp only [written_record]); refine Kept.record ?_ ?_; rotate_left;
          (· first | (dsimp only [prot]; done) | (dsimp only [prot]; (repeat' first | rfl | split); done)))
    | split | dsimp only | intro

theorem keeps_raiseFloor {z0 s : State} (m : Bytes) (kp : Kept z0 s) : Kept z0 (raiseFloor s m) := by
  unfold raiseFloor
  exact kp.legalOnly rfl ⟨id, id, id, Nat.min_le_right _ _, Nat.le_max_left _ _⟩ (fun l => ⟨⟨l.1.1, l.1.2, l.1.3, l.1.4,
      l.1.5, l.1.6, l.1.7, l.1.8, l.1.9, l.1.10, l.1.11⟩, l.2, l.3, l.4⟩)

theorem keeps_activateBank {z0 : State} {s : State} (opid : Nat) (b : Nat) (v : Nat) (kp : Kept z0 s) : Kept z0
    (activateBank s opid b v) := by
  unfold activateBank
  repeat' first
    | with_reducible assumption | with_reducible apply keeps_activateMoved | with_reducible apply keeps_enqueue
    | with_reducible apply keeps_raiseFloor | with_reducible apply keeps_wrapNext | with_reducible apply keeps_writeBank
    | dsimp only | intro

theorem keeps_activateMoved {z0 : State} {s : State} (opid : Nat) (b : Nat) (kp : Kept z0 s) : Kept z0 (activateMoved s opid
    b) := by
  unfold activateMoved
  repeat' first
    | with_reducible assumption | with_reducible apply keeps_enqueue | with_reducible apply keeps_writeLog
    | (refine Kept.written ?_ ?_; (· simp only [written_record]); refine Kept.record ?_ ?_; rotate_left;
          (· first | (dsimp only [prot]; done) | (dsimp only [prot]; (repeat' first | rfl | split); done)))
    | dsimp only | intro

theorem keeps_keepObjects {z0 : State} {s : State} (first : Nat) (bs : List Bytes) (f : Batch → Batch) (kp : Kept z0 s) :
    Kept z0 (keepObjects s first bs f) := by
  unfold keepObjects
  repeat' first
    | with_reducible assumption | with_reducible apply keeps_changeObject | with_reducible apply keeps_joinBatch
    | with_reducible refine Kept.foldl (fun _ _ _ => ?_) _ ?_
    | (refine Kept.written ?_ ?_; (· simp only [written_record]); refine Kept.record ?_ ?_; rotate_left;
          (· first | (dsimp only [prot]; done) | (dsimp only [prot]; (repeat' first | rfl | split); done)))
    | dsimp only | intro

theorem keeps_takeSnapshot {z0 : State} {s : State} (seq : Nat) (kp : Kept z0 s) : Kept z0 (takeSnapshot s seq) := by
  unfold takeSnapshot
  repeat' first
    | with_reducible assumption | with_reducible apply keeps_keepObjects
    | (refine Kept.written ?_ ?_; (· simp only [written_record]); refine Kept.record ?_ ?_; rotate_left;
          (· first | (dsimp only [prot]; done) | (dsimp only [prot]; (repeat' first | rfl | split); done)))
    | split | dsimp only | intro

theorem keeps_makeArchive {z0 : State} {s : State} (first : Nat) (kp : Kept z0 s) : Kept z0 (makeArchive s first) := by
  unfold makeArchive
  repeat' first
    | with_reducible assumption | with_reducible apply keeps_drawRandom
    | with_reducible refine keepsE_drawRandom (by assumption) ?_ | with_reducible apply keeps_keepObjects
    | (refine Kept.written ?_ ?_; (· simp only [written_record]); refine Kept.record ?_ ?_; rotate_left;
          (· first | (dsimp only [prot]; done) | (dsimp only [prot]; (repeat' first | rfl | split); done)))
    | split | dsimp only | intro

theorem keeps_nextArchive {z0 : State} {s : State} (kp : Kept z0 s) : Kept z0 (nextArchive s) := by
  unfold nextArchive
  repeat' first
    | with_reducible assumption | with_reducible apply keeps_enqueue
    | (refine Kept.written ?_ ?_; (· simp only [written_record]); refine Kept.record ?_ ?_; rotate_left;
          (· first | (dsimp only [prot]; done) | (dsimp only [prot]; (repeat' first | rfl | split); done)))
    | split | dsimp only | intro

theorem keeps_writeSuppressed {z0 : State} {s : State} (t : Tbl Nat) (kp : Kept z0 s) : Kept z0 (writeSuppressed s t) := by
  unfold writeSuppressed
  repeat' first
    | with_reducible assumption | with_reducible apply keeps_appendLog
    | with_reducible refine Kept.foldl (fun _ _ _ => ?_) _ ?_ | split | dsimp only | intro

theorem keeps_logSpace {z0 : State} {s : State} (kp : Kept z0 s) : Kept z0 (logSpace s) := by
  unfold logSpace
  repeat' first
    | with_reducible assumption | with_reducible apply keeps_writeSuppressed
    | (refine Kept.written ?_ ?_; (· simp only [written_record]); refine Kept.record ?_ ?_; rotate_left;
          (· first | (dsimp only [prot]; done) | (dsimp only [prot]; (repeat' first | rfl | split); done)))
    | split | dsimp only | intro

theorem keeps_makeKey {z0 s : State} (j : Job) (k : Key) (kp : Kept z0 s) : KeptOptSnd z0 (makeKey s j k) := by
  unfold makeKey
  split
  · split
    · exact KeptOptSnd.none
    · refine KeptOptSnd.some ?_
      rename_i e
      have k2 := keepsE_makeRoom e kp
      exact k2.upd rfl
  · cases e : createVolatile s k with
    | none => exact KeptOptSnd.none
    | some p => exact KeptOptSnd.some (keepsE_createVolatile (v := p.1) (z1 := p.2) e kp)

theorem keepsE_makeKey {z0 : State} {s : State} {j : Job} {k : Key} {v z1} (he : makeKey s j k = some (v, z1)) (kp : Kept
    z0 s) : Kept z0 z1 := by
  have h9 := keeps_makeKey (j := j) (k := k) (kp := kp)
  rw [he] at h9; exact h9

theorem keeps_removeKey {z0 : State} {s : State} (j : Job) (h : Nat) (kp : Kept z0 s) : Kept z0 (removeKey s j h) := by
  unfold removeKey
  repeat' first
    | with_reducible assumption | with_reducible apply keeps_endKeyJobs | with_reducible apply keeps_revokeKey
    | (refine Kept.written ?_ ?_; (· simp only [written_record]); refine Kept.record ?_ ?_; rotate_left;
          (· first | (dsimp only [prot]; done) | (dsimp only [prot]; (repeat' first | rfl | split); done)))
    | split | dsimp only | intro

theorem keeps_keyIntent {z0 : State} {s : State} (j : Job) (opid : Nat) (kp : Kept z0 s) : Kept z0 (keyIntent s j opid) := by
  unfold keyIntent
  repeat' first
    | with_reducible assumption | with_reducible apply keeps_endJob | with_reducible apply keeps_enqueue
    | with_reducible apply keeps_failStep | with_reducible apply keeps_makeKey
    | with_reducible refine keepsE_makeKey (by assumption) ?_ | with_reducible apply keeps_removeKey
    | with_reducible apply keeps_setJob
    | (refine Kept.written ?_ ?_; (· simp only [written_record]); refine Kept.record ?_ ?_; rotate_left;
          (· first | (dsimp only [prot]; done) | (dsimp only [prot]; (repeat' first | rfl | split); done)))
    | split | dsimp only | intro

theorem keeps_withCommitting {z0 : State} {s : State} (id : Nat) {f : Job → State} {other : State} (kp : Kept z0 s) (kp_f :
    ∀ v0, Kept z0 (f v0)) (kp_other : Kept z0 other) : Kept z0 (withCommitting s id f other) := by
  unfold withCommitting
  repeat' first
    | with_reducible assumption | with_reducible apply kp_f
    | (refine Kept.written ?_ ?_; (· simp only [written_record]); refine Kept.record ?_ ?_; rotate_left;
          (· first | (dsimp only [prot]; done) | (dsimp only [prot]; (repeat' first | rfl | split); done)))
    | split | dsimp only | intro

theorem keeps_emptyTree {z0 : State} {s : State} (opid : Nat) (kp : Kept z0 s) : Kept z0 (emptyTree s opid) := by
  unfold emptyTree
  repeat' first
    | with_reducible assumption | with_reducible apply keeps_storeWant
    | (refine Kept.written ?_ ?_; (· simp only [written_record]); refine Kept.record ?_ ?_; rotate_left;
          (· first | (dsimp only [prot]; done) | (dsimp only [prot]; (repeat' first | rfl | split); done)))
    | dsimp only | intro

theorem keeps_runEffect {z0 s : State} (seq : Nat) (e : Effect) (kp : Kept z0 s) : Kept z0 (runEffect s seq e) := by
  cases e <;> unfold runEffect <;> dsimp only
  all_goals repeat' first
    | with_reducible assumption | with_reducible apply keeps_withCommitting | with_reducible apply keeps_enqueue
    | with_reducible apply keeps_keyIntent | with_reducible apply keeps_applyKum | with_reducible apply keeps_setJob
    | with_reducible apply keeps_applyJournal | with_reducible apply keeps_logSpace
    | with_reducible apply keeps_journalFinished | with_reducible apply keeps_kumFinished
    | with_reducible apply keeps_startResults | with_reducible apply keeps_putKey | with_reducible apply keeps_batchCommitted
    | with_reducible apply keeps_activateBank | with_reducible apply keeps_activateMoved
    | with_reducible apply keeps_finishParked | with_reducible apply keeps_emptyTree | with_reducible apply keeps_makeArchive
    | with_reducible refine Kept.foldl (fun _ _ _ => ?_) _ ?_
    | (refine Kept.written ?_ ?_; (· simp only [written_record]); refine Kept.record ?_ ?_; rotate_left;
          (· first | (dsimp only [prot]; done) | (dsimp only [prot]; (repeat' first | rfl | split); done)))
    | split | dsimp only | intro

theorem keeps_archiveAgain {z0 : State} {s : State} (kp : Kept z0 s) : Kept z0 (archiveAgain s) := by
  unfold archiveAgain
  repeat' first
    | with_reducible assumption | with_reducible apply keeps_makeArchive | with_reducible apply keeps_nextArchive
    | (refine Kept.written ?_ ?_; (· simp only [written_record]); refine Kept.record ?_ ?_; rotate_left;
          (· first | (dsimp only [prot]; done) | (dsimp only [prot]; (repeat' first | rfl | split); done)))
    | split | dsimp only | intro

theorem keeps_abandonIntents {z0 : State} {s : State} (f : Nat → Nat → Bool) (kp : Kept z0 s) : Kept z0 (abandonIntents s f)
    := by
  unfold abandonIntents
  repeat' first
    | with_reducible assumption | with_reducible apply keeps_resolveOtherwise
    | with_reducible refine Kept.foldl (fun _ _ _ => ?_) _ ?_ | dsimp only | intro

theorem keeps_finishDone {z0 : State} {s : State} (j : Job) (r : Nat) (kp : Kept z0 s) : Kept z0 (finishDone s j r) := by
  unfold finishDone
  repeat' first
    | with_reducible assumption | with_reducible apply keeps_endJob | with_reducible apply keeps_setJob
    | (refine Kept.written ?_ ?_; (· simp only [written_record]); refine Kept.record ?_ ?_; rotate_left;
          (· first | (dsimp only [prot]; done) | (dsimp only [prot]; (repeat' first | rfl | split); done)))
    | split | dsimp only | intro

theorem keeps_repeatUnder {z0 : State} {s : State} (j : Job) (opid : Nat) (p : LPayload) (kp : Kept z0 s) : Kept z0
    (repeatUnder s j opid p) := by
  unfold repeatUnder
  repeat' first
    | with_reducible assumption | with_reducible apply keeps_dropPending | with_reducible apply keeps_enqueue
    | with_reducible apply keeps_finishDone | with_reducible apply keeps_resolveOtherwise | with_reducible apply keeps_setJob
    | (refine Kept.written ?_ ?_; (· simp only [written_record]); refine Kept.record ?_ ?_; rotate_left;
          (· first | (dsimp only [prot]; done) | (dsimp only [prot]; (repeat' first | rfl | split); done)))
    | split | dsimp only | intro

theorem keeps_recoverAccepted {z0 : State} {s : State} (j : Job) (kp : Kept z0 s) : Kept z0 (recoverAccepted s j) := by
  unfold recoverAccepted
  repeat' first
    | with_reducible assumption | with_reducible apply keeps_finishDone | with_reducible apply keeps_repeatUnder
    | with_reducible apply keeps_setJob
    | (refine Kept.written ?_ ?_; (· simp only [written_record]); refine Kept.record ?_ ?_; rotate_left;
          (· first | (dsimp only [prot]; done) | (dsimp only [prot]; (repeat' first | rfl | split); done)))
    | split | dsimp only | intro

theorem keeps_recheckStamps {z0 : State} {s : State} (j : Job) (kp : Kept z0 s) : Kept z0 (recheckStamps s j) := by
  unfold recheckStamps
  repeat' first
    | with_reducible assumption | with_reducible apply keeps_request | with_reducible apply keeps_setJob
    | (refine Kept.written ?_ ?_; (· simp only [written_record]); refine Kept.record ?_ ?_; rotate_left;
          (· first | (dsimp only [prot]; done) | (dsimp only [prot]; (repeat' first | rfl | split); done)))
    | split | dsimp only | intro

theorem keeps_notAccepted {z0 : State} {s : State} (j : Job) (kp : Kept z0 s) : Kept z0 (notAccepted s j) := by
  unfold notAccepted
  repeat' first
    | with_reducible assumption | with_reducible apply keeps_dropWaiting | with_reducible apply keeps_recovered
    | with_reducible apply keeps_setJob
    | (refine Kept.written ?_ ?_; (· simp only [written_record]); refine Kept.record ?_ ?_; rotate_left;
          (· first | (dsimp only [prot]; done) | (dsimp only [prot]; (repeat' first | rfl | split); done)))
    | split | dsimp only | intro

theorem keeps_stampsRead {z0 : State} {s : State} (id : Nat) (kp : Kept z0 s) : Kept z0 (stampsRead s id) := by
  unfold stampsRead
  repeat' first
    | with_reducible assumption | with_reducible apply keeps_notAccepted | with_reducible apply keeps_request
    | (refine Kept.written ?_ ?_; (· simp only [written_record]); refine Kept.record ?_ ?_; rotate_left;
          (· first | (dsimp only [prot]; done) | (dsimp only [prot]; (repeat' first | rfl | split); done)))
    | split | dsimp only | intro

theorem keeps_takeTaken {z0 : State} {s : State} (id : Nat) (i : Nat) (data : Bytes) (kp : Kept z0 s) : Kept z0 (takeTaken s
    id i data) := by
  unfold takeTaken
  repeat' first
    | with_reducible assumption | with_reducible apply keeps_endWith | with_reducible apply keeps_setJob
    | with_reducible apply keeps_stampsRead
    | (refine Kept.written ?_ ?_; (· simp only [written_record]); refine Kept.record ?_ ?_; rotate_left;
          (· first | (dsimp only [prot]; done) | (dsimp only [prot]; (repeat' first | rfl | split); done)))
    | split | dsimp only | intro

theorem keeps_recheckPhase {z0 : State} {s : State} (j : Job) (written : Bool) (kp : Kept z0 s) : Kept z0 (recheckPhase s j
    written) := by
  unfold recheckPhase
  repeat' first
    | with_reducible assumption | with_reducible apply keeps_endWith | with_reducible apply keeps_recoverAccepted
    | with_reducible apply keeps_recovered | with_reducible apply keeps_release
    | (refine Kept.written ?_ ?_; (· simp only [written_record]); refine Kept.record ?_ ?_; rotate_left;
          (· first | (dsimp only [prot]; done) | (dsimp only [prot]; (repeat' first | rfl | split); done)))
    | split | dsimp only | intro

theorem keeps_addJob {z0 : State} {s : State} (j : Job) (kp : Kept z0 s) : Kept z0 (addJob s j) := by
  unfold addJob
  repeat' first
    | with_reducible assumption
    | (refine Kept.written ?_ ?_; (· simp only [written_record]); refine Kept.record ?_ ?_; rotate_left;
          (· first | (dsimp only [prot]; done) | (dsimp only [prot]; (repeat' first | rfl | split); done)))
    | dsimp only | intro

theorem keeps_walkTake {z0 : State} {s : State} (j : Job) (kp : Kept z0 s) : Kept z0 (walkTake s j) := by
  unfold walkTake
  repeat' first
    | with_reducible assumption | with_reducible apply keeps_addJob | with_reducible apply keeps_recoverAccepted | split
    | dsimp only | intro

theorem keeps_walkFrom {z0 : State} (r : Nat) (x : Ring) (w : WalkIo) (p : W32) : ∀ (n : Nat) (i c : W32) {s : State}, Kept
    z0 s → Kept z0 (walkFrom r x w p n i c s).1
  | 0, _, _, _, h => h
  | n + 1, i, c, s, h => by
    unfold walkFrom
    repeat' first
      | with_reducible assumption | with_reducible apply keeps_walkTake | apply keeps_walkFrom r x w p n
      | with_reducible refine Kept.foldl (fun _ _ _ => ?_) _ ?_
      | (refine Kept.written ?_ ?_; (· simp only [written_record]); refine Kept.record ?_ ?_; rotate_left;
          (· first | (dsimp only [prot]; done) | (dsimp only [prot]; (repeat' first | rfl | split); done)))
      | split | dsimp only | intro

end Sys2Proof.Machine
end

