-- ==== Sys2Proof/Laws/KeptCrypto.lean ====
section
/-! SUPPORT. Frames: what the operations keep (`Kept`). -/
set_option linter.unusedSimpArgs false
set_option linter.unusedVariables false
namespace Sys2Proof.Machine

theorem keeps_execCbcEnc {z0 : State} (job : Nat) {s : State} (kp : Kept z0 s) : KeptRes z0 (execCbcEnc job s) := by
  unfold execCbcEnc
  repeat' first
    | with_reducible assumption | exact trivial | with_reducible refine KeptRes.next ?_ | with_reducible apply keeps_runOp
    | dsimp only | intro

theorem keeps_execCbcDec {z0 : State} (job : Nat) {s : State} (kp : Kept z0 s) : KeptRes z0 (execCbcDec job s) := by
  unfold execCbcDec
  repeat' first
    | with_reducible assumption | exact trivial | with_reducible refine KeptRes.next ?_ | with_reducible apply keeps_runOp
    | dsimp only | intro

theorem keeps_execCfbEnc {z0 : State} (job : Nat) {s : State} (kp : Kept z0 s) : KeptRes z0 (execCfbEnc job s) := by
  unfold execCfbEnc
  repeat' first
    | with_reducible assumption | exact trivial | with_reducible refine KeptRes.next ?_ | with_reducible apply keeps_runOp
    | dsimp only | intro

theorem keeps_execCfbDec {z0 : State} (job : Nat) {s : State} (kp : Kept z0 s) : KeptRes z0 (execCfbDec job s) := by
  unfold execCfbDec
  repeat' first
    | with_reducible assumption | exact trivial | with_reducible refine KeptRes.next ?_ | with_reducible apply keeps_runOp
    | dsimp only | intro

theorem keeps_execOfbEnc {z0 : State} (job : Nat) {s : State} (kp : Kept z0 s) : KeptRes z0 (execOfbEnc job s) := by
  unfold execOfbEnc
  repeat' first
    | with_reducible assumption | exact trivial | with_reducible refine KeptRes.next ?_ | with_reducible apply keeps_runOp
    | dsimp only | intro

theorem keeps_execOfbDec {z0 : State} (job : Nat) {s : State} (kp : Kept z0 s) : KeptRes z0 (execOfbDec job s) := by
  unfold execOfbDec
  repeat' first
    | with_reducible assumption | exact trivial | with_reducible refine KeptRes.next ?_ | with_reducible apply keeps_runOp
    | dsimp only | intro

theorem keeps_execCtrEnc {z0 : State} (job : Nat) {s : State} (kp : Kept z0 s) : KeptRes z0 (execCtrEnc job s) := by
  unfold execCtrEnc
  repeat' first
    | with_reducible assumption | exact trivial | with_reducible refine KeptRes.next ?_ | with_reducible apply keeps_runOp
    | dsimp only | intro

theorem keeps_execCtrDec {z0 : State} (job : Nat) {s : State} (kp : Kept z0 s) : KeptRes z0 (execCtrDec job s) := by
  unfold execCtrDec
  repeat' first
    | with_reducible assumption | exact trivial | with_reducible refine KeptRes.next ?_ | with_reducible apply keeps_runOp
    | dsimp only | intro

theorem keeps_execGcmEnc {z0 : State} (job : Nat) {s : State} (kp : Kept z0 s) : KeptRes z0 (execGcmEnc job s) := by
  unfold execGcmEnc
  repeat' first
    | with_reducible assumption | exact trivial | with_reducible refine KeptRes.next ?_ | with_reducible apply keeps_runOp
    | dsimp only | intro

theorem keeps_execGcmDec {z0 : State} (job : Nat) {s : State} (kp : Kept z0 s) : KeptRes z0 (execGcmDec job s) := by
  unfold execGcmDec
  repeat' first
    | with_reducible assumption | exact trivial | with_reducible refine KeptRes.next ?_ | with_reducible apply keeps_runOp
    | dsimp only | intro

theorem keeps_execCcmEnc {z0 : State} (job : Nat) {s : State} (kp : Kept z0 s) : KeptRes z0 (execCcmEnc job s) := by
  unfold execCcmEnc
  repeat' first
    | with_reducible assumption | exact trivial | with_reducible refine KeptRes.next ?_ | with_reducible apply keeps_runOp
    | dsimp only | intro

theorem keeps_execCcmDec {z0 : State} (job : Nat) {s : State} (kp : Kept z0 s) : KeptRes z0 (execCcmDec job s) := by
  unfold execCcmDec
  repeat' first
    | with_reducible assumption | exact trivial | with_reducible refine KeptRes.next ?_ | with_reducible apply keeps_runOp
    | dsimp only | intro

theorem keeps_execXtsEnc {z0 : State} (job : Nat) {s : State} (kp : Kept z0 s) : KeptRes z0 (execXtsEnc job s) := by
  unfold execXtsEnc
  repeat' first
    | with_reducible assumption | exact trivial | with_reducible refine KeptRes.next ?_ | with_reducible apply keeps_runOp
    | dsimp only | intro

theorem keeps_execXtsDec {z0 : State} (job : Nat) {s : State} (kp : Kept z0 s) : KeptRes z0 (execXtsDec job s) := by
  unfold execXtsDec
  repeat' first
    | with_reducible assumption | exact trivial | with_reducible refine KeptRes.next ?_ | with_reducible apply keeps_runOp
    | dsimp only | intro

theorem keeps_execKwWrap {z0 : State} (job : Nat) {s : State} (kp : Kept z0 s) : KeptRes z0 (execKwWrap job s) := by
  unfold execKwWrap
  repeat' first
    | with_reducible assumption | exact trivial | with_reducible refine KeptRes.next ?_ | with_reducible apply keeps_runOp
    | dsimp only | intro

theorem keeps_execKwUnwrap {z0 : State} (job : Nat) {s : State} (kp : Kept z0 s) : KeptRes z0 (execKwUnwrap job s) := by
  unfold execKwUnwrap
  repeat' first
    | with_reducible assumption | exact trivial | with_reducible refine KeptRes.next ?_ | with_reducible apply keeps_runOp
    | dsimp only | intro

theorem keeps_execKwpWrap {z0 : State} (job : Nat) {s : State} (kp : Kept z0 s) : KeptRes z0 (execKwpWrap job s) := by
  unfold execKwpWrap
  repeat' first
    | with_reducible assumption | exact trivial | with_reducible refine KeptRes.next ?_ | with_reducible apply keeps_runOp
    | dsimp only | intro

theorem keeps_execKwpUnwrap {z0 : State} (job : Nat) {s : State} (kp : Kept z0 s) : KeptRes z0 (execKwpUnwrap job s) := by
  unfold execKwpUnwrap
  repeat' first
    | with_reducible assumption | exact trivial | with_reducible refine KeptRes.next ?_ | with_reducible apply keeps_runOp
    | dsimp only | intro

theorem keeps_execSha224 {z0 : State} (job : Nat) {s : State} (kp : Kept z0 s) : KeptRes z0 (execSha224 job s) := by
  unfold execSha224
  repeat' first
    | with_reducible assumption | exact trivial | with_reducible refine KeptRes.next ?_ | with_reducible apply keeps_runOp
    | dsimp only | intro

theorem keeps_execSha256 {z0 : State} (job : Nat) {s : State} (kp : Kept z0 s) : KeptRes z0 (execSha256 job s) := by
  unfold execSha256
  repeat' first
    | with_reducible assumption | exact trivial | with_reducible refine KeptRes.next ?_ | with_reducible apply keeps_runOp
    | dsimp only | intro

theorem keeps_execSha384 {z0 : State} (job : Nat) {s : State} (kp : Kept z0 s) : KeptRes z0 (execSha384 job s) := by
  unfold execSha384
  repeat' first
    | with_reducible assumption | exact trivial | with_reducible refine KeptRes.next ?_ | with_reducible apply keeps_runOp
    | dsimp only | intro

theorem keeps_execSha512 {z0 : State} (job : Nat) {s : State} (kp : Kept z0 s) : KeptRes z0 (execSha512 job s) := by
  unfold execSha512
  repeat' first
    | with_reducible assumption | exact trivial | with_reducible refine KeptRes.next ?_ | with_reducible apply keeps_runOp
    | dsimp only | intro

theorem keeps_execSha512_256 {z0 : State} (job : Nat) {s : State} (kp : Kept z0 s) : KeptRes z0 (execSha512_256 job s) := by
  unfold execSha512_256
  repeat' first
    | with_reducible assumption | exact trivial | with_reducible refine KeptRes.next ?_ | with_reducible apply keeps_runOp
    | dsimp only | intro

theorem keeps_execSha3_224 {z0 : State} (job : Nat) {s : State} (kp : Kept z0 s) : KeptRes z0 (execSha3_224 job s) := by
  unfold execSha3_224
  repeat' first
    | with_reducible assumption | exact trivial | with_reducible refine KeptRes.next ?_ | with_reducible apply keeps_runOp
    | dsimp only | intro

theorem keeps_execSha3_256 {z0 : State} (job : Nat) {s : State} (kp : Kept z0 s) : KeptRes z0 (execSha3_256 job s) := by
  unfold execSha3_256
  repeat' first
    | with_reducible assumption | exact trivial | with_reducible refine KeptRes.next ?_ | with_reducible apply keeps_runOp
    | dsimp only | intro

theorem keeps_execSha3_384 {z0 : State} (job : Nat) {s : State} (kp : Kept z0 s) : KeptRes z0 (execSha3_384 job s) := by
  unfold execSha3_384
  repeat' first
    | with_reducible assumption | exact trivial | with_reducible refine KeptRes.next ?_ | with_reducible apply keeps_runOp
    | dsimp only | intro

theorem keeps_execSha3_512 {z0 : State} (job : Nat) {s : State} (kp : Kept z0 s) : KeptRes z0 (execSha3_512 job s) := by
  unfold execSha3_512
  repeat' first
    | with_reducible assumption | exact trivial | with_reducible refine KeptRes.next ?_ | with_reducible apply keeps_runOp
    | dsimp only | intro

theorem keeps_execShake128 {z0 : State} (job : Nat) {s : State} (kp : Kept z0 s) : KeptRes z0 (execShake128 job s) := by
  unfold execShake128
  repeat' first
    | with_reducible assumption | exact trivial | with_reducible refine KeptRes.next ?_ | with_reducible apply keeps_runOp
    | dsimp only | intro

theorem keeps_execShake256 {z0 : State} (job : Nat) {s : State} (kp : Kept z0 s) : KeptRes z0 (execShake256 job s) := by
  unfold execShake256
  repeat' first
    | with_reducible assumption | exact trivial | with_reducible refine KeptRes.next ?_ | with_reducible apply keeps_runOp
    | dsimp only | intro

theorem keeps_execCshake128 {z0 : State} (job : Nat) {s : State} (kp : Kept z0 s) : KeptRes z0 (execCshake128 job s) := by
  unfold execCshake128
  repeat' first
    | with_reducible assumption | exact trivial | with_reducible refine KeptRes.next ?_ | with_reducible apply keeps_runOp
    | dsimp only | intro

theorem keeps_execCshake256 {z0 : State} (job : Nat) {s : State} (kp : Kept z0 s) : KeptRes z0 (execCshake256 job s) := by
  unfold execCshake256
  repeat' first
    | with_reducible assumption | exact trivial | with_reducible refine KeptRes.next ?_ | with_reducible apply keeps_runOp
    | dsimp only | intro

theorem keeps_execKmac128 {z0 : State} (job : Nat) {s : State} (kp : Kept z0 s) : KeptRes z0 (execKmac128 job s) := by
  unfold execKmac128
  repeat' first
    | with_reducible assumption | exact trivial | with_reducible refine KeptRes.next ?_ | with_reducible apply keeps_runOp
    | dsimp only | intro

theorem keeps_execKmac256 {z0 : State} (job : Nat) {s : State} (kp : Kept z0 s) : KeptRes z0 (execKmac256 job s) := by
  unfold execKmac256
  repeat' first
    | with_reducible assumption | exact trivial | with_reducible refine KeptRes.next ?_ | with_reducible apply keeps_runOp
    | dsimp only | intro

theorem keeps_execKmac128Verify {z0 : State} (job : Nat) {s : State} (kp : Kept z0 s) : KeptRes z0 (execKmac128Verify job s)
    := by
  unfold execKmac128Verify
  repeat' first
    | with_reducible assumption | exact trivial | with_reducible refine KeptRes.next ?_ | with_reducible apply keeps_runOp
    | dsimp only | intro

theorem keeps_execKmac256Verify {z0 : State} (job : Nat) {s : State} (kp : Kept z0 s) : KeptRes z0 (execKmac256Verify job s)
    := by
  unfold execKmac256Verify
  repeat' first
    | with_reducible assumption | exact trivial | with_reducible refine KeptRes.next ?_ | with_reducible apply keeps_runOp
    | dsimp only | intro

theorem keeps_execHmacSha224 {z0 : State} (job : Nat) {s : State} (kp : Kept z0 s) : KeptRes z0 (execHmacSha224 job s) := by
  unfold execHmacSha224
  repeat' first
    | with_reducible assumption | exact trivial | with_reducible refine KeptRes.next ?_ | with_reducible apply keeps_runOp
    | dsimp only | intro

theorem keeps_execHmacSha256 {z0 : State} (job : Nat) {s : State} (kp : Kept z0 s) : KeptRes z0 (execHmacSha256 job s) := by
  unfold execHmacSha256
  repeat' first
    | with_reducible assumption | exact trivial | with_reducible refine KeptRes.next ?_ | with_reducible apply keeps_runOp
    | dsimp only | intro

theorem keeps_execHmacSha384 {z0 : State} (job : Nat) {s : State} (kp : Kept z0 s) : KeptRes z0 (execHmacSha384 job s) := by
  unfold execHmacSha384
  repeat' first
    | with_reducible assumption | exact trivial | with_reducible refine KeptRes.next ?_ | with_reducible apply keeps_runOp
    | dsimp only | intro

theorem keeps_execHmacSha512 {z0 : State} (job : Nat) {s : State} (kp : Kept z0 s) : KeptRes z0 (execHmacSha512 job s) := by
  unfold execHmacSha512
  repeat' first
    | with_reducible assumption | exact trivial | with_reducible refine KeptRes.next ?_ | with_reducible apply keeps_runOp
    | dsimp only | intro

theorem keeps_execHmacSha512_256 {z0 : State} (job : Nat) {s : State} (kp : Kept z0 s) : KeptRes z0 (execHmacSha512_256 job
    s) := by
  unfold execHmacSha512_256
  repeat' first
    | with_reducible assumption | exact trivial | with_reducible refine KeptRes.next ?_ | with_reducible apply keeps_runOp
    | dsimp only | intro

theorem keeps_execHmacSha224Verify {z0 : State} (job : Nat) {s : State} (kp : Kept z0 s) : KeptRes z0 (execHmacSha224Verify
    job s) := by
  unfold execHmacSha224Verify
  repeat' first
    | with_reducible assumption | exact trivial | with_reducible refine KeptRes.next ?_ | with_reducible apply keeps_runOp
    | dsimp only | intro

theorem keeps_execHmacSha256Verify {z0 : State} (job : Nat) {s : State} (kp : Kept z0 s) : KeptRes z0 (execHmacSha256Verify
    job s) := by
  unfold execHmacSha256Verify
  repeat' first
    | with_reducible assumption | exact trivial | with_reducible refine KeptRes.next ?_ | with_reducible apply keeps_runOp
    | dsimp only | intro

theorem keeps_execHmacSha384Verify {z0 : State} (job : Nat) {s : State} (kp : Kept z0 s) : KeptRes z0 (execHmacSha384Verify
    job s) := by
  unfold execHmacSha384Verify
  repeat' first
    | with_reducible assumption | exact trivial | with_reducible refine KeptRes.next ?_ | with_reducible apply keeps_runOp
    | dsimp only | intro

theorem keeps_execHmacSha512Verify {z0 : State} (job : Nat) {s : State} (kp : Kept z0 s) : KeptRes z0 (execHmacSha512Verify
    job s) := by
  unfold execHmacSha512Verify
  repeat' first
    | with_reducible assumption | exact trivial | with_reducible refine KeptRes.next ?_ | with_reducible apply keeps_runOp
    | dsimp only | intro

theorem keeps_execHmacSha512_256Verify {z0 : State} (job : Nat) {s : State} (kp : Kept z0 s) : KeptRes z0
    (execHmacSha512_256Verify job s) := by
  unfold execHmacSha512_256Verify
  repeat' first
    | with_reducible assumption | exact trivial | with_reducible refine KeptRes.next ?_ | with_reducible apply keeps_runOp
    | dsimp only | intro

theorem keeps_execKeyWrap {z0 : State} (job : Nat) {s : State} (kp : Kept z0 s) : KeptRes z0 (execKeyWrap job s) := by
  unfold execKeyWrap
  repeat' first
    | with_reducible assumption | exact trivial | with_reducible refine KeptRes.next ?_ | with_reducible apply keeps_runOp
    | dsimp only | intro

theorem keeps_execKeyUnwrap {z0 : State} (job : Nat) {s : State} (kp : Kept z0 s) : KeptRes z0 (execKeyUnwrap job s) := by
  unfold execKeyUnwrap
  repeat' first
    | with_reducible assumption | exact trivial | with_reducible refine KeptRes.next ?_ | with_reducible apply keeps_runOp
    | dsimp only | intro

theorem keeps_execKeyDerive {z0 : State} (job : Nat) {s : State} (kp : Kept z0 s) : KeptRes z0 (execKeyDerive job s) := by
  unfold execKeyDerive
  repeat' first
    | with_reducible assumption | exact trivial | with_reducible refine KeptRes.next ?_ | with_reducible apply keeps_runOp
    | dsimp only | intro

theorem keeps_execKeyDestroy {z0 : State} (job : Nat) {s : State} (kp : Kept z0 s) : KeptRes z0 (execKeyDestroy job s) := by
  unfold execKeyDestroy
  repeat' first
    | with_reducible assumption | exact trivial | with_reducible refine KeptRes.next ?_ | with_reducible apply keeps_runOp
    | dsimp only | intro

theorem keeps_execKeyInfo {z0 : State} (job : Nat) {s : State} (kp : Kept z0 s) : KeptRes z0 (execKeyInfo job s) := by
  unfold execKeyInfo
  repeat' first
    | with_reducible assumption | exact trivial | with_reducible refine KeptRes.next ?_ | with_reducible apply keeps_runOp
    | dsimp only | intro

theorem keeps_execKeyGenerate {z0 : State} (job : Nat) {s : State} (kp : Kept z0 s) : KeptRes z0 (execKeyGenerate job s) := by
  unfold execKeyGenerate
  repeat' first
    | with_reducible assumption | exact trivial | with_reducible refine KeptRes.next ?_ | with_reducible apply keeps_runOp
    | dsimp only | intro

theorem keeps_execTransportOffer {z0 : State} (job : Nat) {s : State} (kp : Kept z0 s) : KeptRes z0 (execTransportOffer job
    s) := by
  unfold execTransportOffer
  repeat' first
    | with_reducible assumption | exact trivial | with_reducible refine KeptRes.next ?_ | with_reducible apply keeps_runOp
    | dsimp only | intro

theorem keeps_execAttest {z0 : State} (job : Nat) {s : State} (kp : Kept z0 s) : KeptRes z0 (execAttest job s) := by
  unfold execAttest
  repeat' first
    | with_reducible assumption | exact trivial | with_reducible refine KeptRes.next ?_ | with_reducible apply keeps_runOp
    | dsimp only | intro

theorem keeps_execEnrol {z0 : State} (job : Nat) {s : State} (kp : Kept z0 s) : KeptRes z0 (execEnrol job s) := by
  unfold execEnrol
  repeat' first
    | with_reducible assumption | exact trivial | with_reducible refine KeptRes.next ?_ | with_reducible apply keeps_runKum
    | dsimp only | intro

theorem keeps_execCommission {z0 : State} (job : Nat) {s : State} (kp : Kept z0 s) : KeptRes z0 (execCommission job s) := by
  unfold execCommission
  repeat' first
    | with_reducible assumption | exact trivial | with_reducible refine KeptRes.next ?_ | with_reducible apply keeps_runKum
    | dsimp only | intro

theorem keeps_execRoster {z0 : State} (job : Nat) {s : State} (kp : Kept z0 s) : KeptRes z0 (execRoster job s) := by
  unfold execRoster
  repeat' first
    | with_reducible assumption | exact trivial | with_reducible refine KeptRes.next ?_ | with_reducible apply keeps_runKum
    | dsimp only | intro

theorem keeps_execLoad {z0 : State} (job : Nat) {s : State} (kp : Kept z0 s) : KeptRes z0 (execLoad job s) := by
  unfold execLoad
  repeat' first
    | with_reducible assumption | exact trivial | with_reducible refine KeptRes.next ?_ | with_reducible apply keeps_runKum
    | dsimp only | intro

theorem keeps_execGenerate {z0 : State} (job : Nat) {s : State} (kp : Kept z0 s) : KeptRes z0 (execGenerate job s) := by
  unfold execGenerate
  repeat' first
    | with_reducible assumption | exact trivial | with_reducible refine KeptRes.next ?_ | with_reducible apply keeps_runKum
    | dsimp only | intro

theorem keeps_execReplace {z0 : State} (job : Nat) {s : State} (kp : Kept z0 s) : KeptRes z0 (execReplace job s) := by
  unfold execReplace
  repeat' first
    | with_reducible assumption | exact trivial | with_reducible refine KeptRes.next ?_ | with_reducible apply keeps_runKum
    | dsimp only | intro

theorem keeps_execDestroy {z0 : State} (job : Nat) {s : State} (kp : Kept z0 s) : KeptRes z0 (execDestroy job s) := by
  unfold execDestroy
  repeat' first
    | with_reducible assumption | exact trivial | with_reducible refine KeptRes.next ?_ | with_reducible apply keeps_runKum
    | dsimp only | intro

theorem keeps_execAckLog {z0 : State} (job : Nat) {s : State} (kp : Kept z0 s) : KeptRes z0 (execAckLog job s) := by
  unfold execAckLog
  repeat' first
    | with_reducible assumption | exact trivial | with_reducible refine KeptRes.next ?_ | with_reducible apply keeps_runKum
    | dsimp only | intro

theorem keeps_execPolicy {z0 : State} (job : Nat) {s : State} (kp : Kept z0 s) : KeptRes z0 (execPolicy job s) := by
  unfold execPolicy
  repeat' first
    | with_reducible assumption | exact trivial | with_reducible refine KeptRes.next ?_ | with_reducible apply keeps_runKum
    | dsimp only | intro

theorem keeps_execRecover {z0 : State} (job : Nat) {s : State} (kp : Kept z0 s) : KeptRes z0 (execRecover job s) := by
  unfold execRecover
  repeat' first
    | with_reducible assumption | exact trivial | with_reducible refine KeptRes.next ?_ | with_reducible apply keeps_runKum
    | dsimp only | intro

theorem keeps_execMlkemKeygen {z0 : State} (job : Nat) {s : State} (kp : Kept z0 s) : KeptRes z0 (execMlkemKeygen job s) := by
  unfold execMlkemKeygen
  repeat' first
    | with_reducible assumption | exact trivial | with_reducible refine KeptRes.next ?_ | with_reducible apply keeps_runOp
    | dsimp only | intro

theorem keeps_execMlkemEncaps {z0 : State} (job : Nat) {s : State} (kp : Kept z0 s) : KeptRes z0 (execMlkemEncaps job s) := by
  unfold execMlkemEncaps
  repeat' first
    | with_reducible assumption | exact trivial | with_reducible refine KeptRes.next ?_ | with_reducible apply keeps_runOp
    | dsimp only | intro

theorem keeps_execMlkemDecaps {z0 : State} (job : Nat) {s : State} (kp : Kept z0 s) : KeptRes z0 (execMlkemDecaps job s) := by
  unfold execMlkemDecaps
  repeat' first
    | with_reducible assumption | exact trivial | with_reducible refine KeptRes.next ?_ | with_reducible apply keeps_runOp
    | dsimp only | intro

theorem keeps_execMldsaKeygen {z0 : State} (job : Nat) {s : State} (kp : Kept z0 s) : KeptRes z0 (execMldsaKeygen job s) := by
  unfold execMldsaKeygen
  repeat' first
    | with_reducible assumption | exact trivial | with_reducible refine KeptRes.next ?_ | with_reducible apply keeps_runOp
    | dsimp only | intro

theorem keeps_execMldsaSign {z0 : State} (job : Nat) {s : State} (kp : Kept z0 s) : KeptRes z0 (execMldsaSign job s) := by
  unfold execMldsaSign
  repeat' first
    | with_reducible assumption | exact trivial | with_reducible refine KeptRes.next ?_ | with_reducible apply keeps_runOp
    | dsimp only | intro

theorem keeps_execMldsaVerify {z0 : State} (job : Nat) {s : State} (kp : Kept z0 s) : KeptRes z0 (execMldsaVerify job s) := by
  unfold execMldsaVerify
  repeat' first
    | with_reducible assumption | exact trivial | with_reducible refine KeptRes.next ?_ | with_reducible apply keeps_runOp
    | dsimp only | intro

theorem keeps_execSlhdsaKeygen {z0 : State} (job : Nat) {s : State} (kp : Kept z0 s) : KeptRes z0 (execSlhdsaKeygen job s) := by
  unfold execSlhdsaKeygen
  repeat' first
    | with_reducible assumption | exact trivial | with_reducible refine KeptRes.next ?_ | with_reducible apply keeps_runOp
    | dsimp only | intro

theorem keeps_execSlhdsaSign {z0 : State} (job : Nat) {s : State} (kp : Kept z0 s) : KeptRes z0 (execSlhdsaSign job s) := by
  unfold execSlhdsaSign
  repeat' first
    | with_reducible assumption | exact trivial | with_reducible refine KeptRes.next ?_ | with_reducible apply keeps_runOp
    | dsimp only | intro

theorem keeps_execSlhdsaVerify {z0 : State} (job : Nat) {s : State} (kp : Kept z0 s) : KeptRes z0 (execSlhdsaVerify job s) := by
  unfold execSlhdsaVerify
  repeat' first
    | with_reducible assumption | exact trivial | with_reducible refine KeptRes.next ?_ | with_reducible apply keeps_runOp
    | dsimp only | intro

theorem keeps_execHykemKeygen {z0 : State} (job : Nat) {s : State} (kp : Kept z0 s) : KeptRes z0 (execHykemKeygen job s) := by
  unfold execHykemKeygen
  repeat' first
    | with_reducible assumption | exact trivial | with_reducible refine KeptRes.next ?_ | with_reducible apply keeps_runOp
    | dsimp only | intro

theorem keeps_execHykemEncaps {z0 : State} (job : Nat) {s : State} (kp : Kept z0 s) : KeptRes z0 (execHykemEncaps job s) := by
  unfold execHykemEncaps
  repeat' first
    | with_reducible assumption | exact trivial | with_reducible refine KeptRes.next ?_ | with_reducible apply keeps_runOp
    | dsimp only | intro

theorem keeps_execHykemDecaps {z0 : State} (job : Nat) {s : State} (kp : Kept z0 s) : KeptRes z0 (execHykemDecaps job s) := by
  unfold execHykemDecaps
  repeat' first
    | with_reducible assumption | exact trivial | with_reducible refine KeptRes.next ?_ | with_reducible apply keeps_runOp
    | dsimp only | intro

theorem keeps_execHbsSign {z0 : State} (job : Nat) {s : State} (kp : Kept z0 s) : KeptRes z0 (execHbsSign job s) := by
  unfold execHbsSign
  repeat' first
    | with_reducible assumption | exact trivial | with_reducible refine KeptRes.next ?_ | with_reducible apply keeps_runOp
    | dsimp only | intro

theorem keeps_execHbsVerify {z0 : State} (job : Nat) {s : State} (kp : Kept z0 s) : KeptRes z0 (execHbsVerify job s) := by
  unfold execHbsVerify
  repeat' first
    | with_reducible assumption | exact trivial | with_reducible refine KeptRes.next ?_ | with_reducible apply keeps_runOp
    | dsimp only | intro

theorem keeps_execHbsStatus {z0 : State} (job : Nat) {s : State} (kp : Kept z0 s) : KeptRes z0 (execHbsStatus job s) := by
  unfold execHbsStatus
  repeat' first
    | with_reducible assumption | exact trivial | with_reducible refine KeptRes.next ?_ | with_reducible apply keeps_runOp
    | dsimp only | intro

theorem keeps_execOrdSign {z0 : State} (job : Nat) {s : State} (kp : Kept z0 s) : KeptRes z0 (execOrdSign job s) := by
  unfold execOrdSign
  repeat' first
    | with_reducible assumption | exact trivial | with_reducible refine KeptRes.next ?_ | with_reducible apply keeps_runOp
    | dsimp only | intro

theorem keeps_execOrdQuery {z0 : State} (job : Nat) {s : State} (kp : Kept z0 s) : KeptRes z0 (execOrdQuery job s) := by
  unfold execOrdQuery
  repeat' first
    | with_reducible assumption | exact trivial | with_reducible refine KeptRes.next ?_ | with_reducible apply keeps_runOp
    | dsimp only | intro

theorem keeps_execOrdTargetConfig {z0 : State} (job : Nat) {s : State} (kp : Kept z0 s) : KeptRes z0 (execOrdTargetConfig
    job s) := by
  unfold execOrdTargetConfig
  repeat' first
    | with_reducible assumption | exact trivial | with_reducible refine KeptRes.next ?_ | with_reducible apply keeps_runOp
    | dsimp only | intro

theorem keeps_execOrdCheck {z0 : State} (job : Nat) {s : State} (kp : Kept z0 s) : KeptRes z0 (execOrdCheck job s) := by
  unfold execOrdCheck
  repeat' first
    | with_reducible assumption | exact trivial | with_reducible refine KeptRes.next ?_ | with_reducible apply keeps_runOp
    | dsimp only | intro

theorem keeps_execMulacc {z0 : State} (job : Nat) {s : State} (kp : Kept z0 s) : KeptRes z0 (execMulacc job s) := by
  unfold execMulacc
  repeat' first
    | with_reducible assumption | exact trivial | with_reducible refine KeptRes.next ?_ | with_reducible apply keeps_runOp
    | dsimp only | intro

theorem keeps_execMulaccVec {z0 : State} (job : Nat) {s : State} (kp : Kept z0 s) : KeptRes z0 (execMulaccVec job s) := by
  unfold execMulaccVec
  repeat' first
    | with_reducible assumption | exact trivial | with_reducible refine KeptRes.next ?_ | with_reducible apply keeps_runOp
    | dsimp only | intro

theorem keeps_execRsaPssSign {z0 : State} (job : Nat) {s : State} (kp : Kept z0 s) : KeptRes z0 (execRsaPssSign job s) := by
  unfold execRsaPssSign
  repeat' first
    | with_reducible assumption | exact trivial | with_reducible refine KeptRes.next ?_ | with_reducible apply keeps_runOp
    | dsimp only | intro

theorem keeps_execRsaV15Sign {z0 : State} (job : Nat) {s : State} (kp : Kept z0 s) : KeptRes z0 (execRsaV15Sign job s) := by
  unfold execRsaV15Sign
  repeat' first
    | with_reducible assumption | exact trivial | with_reducible refine KeptRes.next ?_ | with_reducible apply keeps_runOp
    | dsimp only | intro

theorem keeps_execRsaPssVerify {z0 : State} (job : Nat) {s : State} (kp : Kept z0 s) : KeptRes z0 (execRsaPssVerify job s) := by
  unfold execRsaPssVerify
  repeat' first
    | with_reducible assumption | exact trivial | with_reducible refine KeptRes.next ?_ | with_reducible apply keeps_runOp
    | dsimp only | intro

theorem keeps_execRsaV15Verify {z0 : State} (job : Nat) {s : State} (kp : Kept z0 s) : KeptRes z0 (execRsaV15Verify job s) := by
  unfold execRsaV15Verify
  repeat' first
    | with_reducible assumption | exact trivial | with_reducible refine KeptRes.next ?_ | with_reducible apply keeps_runOp
    | dsimp only | intro

theorem keeps_execRsaOaepEncrypt {z0 : State} (job : Nat) {s : State} (kp : Kept z0 s) : KeptRes z0 (execRsaOaepEncrypt job
    s) := by
  unfold execRsaOaepEncrypt
  repeat' first
    | with_reducible assumption | exact trivial | with_reducible refine KeptRes.next ?_ | with_reducible apply keeps_runOp
    | dsimp only | intro

theorem keeps_execRsaOaepDecrypt {z0 : State} (job : Nat) {s : State} (kp : Kept z0 s) : KeptRes z0 (execRsaOaepDecrypt job
    s) := by
  unfold execRsaOaepDecrypt
  repeat' first
    | with_reducible assumption | exact trivial | with_reducible refine KeptRes.next ?_ | with_reducible apply keeps_runOp
    | dsimp only | intro

theorem keeps_execEcdsaSign {z0 : State} (job : Nat) {s : State} (kp : Kept z0 s) : KeptRes z0 (execEcdsaSign job s) := by
  unfold execEcdsaSign
  repeat' first
    | with_reducible assumption | exact trivial | with_reducible refine KeptRes.next ?_ | with_reducible apply keeps_runOp
    | dsimp only | intro

theorem keeps_execEcdsaVerify {z0 : State} (job : Nat) {s : State} (kp : Kept z0 s) : KeptRes z0 (execEcdsaVerify job s) := by
  unfold execEcdsaVerify
  repeat' first
    | with_reducible assumption | exact trivial | with_reducible refine KeptRes.next ?_ | with_reducible apply keeps_runOp
    | dsimp only | intro

theorem keeps_execEcKeygen {z0 : State} (job : Nat) {s : State} (kp : Kept z0 s) : KeptRes z0 (execEcKeygen job s) := by
  unfold execEcKeygen
  repeat' first
    | with_reducible assumption | exact trivial | with_reducible refine KeptRes.next ?_ | with_reducible apply keeps_runOp
    | dsimp only | intro

theorem keeps_execEcdh {z0 : State} (job : Nat) {s : State} (kp : Kept z0 s) : KeptRes z0 (execEcdh job s) := by
  unfold execEcdh
  repeat' first
    | with_reducible assumption | exact trivial | with_reducible refine KeptRes.next ?_ | with_reducible apply keeps_runOp
    | dsimp only | intro

theorem keeps_execEddsaSign {z0 : State} (job : Nat) {s : State} (kp : Kept z0 s) : KeptRes z0 (execEddsaSign job s) := by
  unfold execEddsaSign
  repeat' first
    | with_reducible assumption | exact trivial | with_reducible refine KeptRes.next ?_ | with_reducible apply keeps_runOp
    | dsimp only | intro

theorem keeps_execEddsaVerify {z0 : State} (job : Nat) {s : State} (kp : Kept z0 s) : KeptRes z0 (execEddsaVerify job s) := by
  unfold execEddsaVerify
  repeat' first
    | with_reducible assumption | exact trivial | with_reducible refine KeptRes.next ?_ | with_reducible apply keeps_runOp
    | dsimp only | intro

theorem keeps_execEddsaBatchVerify {z0 : State} (job : Nat) {s : State} (kp : Kept z0 s) : KeptRes z0 (execEddsaBatchVerify
    job s) := by
  unfold execEddsaBatchVerify
  repeat' first
    | with_reducible assumption | exact trivial | with_reducible refine KeptRes.next ?_ | with_reducible apply keeps_runOp
    | dsimp only | intro

theorem keeps_execEddsaKeygen {z0 : State} (job : Nat) {s : State} (kp : Kept z0 s) : KeptRes z0 (execEddsaKeygen job s) := by
  unfold execEddsaKeygen
  repeat' first
    | with_reducible assumption | exact trivial | with_reducible refine KeptRes.next ?_ | with_reducible apply keeps_runOp
    | dsimp only | intro

theorem keeps_execXdh {z0 : State} (job : Nat) {s : State} (kp : Kept z0 s) : KeptRes z0 (execXdh job s) := by
  unfold execXdh
  repeat' first
    | with_reducible assumption | exact trivial | with_reducible refine KeptRes.next ?_ | with_reducible apply keeps_runOp
    | dsimp only | intro

theorem keeps_execXdhKeygen {z0 : State} (job : Nat) {s : State} (kp : Kept z0 s) : KeptRes z0 (execXdhKeygen job s) := by
  unfold execXdhKeygen
  repeat' first
    | with_reducible assumption | exact trivial | with_reducible refine KeptRes.next ?_ | with_reducible apply keeps_runOp
    | dsimp only | intro

theorem keeps_execCurveLoad {z0 : State} (job : Nat) {s : State} (kp : Kept z0 s) : KeptRes z0 (execCurveLoad job s) := by
  unfold execCurveLoad
  repeat' first
    | with_reducible assumption | exact trivial | with_reducible refine KeptRes.next ?_ | with_reducible apply keeps_runOp
    | dsimp only | intro

theorem keeps_execCurveUnload {z0 : State} (job : Nat) {s : State} (kp : Kept z0 s) : KeptRes z0 (execCurveUnload job s) := by
  unfold execCurveUnload
  repeat' first
    | with_reducible assumption | exact trivial | with_reducible refine KeptRes.next ?_ | with_reducible apply keeps_runOp
    | dsimp only | intro

theorem keeps_execHybridSign {z0 : State} (job : Nat) {s : State} (kp : Kept z0 s) : KeptRes z0 (execHybridSign job s) := by
  unfold execHybridSign
  repeat' first
    | with_reducible assumption | exact trivial | with_reducible refine KeptRes.next ?_ | with_reducible apply keeps_runOp
    | dsimp only | intro

theorem keeps_execHybridVerify {z0 : State} (job : Nat) {s : State} (kp : Kept z0 s) : KeptRes z0 (execHybridVerify job s) := by
  unfold execHybridVerify
  repeat' first
    | with_reducible assumption | exact trivial | with_reducible refine KeptRes.next ?_ | with_reducible apply keeps_runOp
    | dsimp only | intro

theorem keeps_execHybridKeygen {z0 : State} (job : Nat) {s : State} (kp : Kept z0 s) : KeptRes z0 (execHybridKeygen job s) := by
  unfold execHybridKeygen
  repeat' first
    | with_reducible assumption | exact trivial | with_reducible refine KeptRes.next ?_ | with_reducible apply keeps_runOp
    | dsimp only | intro

theorem keeps_execRandom {z0 : State} (job : Nat) {s : State} (kp : Kept z0 s) : KeptRes z0 (execRandom job s) := by
  unfold execRandom
  repeat' first
    | with_reducible assumption | exact trivial | with_reducible refine KeptRes.next ?_ | with_reducible apply keeps_runOp
    | dsimp only | intro

theorem keeps_execRandomPr {z0 : State} (job : Nat) {s : State} (kp : Kept z0 s) : KeptRes z0 (execRandomPr job s) := by
  unfold execRandomPr
  repeat' first
    | with_reducible assumption | exact trivial | with_reducible refine KeptRes.next ?_ | with_reducible apply keeps_runOp
    | dsimp only | intro

theorem keeps_execReseed {z0 : State} (job : Nat) {s : State} (kp : Kept z0 s) : KeptRes z0 (execReseed job s) := by
  unfold execReseed
  repeat' first
    | with_reducible assumption | exact trivial | with_reducible refine KeptRes.next ?_ | with_reducible apply keeps_runOp
    | dsimp only | intro

end Sys2Proof.Machine
end

