-- ==== Sys2Proof/Laws/KeptMirror.lean ====
section
/-! SUPPORT. Frames: what the mirror group's commands keep (`Kept`). -/
set_option linter.unusedSimpArgs false
set_option linter.unusedVariables false
namespace Sys2Proof.Machine

theorem keeps_offerAgain {z0 : State} {s : State} (i : Nat) (body : Bytes) (kp : Kept z0 s) : Kept z0 (offerAgain s i body)
    := by
  unfold offerAgain
  repeat' first
    | with_reducible assumption | with_reducible apply keeps_mirSendSigned | with_reducible apply keeps_noteAsk
    | with_reducible apply keeps_setPeer
    | (refine Kept.written ?_ ?_; (· simp only [written_record]); refine Kept.record ?_ ?_; rotate_left;
          (· first | (dsimp only [prot]; done) | (dsimp only [prot]; (repeat' first | rfl | split); done)))
    | dsimp only | intro

theorem keeps_sendOffer {z0 : State} {s : State} (i : Nat) (kp : Kept z0 s) : Kept z0 (sendOffer s i) := by
  unfold sendOffer
  repeat' first
    | with_reducible assumption | with_reducible apply keeps_drawRandom
    | with_reducible refine keepsE_drawRandom (by assumption) ?_ | with_reducible apply keeps_offerAgain
    | with_reducible apply keeps_setPeer
    | (refine Kept.written ?_ ?_; (· simp only [written_record]); refine Kept.record ?_ ?_; rotate_left;
          (· first | (dsimp only [prot]; done) | (dsimp only [prot]; (repeat' first | rfl | split); done)))
    | split | dsimp only | intro

theorem keeps_formPair {z0 : State} {s : State} (i : Nat) (key : Bytes) (kp : Kept z0 s) : Kept z0 (formPair s i key) := by
  unfold formPair
  repeat' first
    | with_reducible assumption | with_reducible apply keeps_setMirror | with_reducible apply keeps_setPeer
    | (refine Kept.written ?_ ?_; (· simp only [written_record]); refine Kept.record ?_ ?_; rotate_left;
          (· first | (dsimp only [prot]; done) | (dsimp only [prot]; (repeat' first | rfl | split); done)))
    | split | dsimp only | intro

theorem keeps_countTaken {z0 : State} {s : State} (kp : Kept z0 s) : Kept z0 (countTaken s) := by
  unfold countTaken
  repeat' first
    | with_reducible assumption
    | (refine Kept.written ?_ ?_; (· simp only [written_record]); refine Kept.record ?_ ?_; rotate_left;
          (· first | (dsimp only [prot]; done) | (dsimp only [prot]; (repeat' first | rfl | split); done)))
    | dsimp only | intro

theorem keeps_countDropped {z0 : State} {s : State} (kp : Kept z0 s) : Kept z0 (countDropped s) := by
  unfold countDropped
  repeat' first
    | with_reducible assumption
    | (refine Kept.written ?_ ?_; (· simp only [written_record]); refine Kept.record ?_ ?_; rotate_left;
          (· first | (dsimp only [prot]; done) | (dsimp only [prot]; (repeat' first | rfl | split); done)))
    | dsimp only | intro

theorem keeps_noteMsg {z0 : State} {s : State} (m : Msg) (kp : Kept z0 s) : Kept z0 (noteMsg s m) := by
  unfold noteMsg
  repeat' first
    | with_reducible assumption | with_reducible apply keeps_countTaken | with_reducible apply keeps_setPeer
    | (refine Kept.written ?_ ?_; (· simp only [written_record]); refine Kept.record ?_ ?_; rotate_left;
          (· first | (dsimp only [prot]; done) | (dsimp only [prot]; (repeat' first | rfl | split); done)))
    | dsimp only | intro

theorem keeps_hearTagged {z0 : State} {f : State → Msg → Heard × State} {s : State} (m : Msg) (kp_f : ∀ v0 v1, Kept z0 v0 →
    Kept z0 (f v0 v1).2) (kp : Kept z0 s) : Kept z0 (hearTagged f s m).2 := by
  have k := kp_f _ m (keeps_noteMsg m kp)
  unfold hearTagged
  split
  · exact kp
  · split
    · rename_i e
      rw [e] at k
      exact Kept.upd k rfl
    · exact k

theorem keepsE_hearTagged {z0 : State} {f : State → Msg → Heard × State} {s : State} {m : Msg} {v z1} (he : hearTagged f s
    m = (v, z1)) (kp_f : ∀ v0 v1, Kept z0 v0 → Kept z0 (f v0 v1).2) (kp : Kept z0 s) : Kept z0 z1 := by
  have h9 := keeps_hearTagged (m := m) (kp_f := kp_f) (kp := kp)
  rw [he] at h9; exact h9

theorem keeps_giveRow {z0 : State} (type : Nat) {f : State → Msg → Heard × State} (io : MbxIo) {s : State} (kp_f : ∀ v0 v1,
    Kept z0 v0 → Kept z0 (f v0 v1).2) (kp : Kept z0 s) : KeptRes z0 (giveRow type f io s) := by
  have kf : ∀ u m v z1, f u m = (v, z1) → Kept z0 u → Kept z0 z1 := fun u m v z1 e hu => by
    have h9 := kp_f u m hu
    rw [e] at h9; exact h9
  unfold giveRow
  repeat' first
    | with_reducible assumption | exact trivial | with_reducible refine KeptRes.next ?_
    | with_reducible apply keeps_finishReq | with_reducible apply keeps_countDropped
    | with_reducible refine keepsE_readInput (by assumption) ?_
    | exact kf _ _ _ _ (by assumption) (by with_reducible refine keepsE_readInput (by assumption) ?_; assumption)
    | with_reducible refine Kept.foldl (fun _ _ _ => ?_) _ ?_
    | (refine Kept.written ?_ ?_; (· simp only [written_record]); refine Kept.record ?_ ?_; rotate_left;
          (· first | (dsimp only [prot]; done) | (dsimp only [prot]; (repeat' first | rfl | split); done)))
    | split | dsimp only | intro

theorem keeps_joinGroup {z0 : State} {s : State} (c : Charter) (own : Nat) (kp : Kept z0 s) : Kept z0 (joinGroup s c own) := by
  unfold joinGroup
  repeat' first
    | with_reducible assumption | with_reducible apply keeps_notifyManager | with_reducible apply keeps_sendOffer
    | with_reducible apply keeps_skipBlocks | with_reducible refine Kept.foldl (fun _ _ _ => ?_) _ ?_
    | (refine Kept.written ?_ ?_; (· simp only [written_record]); refine Kept.record ?_ ?_; rotate_left;
          (· first | (dsimp only [prot]; done) | (dsimp only [prot]; (repeat' first | rfl | split); done)))
    | dsimp only | intro

theorem keeps_mirrorJoin {z0 : State} (io : MbxIo) (q : Req) {s : State} (kp : Kept z0 s) : Kept z0 (mirrorJoin io q s).2 := by
  unfold mirrorJoin
  repeat' first
    | with_reducible assumption | with_reducible apply keeps_joinGroup | with_reducible apply keeps_readInput
    | with_reducible refine keepsE_readInput (by assumption) ?_
    | (refine Kept.written ?_ ?_; (· simp only [written_record]); refine Kept.record ?_ ?_; rotate_left;
          (· first | (dsimp only [prot]; done) | (dsimp only [prot]; (repeat' first | rfl | split); done)))
    | split | dsimp only | intro

theorem keepsE_mirrorJoin {z0 : State} {io : MbxIo} {q : Req} {s : State} {v z1} (he : mirrorJoin io q s = (v, z1)) (kp :
    Kept z0 s) : Kept z0 z1 := by
  have h9 := keeps_mirrorJoin (io := io) (q := q) (kp := kp)
  rw [he] at h9; exact h9

theorem keeps_execMirrorJoin {z0 : State} (io : MbxIo) {s : State} (kp : Kept z0 s) : KeptRes z0 (execMirrorJoin io s) := by
  unfold execMirrorJoin
  repeat' first
    | with_reducible assumption | exact trivial | with_reducible refine KeptRes.next ?_
    | with_reducible apply keeps_mirrorJoin | with_reducible refine keepsE_mirrorJoin (by assumption) ?_
    | with_reducible apply keeps_runMailbox | split | dsimp only | intro

theorem keeps_execMirrorLeave {z0 : State} {s : State} (kp : Kept z0 s) : KeptRes z0 (execMirrorLeave s) := by
  unfold execMirrorLeave
  repeat' first
    | with_reducible assumption | exact trivial | with_reducible refine KeptRes.next ?_
    | with_reducible apply keeps_leaveGroup | with_reducible apply keeps_runMailbox | split | dsimp only | intro

theorem keeps_mirrorTake {z0 : State} (io : MbxIo) (q : Req) {s : State} (kp : Kept z0 s) : Kept z0 (mirrorTake io q s).2 := by
  unfold mirrorTake
  repeat' first
    | with_reducible assumption | with_reducible apply keeps_writeOutput
    | with_reducible refine keepsE_writeOutput (by assumption) ?_
    | (refine Kept.written ?_ ?_; (· simp only [written_record]); refine Kept.record ?_ ?_; rotate_left;
          (· first | (dsimp only [prot]; done) | (dsimp only [prot]; (repeat' first | rfl | split); done)))
    | split | dsimp only | intro

theorem keepsE_mirrorTake {z0 : State} {io : MbxIo} {q : Req} {s : State} {v z1} (he : mirrorTake io q s = (v, z1)) (kp :
    Kept z0 s) : Kept z0 z1 := by
  have h9 := keeps_mirrorTake (io := io) (q := q) (kp := kp)
  rw [he] at h9; exact h9

theorem keeps_execMirrorTake {z0 : State} (io : MbxIo) {s : State} (kp : Kept z0 s) : KeptRes z0 (execMirrorTake io s) := by
  unfold execMirrorTake
  repeat' first
    | with_reducible assumption | exact trivial | with_reducible refine KeptRes.next ?_
    | with_reducible apply keeps_mirrorTake | with_reducible refine keepsE_mirrorTake (by assumption) ?_
    | with_reducible apply keeps_runMailbox | dsimp only | intro

theorem keeps_execMirrorStatus {z0 : State} (io : MbxIo) {s : State} (kp : Kept z0 s) : KeptRes z0 (execMirrorStatus io s) := by
  unfold execMirrorStatus
  repeat' first
    | with_reducible assumption | exact trivial | with_reducible refine KeptRes.next ?_
    | with_reducible apply keeps_reportBlock | with_reducible refine keepsE_reportBlock (by assumption) ?_
    | with_reducible apply keeps_runMailbox | dsimp only | intro

theorem keeps_carriedState {z0 : State} {s : State} (k : Kum) (kp : Kept z0 s) : Kept z0 (carriedState s k).2 := by
  unfold carriedState
  repeat' first
    | with_reducible assumption | with_reducible apply keeps_findRecord
    | with_reducible refine keepsE_findRecord (by assumption) ?_
    | (refine Kept.written ?_ ?_; (· simp only [written_record]); refine Kept.record ?_ ?_; rotate_left;
          (· first | (dsimp only [prot]; done) | (dsimp only [prot]; (repeat' first | rfl | split); done)))
    | split | dsimp only | intro

theorem keepsE_carriedState {z0 : State} {s : State} {k : Kum} {v z1} (he : carriedState s k = (v, z1)) (kp : Kept z0 s) :
    Kept z0 z1 := by
  have h9 := keeps_carriedState (k := k) (kp := kp)
  rw [he] at h9; exact h9

theorem keeps_sendJournal {z0 : State} {s : State} (i : Nat) (kum : Bytes) (state : Bytes) (kp : Kept z0 s) : Kept z0
    (sendJournal s i kum state) := by
  unfold sendJournal
  repeat' first
    | with_reducible assumption | with_reducible apply keeps_mirSend
    | (refine Kept.written ?_ ?_; (· simp only [written_record]); refine Kept.record ?_ ?_; rotate_left;
          (· first | (dsimp only [prot]; done) | (dsimp only [prot]; (repeat' first | rfl | split); done)))
    | split | dsimp only | intro

theorem keeps_mirrorJournal {z0 : State} (io : MbxIo) (q : Req) {s : State} (kp : Kept z0 s) : Kept z0 (mirrorJournal io q
    s).2 := by
  unfold mirrorJournal
  repeat' first
    | with_reducible assumption | with_reducible apply keeps_carriedState
    | with_reducible refine keepsE_carriedState (by assumption) ?_ | with_reducible apply keeps_readInput
    | with_reducible refine keepsE_readInput (by assumption) ?_ | with_reducible apply keeps_sendJournal
    | (refine Kept.written ?_ ?_; (· simp only [written_record]); refine Kept.record ?_ ?_; rotate_left;
          (· first | (dsimp only [prot]; done) | (dsimp only [prot]; (repeat' first | rfl | split); done)))
    | split | dsimp only | intro

theorem keepsE_mirrorJournal {z0 : State} {io : MbxIo} {q : Req} {s : State} {v z1} (he : mirrorJournal io q s = (v, z1))
    (kp : Kept z0 s) : Kept z0 z1 := by
  have h9 := keeps_mirrorJournal (io := io) (q := q) (kp := kp)
  rw [he] at h9; exact h9

theorem keeps_execMirrorJournal {z0 : State} (io : MbxIo) {s : State} (kp : Kept z0 s) : KeptRes z0 (execMirrorJournal io s)
    := by
  unfold execMirrorJournal
  repeat' first
    | with_reducible assumption | exact trivial | with_reducible refine KeptRes.next ?_
    | with_reducible apply keeps_finishReq | with_reducible apply keeps_mirrorJournal
    | with_reducible refine keepsE_mirrorJournal (by assumption) ?_
    | (refine Kept.written ?_ ?_; (· simp only [written_record]); refine Kept.record ?_ ?_; rotate_left;
          (· first | (dsimp only [prot]; done) | (dsimp only [prot]; (repeat' first | rfl | split); done)))
    | split | dsimp only | intro

theorem keeps_refuseOffer {z0 : State} {s : State} (m : Msg) (reason : Nat) (kp : Kept z0 s) : Kept z0 (refuseOffer s m
    reason) := by
  unfold refuseOffer
  repeat' first | with_reducible assumption | with_reducible apply keeps_mirSendSigned | dsimp only | intro

theorem keeps_acceptOffer {z0 : State} {s : State} (m : Msg) (kp : Kept z0 s) : KeptOpt z0 (acceptOffer s m) := by
  unfold acceptOffer
  repeat' first
    | with_reducible assumption | exact KeptOpt.none | with_reducible refine KeptOpt.some ?_
    | with_reducible apply keeps_drawRandom | with_reducible refine keepsE_drawRandom (by assumption) ?_
    | with_reducible apply keeps_formPair | with_reducible apply keeps_mirSend | with_reducible apply keeps_setPeer
    | (refine Kept.written ?_ ?_; (· simp only [written_record]); refine Kept.record ?_ ?_; rotate_left;
          (· first | (dsimp only [prot]; done) | (dsimp only [prot]; (repeat' first | rfl | split); done)))
    | split | dsimp only | intro

theorem keepsE_acceptOffer {z0 : State} {s : State} {m : Msg} {z1} (he : acceptOffer s m = some z1) (kp : Kept z0 s) : Kept
    z0 z1 := by
  have h9 := keeps_acceptOffer (m := m) (kp := kp)
  rw [he] at h9; exact h9

theorem keeps_meetOffer {z0 : State} {s : State} (m : Msg) (kp : Kept z0 s) : Kept z0 (meetOffer s m) := by
  unfold meetOffer
  repeat' first
    | with_reducible assumption | with_reducible apply keeps_sendOffer | with_reducible apply keeps_setPeer
    | (refine Kept.written ?_ ?_; (· simp only [written_record]); refine Kept.record ?_ ?_; rotate_left;
          (· first | (dsimp only [prot]; done) | (dsimp only [prot]; (repeat' first | rfl | split); done)))
    | split | dsimp only | intro

theorem keeps_hearOffer {z0 : State} {s : State} (m : Msg) (kp : Kept z0 s) : Kept z0 (hearOffer s m).2 := by
  unfold hearOffer
  repeat' first
    | with_reducible assumption | with_reducible apply keeps_acceptOffer
    | with_reducible refine keepsE_acceptOffer (by assumption) ?_ | with_reducible apply keeps_countTaken
    | with_reducible apply keeps_meetOffer | with_reducible apply keeps_refuseOffer | with_reducible apply keeps_setPeer
    | (refine Kept.written ?_ ?_; (· simp only [written_record]); refine Kept.record ?_ ?_; rotate_left;
          (· first | (dsimp only [prot]; done) | (dsimp only [prot]; (repeat' first | rfl | split); done)))
    | split | dsimp only | intro

theorem keepsE_hearOffer {z0 : State} {s : State} {m : Msg} {v z1} (he : hearOffer s m = (v, z1)) (kp : Kept z0 s) : Kept
    z0 z1 := by
  have h9 := keeps_hearOffer (m := m) (kp := kp)
  rw [he] at h9; exact h9

theorem keeps_execJoinOffer {z0 : State} (io : MbxIo) {s : State} (kp : Kept z0 s) : KeptRes z0 (execJoinOffer io s) := by
  unfold execJoinOffer
  repeat' first
    | with_reducible assumption | exact trivial | with_reducible refine KeptRes.next ?_ | with_reducible apply keeps_giveRow
    | with_reducible apply keeps_hearOffer | with_reducible refine keepsE_hearOffer (by assumption) ?_ | dsimp only | intro

theorem keeps_hearAccept {z0 : State} {s : State} (m : Msg) (kp : Kept z0 s) : Kept z0 (hearAccept s m).2 := by
  unfold hearAccept
  repeat' first
    | with_reducible assumption | with_reducible apply keeps_formPair | with_reducible apply keeps_noteMsg
    | (refine Kept.written ?_ ?_; (· simp only [written_record]); refine Kept.record ?_ ?_; rotate_left;
          (· first | (dsimp only [prot]; done) | (dsimp only [prot]; (repeat' first | rfl | split); done)))
    | split | dsimp only | intro

theorem keepsE_hearAccept {z0 : State} {s : State} {m : Msg} {v z1} (he : hearAccept s m = (v, z1)) (kp : Kept z0 s) : Kept
    z0 z1 := by
  have h9 := keeps_hearAccept (m := m) (kp := kp)
  rw [he] at h9; exact h9

theorem keeps_execJoinAccept {z0 : State} (io : MbxIo) {s : State} (kp : Kept z0 s) : KeptRes z0 (execJoinAccept io s) := by
  unfold execJoinAccept
  repeat' first
    | with_reducible assumption | exact trivial | with_reducible refine KeptRes.next ?_ | with_reducible apply keeps_giveRow
    | with_reducible apply keeps_hearAccept | with_reducible refine keepsE_hearAccept (by assumption) ?_ | dsimp only | intro

theorem keeps_hearRefused {z0 : State} {s : State} (m : Msg) (kp : Kept z0 s) : Kept z0 (hearRefused s m).2 := by
  unfold hearRefused
  repeat' first
    | with_reducible assumption | with_reducible apply keeps_countTaken | with_reducible apply keeps_dropAsks | split
    | dsimp only | intro

theorem keepsE_hearRefused {z0 : State} {s : State} {m : Msg} {v z1} (he : hearRefused s m = (v, z1)) (kp : Kept z0 s) :
    Kept z0 z1 := by
  have h9 := keeps_hearRefused (m := m) (kp := kp)
  rw [he] at h9; exact h9

theorem keeps_execJoinRefused {z0 : State} (io : MbxIo) {s : State} (kp : Kept z0 s) : KeptRes z0 (execJoinRefused io s) := by
  unfold execJoinRefused
  repeat' first
    | with_reducible assumption | exact trivial | with_reducible refine KeptRes.next ?_ | with_reducible apply keeps_giveRow
    | with_reducible apply keeps_hearRefused | with_reducible refine keepsE_hearRefused (by assumption) ?_ | dsimp only
    | intro

theorem keeps_requestLeases {z0 : State} {s : State} (kp : Kept z0 s) : Kept z0 (requestLeases s) := by
  unfold requestLeases
  repeat' first
    | with_reducible assumption | with_reducible apply keeps_mirAsk | with_reducible apply keeps_setPeer
    | with_reducible refine Kept.foldl (fun _ _ _ => ?_) _ ?_
    | (refine Kept.written ?_ ?_; (· simp only [written_record]); refine Kept.record ?_ ?_; rotate_left;
          (· first | (dsimp only [prot]; done) | (dsimp only [prot]; (repeat' first | rfl | split); done)))
    | dsimp only | intro

theorem keeps_sendHeartbeats {z0 : State} {s : State} (kp : Kept z0 s) : Kept z0 (sendHeartbeats s) := by
  unfold sendHeartbeats
  repeat' first
    | with_reducible assumption | with_reducible apply keeps_mirSend
    | with_reducible refine Kept.foldl (fun _ _ _ => ?_) _ ?_ | dsimp only | intro

theorem keeps_withdrawClaim {z0 : State} {s : State} (kp : Kept z0 s) : Kept z0 (withdrawClaim s) := by
  unfold withdrawClaim
  repeat' first
    | with_reducible assumption | with_reducible apply keeps_dropAllAsks
    | (refine Kept.written ?_ ?_; (· simp only [written_record]); refine Kept.record ?_ ?_; rotate_left;
          (· first | (dsimp only [prot]; done) | (dsimp only [prot]; (repeat' first | rfl | split); done)))
    | dsimp only | intro

theorem keeps_stepDown {z0 : State} {s : State} (kp : Kept z0 s) : Kept z0 (stepDown s) := by
  unfold stepDown
  repeat' first
    | with_reducible assumption | with_reducible apply keeps_dropAllAsks | with_reducible apply keeps_setMirror
    | (refine Kept.written ?_ ?_; (· simp only [written_record]); refine Kept.record ?_ ?_; rotate_left;
          (· first | (dsimp only [prot]; done) | (dsimp only [prot]; (repeat' first | rfl | split); done)))
    | split | dsimp only | intro

theorem keeps_hearCounter {z0 : State} {s : State} (i : Nat) (c : Nat) (kp : Kept z0 s) : Kept z0 (hearCounter s i c) := by
  unfold hearCounter
  repeat' first
    | with_reducible assumption | with_reducible apply keeps_setPeer | with_reducible apply keeps_stepDown
    | (refine Kept.written ?_ ?_; (· simp only [written_record]); refine Kept.record ?_ ?_; rotate_left;
          (· first | (dsimp only [prot]; done) | (dsimp only [prot]; (repeat' first | rfl | split); done)))
    | split | dsimp only | intro

theorem keeps_becomeLeader {z0 : State} {s : State} (leaseEnd : Nat) (kp : Kept z0 s) : Kept z0 (becomeLeader s leaseEnd) := by
  unfold becomeLeader
  repeat' first
    | with_reducible assumption | with_reducible apply keeps_dropAllAsks | with_reducible apply keeps_sendHeartbeats
    | with_reducible apply keeps_setMirror | with_reducible apply keeps_startGrant
    | with_reducible refine Kept.foldl (fun _ _ _ => ?_) _ ?_
    | (refine Kept.written ?_ ?_; (· simp only [written_record]); refine Kept.record ?_ ?_; rotate_left;
          (· first | (dsimp only [prot]; done) | (dsimp only [prot]; (repeat' first | rfl | split); done)))
    | dsimp only | intro

theorem keeps_countVotes {z0 : State} {s : State} (kp : Kept z0 s) : Kept z0 (countVotes s) := by
  unfold countVotes
  repeat' first
    | with_reducible assumption | with_reducible apply keeps_becomeLeader
    | (refine Kept.written ?_ ?_; (· simp only [written_record]); refine Kept.record ?_ ?_; rotate_left;
          (· first | (dsimp only [prot]; done) | (dsimp only [prot]; (repeat' first | rfl | split); done)))
    | split | dsimp only | intro

theorem keeps_followLeader {z0 : State} {s : State} (l : Nat) (kp : Kept z0 s) : Kept z0 (followLeader s l) := by
  unfold followLeader
  repeat' first
    | with_reducible assumption | with_reducible apply keeps_dropAllAsks | with_reducible apply keeps_mirAsk
    | with_reducible refine Kept.foldl (fun _ _ _ => ?_) _ ?_
    | (refine Kept.written ?_ ?_; (· simp only [written_record]); refine Kept.record ?_ ?_; rotate_left;
          (· first | (dsimp only [prot]; done) | (dsimp only [prot]; (repeat' first | rfl | split); done)))
    | split | dsimp only | intro

theorem keeps_answerLease {z0 : State} {s : State} (m : Msg) (yes : Bool) (kp : Kept z0 s) : Kept z0 (answerLease s m yes) := by
  unfold answerLease
  repeat' first
    | with_reducible assumption | with_reducible apply keeps_mirSend
    | (refine Kept.written ?_ ?_; (· simp only [written_record]); refine Kept.record ?_ ?_; rotate_left;
          (· first | (dsimp only [prot]; done) | (dsimp only [prot]; (repeat' first | rfl | split); done)))
    | split | dsimp only | intro

theorem keeps_hearLeaseRequest {z0 : State} {s : State} (m : Msg) (kp : Kept z0 s) : Kept z0 (hearLeaseRequest s m).2 := by
  unfold hearLeaseRequest
  repeat' first
    | with_reducible assumption | with_reducible apply keeps_answerLease | with_reducible apply keeps_hearCounter
    | with_reducible apply keeps_withdrawClaim
    | (refine Kept.written ?_ ?_; (· simp only [written_record]); refine Kept.record ?_ ?_; rotate_left;
          (· first | (dsimp only [prot]; done) | (dsimp only [prot]; (repeat' first | rfl | split); done)))
    | split | dsimp only | intro

theorem keepsE_hearLeaseRequest {z0 : State} {s : State} {m : Msg} {v z1} (he : hearLeaseRequest s m = (v, z1)) (kp : Kept
    z0 s) : Kept z0 z1 := by
  have h9 := keeps_hearLeaseRequest (m := m) (kp := kp)
  rw [he] at h9; exact h9

theorem keeps_execLeaseRequest {z0 : State} (io : MbxIo) {s : State} (kp : Kept z0 s) : KeptRes z0 (execLeaseRequest io s) := by
  unfold execLeaseRequest
  repeat' first
    | with_reducible assumption | exact trivial | with_reducible refine KeptRes.next ?_ | with_reducible apply keeps_giveRow
    | with_reducible apply keeps_hearLeaseRequest | with_reducible refine keepsE_hearLeaseRequest (by assumption) ?_
    | with_reducible apply keeps_hearTagged | with_reducible refine keepsE_hearTagged (by assumption) ?_ | dsimp only | intro

theorem keeps_hearLeaseGrant {z0 : State} {s : State} (m : Msg) (kp : Kept z0 s) : Kept z0 (hearLeaseGrant s m).2 := by
  unfold hearLeaseGrant
  repeat' first
    | with_reducible assumption | with_reducible apply keeps_countVotes | with_reducible apply keeps_dropAsks
    | with_reducible apply keeps_hearCounter
    | (refine Kept.written ?_ ?_; (· simp only [written_record]); refine Kept.record ?_ ?_; rotate_left;
          (· first | (dsimp only [prot]; done) | (dsimp only [prot]; (repeat' first | rfl | split); done)))
    | split | dsimp only | intro

theorem keepsE_hearLeaseGrant {z0 : State} {s : State} {m : Msg} {v z1} (he : hearLeaseGrant s m = (v, z1)) (kp : Kept z0
    s) : Kept z0 z1 := by
  have h9 := keeps_hearLeaseGrant (m := m) (kp := kp)
  rw [he] at h9; exact h9

theorem keeps_execLeaseGrant {z0 : State} (io : MbxIo) {s : State} (kp : Kept z0 s) : KeptRes z0 (execLeaseGrant io s) := by
  unfold execLeaseGrant
  repeat' first
    | with_reducible assumption | exact trivial | with_reducible refine KeptRes.next ?_ | with_reducible apply keeps_giveRow
    | with_reducible apply keeps_hearLeaseGrant | with_reducible refine keepsE_hearLeaseGrant (by assumption) ?_
    | with_reducible apply keeps_hearTagged | with_reducible refine keepsE_hearTagged (by assumption) ?_ | dsimp only | intro

theorem keeps_hearHeartbeat {z0 : State} {s : State} (m : Msg) (kp : Kept z0 s) : Kept z0 (hearHeartbeat s m).2 := by
  unfold hearHeartbeat
  repeat' first
    | with_reducible assumption | with_reducible apply keeps_followLeader | with_reducible apply keeps_hearCounter
    | with_reducible apply keeps_judgeBehind | with_reducible apply keeps_stepDown | with_reducible apply keeps_withdrawClaim
    | (refine Kept.written ?_ ?_; (· simp only [written_record]); refine Kept.record ?_ ?_; rotate_left;
          (· first | (dsimp only [prot]; done) | (dsimp only [prot]; (repeat' first | rfl | split); done)))
    | split | dsimp only | intro

theorem keepsE_hearHeartbeat {z0 : State} {s : State} {m : Msg} {v z1} (he : hearHeartbeat s m = (v, z1)) (kp : Kept z0 s)
    : Kept z0 z1 := by
  have h9 := keeps_hearHeartbeat (m := m) (kp := kp)
  rw [he] at h9; exact h9

theorem keeps_execHeartbeat {z0 : State} (io : MbxIo) {s : State} (kp : Kept z0 s) : KeptRes z0 (execHeartbeat io s) := by
  unfold execHeartbeat
  repeat' first
    | with_reducible assumption | exact trivial | with_reducible refine KeptRes.next ?_ | with_reducible apply keeps_giveRow
    | with_reducible apply keeps_hearHeartbeat | with_reducible refine keepsE_hearHeartbeat (by assumption) ?_
    | with_reducible apply keeps_hearTagged | with_reducible refine keepsE_hearTagged (by assumption) ?_ | dsimp only | intro

theorem keeps_takeOffset {z0 : State} {s : State} (t1 : Nat) (t2 : Nat) (t3 : Nat) (kp : Kept z0 s) : Kept z0 (takeOffset s
    t1 t2 t3) := by
  unfold takeOffset
  repeat' first
    | with_reducible assumption | with_reducible apply keeps_notifyManager | with_reducible apply keeps_writeLog
    | (refine Kept.written ?_ ?_; (· simp only [written_record]); refine Kept.record ?_ ?_; rotate_left;
          (· first | (dsimp only [prot]; done) | (dsimp only [prot]; (repeat' first | rfl | split); done)))
    | split | dsimp only | intro

theorem keeps_hearTime {z0 : State} {s : State} (m : Msg) (kp : Kept z0 s) : Kept z0 (hearTime s m).2 := by
  unfold hearTime
  repeat' first
    | with_reducible assumption | with_reducible apply keeps_dropAsks | with_reducible apply keeps_mirSend
    | with_reducible apply keeps_takeOffset | split | dsimp only | intro

theorem keepsE_hearTime {z0 : State} {s : State} {m : Msg} {v z1} (he : hearTime s m = (v, z1)) (kp : Kept z0 s) : Kept z0
    z1 := by
  have h9 := keeps_hearTime (m := m) (kp := kp)
  rw [he] at h9; exact h9

theorem keeps_execTime {z0 : State} (io : MbxIo) {s : State} (kp : Kept z0 s) : KeptRes z0 (execTime io s) := by
  unfold execTime
  repeat' first
    | with_reducible assumption | exact trivial | with_reducible refine KeptRes.next ?_ | with_reducible apply keeps_giveRow
    | with_reducible apply keeps_hearTagged | with_reducible refine keepsE_hearTagged (by assumption) ?_
    | with_reducible apply keeps_hearTime | with_reducible refine keepsE_hearTime (by assumption) ?_ | dsimp only | intro

theorem keeps_hearLeave {z0 : State} {s : State} (m : Msg) (kp : Kept z0 s) : Kept z0 (hearLeave s m).2 := by
  unfold hearLeave
  repeat' first
    | with_reducible assumption | with_reducible apply keeps_setPeer
    | (refine Kept.written ?_ ?_; (· simp only [written_record]); refine Kept.record ?_ ?_; rotate_left;
          (· first | (dsimp only [prot]; done) | (dsimp only [prot]; (repeat' first | rfl | split); done)))
    | split | dsimp only | intro

theorem keepsE_hearLeave {z0 : State} {s : State} {m : Msg} {v z1} (he : hearLeave s m = (v, z1)) (kp : Kept z0 s) : Kept
    z0 z1 := by
  have h9 := keeps_hearLeave (m := m) (kp := kp)
  rw [he] at h9; exact h9

theorem keeps_execLeave {z0 : State} (io : MbxIo) {s : State} (kp : Kept z0 s) : KeptRes z0 (execLeave io s) := by
  unfold execLeave
  repeat' first
    | with_reducible assumption | exact trivial | with_reducible refine KeptRes.next ?_ | with_reducible apply keeps_giveRow
    | with_reducible apply keeps_hearLeave | with_reducible refine keepsE_hearLeave (by assumption) ?_
    | with_reducible apply keeps_hearTagged | with_reducible refine keepsE_hearTagged (by assumption) ?_ | dsimp only | intro

theorem keeps_execHeartbeatTimeout {z0 : State} {s : State} (kp : Kept z0 s) : KeptRes z0 (execHeartbeatTimeout s) := by
  unfold execHeartbeatTimeout
  repeat' first
    | with_reducible assumption | exact trivial | with_reducible refine KeptRes.next ?_
    | with_reducible apply keeps_requestLeases
    | (refine Kept.written ?_ ?_; (· simp only [written_record]); refine Kept.record ?_ ?_; rotate_left;
          (· first | (dsimp only [prot]; done) | (dsimp only [prot]; (repeat' first | rfl | split); done)))
    | split | dsimp only | intro

theorem keeps_execLeaseRenewal {z0 : State} {s : State} (kp : Kept z0 s) : KeptRes z0 (execLeaseRenewal s) := by
  unfold execLeaseRenewal
  repeat' first
    | with_reducible assumption | exact trivial | with_reducible refine KeptRes.next ?_
    | with_reducible apply keeps_requestLeases | with_reducible apply keeps_sendHeartbeats | split | dsimp only | intro

theorem keeps_execLeaseExpiry {z0 : State} {s : State} (kp : Kept z0 s) : KeptRes z0 (execLeaseExpiry s) := by
  unfold execLeaseExpiry
  repeat' first
    | with_reducible assumption | exact trivial | with_reducible refine KeptRes.next ?_ | with_reducible apply keeps_stepDown
    | split | dsimp only | intro

theorem keeps_execGrantExpiry {z0 : State} {s : State} (kp : Kept z0 s) : KeptRes z0 (execGrantExpiry s) := by
  unfold execGrantExpiry
  repeat' first
    | with_reducible assumption | exact trivial | with_reducible refine KeptRes.next ?_
    | (refine Kept.written ?_ ?_; (· simp only [written_record]); refine Kept.record ?_ ?_; rotate_left;
          (· first | (dsimp only [prot]; done) | (dsimp only [prot]; (repeat' first | rfl | split); done)))
    | split | dsimp only | intro

theorem keeps_repeatAsk {z0 : State} (i : Nat) {s : State} (a : Ask) (kp : Kept z0 s) : Kept z0 (repeatAsk i s a) := by
  unfold repeatAsk
  repeat' first
    | with_reducible assumption | with_reducible apply keeps_mirAsk | with_reducible apply keeps_offerAgain
    | (refine Kept.written ?_ ?_; (· simp only [written_record]); refine Kept.record ?_ ?_; rotate_left;
          (· first | (dsimp only [prot]; done) | (dsimp only [prot]; (repeat' first | rfl | split); done)))
    | split | dsimp only | intro

theorem keeps_execMessageRepeat {z0 : State} (peer : Nat) {s : State} (kp : Kept z0 s) : KeptRes z0 (execMessageRepeat peer
    s) := by
  unfold execMessageRepeat
  repeat' first
    | with_reducible assumption | exact trivial | with_reducible refine KeptRes.next ?_
    | with_reducible apply keeps_repeatAsk | with_reducible refine Kept.foldl (fun _ _ _ => ?_) _ ?_ | split | dsimp only
    | intro

theorem keeps_execTimeRequestTimer {z0 : State} {s : State} (kp : Kept z0 s) : KeptRes z0 (execTimeRequestTimer s) := by
  unfold execTimeRequestTimer
  repeat' first
    | with_reducible assumption | exact trivial | with_reducible refine KeptRes.next ?_ | with_reducible apply keeps_mirAsk
    | (refine Kept.written ?_ ?_; (· simp only [written_record]); refine Kept.record ?_ ?_; rotate_left;
          (· first | (dsimp only [prot]; done) | (dsimp only [prot]; (repeat' first | rfl | split); done)))
    | split | dsimp only | intro

theorem keeps_execMirrorVectorWindow {z0 : State} {s : State} (kp : Kept z0 s) : KeptRes z0 (execMirrorVectorWindow s) := by
  unfold execMirrorVectorWindow
  repeat' first
    | with_reducible assumption | exact trivial | with_reducible refine KeptRes.next ?_
    | with_reducible apply keeps_mirrorVector
    | (refine Kept.written ?_ ?_; (· simp only [written_record]); refine Kept.record ?_ ?_; rotate_left;
          (· first | (dsimp only [prot]; done) | (dsimp only [prot]; (repeat' first | rfl | split); done)))
    | split | dsimp only | intro

theorem keeps_hearBlockRequest {z0 : State} {s : State} (m : Msg) (kp : Kept z0 s) : Kept z0 (hearBlockRequest s m).2 := by
  unfold hearBlockRequest
  repeat' first | with_reducible assumption | with_reducible apply keeps_startGrant | split | dsimp only | intro

theorem keepsE_hearBlockRequest {z0 : State} {s : State} {m : Msg} {v z1} (he : hearBlockRequest s m = (v, z1)) (kp : Kept
    z0 s) : Kept z0 z1 := by
  have h9 := keeps_hearBlockRequest (m := m) (kp := kp)
  rw [he] at h9; exact h9

theorem keeps_execBlockRequest {z0 : State} (io : MbxIo) {s : State} (kp : Kept z0 s) : KeptRes z0 (execBlockRequest io s) := by
  unfold execBlockRequest
  repeat' first
    | with_reducible assumption | exact trivial | with_reducible refine KeptRes.next ?_ | with_reducible apply keeps_giveRow
    | with_reducible apply keeps_hearBlockRequest | with_reducible refine keepsE_hearBlockRequest (by assumption) ?_
    | with_reducible apply keeps_hearTagged | with_reducible refine keepsE_hearTagged (by assumption) ?_ | dsimp only | intro

theorem keeps_hearBlockRecord {z0 : State} {s : State} (m : Msg) (kp : Kept z0 s) : Kept z0 (hearBlockRecord s m).2 := by
  unfold hearBlockRecord
  repeat' first
    | with_reducible assumption | with_reducible apply keeps_commitEnd | with_reducible apply keeps_findPair
    | with_reducible refine keepsE_findPair (by assumption) ?_
    | (refine Kept.written ?_ ?_; (· simp only [written_record]); refine Kept.record ?_ ?_; rotate_left;
          (· first | (dsimp only [prot]; done) | (dsimp only [prot]; (repeat' first | rfl | split); done)))
    | split | dsimp only | intro

theorem keepsE_hearBlockRecord {z0 : State} {s : State} {m : Msg} {v z1} (he : hearBlockRecord s m = (v, z1)) (kp : Kept z0
    s) : Kept z0 z1 := by
  have h9 := keeps_hearBlockRecord (m := m) (kp := kp)
  rw [he] at h9; exact h9

theorem keeps_execBlockRecord {z0 : State} (io : MbxIo) {s : State} (kp : Kept z0 s) : KeptRes z0 (execBlockRecord io s) := by
  unfold execBlockRecord
  repeat' first
    | with_reducible assumption | exact trivial | with_reducible refine KeptRes.next ?_ | with_reducible apply keeps_giveRow
    | with_reducible apply keeps_hearBlockRecord | with_reducible refine keepsE_hearBlockRecord (by assumption) ?_
    | with_reducible apply keeps_hearTagged | with_reducible refine keepsE_hearTagged (by assumption) ?_ | dsimp only | intro

theorem keeps_hearBlockAck {z0 : State} {s : State} (m : Msg) (kp : Kept z0 s) : Kept z0 (hearBlockAck s m).2 := by
  unfold hearBlockAck
  repeat' first
    | with_reducible assumption | with_reducible apply keeps_ackGrant | with_reducible apply keeps_dropAsks | split
    | dsimp only | intro

theorem keepsE_hearBlockAck {z0 : State} {s : State} {m : Msg} {v z1} (he : hearBlockAck s m = (v, z1)) (kp : Kept z0 s) :
    Kept z0 z1 := by
  have h9 := keeps_hearBlockAck (m := m) (kp := kp)
  rw [he] at h9; exact h9

theorem keeps_execBlockAck {z0 : State} (io : MbxIo) {s : State} (kp : Kept z0 s) : KeptRes z0 (execBlockAck io s) := by
  unfold execBlockAck
  repeat' first
    | with_reducible assumption | exact trivial | with_reducible refine KeptRes.next ?_ | with_reducible apply keeps_giveRow
    | with_reducible apply keeps_hearBlockAck | with_reducible refine keepsE_hearBlockAck (by assumption) ?_
    | with_reducible apply keeps_hearTagged | with_reducible refine keepsE_hearTagged (by assumption) ?_ | dsimp only | intro

theorem keeps_hearBlockGrant {z0 : State} {s : State} (m : Msg) (kp : Kept z0 s) : Kept z0 (hearBlockGrant s m).2 := by
  unfold hearBlockGrant
  repeat' first
    | with_reducible assumption | with_reducible apply keeps_blockOpens | with_reducible apply keeps_dropAsks
    | (refine Kept.written ?_ ?_; (· simp only [written_record]); refine Kept.record ?_ ?_; rotate_left;
          (· first | (dsimp only [prot]; done) | (dsimp only [prot]; (repeat' first | rfl | split); done)))
    | split | dsimp only | intro

theorem keepsE_hearBlockGrant {z0 : State} {s : State} {m : Msg} {v z1} (he : hearBlockGrant s m = (v, z1)) (kp : Kept z0
    s) : Kept z0 z1 := by
  have h9 := keeps_hearBlockGrant (m := m) (kp := kp)
  rw [he] at h9; exact h9

theorem keeps_execBlockGrant {z0 : State} (io : MbxIo) {s : State} (kp : Kept z0 s) : KeptRes z0 (execBlockGrant io s) := by
  unfold execBlockGrant
  repeat' first
    | with_reducible assumption | exact trivial | with_reducible refine KeptRes.next ?_ | with_reducible apply keeps_giveRow
    | with_reducible apply keeps_hearBlockGrant | with_reducible refine keepsE_hearBlockGrant (by assumption) ?_
    | with_reducible apply keeps_hearTagged | with_reducible refine keepsE_hearTagged (by assumption) ?_ | dsimp only | intro

theorem keeps_hearEndLookup {z0 : State} {s : State} (m : Msg) (kp : Kept z0 s) : Kept z0 (hearEndLookup s m).2 := by
  unfold hearEndLookup
  repeat' first
    | with_reducible assumption | with_reducible apply keeps_findPair
    | with_reducible refine keepsE_findPair (by assumption) ?_ | with_reducible apply keeps_mirSend
    | (refine Kept.written ?_ ?_; (· simp only [written_record]); refine Kept.record ?_ ?_; rotate_left;
          (· first | (dsimp only [prot]; done) | (dsimp only [prot]; (repeat' first | rfl | split); done)))
    | split | dsimp only | intro

theorem keepsE_hearEndLookup {z0 : State} {s : State} {m : Msg} {v z1} (he : hearEndLookup s m = (v, z1)) (kp : Kept z0 s)
    : Kept z0 z1 := by
  have h9 := keeps_hearEndLookup (m := m) (kp := kp)
  rw [he] at h9; exact h9

theorem keeps_execEndLookup {z0 : State} (io : MbxIo) {s : State} (kp : Kept z0 s) : KeptRes z0 (execEndLookup io s) := by
  unfold execEndLookup
  repeat' first
    | with_reducible assumption | exact trivial | with_reducible refine KeptRes.next ?_ | with_reducible apply keeps_giveRow
    | with_reducible apply keeps_hearEndLookup | with_reducible refine keepsE_hearEndLookup (by assumption) ?_
    | with_reducible apply keeps_hearTagged | with_reducible refine keepsE_hearTagged (by assumption) ?_ | dsimp only | intro

theorem keeps_hearEndReply {z0 : State} {s : State} (m : Msg) (kp : Kept z0 s) : Kept z0 (hearEndReply s m).2 := by
  unfold hearEndReply
  repeat' first
    | with_reducible assumption | with_reducible apply keeps_dropAsks | with_reducible apply keeps_endHeard | split
    | dsimp only | intro

theorem keepsE_hearEndReply {z0 : State} {s : State} {m : Msg} {v z1} (he : hearEndReply s m = (v, z1)) (kp : Kept z0 s) :
    Kept z0 z1 := by
  have h9 := keeps_hearEndReply (m := m) (kp := kp)
  rw [he] at h9; exact h9

theorem keeps_execEndReply {z0 : State} (io : MbxIo) {s : State} (kp : Kept z0 s) : KeptRes z0 (execEndReply io s) := by
  unfold execEndReply
  repeat' first
    | with_reducible assumption | exact trivial | with_reducible refine KeptRes.next ?_ | with_reducible apply keeps_giveRow
    | with_reducible apply keeps_hearEndReply | with_reducible refine keepsE_hearEndReply (by assumption) ?_
    | with_reducible apply keeps_hearTagged | with_reducible refine keepsE_hearTagged (by assumption) ?_ | dsimp only | intro

theorem keeps_hearJournalRequest {z0 : State} {s : State} (m : Msg) (kp : Kept z0 s) : Kept z0 (hearJournalRequest s m).2 := by
  unfold hearJournalRequest
  repeat' first | with_reducible assumption | with_reducible apply keeps_hearCounter | dsimp only | intro

theorem keepsE_hearJournalRequest {z0 : State} {s : State} {m : Msg} {v z1} (he : hearJournalRequest s m = (v, z1)) (kp :
    Kept z0 s) : Kept z0 z1 := by
  have h9 := keeps_hearJournalRequest (m := m) (kp := kp)
  rw [he] at h9; exact h9

theorem keeps_execJournalRequest {z0 : State} (io : MbxIo) {s : State} (kp : Kept z0 s) : KeptRes z0 (execJournalRequest io
    s) := by
  unfold execJournalRequest
  repeat' first
    | with_reducible assumption | exact trivial | with_reducible refine KeptRes.next ?_ | with_reducible apply keeps_giveRow
    | with_reducible apply keeps_hearJournalRequest | with_reducible refine keepsE_hearJournalRequest (by assumption) ?_
    | with_reducible apply keeps_hearTagged | with_reducible refine keepsE_hearTagged (by assumption) ?_ | dsimp only | intro

theorem keeps_hearJournalEntry {z0 : State} {s : State} (m : Msg) (kp : Kept z0 s) : Kept z0 (hearJournalEntry s m).2 := by
  unfold hearJournalEntry
  repeat' first
    | with_reducible assumption | with_reducible apply keeps_dropAsks
    | (with_reducible apply And.left; with_reducible apply keeps_startJournal)
    | (with_reducible apply And.right; with_reducible apply keeps_startJournal)
    | with_reducible refine keepsE_startJournal (by assumption) ?_
    | with_reducible refine keepsO_startJournal (by assumption) ?_
    | (refine Kept.written ?_ ?_; (· simp only [written_record]); refine Kept.record ?_ ?_; rotate_left;
          (· first | (dsimp only [prot]; done) | (dsimp only [prot]; (repeat' first | rfl | split); done)))
    | split | dsimp only | intro

theorem keepsE_hearJournalEntry {z0 : State} {s : State} {m : Msg} {v z1} (he : hearJournalEntry s m = (v, z1)) (kp : Kept
    z0 s) : Kept z0 z1 := by
  have h9 := keeps_hearJournalEntry (m := m) (kp := kp)
  rw [he] at h9; exact h9

theorem keeps_execJournalEntry {z0 : State} (io : MbxIo) {s : State} (kp : Kept z0 s) : KeptRes z0 (execJournalEntry io s) := by
  unfold execJournalEntry
  repeat' first
    | with_reducible assumption | exact trivial | with_reducible refine KeptRes.next ?_ | with_reducible apply keeps_giveRow
    | with_reducible apply keeps_hearJournalEntry | with_reducible refine keepsE_hearJournalEntry (by assumption) ?_
    | with_reducible apply keeps_hearTagged | with_reducible refine keepsE_hearTagged (by assumption) ?_ | dsimp only | intro

theorem keeps_endHeld {z0 : State} {s : State} (j : Job) (kp : Kept z0 s) : Kept z0 (endHeld s j) := by
  unfold endHeld
  repeat' first
    | with_reducible assumption | with_reducible apply keeps_failStep | with_reducible apply keeps_setJob
    | with_reducible apply keeps_tryAdmit
    | (refine Kept.written ?_ ?_; (· simp only [written_record]); refine Kept.record ?_ ?_; rotate_left;
          (· first | (dsimp only [prot]; done) | (dsimp only [prot]; (repeat' first | rfl | split); done)))
    | split | dsimp only | intro

theorem keeps_execBlockGrantTimeout {z0 : State} (job : Nat) {s : State} (kp : Kept z0 s) : KeptRes z0
    (execBlockGrantTimeout job s) := by
  unfold execBlockGrantTimeout
  repeat' first
    | with_reducible assumption | exact trivial | with_reducible refine KeptRes.next ?_ | with_reducible apply keeps_endHeld
    | (refine Kept.written ?_ ?_; (· simp only [written_record]); refine Kept.record ?_ ?_; rotate_left;
          (· first | (dsimp only [prot]; done) | (dsimp only [prot]; (repeat' first | rfl | split); done)))
    | split | dsimp only | intro

theorem keeps_execBehindHoldTimeout {z0 : State} (job : Nat) {s : State} (kp : Kept z0 s) : KeptRes z0
    (execBehindHoldTimeout job s) := by
  unfold execBehindHoldTimeout
  repeat' first
    | with_reducible assumption | exact trivial | with_reducible refine KeptRes.next ?_ | with_reducible apply keeps_endHeld
    | (refine Kept.written ?_ ?_; (· simp only [written_record]); refine Kept.record ?_ ?_; rotate_left;
          (· first | (dsimp only [prot]; done) | (dsimp only [prot]; (repeat' first | rfl | split); done)))
    | split | dsimp only | intro

end Sys2Proof.Machine
end

