-- ==== Sys2Proof/Laws/KeptPower.lean ====
section
/-! SUPPORT. Frames: what responses, ports, management, starts, power and tamper commands keep (`Kept`). -/
set_option linter.unusedSimpArgs false
set_option linter.unusedVariables false
namespace Sys2Proof.Machine

theorem keeps_postponeRearm {z0 : State} {s : State} (k : Nat) (kp : Kept z0 s) : Kept z0 (postponeRearm s k) := by
  unfold postponeRearm
  repeat' first
    | with_reducible assumption | with_reducible apply keeps_dropUnissued
    | (refine Kept.written ?_ ?_; (· simp only [written_record]); refine Kept.record ?_ ?_; rotate_left;
          (· first | (dsimp only [prot]; done) | (dsimp only [prot]; (repeat' first | rfl | split); done)))
    | split | dsimp only | intro

theorem keeps_advanceQuiesce {z0 : State} {s : State} (k : Nat) (kp : Kept z0 s) : Kept z0 (advanceQuiesce s k) := by
  unfold advanceQuiesce
  repeat' first
    | with_reducible assumption | with_reducible apply keeps_postponeRearm | with_reducible apply keeps_setPort
    | (refine Kept.written ?_ ?_; (· simp only [written_record]); refine Kept.record ?_ ?_; rotate_left;
          (· first | (dsimp only [prot]; done) | (dsimp only [prot]; (repeat' first | rfl | split); done)))
    | split | dsimp only | intro

theorem keeps_settle {z0 : State} {s : State} (kp : Kept z0 s) : Kept z0 (settle s) := by
  unfold settle
  repeat' first
    | with_reducible assumption | with_reducible apply keeps_advanceQuiesce | with_reducible apply keeps_pump
    | with_reducible refine Kept.foldl (fun _ _ _ => ?_) _ ?_ | dsimp only | intro

/-- Marking outstanding requests leaves their channels as they are. -/
theorem ChannelsFit.map {a b : State} {f : Txn → Txn} (h : ChannelsFit a) (e : b.fabric.txns = a.fabric.txns.map f)
    (hf : ∀ t, (f t).port = t.port ∧ (f t).isWrite = t.isWrite) : ChannelsFit b := by
  intro k w
  have e2 := h k w
  unfold outstanding at *
  rw [e, List.countP_map]
  refine Nat.le_trans (Nat.le_of_eq (List.countP_congr (fun t _ => ?_))) e2
  simp only [Function.comp, (hf t).1, (hf t).2]

theorem Kept.marked {z0 s : State} {f : Txn → Txn} (kp : Kept z0 s) (hf : ∀ t, (f t).port = t.port ∧ (f t).isWrite =
    t.isWrite) :
    Kept z0 { s with fabric := { s.fabric with txns := s.fabric.txns.map f } } :=
  Kept.requests kp rfl (fun hc => hc.map rfl hf)

theorem keeps_rerunReads {z0 s : State} (k : Nat) (kp : Kept z0 s) : Kept z0 (rerunReads s k) := by
  unfold rerunReads
  refine keeps_request _ (Kept.requests kp rfl (fun hc => hc.map rfl (fun t => ?_)))
  split <;> exact ⟨rfl, rfl⟩

theorem keeps_faultFor {z0 : State} {s : State} (t : Txn) (cause : Nat) (kp : Kept z0 s) : Kept z0 (faultFor s t cause) := by
  unfold faultFor
  repeat' first | with_reducible assumption | with_reducible apply keeps_sliceFault | split | dsimp only | intro

theorem keeps_loseCompletion {z0 : State} {s : State} (j : Job) (kp : Kept z0 s) : Kept z0 (loseCompletion s j) := by
  unfold loseCompletion
  repeat' first
    | with_reducible assumption | with_reducible apply keeps_updSlice
    | (refine Kept.written ?_ ?_; (· simp only [written_record]); refine Kept.record ?_ ?_; rotate_left;
          (· first | (dsimp only [prot]; done) | (dsimp only [prot]; (repeat' first | rfl | split); done)))
    | split | dsimp only | intro

theorem keeps_failCompletion {z0 : State} {s : State} (t : Txn) (code : BitVec 3) (id : Nat) (kp : Kept z0 s) : Kept z0
    (failCompletion s t code id) := by
  unfold failCompletion
  repeat' first
    | with_reducible assumption | with_reducible apply keeps_loseCompletion | with_reducible apply keeps_release
    | with_reducible apply keeps_sliceFault
    | (refine Kept.written ?_ ?_; (· simp only [written_record]); refine Kept.record ?_ ?_; rotate_left;
          (· first | (dsimp only [prot]; done) | (dsimp only [prot]; (repeat' first | rfl | split); done)))
    | split | dsimp only | intro

theorem keeps_poolUnread {z0 : State} {s : State} (t : Txn) (code : BitVec 3) (ring : Option Nat) (kp : Kept z0 s) : Kept z0
    (poolUnread s t code ring) := by
  unfold poolUnread
  repeat' first
    | with_reducible assumption | with_reducible apply keeps_failPool | with_reducible apply keeps_faultFor
    | (refine Kept.written ?_ ?_; (· simp only [written_record]); refine Kept.record ?_ ?_; rotate_left;
          (· first | (dsimp only [prot]; done) | (dsimp only [prot]; (repeat' first | rfl | split); done)))
    | split | dsimp only | intro

theorem keeps_badRead {z0 : State} {s : State} (t : Txn) (code : BitVec 3) (kp : Kept z0 s) : Kept z0 (badRead s t code) := by
  unfold badRead
  repeat' first
    | with_reducible assumption | with_reducible apply keeps_badOperand | with_reducible apply keeps_endWith
    | with_reducible apply keeps_failCompletion | with_reducible apply keeps_faultFor
    | with_reducible apply keeps_missDescriptor | with_reducible apply keeps_missDoorbell
    | with_reducible apply keeps_poolUnread
    | (refine Kept.written ?_ ?_; (· simp only [written_record]); refine Kept.record ?_ ?_; rotate_left;
          (· first | (dsimp only [prot]; done) | (dsimp only [prot]; (repeat' first | rfl | split); done)))
    | split | dsimp only | intro

theorem keeps_goodRead {z0 : State} {s : State} (t : Txn) (data : Bytes) (kp : Kept z0 s) : Kept z0 (goodRead s t data) := by
  unfold goodRead
  repeat' first
    | with_reducible assumption | with_reducible apply keeps_recheckPhase | with_reducible apply keeps_release
    | with_reducible apply keeps_takeDescriptor | with_reducible apply keeps_takeDoorbell
    | with_reducible apply keeps_takeOperand | with_reducible apply keeps_takePoolEntry
    | with_reducible apply keeps_takePoolHeader | with_reducible apply keeps_takePoolIndex
    | with_reducible apply keeps_takeTaken | with_reducible apply keeps_writeBody
    | (refine Kept.written ?_ ?_; (· simp only [written_record]); refine Kept.record ?_ ?_; rotate_left;
          (· first | (dsimp only [prot]; done) | (dsimp only [prot]; (repeat' first | rfl | split); done)))
    | split | dsimp only | intro

theorem keeps_resultDone {z0 : State} {s : State} (id : Nat) (kp : Kept z0 s) : Kept z0 (resultDone s id) := by
  unfold resultDone
  repeat' first
    | with_reducible assumption | with_reducible apply keeps_sequencer | with_reducible apply keeps_stepOver
    | (refine Kept.written ?_ ?_; (· simp only [written_record]); refine Kept.record ?_ ?_; rotate_left;
          (· first | (dsimp only [prot]; done) | (dsimp only [prot]; (repeat' first | rfl | split); done)))
    | split | dsimp only | intro

theorem keeps_storeWritten {z0 : State} {s : State} (rid : Nat) (bad : Bool) {next : State → StoreReq → Attach → State} (kp
    : Kept z0 s) (kp_next : ∀ v0 v1 v2, Kept z0 v0 → Kept z0 (next v0 v1 v2)) : Kept z0 (storeWritten s rid bad next) := by
  unfold storeWritten
  repeat' first
    | with_reducible assumption | with_reducible apply keeps_storeAnswer | with_reducible apply kp_next
    | (refine Kept.written ?_ ?_; (· simp only [written_record]); refine Kept.record ?_ ?_; rotate_left;
          (· first | (dsimp only [prot]; done) | (dsimp only [prot]; (repeat' first | rfl | split); done)))
    | split | dsimp only | intro

theorem keeps_finishContext {z0 : State} {s : State} (r : Nat) (kp : Kept z0 s) : Kept z0 (finishContext s r) := by
  unfold finishContext
  repeat' first
    | with_reducible assumption | with_reducible apply keeps_finishParked
    | with_reducible refine Kept.foldl (fun _ _ _ => ?_) _ ?_ | dsimp only | intro

theorem keeps_writtenBack {z0 : State} {s : State} (r : Nat) (kp : Kept z0 s) : Kept z0 (writtenBack s r) := by
  unfold writtenBack
  repeat' first
    | with_reducible assumption | with_reducible apply keeps_finishContext | with_reducible apply keeps_sendMessage | split
    | dsimp only | intro

theorem keeps_takeWrite {z0 : State} {s : State} (t : Txn) (code : BitVec 3) (kp : Kept z0 s) : Kept z0 (takeWrite s t code)
    := by
  unfold takeWrite
  repeat' first
    | with_reducible assumption | with_reducible apply keeps_failCompletion | with_reducible apply keeps_faultFor
    | with_reducible apply keeps_release | with_reducible apply keeps_request | with_reducible apply keeps_resultDone
    | with_reducible apply keeps_setPool | with_reducible apply keeps_sliceFault | with_reducible apply keeps_stampsDone
    | with_reducible apply keeps_storeIndices | with_reducible apply keeps_storeMessage
    | with_reducible apply keeps_storeWritten | with_reducible apply keeps_updJob | with_reducible apply keeps_updRing
    | with_reducible apply keeps_writeHead | with_reducible apply keeps_writtenBack
    | (refine Kept.written ?_ ?_; (· simp only [written_record]); refine Kept.record ?_ ?_; rotate_left;
          (· first | (dsimp only [prot]; done) | (dsimp only [prot]; (repeat' first | rfl | split); done)))
    | split | dsimp only | intro

theorem keeps_endTxn {z0 s : State} (t : Txn) (code : BitVec 3) (kp : Kept z0 s) : Kept z0 (endTxn s t code) := by
  have k : Kept z0 { s with fabric := { s.fabric with
      txns := s.fabric.txns.filter (fun x => !(x.port == t.port && x.tag == t.tag && x.isWrite == t.isWrite)) } } :=
    Kept.requests kp rfl (fun hc => hc.sub List.filter_sublist)
  unfold endTxn
  dsimp only
  split
  · exact k
  · split <;> exact keeps_setPort _ _ k

theorem keeps_strayResponse {z0 : State} {s : State} (kp : Kept z0 s) : Kept z0 (strayResponse s) := by
  unfold strayResponse
  repeat' first
    | with_reducible assumption
    | (refine Kept.written ?_ ?_; (· simp only [written_record]); refine Kept.record ?_ ?_; rotate_left;
          (· first | (dsimp only [prot]; done) | (dsimp only [prot]; (repeat' first | rfl | split); done)))
    | dsimp only | intro

theorem keeps_execFabricReadResponse {z0 : State} (port : Nat) (tag : Nat) (code : BitVec 3) (data : Bytes) {s : State} (kp
    : Kept z0 s) : KeptRes z0 (execFabricReadResponse port tag code data s) := by
  unfold execFabricReadResponse
  repeat' first
    | with_reducible assumption | exact trivial | with_reducible refine KeptRes.next ?_ | with_reducible apply keeps_badRead
    | with_reducible apply keeps_endTxn | with_reducible apply keeps_goodRead | with_reducible apply keeps_settle
    | with_reducible apply keeps_strayResponse
    | (refine Kept.written ?_ ?_; (· simp only [written_record]); refine Kept.record ?_ ?_; rotate_left;
          (· first | (dsimp only [prot]; done) | (dsimp only [prot]; (repeat' first | rfl | split); done)))
    | split | dsimp only | intro

theorem keeps_execFabricWriteResponse {z0 : State} (port : Nat) (tag : Nat) (code : BitVec 3) {s : State} (kp : Kept z0 s) :
    KeptRes z0 (execFabricWriteResponse port tag code s) := by
  unfold execFabricWriteResponse
  repeat' first
    | with_reducible assumption | exact trivial | with_reducible refine KeptRes.next ?_ | with_reducible apply keeps_endTxn
    | with_reducible apply keeps_rerunReads | with_reducible apply keeps_settle | with_reducible apply keeps_strayResponse
    | with_reducible apply keeps_takeWrite
    | (refine Kept.written ?_ ?_; (· simp only [written_record]); refine Kept.record ?_ ?_; rotate_left;
          (· first | (dsimp only [prot]; done) | (dsimp only [prot]; (repeat' first | rfl | split); done)))
    | split | dsimp only | intro

theorem keeps_eventFor {z0 : State} {s : State} (t : Txn) (kp : Kept z0 s) : Kept z0 (eventFor s t) := by
  unfold eventFor
  repeat' first
    | with_reducible assumption | with_reducible apply keeps_failStep | with_reducible apply keeps_sliceFault
    | with_reducible apply keeps_updJob
    | (refine Kept.written ?_ ?_; (· simp only [written_record]); refine Kept.record ?_ ?_; rotate_left;
          (· first | (dsimp only [prot]; done) | (dsimp only [prot]; (repeat' first | rfl | split); done)))
    | split | dsimp only | intro

theorem keeps_noteEvent {z0 : State} {s : State} (port : Nat) (ev : FaultEv) (sl : Nat) (kp : Kept z0 s) : Kept z0
    (noteEvent s port ev sl) := by
  unfold noteEvent
  repeat' first
    | with_reducible assumption | with_reducible apply keeps_setPort
    | (refine Kept.written ?_ ?_; (· simp only [written_record]); refine Kept.record ?_ ?_; rotate_left;
          (· first | (dsimp only [prot]; done) | (dsimp only [prot]; (repeat' first | rfl | split); done)))
    | dsimp only | intro

theorem keeps_lateOwn {z0 : State} {s : State} (p : Purpose) (kp : Kept z0 s) : Kept z0 (lateOwn s p) := by
  unfold lateOwn
  repeat' first
    | with_reducible assumption | with_reducible apply keeps_storeWritten | with_reducible apply keeps_updRing
    | (refine Kept.written ?_ ?_; (· simp only [written_record]); refine Kept.record ?_ ?_; rotate_left;
          (· first | (dsimp only [prot]; done) | (dsimp only [prot]; (repeat' first | rfl | split); done)))
    | split | dsimp only | intro

theorem keeps_execFaultEvent {z0 s : State} (port : Nat) (ev : FaultEv) (kp : Kept z0 s) : KeptRes z0 (execFaultEvent port
    ev s) := by
  unfold execFaultEvent
  repeat' first
    | with_reducible assumption | exact trivial | with_reducible refine KeptRes.next ?_ | with_reducible apply keeps_settle
    | with_reducible apply keeps_eventFor | with_reducible apply keeps_lateOwn | with_reducible apply keeps_noteEvent
    | with_reducible apply keeps_sliceFault | with_reducible apply keeps_setPort | with_reducible apply keeps_raiseManager
    | with_reducible apply keeps_notifyManager | with_reducible apply keeps_strayResponse
    | refine Kept.marked ?_ (fun t => ?_) | exact ⟨rfl, rfl⟩ | with_reducible refine Kept.foldl (fun _ _ _ => ?_) _ ?_
    | (refine Kept.written ?_ ?_; (· simp only [written_record]); refine Kept.record ?_ ?_; rotate_left;
          (· first | (dsimp only [prot]; done) | (dsimp only [prot]; (repeat' first | rfl | split); done)))
    | split | dsimp only | intro

theorem keeps_rearmElsewhere {z0 : State} {s : State} (k : Nat) (kp : Kept z0 s) : Kept z0 (rearmElsewhere s k) := by
  unfold rearmElsewhere
  repeat' first | with_reducible assumption | with_reducible apply keeps_request | dsimp only | intro

theorem keeps_execQuiesceRequest {z0 : State} (port : Nat) {s : State} (kp : Kept z0 s) : KeptRes z0 (execQuiesceRequest
    port s) := by
  unfold execQuiesceRequest
  repeat' first
    | with_reducible assumption | exact trivial | with_reducible refine KeptRes.next ?_
    | with_reducible apply keeps_rearmElsewhere | with_reducible apply keeps_setPort | with_reducible apply keeps_settle
    | (refine Kept.written ?_ ?_; (· simp only [written_record]); refine Kept.record ?_ ?_; rotate_left;
          (· first | (dsimp only [prot]; done) | (dsimp only [prot]; (repeat' first | rfl | split); done)))
    | split | dsimp only | intro

theorem keeps_portReturns {z0 : State} {s : State} (kp : Kept z0 s) : Kept z0 (portReturns s) := by
  unfold portReturns
  repeat' first
    | with_reducible assumption | with_reducible apply keeps_readDoorbell | with_reducible apply keeps_settle
    | with_reducible refine Kept.foldl (fun _ _ _ => ?_) _ ?_
    | (refine Kept.written ?_ ?_; (· simp only [written_record]); refine Kept.record ?_ ?_; rotate_left;
          (· first | (dsimp only [prot]; done) | (dsimp only [prot]; (repeat' first | rfl | split); done)))
    | split | dsimp only | intro

theorem keeps_ringHeld {z0 : State} (k : Nat) {s : State} (l : Nat) (kp : Kept z0 s) : Kept z0 (ringHeld k s l) := by
  unfold ringHeld
  repeat' first
    | with_reducible assumption | with_reducible apply keeps_ringLink | with_reducible apply keeps_setLink
    | (refine Kept.written ?_ ?_; (· simp only [written_record]); refine Kept.record ?_ ?_; rotate_left;
          (· first | (dsimp only [prot]; done) | (dsimp only [prot]; (repeat' first | rfl | split); done)))
    | split | dsimp only | intro

theorem keeps_fencePort {z0 : State} {s : State} (k : Nat) (f : Port → Port) (kp : Kept z0 s) : Kept z0 (fencePort s k f) := by
  unfold fencePort
  repeat' first
    | with_reducible assumption | with_reducible apply keeps_notifyManager | with_reducible apply keeps_setPort
    | (refine Kept.written ?_ ?_; (· simp only [written_record]); refine Kept.record ?_ ?_; rotate_left;
          (· first | (dsimp only [prot]; done) | (dsimp only [prot]; (repeat' first | rfl | split); done)))
    | dsimp only | intro

theorem keeps_judgeWindow {z0 : State} {s : State} (k : Nat) (edges : Nat) (kp : Kept z0 s) : Kept z0 (judgeWindow s k
    edges) := by
  unfold judgeWindow
  repeat' first
    | with_reducible assumption | with_reducible apply keeps_fencePort | with_reducible apply keeps_rerunReads
    | with_reducible apply keeps_setPort
    | (refine Kept.written ?_ ?_; (· simp only [written_record]); refine Kept.record ?_ ?_; rotate_left;
          (· first | (dsimp only [prot]; done) | (dsimp only [prot]; (repeat' first | rfl | split); done)))
    | split | dsimp only | intro

theorem keeps_execClockWindowEnd {z0 : State} (port : Nat) (edges : Nat) {s : State} (kp : Kept z0 s) : KeptRes z0
    (execClockWindowEnd port edges s) := by
  unfold execClockWindowEnd
  repeat' first
    | with_reducible assumption | exact trivial | with_reducible refine KeptRes.next ?_
    | with_reducible apply keeps_judgeWindow | with_reducible apply keeps_settle | split | dsimp only | intro

theorem keeps_unfencePort {z0 : State} {s : State} (k : Nat) (kp : Kept z0 s) : Kept z0 (unfencePort s k) := by
  unfold unfencePort
  repeat' first
    | with_reducible assumption | with_reducible apply keeps_portReturns | with_reducible apply keeps_setPort
    | (refine Kept.written ?_ ?_; (· simp only [written_record]); refine Kept.record ?_ ?_; rotate_left;
          (· first | (dsimp only [prot]; done) | (dsimp only [prot]; (repeat' first | rfl | split); done)))
    | split | dsimp only | intro

theorem keeps_execUnfence {z0 : State} (port : Nat) (value : W32) {s : State} (kp : Kept z0 s) : KeptRes z0 (execUnfence
    port value s) := by
  unfold execUnfence
  repeat' first
    | with_reducible assumption | exact trivial | with_reducible refine KeptRes.next ?_
    | with_reducible apply keeps_portAccess | with_reducible apply keeps_regWrite | with_reducible apply keeps_unfencePort
    | split | dsimp only | intro

theorem keeps_bankFault {z0 : State} {s : State} (b : Nat) (kp : Kept z0 s) : Kept z0 (bankFault s b) := by
  unfold bankFault
  repeat' first
    | with_reducible assumption | with_reducible apply keeps_notifyManager | with_reducible apply keeps_writeLog
    | (refine Kept.written ?_ ?_; (· simp only [written_record]); refine Kept.record ?_ ?_; rotate_left;
          (· first | (dsimp only [prot]; done) | (dsimp only [prot]; (repeat' first | rfl | split); done)))
    | split | dsimp only | intro

theorem keeps_bankFaults {z0 : State} {s : State} (b2 : Bool) (b3 : Bool) (kp : Kept z0 s) : Kept z0 (bankFaults s b2 b3) := by
  unfold bankFaults
  repeat' first | with_reducible assumption | with_reducible apply keeps_bankFault | split | dsimp only | intro

theorem keeps_ledgerDone {z0 s : State} (b2 b3 : Bool) (kp : Kept z0 s) : Kept z0 (ledgerDone s b2 b3) := by
  unfold ledgerDone
  repeat' first
    | with_reducible assumption | with_reducible apply keeps_bankFaults | with_reducible apply keeps_commitRecord
    | with_reducible apply keeps_dequeue | with_reducible apply keeps_runEffect | with_reducible apply keeps_takeSnapshot
    | with_reducible apply keeps_archiveAgain | with_reducible apply keeps_recovered
    | with_reducible refine Kept.foldl (fun _ _ _ => ?_) _ ?_
    | (refine Kept.written ?_ ?_; (· simp only [written_record]); refine Kept.record ?_ ?_; rotate_left;
          (· first | (dsimp only [prot]; done) | (dsimp only [prot]; (repeat' first | rfl | split); done)))
    | split | dsimp only | intro

theorem keeps_execLedgerCommitDone {z0 : State} (bank2 : Bool) (bank3 : Bool) {s : State} (kp : Kept z0 s) : KeptRes z0
    (execLedgerCommitDone bank2 bank3 s) := by
  unfold execLedgerCommitDone
  repeat' first
    | with_reducible assumption | exact trivial | with_reducible refine KeptRes.next ?_
    | with_reducible apply keeps_ledgerDone | with_reducible apply keeps_settle | split | dsimp only | intro

theorem keeps_execMramRefresh {z0 : State} {s : State} (kp : Kept z0 s) : KeptRes z0 (execMramRefresh s) := by
  unfold execMramRefresh
  repeat' first
    | with_reducible assumption | exact trivial | with_reducible refine KeptRes.next ?_ | with_reducible apply keeps_enqueue
    | split | dsimp only | intro

theorem keeps_execPoweredTimeMove {z0 : State} {s : State} (kp : Kept z0 s) : KeptRes z0 (execPoweredTimeMove s) := by
  unfold execPoweredTimeMove
  repeat' first
    | with_reducible assumption | exact trivial | with_reducible refine KeptRes.next ?_ | with_reducible apply keeps_enqueue
    | (refine Kept.written ?_ ?_; (· simp only [written_record]); refine Kept.record ?_ ?_; rotate_left;
          (· first | (dsimp only [prot]; done) | (dsimp only [prot]; (repeat' first | rfl | split); done)))
    | split | dsimp only | intro

theorem keeps_execArchiveRetry {z0 : State} {s : State} (kp : Kept z0 s) : KeptRes z0 (execArchiveRetry s) := by
  unfold execArchiveRetry
  repeat' first
    | with_reducible assumption | exact trivial | with_reducible refine KeptRes.next ?_
    | with_reducible apply keeps_archiveAgain | with_reducible apply keeps_settle | split | dsimp only | intro

theorem keeps_execLogRateSecond {z0 : State} {s : State} (kp : Kept z0 s) : KeptRes z0 (execLogRateSecond s) := by
  unfold execLogRateSecond
  repeat' first
    | with_reducible assumption | exact trivial | with_reducible refine KeptRes.next ?_
    | with_reducible apply keeps_writeSuppressed
    | (refine Kept.written ?_ ?_; (· simp only [written_record]); refine Kept.record ?_ ?_; rotate_left;
          (· first | (dsimp only [prot]; done) | (dsimp only [prot]; (repeat' first | rfl | split); done)))
    | split | dsimp only | intro

theorem keeps_execLedgerCreditGain {z0 : State} {s : State} (kp : Kept z0 s) : KeptRes z0 (execLedgerCreditGain s) := by
  unfold execLedgerCreditGain
  repeat' first
    | with_reducible assumption | exact trivial | with_reducible refine KeptRes.next ?_
    | (refine Kept.written ?_ ?_; (· simp only [written_record]); refine Kept.record ?_ ?_; rotate_left;
          (· first | (dsimp only [prot]; done) | (dsimp only [prot]; (repeat' first | rfl | split); done)))
    | split | dsimp only | intro

theorem keeps_execPersistStatus {z0 : State} (io : MbxIo) {s : State} (kp : Kept z0 s) : KeptRes z0 (execPersistStatus io s)
    := by
  unfold execPersistStatus
  repeat' first
    | with_reducible assumption | exact trivial | with_reducible refine KeptRes.next ?_
    | with_reducible apply keeps_reportBlock | with_reducible refine keepsE_reportBlock (by assumption) ?_
    | with_reducible apply keeps_runMailbox | dsimp only | intro

theorem keeps_exportLog {z0 : State} {s : State} (io : MbxIo) (first : Nat) (count : Nat) (buf : Nat) (kp : Kept z0 s) :
    Kept z0 (exportLog s io first count buf).2 := by
  unfold exportLog
  repeat' first
    | with_reducible assumption | with_reducible apply keeps_drawRandom
    | with_reducible refine keepsE_drawRandom (by assumption) ?_ | with_reducible apply keeps_writeOutput
    | with_reducible refine keepsE_writeOutput (by assumption) ?_
    | (refine Kept.written ?_ ?_; (· simp only [written_record]); refine Kept.record ?_ ?_; rotate_left;
          (· first | (dsimp only [prot]; done) | (dsimp only [prot]; (repeat' first | rfl | split); done)))
    | split | dsimp only | intro

theorem keepsE_exportLog {z0 : State} {s : State} {io : MbxIo} {first : Nat} {count : Nat} {buf : Nat} {v z1} (he :
    exportLog s io first count buf = (v, z1)) (kp : Kept z0 s) : Kept z0 z1 := by
  have h9 := keeps_exportLog (io := io) (first := first) (count := count) (buf := buf) (kp := kp)
  rw [he] at h9; exact h9

theorem keeps_execLogExport {z0 : State} (io : MbxIo) {s : State} (kp : Kept z0 s) : KeptRes z0 (execLogExport io s) := by
  unfold execLogExport
  repeat' first
    | with_reducible assumption | exact trivial | with_reducible refine KeptRes.next ?_
    | with_reducible apply keeps_exportLog | with_reducible refine keepsE_exportLog (by assumption) ?_
    | with_reducible apply keeps_readInput | with_reducible refine keepsE_readInput (by assumption) ?_
    | with_reducible apply keeps_runMailbox
    | (refine Kept.written ?_ ?_; (· simp only [written_record]); refine Kept.record ?_ ?_; rotate_left;
          (· first | (dsimp only [prot]; done) | (dsimp only [prot]; (repeat' first | rfl | split); done)))
    | split | dsimp only | intro

theorem keeps_pairStore {z0 : State} {s : State} (a : Nat) (b : Bytes) (kp : Kept z0 s) : Kept z0 (pairStore s a b) := by
  unfold pairStore
  split
  · exact kp.pairMem rfl (memWf_memWriteBytes _ _)
  · exact kp

theorem keeps_loadPair {z0 : State} {s : State} (bank : Nat) (kp : Kept z0 s) : Kept z0 (loadPair s bank) := by
  have h0 : memWf [] = true := rfl
  have hm : ∀ x y : Bytes, memWf (memWriteBytes (memWriteBytes [] pairImageAt x) pairConfigAt y) = true :=
    fun x y => memWf_memWriteBytes y pairConfigAt (memWf_memWriteBytes x pairImageAt h0)
  unfold loadPair
  refine kp.pairMem ?_ (fun _ => ?_)
  · dsimp only [prot]
  · dsimp only
    apply hm

theorem keeps_execMbxMgmtRestart {z0 : State} (value : W32) {s : State} (kp : Kept z0 s) : KeptRes z0 (execMbxMgmtRestart
    value s) := by
  unfold execMbxMgmtRestart
  repeat' first
    | with_reducible assumption | exact trivial | with_reducible refine KeptRes.next ?_
    | with_reducible apply keeps_portAccess | with_reducible apply keeps_regWrite | with_reducible apply keeps_restartUnseen
    | split | dsimp only | intro

theorem keeps_execWatchdogExpiry {z0 : State} {s : State} (kp : Kept z0 s) : KeptRes z0 (execWatchdogExpiry s) := by
  unfold execWatchdogExpiry
  repeat' first
    | with_reducible assumption | exact trivial | with_reducible refine KeptRes.next ?_
    | with_reducible apply keeps_pairFault | with_reducible apply keeps_restartUnseen | split | dsimp only | intro

theorem keeps_execPairHalt {z0 : State} (pc : W64) (sp : W64) (cause : Byte) {s : State} (kp : Kept z0 s) : KeptRes z0
    (execPairHalt pc sp cause s) := by
  unfold execPairHalt
  repeat' first
    | with_reducible assumption | exact trivial | with_reducible refine KeptRes.next ?_
    | with_reducible apply keeps_pairFault | with_reducible apply keeps_restartPair | split | dsimp only | intro

theorem keeps_execDoubleFault {z0 : State} (pc : W64) (sp : W64) (cause : Byte) {s : State} (kp : Kept z0 s) : KeptRes z0
    (execDoubleFault pc sp cause s) := by
  unfold execDoubleFault
  repeat' first
    | with_reducible assumption | exact trivial | with_reducible refine KeptRes.next ?_ | with_reducible apply keeps_draw
    | with_reducible refine keepsE_draw (by assumption) ?_ | with_reducible apply keeps_pairStore
    | (refine Kept.written ?_ ?_; (· simp only [written_record]); refine Kept.record ?_ ?_; rotate_left;
          (· first | (dsimp only [prot]; done) | (dsimp only [prot]; (repeat' first | rfl | split); done)))
    | split | dsimp only | intro

theorem keeps_execLockstepMismatch {z0 : State} (pc : W64) (sp : W64) {s : State} (kp : Kept z0 s) : KeptRes z0
    (execLockstepMismatch pc sp s) := by
  unfold execLockstepMismatch
  repeat' first
    | with_reducible assumption | exact trivial | with_reducible refine KeptRes.next ?_ | with_reducible apply keeps_classB
    | with_reducible apply keeps_pairFault | with_reducible apply keeps_restartPair
    | (refine Kept.written ?_ ?_; (· simp only [written_record]); refine Kept.record ?_ ?_; rotate_left;
          (· first | (dsimp only [prot]; done) | (dsimp only [prot]; (repeat' first | rfl | split); done)))
    | split | dsimp only | intro

theorem keeps_restartKum {z0 : State} {s : State} (kp : Kept z0 s) : Kept z0 (restartKum s) := by
  unfold restartKum
  repeat' first
    | with_reducible assumption | with_reducible apply keeps_repeatUnder
    | (refine Kept.written ?_ ?_; (· simp only [written_record]); refine Kept.record ?_ ?_; rotate_left;
          (· first | (dsimp only [prot]; done) | (dsimp only [prot]; (repeat' first | rfl | split); done)))
    | split | dsimp only | intro

theorem keeps_pairRuns {z0 : State} {s : State} (kp : Kept z0 s) : Kept z0 (pairRuns s) := by
  unfold pairRuns
  repeat' first
    | with_reducible assumption | with_reducible apply keeps_flushReplies | with_reducible apply keeps_loadPair
    | with_reducible apply keeps_recovered | with_reducible apply keeps_restartKum
    | (refine Kept.written ?_ ?_; (· simp only [written_record]); refine Kept.record ?_ ?_; rotate_left;
          (· first | (dsimp only [prot]; done) | (dsimp only [prot]; (repeat' first | rfl | split); done)))
    | dsimp only | intro

theorem keeps_execRestartComplete {z0 : State} (digestsMatch : Bool) {s : State} (kp : Kept z0 s) : KeptRes z0
    (execRestartComplete digestsMatch s) := by
  unfold execRestartComplete
  repeat' first
    | with_reducible assumption | exact trivial | with_reducible refine KeptRes.next ?_
    | with_reducible apply keeps_enterSafe | with_reducible apply keeps_pairRuns
    | (refine Kept.written ?_ ?_; (· simp only [written_record]); refine Kept.record ?_ ?_; rotate_left;
          (· first | (dsimp only [prot]; done) | (dsimp only [prot]; (repeat' first | rfl | split); done)))
    | split | dsimp only | intro

theorem keeps_updReply {z0 : State} {s : State} (a : Ans) (kp : Kept z0 s) : Kept z0 (updReply s a).2 := by
  unfold updReply
  repeat' first
    | with_reducible assumption
    | (refine Kept.written ?_ ?_; (· simp only [written_record]); refine Kept.record ?_ ?_; rotate_left;
          (· first | (dsimp only [prot]; done) | (dsimp only [prot]; (repeat' first | rfl | split); done)))
    | split | dsimp only | intro

theorem keepsE_updReply {z0 : State} {s : State} {a : Ans} {v z1} (he : updReply s a = (v, z1)) (kp : Kept z0 s) : Kept z0
    z1 := by
  have h9 := keeps_updReply (a := a) (kp := kp)
  rw [he] at h9; exact h9

theorem keeps_updCode {z0 : State} {s : State} (c : Nat) (kp : Kept z0 s) : Kept z0 (updCode s c).2 := by
  unfold updCode
  repeat' first
    | with_reducible assumption | with_reducible apply keeps_updReply
    | with_reducible refine keepsE_updReply (by assumption) ?_ | dsimp only | intro

theorem keepsE_updCode {z0 : State} {s : State} {c : Nat} {v z1} (he : updCode s c = (v, z1)) (kp : Kept z0 s) : Kept z0 z1
    := by
  have h9 := keeps_updCode (c := c) (kp := kp)
  rw [he] at h9; exact h9

theorem keeps_setUpd {z0 : State} {s : State} (x : UpdSt) (bank : Nat) (kp : Kept z0 s) : Kept z0 (setUpd s x bank) := by
  unfold setUpd
  repeat' first
    | with_reducible assumption
    | (refine Kept.written ?_ ?_; (· simp only [written_record]); refine Kept.record ?_ ?_; rotate_left;
          (· first | (dsimp only [prot]; done) | (dsimp only [prot]; (repeat' first | rfl | split); done)))
    | dsimp only | intro

theorem keeps_writePart {z0 : State} {s : State} (bank : Nat) (off : Nat) (b : Bytes) (kp : Kept z0 s) : Kept z0 (writePart
    s bank off b) := by
  unfold writePart
  repeat' first
    | with_reducible assumption | with_reducible apply keeps_setUpd | with_reducible apply keeps_writeBank | split
    | dsimp only | intro

theorem keeps_execUpdateWrite {z0 : State} (io : MbxIo) {s : State} (kp : Kept z0 s) : KeptRes z0 (execUpdateWrite io s) := by
  unfold execUpdateWrite
  repeat' first
    | with_reducible assumption | exact trivial | with_reducible refine KeptRes.next ?_
    | with_reducible apply keeps_readInput | with_reducible refine keepsE_readInput (by assumption) ?_
    | with_reducible apply keeps_runMailbox | with_reducible apply keeps_updCode
    | with_reducible refine keepsE_updCode (by assumption) ?_ | with_reducible apply keeps_updReply
    | with_reducible refine keepsE_updReply (by assumption) ?_ | with_reducible apply keeps_writePart
    | (refine Kept.written ?_ ?_; (· simp only [written_record]); refine Kept.record ?_ ?_; rotate_left;
          (· first | (dsimp only [prot]; done) | (dsimp only [prot]; (repeat' first | rfl | split); done)))
    | split | dsimp only | intro

theorem keeps_execUpdateCheck {z0 : State} {s : State} (kp : Kept z0 s) : KeptRes z0 (execUpdateCheck s) := by
  unfold execUpdateCheck
  repeat' first
    | with_reducible assumption | exact trivial | with_reducible refine KeptRes.next ?_
    | with_reducible apply keeps_runMailbox | with_reducible apply keeps_setUpd | with_reducible apply keeps_updCode
    | with_reducible refine keepsE_updCode (by assumption) ?_ | with_reducible apply keeps_updReply
    | with_reducible refine keepsE_updReply (by assumption) ?_
    | (refine Kept.written ?_ ?_; (· simp only [written_record]); refine Kept.record ?_ ?_; rotate_left;
          (· first | (dsimp only [prot]; done) | (dsimp only [prot]; (repeat' first | rfl | split); done)))
    | split | dsimp only | intro

theorem keeps_execUpdateActivate {z0 : State} {s : State} (kp : Kept z0 s) : KeptRes z0 (execUpdateActivate s) := by
  unfold execUpdateActivate
  repeat' first
    | with_reducible assumption | exact trivial | with_reducible refine KeptRes.next ?_ | with_reducible apply keeps_enqueue
    | with_reducible apply keeps_runMailbox | with_reducible apply keeps_updCode
    | with_reducible refine keepsE_updCode (by assumption) ?_
    | (refine Kept.written ?_ ?_; (· simp only [written_record]); refine Kept.record ?_ ?_; rotate_left;
          (· first | (dsimp only [prot]; done) | (dsimp only [prot]; (repeat' first | rfl | split); done)))
    | split | dsimp only | intro

theorem keeps_execUpdateAbandon {z0 : State} {s : State} (kp : Kept z0 s) : KeptRes z0 (execUpdateAbandon s) := by
  unfold execUpdateAbandon
  repeat' first
    | with_reducible assumption | exact trivial | with_reducible refine KeptRes.next ?_
    | with_reducible apply keeps_runMailbox | with_reducible apply keeps_setUpd | with_reducible apply keeps_updCode
    | with_reducible refine keepsE_updCode (by assumption) ?_ | with_reducible apply keeps_writeBank | split | dsimp only
    | intro

theorem keeps_setVdd {z0 : State} {s : State} (mv : Nat) (kp : Kept z0 s) : Kept z0 (setVdd s mv) := by
  unfold setVdd
  repeat' first
    | with_reducible assumption
    | (refine Kept.written ?_ ?_; (· simp only [written_record]); refine Kept.record ?_ ?_; rotate_left;
          (· first | (dsimp only [prot]; done) | (dsimp only [prot]; (repeat' first | rfl | split); done)))
    | dsimp only | intro

theorem keeps_execSensorRead {z0 : State} (io : MbxIo) {s : State} (kp : Kept z0 s) : KeptRes z0 (execSensorRead io s) := by
  unfold execSensorRead
  repeat' first
    | with_reducible assumption | exact trivial | with_reducible refine KeptRes.next ?_
    | with_reducible apply keeps_reportBlock | with_reducible refine keepsE_reportBlock (by assumption) ?_
    | with_reducible apply keeps_runMailbox | dsimp only | intro

theorem keeps_execSensorSample {z0 : State} (sample : Sample) {s : State} (kp : Kept z0 s) : KeptRes z0 (execSensorSample
    sample s) := by
  unfold execSensorSample
  repeat' first
    | with_reducible assumption | exact trivial | with_reducible refine KeptRes.next ?_ | with_reducible apply keeps_aonDown
    | with_reducible apply keeps_setVdd
    | (refine Kept.written ?_ ?_; (· simp only [written_record]); refine Kept.record ?_ ?_; rotate_left;
          (· first | (dsimp only [prot]; done) | (dsimp only [prot]; (repeat' first | rfl | split); done)))
    | split | dsimp only | intro

theorem keeps_execMbxHeartbeatIncrement {z0 : State} {s : State} (kp : Kept z0 s) : KeptRes z0 (execMbxHeartbeatIncrement s)
    := by
  unfold execMbxHeartbeatIncrement
  repeat' first
    | with_reducible assumption | exact trivial | with_reducible refine KeptRes.next ?_
    | (refine Kept.written ?_ ?_; (· simp only [written_record]); refine Kept.record ?_ ?_; rotate_left;
          (· first | (dsimp only [prot]; done) | (dsimp only [prot]; (repeat' first | rfl | split); done)))
    | split | dsimp only | intro

theorem keeps_freshState {z0 s : State} (kp : Kept z0 s) : Kept z0 (freshState s) := by
  unfold freshState
  refine kp.legalOnly rfl ⟨id, id, id, Nat.min_le_right _ _, Nat.le_refl _⟩ (fun l =>
    ⟨⟨?_, ?_, ?_, ?_, ?_, ?_, l.1.7, l.1.8, ?_, ?_, l.1.11⟩, ⟨l.2.1, l.2.2.1, rfl⟩, fun _ _ => Nat.zero_le _, Nat.zero_le _⟩)
  · show 1 ≤ 10 ∧ 10 ≤ 1000; decide
  · show 2 ≤ 4 ∧ 4 ≤ 8; decide
  · show 1 ≤ 24 ∧ 24 ≤ 168; decide
  · show 0 < 512; decide
  · show 0 < 16; decide
  · show 0 < 2048; decide
  · show 0 < 2048; decide
  · show 0 < 8; decide

theorem keeps_goCold {z0 : State} {s : State} (kp : Kept z0 s) : Kept z0 (goCold s) := by
  unfold goCold
  repeat' first
    | with_reducible assumption | with_reducible apply keeps_loseVolatile
    | (refine Kept.written ?_ ?_; (· simp only [written_record]); refine Kept.record ?_ ?_; rotate_left;
          (· first | (dsimp only [prot]; done) | (dsimp only [prot]; (repeat' first | rfl | split); done)))
    | dsimp only | intro

theorem keeps_tamperStep {z0 s : State} (kp : Kept z0 s) : Kept z0 (tamperStep s) := by
  unfold tamperStep
  dsimp only
  refine kp.legalOnly rfl ⟨id, fun h => ?_, id, ?_, Nat.le_refl _⟩ (fun l => ⟨⟨l.1.1, l.1.2, l.1.3, l.1.4, l.1.5, l.1.6,
      l.1.7, l.1.8, l.1.9, l.1.10, ?_⟩, l.2, l.3, l.4⟩)
  · dsimp only; rw [h]; rfl
  · dsimp only; omega
  · exact Nat.min_le_left _ _

theorem keeps_countLatch {z0 : State} {s : State} (e : Nat × Latch) (kp : Kept z0 s) : Kept z0 (countLatch s e) := by
  unfold countLatch
  repeat' first
    | with_reducible assumption | with_reducible apply keeps_tamperStep
    | (refine Kept.written ?_ ?_; (· simp only [written_record]); refine Kept.record ?_ ?_; rotate_left;
          (· first | (dsimp only [prot]; done) | (dsimp only [prot]; (repeat' first | rfl | split); done)))
    | split | dsimp only | intro

theorem keeps_countTamper {z0 : State} {s : State} (kp : Kept z0 s) : Kept z0 (countTamper s) := by
  unfold countTamper
  repeat' first
    | with_reducible assumption | with_reducible apply keeps_countLatch | with_reducible apply keeps_tamperStep
    | with_reducible refine Kept.foldl (fun _ _ _ => ?_) _ ?_
    | (refine Kept.written ?_ ?_; (· simp only [written_record]); refine Kept.record ?_ ?_; rotate_left;
          (· first | (dsimp only [prot]; done) | (dsimp only [prot]; (repeat' first | rfl | split); done)))
    | split | dsimp only | intro

theorem keeps_clearSecure {z0 : State} {s : State} (kp : Kept z0 s) : Kept z0 (clearSecure s) := by
  unfold clearSecure
  repeat' first
    | with_reducible assumption
    | (refine Kept.written ?_ ?_; (· simp only [written_record]); refine Kept.record ?_ ?_; rotate_left;
          (· first | (dsimp only [prot]; done) | (dsimp only [prot]; (repeat' first | rfl | split); done)))
    | dsimp only | intro

theorem keeps_extendSlot {z0 : State} {s : State} (n : Nat) (d : Bytes) (kp : Kept z0 s) : Kept z0 (extendSlot s n d) := by
  unfold extendSlot
  repeat' first
    | with_reducible assumption
    | (refine Kept.written ?_ ?_; (· simp only [written_record]); refine Kept.record ?_ ?_; rotate_left;
          (· first | (dsimp only [prot]; done) | (dsimp only [prot]; (repeat' first | rfl | split); done)))
    | dsimp only | intro

theorem keeps_bankRows {z0 : State} {s : State} (io : StartIo) (kp : Kept z0 s) : Kept z0 (bankRows s io) := by
  unfold bankRows
  repeat' first | with_reducible assumption | with_reducible apply keeps_bankFault | split | dsimp only | intro

theorem keeps_spoilRecord {z0 : State} (io : StartIo) {s : State} (e : Nat × KeyRec) (kp : Kept z0 s) : Kept z0 (spoilRecord
    io s e) := by
  unfold spoilRecord
  repeat' first
    | with_reducible assumption | with_reducible apply keeps_draw | with_reducible refine keepsE_draw (by assumption) ?_
    | (refine Kept.written ?_ ?_; (· simp only [written_record]); refine Kept.record ?_ ?_; rotate_left;
          (· first | (dsimp only [prot]; done) | (dsimp only [prot]; (repeat' first | rfl | split); done)))
    | split | dsimp only | intro

theorem keeps_keyRows {z0 : State} {s : State} (io : StartIo) (kp : Kept z0 s) : Kept z0 (keyRows s io) := by
  unfold keyRows
  repeat' first
    | with_reducible assumption | with_reducible apply keeps_spoilRecord
    | with_reducible refine Kept.foldl (fun _ _ _ => ?_) _ ?_
    | (refine Kept.written ?_ ?_; (· simp only [written_record]); refine Kept.record ?_ ?_; rotate_left;
          (· first | (dsimp only [prot]; done) | (dsimp only [prot]; (repeat' first | rfl | split); done)))
    | split | dsimp only | intro

theorem keeps_auditRows {z0 s : State} (io : StartIo) (kp : Kept z0 s) : Kept z0 (auditRows s io) := by
  unfold auditRows
  dsimp only
  generalize (io.unreadable2.filter (fun n => decide (auditRowAt ≤ n) && io.unreadable3.contains n)).map (· - auditRowAt) = rows
  have k : Kept z0 { s with per := { s.per with
      logRowsFail := rows, otpDegraded := true, audit := s.per.audit.filter (fun e => !rows.contains e.1) } } :=
    kp.legalOnly rfl ⟨id, id, fun _ => rfl, Nat.min_le_right _ _, Nat.le_refl _⟩ (fun l => ⟨⟨l.1.1, l.1.2, l.1.3, l.1.4,
        l.1.5, l.1.6, l.1.7, l.1.8, l.1.9, l.1.10, l.1.11⟩, l.2, l.3, l.4⟩)
  split
  · exact kp
  · split
    · exact k
    · refine keeps_writeLog _ _ _ ?_
      split
      · exact k.upd rfl
      · exact k

theorem keeps_refreshBank {z0 : State} {s : State} (b : Nat) (kp : Kept z0 s) : Kept z0 (refreshBank s b) := by
  unfold refreshBank
  repeat' first | with_reducible assumption | with_reducible apply keeps_commitNow | split | dsimp only | intro

theorem keeps_bootBank {z0 : State} {s : State} (b : Nat) (kp : Kept z0 s) : Kept z0 (bootBank s b) := by
  unfold bootBank
  repeat' first
    | with_reducible assumption | with_reducible apply keeps_extendSlot | with_reducible apply keeps_loadPair
    | (refine Kept.written ?_ ?_; (· simp only [written_record]); refine Kept.record ?_ ?_; rotate_left;
          (· first | (dsimp only [prot]; done) | (dsimp only [prot]; (repeat' first | rfl | split); done)))
    | dsimp only | intro

theorem keeps_wipeCreated {z0 : State} {s : State} (opid : Nat) (kp : Kept z0 s) : Kept z0 (wipeCreated s opid) := by
  unfold wipeCreated
  repeat' first
    | with_reducible assumption | with_reducible apply keeps_dropKey
    | with_reducible refine Kept.foldl (fun _ _ _ => ?_) _ ?_
    | (refine Kept.written ?_ ?_; (· simp only [written_record]); refine Kept.record ?_ ?_; rotate_left;
          (· first | (dsimp only [prot]; done) | (dsimp only [prot]; (repeat' first | rfl | split); done)))
    | split | dsimp only | intro

theorem keeps_repeatedKum {z0 : State} {s : State} (opid : Nat) (op : Nat) (object : Nat) (c : Nat) (b : Option (Nat × Nat))
    (kp : Kept z0 s) : Kept z0 (repeatedKum s opid op object c b) := by
  unfold repeatedKum
  repeat' first
    | with_reducible assumption | with_reducible apply keeps_commitNow | with_reducible apply keeps_writeLog | dsimp only
    | intro

theorem keeps_repeatKum {z0 : State} {s : State} (opid : Nat) (op : Nat) (object : Nat) (c : Nat) (kp : Kept z0 s) : Kept z0
    (repeatKum s opid op object c) := by
  unfold repeatKum
  repeat' first
    | with_reducible assumption | with_reducible apply keeps_commitNow | with_reducible apply keeps_destroyRecord
    | with_reducible apply keeps_forgetIndex | with_reducible apply keeps_repeatedKum
    | (refine Kept.written ?_ ?_; (· simp only [written_record]); refine Kept.record ?_ ?_; rotate_left;
          (· first | (dsimp only [prot]; done) | (dsimp only [prot]; (repeat' first | rfl | split); done)))
    | split | dsimp only | intro

theorem keeps_resolveIntent {z0 : State} {s : State} (e : Nat × LPayload) (kp : Kept z0 s) : Kept z0 (resolveIntent s e) := by
  unfold resolveIntent
  repeat' first
    | with_reducible assumption | with_reducible apply keeps_commitNow | with_reducible apply keeps_destroyRecord
    | with_reducible apply keeps_dropKey | with_reducible apply keeps_dropPending | with_reducible apply keeps_repeatKum
    | with_reducible apply keeps_wipeCreated | with_reducible apply keeps_writeLog
    | (refine Kept.written ?_ ?_; (· simp only [written_record]); refine Kept.record ?_ ?_; rotate_left;
          (· first | (dsimp only [prot]; done) | (dsimp only [prot]; (repeat' first | rfl | split); done)))
    | split | dsimp only | intro

theorem keeps_recoverLedger {z0 : State} {s : State} (io : StartIo) (kp : Kept z0 s) : Kept z0 (recoverLedger s io) := by
  unfold recoverLedger
  repeat' first
    | with_reducible assumption | with_reducible apply keeps_auditRows | with_reducible apply keeps_bankRows
    | with_reducible apply keeps_commitNow | with_reducible apply keeps_keyRows | with_reducible apply keeps_resolveIntent
    | with_reducible refine Kept.foldl (fun _ _ _ => ?_) _ ?_
    | (refine Kept.written ?_ ?_; (· simp only [written_record]); refine Kept.record ?_ ?_; rotate_left;
          (· first | (dsimp only [prot]; done) | (dsimp only [prot]; (repeat' first | rfl | split); done)))
    | split | dsimp only | intro

theorem keeps_activateRoster {z0 : State} {s : State} (kp : Kept z0 s) : Kept z0 (activateRoster s) := by
  unfold activateRoster
  repeat' first
    | with_reducible assumption
    | (refine Kept.written ?_ ?_; (· simp only [written_record]); refine Kept.record ?_ ?_; rotate_left;
          (· first | (dsimp only [prot]; done) | (dsimp only [prot]; (repeat' first | rfl | split); done)))
    | split | dsimp only | intro

theorem keeps_closeMeasurements {z0 : State} {s : State} (kp : Kept z0 s) : Kept z0 (closeMeasurements s) := by
  unfold closeMeasurements
  repeat' first
    | with_reducible assumption | with_reducible apply keeps_extendSlot
    | (refine Kept.written ?_ ?_; (· simp only [written_record]); refine Kept.record ?_ ?_; rotate_left;
          (· first | (dsimp only [prot]; done) | (dsimp only [prot]; (repeat' first | rfl | split); done)))
    | split | dsimp only | intro

theorem keeps_wipeVolatile {z0 : State} {s : State} (kp : Kept z0 s) : Kept z0 (wipeVolatile s) := by
  unfold wipeVolatile
  repeat' first
    | with_reducible assumption
    | (refine Kept.written ?_ ?_; (· simp only [written_record]); refine Kept.record ?_ ?_; rotate_left;
          (· first | (dsimp only [prot]; done) | (dsimp only [prot]; (repeat' first | rfl | split); done)))
    | dsimp only | intro

theorem keeps_commitStart {z0 : State} {s : State} (kp : Kept z0 s) : Kept z0 (commitStart s) := by
  unfold commitStart
  repeat' first
    | with_reducible assumption | with_reducible apply keeps_commitNow | with_reducible apply keeps_wipeVolatile | split
    | dsimp only | intro

theorem keeps_takeRoot {z0 : State} {s : State} (r : Bytes) (kp : Kept z0 s) : Kept z0 (takeRoot s r) := by
  unfold takeRoot
  repeat' first
    | with_reducible assumption | with_reducible apply keeps_loadRegisters | with_reducible apply keeps_writeRoot
    | (refine Kept.written ?_ ?_; (· simp only [written_record]); refine Kept.record ?_ ?_; rotate_left;
          (· first | (dsimp only [prot]; done) | (dsimp only [prot]; (repeat' first | rfl | split); done)))
    | dsimp only | intro

theorem keeps_testSources {z0 : State} {s : State} (io : StartIo) (kp : Kept z0 s) : Kept z0 (testSources s io) := by
  unfold testSources
  repeat' first
    | with_reducible assumption | with_reducible apply keeps_setSource
    | with_reducible refine Kept.foldl (fun _ _ _ => ?_) _ ?_
    | (refine Kept.written ?_ ?_; (· simp only [written_record]); refine Kept.record ?_ ?_; rotate_left;
          (· first | (dsimp only [prot]; done) | (dsimp only [prot]; (repeat' first | rfl | split); done)))
    | split | dsimp only | intro

theorem keeps_takeSerials {z0 : State} {s : State} (kp : Kept z0 s) : Kept z0 (takeSerials s) := by
  unfold takeSerials
  repeat' first
    | with_reducible assumption | with_reducible apply keeps_commitNow
    | (refine Kept.written ?_ ?_; (· simp only [written_record]); refine Kept.record ?_ ?_; rotate_left;
          (· first | (dsimp only [prot]; done) | (dsimp only [prot]; (repeat' first | rfl | split); done)))
    | dsimp only | intro

theorem keeps_readySeed {z0 : State} {s : State} (kp : Kept z0 s) : Kept z0 (readySeed s) := by
  unfold readySeed
  repeat' first
    | with_reducible assumption | with_reducible apply keeps_finishBlock | with_reducible apply keeps_takeSerials | split
    | dsimp only | intro

theorem keeps_instantiateInternal {z0 : State} {s : State} (kp : Kept z0 s) : Kept z0 (instantiateInternal s) := by
  unfold instantiateInternal
  repeat' first
    | with_reducible assumption | with_reducible apply keeps_leaveStarting | with_reducible apply keeps_readySeed
    | with_reducible apply keeps_seedFrom
    | (refine Kept.written ?_ ?_; (· simp only [written_record]); refine Kept.record ?_ ?_; rotate_left;
          (· first | (dsimp only [prot]; done) | (dsimp only [prot]; (repeat' first | rfl | split); done)))
    | dsimp only | intro

theorem keeps_certifyMak {z0 s : State} (kp : Kept z0 s) : Kept z0 (certifyMak s) := by
  unfold certifyMak
  split
  · exact kp
  · have k := keeps_drawRandom kp
    exact k.upd rfl

theorem keeps_startLogs {z0 : State} {s : State} (rootAbsent : Bool) (kp : Kept z0 s) : Kept z0 (startLogs s rootAbsent) := by
  unfold startLogs
  repeat' first
    | with_reducible assumption | with_reducible apply keeps_writeLog
    | with_reducible refine Kept.foldl (fun _ _ _ => ?_) _ ?_
    | (refine Kept.written ?_ ?_; (· simp only [written_record]); refine Kept.record ?_ ?_; rotate_left;
          (· first | (dsimp only [prot]; done) | (dsimp only [prot]; (repeat' first | rfl | split); done)))
    | split | dsimp only | intro

theorem keeps_openSlice0 {z0 : State} {s : State} (kp : Kept z0 s) : Kept z0 (openSlice0 s) := by
  unfold openSlice0
  repeat' first
    | with_reducible assumption | with_reducible apply keeps_updSlice
    | (refine Kept.written ?_ ?_; (· simp only [written_record]); refine Kept.record ?_ ?_; rotate_left;
          (· first | (dsimp only [prot]; done) | (dsimp only [prot]; (repeat' first | rfl | split); done)))
    | split | dsimp only | intro

theorem keeps_recoverHeld {z0 : State} {s : State} (id : Nat) (kp : Kept z0 s) : Kept z0 (recoverHeld s id) := by
  unfold recoverHeld
  repeat' first
    | with_reducible assumption | with_reducible apply keeps_endWith | with_reducible apply keeps_recheckStamps
    | (refine Kept.written ?_ ?_; (· simp only [written_record]); refine Kept.record ?_ ?_; rotate_left;
          (· first | (dsimp only [prot]; done) | (dsimp only [prot]; (repeat' first | rfl | split); done)))
    | split | dsimp only | intro

theorem keeps_resumeRings {z0 : State} {s : State} (kp : Kept z0 s) : Kept z0 (resumeRings s) := by
  unfold resumeRings
  repeat' first
    | with_reducible assumption | with_reducible apply keeps_fetchPump | with_reducible apply keeps_readDoorbell
    | with_reducible apply keeps_recoverHeld | with_reducible apply keeps_settleFault
    | with_reducible refine Kept.foldl (fun _ _ _ => ?_) _ ?_ | dsimp only | intro

theorem keeps_reachDone {z0 : State} {s : State} (kp : Kept z0 s) : Kept z0 (reachDone s) := by
  unfold reachDone
  repeat' first
    | with_reducible assumption | with_reducible apply keeps_notifyManager | with_reducible apply keeps_openSlice0
    | with_reducible apply keeps_resumeRings | with_reducible apply keeps_settle | with_reducible apply keeps_startStep
    | (refine Kept.written ?_ ?_; (· simp only [written_record]); refine Kept.record ?_ ?_; rotate_left;
          (· first | (dsimp only [prot]; done) | (dsimp only [prot]; (repeat' first | rfl | split); done)))
    | split | dsimp only | intro

theorem keeps_resumeActivation {z0 : State} {s : State} (e : Nat × LPayload) (kp : Kept z0 s) : Kept z0 (resumeActivation s
    e) := by
  unfold resumeActivation
  repeat' first
    | with_reducible assumption | with_reducible apply keeps_activateBank | with_reducible apply keeps_activateMoved
    | with_reducible apply keeps_enqueue | with_reducible apply keeps_raiseFloor
    | (refine Kept.written ?_ ?_; (· simp only [written_record]); refine Kept.record ?_ ?_; rotate_left;
          (· first | (dsimp only [prot]; done) | (dsimp only [prot]; (repeat' first | rfl | split); done)))
    | split | dsimp only | intro

theorem keeps_finishStart {z0 : State} {s : State} (absent : Bool) (kp : Kept z0 s) : Kept z0 (finishStart s absent) := by
  unfold finishStart
  repeat' first
    | with_reducible assumption | with_reducible apply keeps_certifyMak | with_reducible apply keeps_reachDone
    | with_reducible apply keeps_resumeActivation | with_reducible apply keeps_startLogs
    | with_reducible apply keeps_startStep | with_reducible refine Kept.foldl (fun _ _ _ => ?_) _ ?_
    | (refine Kept.written ?_ ?_; (· simp only [written_record]); refine Kept.record ?_ ?_; rotate_left;
          (· first | (dsimp only [prot]; done) | (dsimp only [prot]; (repeat' first | rfl | split); done)))
    | split | dsimp only | intro

theorem keeps_execRstNAssert {z0 : State} (ns : Nat) {s : State} (kp : Kept z0 s) : KeptRes z0 (execRstNAssert ns s) := by
  unfold execRstNAssert
  repeat' first
    | with_reducible assumption | exact trivial | with_reducible refine KeptRes.next ?_ | with_reducible apply keeps_draw
    | with_reducible refine keepsE_draw (by assumption) ?_ | with_reducible apply keeps_enterReset | split | dsimp only
    | intro

theorem keeps_execLongReset {z0 : State} {s : State} (kp : Kept z0 s) : KeptRes z0 (execLongReset s) := by
  unfold execLongReset
  repeat' first
    | with_reducible assumption | exact trivial | with_reducible refine KeptRes.next ?_
    | (refine Kept.written ?_ ?_; (· simp only [written_record]); refine Kept.record ?_ ?_; rotate_left;
          (· first | (dsimp only [prot]; done) | (dsimp only [prot]; (repeat' first | rfl | split); done)))
    | split | dsimp only | intro

theorem keeps_beginStart {z0 : State} {s : State} (kp : Kept z0 s) : Kept z0 (beginStart s) := by
  unfold beginStart
  repeat' first
    | with_reducible assumption | with_reducible apply keeps_atStep | with_reducible apply keeps_clearSecure
    | with_reducible apply keeps_countTamper | with_reducible apply keeps_freshState | with_reducible apply keeps_goCold
    | with_reducible apply keeps_startFailed
    | (refine Kept.written ?_ ?_; (· simp only [written_record]); refine Kept.record ?_ ?_; rotate_left;
          (· first | (dsimp only [prot]; done) | (dsimp only [prot]; (repeat' first | rfl | split); done)))
    | split | dsimp only | intro

theorem keeps_execRstNRelease {z0 : State} {s : State} (kp : Kept z0 s) : KeptRes z0 (execRstNRelease s) := by
  unfold execRstNRelease
  repeat' first
    | with_reducible assumption | exact trivial | with_reducible refine KeptRes.next ?_
    | with_reducible apply keeps_beginStart | split | dsimp only | intro

theorem keeps_execSelfTestTimeout {z0 : State} {s : State} (kp : Kept z0 s) : KeptRes z0 (execSelfTestTimeout s) := by
  unfold execSelfTestTimeout
  repeat' first
    | with_reducible assumption | exact trivial | with_reducible refine KeptRes.next ?_
    | with_reducible apply keeps_startFailed | split | dsimp only | intro

theorem keeps_saveRegion {z0 : State} {s : State} (u : SramUse) (kp : Kept z0 s) : Kept z0 (saveRegion s u) := by
  unfold saveRegion
  repeat' first
    | with_reducible assumption
    | (refine Kept.written ?_ ?_; (· simp only [written_record]); refine Kept.record ?_ ?_; rotate_left;
          (· first | (dsimp only [prot]; done) | (dsimp only [prot]; (repeat' first | rfl | split); done)))
    | dsimp only | intro

theorem keeps_restoreRegion {z0 : State} {s : State} (kp : Kept z0 s) : Kept z0 (restoreRegion s) := by
  unfold restoreRegion
  repeat' first
    | with_reducible assumption
    | (refine Kept.written ?_ ?_; (· simp only [written_record]); refine Kept.record ?_ ?_; rotate_left;
          (· first | (dsimp only [prot]; done) | (dsimp only [prot]; (repeat' first | rfl | split); done)))
    | dsimp only | intro

theorem keeps_selfTest {z0 : State} {s : State} (io : StartIo) (kp : Kept z0 s) : Kept z0 (selfTest s io) := by
  unfold selfTest
  repeat' first
    | with_reducible assumption | with_reducible apply keeps_goCold | with_reducible apply keeps_holdBoundary
    | with_reducible apply keeps_restoreRegion | with_reducible apply keeps_saveRegion
    | with_reducible apply keeps_startFailed | with_reducible refine Kept.foldl (fun _ _ _ => ?_) _ ?_
    | (refine Kept.written ?_ ?_; (· simp only [written_record]); refine Kept.record ?_ ?_; rotate_left;
          (· first | (dsimp only [prot]; done) | (dsimp only [prot]; (repeat' first | rfl | split); done)))
    | split | dsimp only | intro

theorem keeps_startEntropy {z0 : State} {s : State} (io : StartIo) (kp : Kept z0 s) : Kept z0 (startEntropy s io) := by
  unfold startEntropy
  repeat' first
    | with_reducible assumption | with_reducible apply keeps_atStep | with_reducible apply keeps_finishStart
    | with_reducible apply keeps_instantiateInternal | with_reducible apply keeps_runKats
    | with_reducible apply keeps_setEntropy | with_reducible apply keeps_startFailed | with_reducible apply keeps_takeRoot
    | with_reducible apply keeps_takeSerials | with_reducible apply keeps_testSources
    | (refine Kept.written ?_ ?_; (· simp only [written_record]); refine Kept.record ?_ ?_; rotate_left;
          (· first | (dsimp only [prot]; done) | (dsimp only [prot]; (repeat' first | rfl | split); done)))
    | split | dsimp only | intro

theorem keeps_runStart {z0 : State} {s : State} (io : StartIo) (kp : Kept z0 s) : Kept z0 (runStart s io) := by
  unfold runStart
  repeat' first
    | with_reducible assumption | with_reducible apply keeps_activateRoster | with_reducible apply keeps_atStep
    | with_reducible apply keeps_bootBank | with_reducible apply keeps_closeMeasurements
    | with_reducible apply keeps_commitStart | with_reducible apply keeps_extendSlot | with_reducible apply keeps_finishStart
    | with_reducible apply keeps_recoverLedger | with_reducible apply keeps_refreshBank
    | with_reducible apply keeps_startEntropy | with_reducible apply keeps_startFailed
    | (refine Kept.written ?_ ?_; (· simp only [written_record]); refine Kept.record ?_ ?_; rotate_left;
          (· first | (dsimp only [prot]; done) | (dsimp only [prot]; (repeat' first | rfl | split); done)))
    | split | dsimp only | intro

theorem keeps_execSelfTestPreconditionMet {z0 : State} (start : StartIo) {s : State} (kp : Kept z0 s) : KeptRes z0
    (execSelfTestPreconditionMet start s) := by
  unfold execSelfTestPreconditionMet
  repeat' first
    | with_reducible assumption | exact trivial | with_reducible refine KeptRes.next ?_ | with_reducible apply keeps_runStart
    | with_reducible apply keeps_selfTest | split | dsimp only | intro

theorem keeps_execRootDraw {z0 : State} {s : State} (kp : Kept z0 s) : KeptRes z0 (execRootDraw s) := by
  unfold execRootDraw
  repeat' first
    | with_reducible assumption | exact trivial | with_reducible refine KeptRes.next ?_
    | with_reducible apply keeps_drawRandom | with_reducible refine keepsE_drawRandom (by assumption) ?_
    | with_reducible apply keeps_finishStart | with_reducible apply keeps_instantiateInternal
    | with_reducible apply keeps_startFailed | with_reducible apply keeps_takeRoot | with_reducible apply keeps_wipeDrbg
    | with_reducible apply keeps_writeRoot | split | dsimp only | intro

theorem keeps_execInternalReseed {z0 : State} {s : State} (kp : Kept z0 s) : KeptRes z0 (execInternalReseed s) := by
  unfold execInternalReseed
  repeat' first
    | with_reducible assumption | exact trivial | with_reducible refine KeptRes.next ?_
    | with_reducible apply keeps_finishStart | with_reducible apply keeps_reseedInternal | split | dsimp only | intro

theorem keeps_finalCommit {z0 : State} {s : State} (kp : Kept z0 s) : Kept z0 (finalCommit s) := by
  unfold finalCommit
  repeat' first
    | with_reducible assumption | with_reducible apply keeps_commitHead | with_reducible apply keeps_draw
    | with_reducible refine keepsE_draw (by assumption) ?_ | split | dsimp only | intro

theorem keeps_enterSecure {z0 : State} {s : State} (kp : Kept z0 s) : Kept z0 (enterSecure s) := by
  unfold enterSecure
  repeat' first
    | with_reducible assumption | with_reducible apply keeps_finalCommit | with_reducible apply keeps_holdBoundary
    | with_reducible apply keeps_latch | with_reducible apply keeps_wipeAllDrbgs | with_reducible apply keeps_wipeAllKeys
    | with_reducible apply keeps_wipeRegisters
    | (refine Kept.written ?_ ?_; (· simp only [written_record]); refine Kept.record ?_ ?_; rotate_left;
          (· first | (dsimp only [prot]; done) | (dsimp only [prot]; (repeat' first | rfl | split); done)))
    | dsimp only | intro

theorem latch_pwr (s : State) (k n : Nat) : (latch s k n).pwr = s.pwr := by
  unfold latch
  repeat' first | rfl | split | dsimp only

theorem keeps_execPwrGoodFall {z0 s : State} (kp : Kept z0 s) : KeptRes z0 (execPwrGoodFall s) := by
  unfold execPwrGoodFall
  have k : Kept z0 { s with pwr := { s.pwr with pwrGood := false } } := kp.upd rfl
  split
  · exact kp
  · dsimp only
    split
    · exact KeptRes.next (keeps_enterSecure k)
    · exact KeptRes.next ((keeps_latch 5 0 k).upd (by simp only [prot, latch_pwr]))

theorem keeps_setLevel {z0 : State} {s : State} (l : Level) (kp : Kept z0 s) : Kept z0 (setLevel s l) := by
  unfold setLevel
  repeat' first
    | with_reducible assumption | with_reducible apply keeps_notifyManager
    | (refine Kept.written ?_ ?_; (· simp only [written_record]); refine Kept.record ?_ ?_; rotate_left;
          (· first | (dsimp only [prot]; done) | (dsimp only [prot]; (repeat' first | rfl | split); done)))
    | split | dsimp only | intro

theorem keeps_setRails {z0 : State} {s : State} (vdd : Nat) (vddm : Nat) (kp : Kept z0 s) : Kept z0 (setRails s vdd vddm) := by
  unfold setRails
  repeat' first
    | with_reducible assumption | with_reducible apply keeps_setVdd
    | (refine Kept.written ?_ ?_; (· simp only [written_record]); refine Kept.record ?_ ?_; rotate_left;
          (· first | (dsimp only [prot]; done) | (dsimp only [prot]; (repeat' first | rfl | split); done)))
    | dsimp only | intro

theorem keeps_execSheddingLevelDown {z0 : State} (vdd : Nat) (vddm : Nat) {s : State} (kp : Kept z0 s) : KeptRes z0
    (execSheddingLevelDown vdd vddm s) := by
  unfold execSheddingLevelDown
  repeat' first
    | with_reducible assumption | exact trivial | with_reducible refine KeptRes.next ?_
    | with_reducible apply keeps_enterSecure | with_reducible apply keeps_setLevel | with_reducible apply keeps_setRails
    | split | dsimp only | intro

theorem keeps_execSheddingLevelUp {z0 : State} (vdd : Nat) (vddm : Nat) {s : State} (kp : Kept z0 s) : KeptRes z0
    (execSheddingLevelUp vdd vddm s) := by
  unfold execSheddingLevelUp
  repeat' first
    | with_reducible assumption | exact trivial | with_reducible refine KeptRes.next ?_ | with_reducible apply keeps_setLevel
    | with_reducible apply keeps_setRails | split | dsimp only | intro

theorem keeps_execVddHigh {z0 : State} (mv : Nat) {s : State} (kp : Kept z0 s) : KeptRes z0 (execVddHigh mv s) := by
  unfold execVddHigh
  repeat' first
    | with_reducible assumption | exact trivial | with_reducible refine KeptRes.next ?_ | with_reducible apply keeps_setVdd
    | with_reducible apply keeps_writeLog
    | (refine Kept.written ?_ ?_; (· simp only [written_record]); refine Kept.record ?_ ?_; rotate_left;
          (· first | (dsimp only [prot]; done) | (dsimp only [prot]; (repeat' first | rfl | split); done)))
    | split | dsimp only | intro

theorem keeps_execVaonChangeover {z0 : State} (mv : Nat) {s : State} (kp : Kept z0 s) : KeptRes z0 (execVaonChangeover mv s)
    := by
  unfold execVaonChangeover
  repeat' first
    | with_reducible assumption | exact trivial | with_reducible refine KeptRes.next ?_ | with_reducible apply keeps_aonDown
    | (refine Kept.written ?_ ?_; (· simp only [written_record]); refine Kept.record ?_ ?_; rotate_left;
          (· first | (dsimp only [prot]; done) | (dsimp only [prot]; (repeat' first | rfl | split); done)))
    | split | dsimp only | intro

theorem keeps_execMonitorSelfTest {z0 : State} (rail : Rail) (pass : Bool) {s : State} (kp : Kept z0 s) : KeptRes z0
    (execMonitorSelfTest rail pass s) := by
  unfold execMonitorSelfTest
  repeat' first
    | with_reducible assumption | exact trivial | with_reducible refine KeptRes.next ?_
    | with_reducible apply keeps_notifyManager | with_reducible apply keeps_writeLog
    | (refine Kept.written ?_ ?_; (· simp only [written_record]); refine Kept.record ?_ ?_; rotate_left;
          (· first | (dsimp only [prot]; done) | (dsimp only [prot]; (repeat' first | rfl | split); done)))
    | split | dsimp only | intro

theorem keeps_execVbatLow {z0 : State} {s : State} (kp : Kept z0 s) : KeptRes z0 (execVbatLow s) := by
  unfold execVbatLow
  repeat' first
    | with_reducible assumption | exact trivial | with_reducible refine KeptRes.next ?_
    | with_reducible apply keeps_notifyManager
    | (refine Kept.written ?_ ?_; (· simp only [written_record]); refine Kept.record ?_ ?_; rotate_left;
          (· first | (dsimp only [prot]; done) | (dsimp only [prot]; (repeat' first | rfl | split); done)))
    | split | dsimp only | intro

theorem keeps_execAonGap {z0 : State} {s : State} (kp : Kept z0 s) : KeptRes z0 (execAonGap s) := by
  unfold execAonGap
  repeat' first
    | with_reducible assumption | exact trivial | with_reducible refine KeptRes.next ?_ | with_reducible apply keeps_classA
    | with_reducible apply keeps_latch | split | dsimp only | intro

theorem keeps_execBatteryRemoval {z0 : State} {s : State} (kp : Kept z0 s) : KeptRes z0 (execBatteryRemoval s) := by
  unfold execBatteryRemoval
  repeat' first
    | with_reducible assumption | exact trivial | with_reducible refine KeptRes.next ?_
    | with_reducible apply keeps_holdBoundary
    | (refine Kept.written ?_ ?_; (· simp only [written_record]); refine Kept.record ?_ ?_; rotate_left;
          (· first | (dsimp only [prot]; done) | (dsimp only [prot]; (repeat' first | rfl | split); done)))
    | dsimp only | intro

theorem keeps_lightSeen {z0 : State} {s : State} (n : Nat) (kp : Kept z0 s) : Kept z0 (lightSeen s n) := by
  unfold lightSeen
  repeat' first
    | with_reducible assumption | with_reducible apply keeps_classA | with_reducible apply keeps_latch | dsimp only | intro

theorem keeps_execLightEvent {z0 : State} (sensor : Nat) {s : State} (kp : Kept z0 s) : KeptRes z0 (execLightEvent sensor s)
    := by
  unfold execLightEvent
  repeat' first
    | with_reducible assumption | exact trivial | with_reducible refine KeptRes.next ?_
    | with_reducible apply keeps_lightSeen
    | (refine Kept.written ?_ ?_; (· simp only [written_record]); refine Kept.record ?_ ?_; rotate_left;
          (· first | (dsimp only [prot]; done) | (dsimp only [prot]; (repeat' first | rfl | split); done)))
    | split | dsimp only | intro

theorem keeps_execLightSampleWindow {z0 : State} (sensors : List Nat) {s : State} (kp : Kept z0 s) : KeptRes z0
    (execLightSampleWindow sensors s) := by
  unfold execLightSampleWindow
  repeat' first
    | with_reducible assumption | exact trivial | with_reducible refine KeptRes.next ?_
    | with_reducible apply keeps_lightSeen
    | (refine Kept.written ?_ ?_; (· simp only [written_record]); refine Kept.record ?_ ?_; rotate_left;
          (· first | (dsimp only [prot]; done) | (dsimp only [prot]; (repeat' first | rfl | split); done)))
    | split | dsimp only | intro

theorem keeps_execLightSensorSelfTest {z0 : State} (sensor : Nat) (pass : Bool) {s : State} (kp : Kept z0 s) : KeptRes z0
    (execLightSensorSelfTest sensor pass s) := by
  unfold execLightSensorSelfTest
  repeat' first
    | with_reducible assumption | exact trivial | with_reducible refine KeptRes.next ?_ | with_reducible apply keeps_classA
    | with_reducible apply keeps_latch
    | (refine Kept.written ?_ ?_; (· simp only [written_record]); refine Kept.record ?_ ?_; rotate_left;
          (· first | (dsimp only [prot]; done) | (dsimp only [prot]; (repeat' first | rfl | split); done)))
    | split | dsimp only | intro

theorem keeps_execMaceAssert {z0 : State} {s : State} (kp : Kept z0 s) : KeptRes z0 (execMaceAssert s) := by
  unfold execMaceAssert
  repeat' first
    | with_reducible assumption | exact trivial | with_reducible refine KeptRes.next ?_ | with_reducible apply keeps_classA
    | with_reducible apply keeps_latch
    | (refine Kept.written ?_ ?_; (· simp only [written_record]); refine Kept.record ?_ ?_; rotate_left;
          (· first | (dsimp only [prot]; done) | (dsimp only [prot]; (repeat' first | rfl | split); done)))
    | split | dsimp only | intro

theorem keeps_execMaceRelease {z0 : State} {s : State} (kp : Kept z0 s) : KeptRes z0 (execMaceRelease s) := by
  unfold execMaceRelease
  repeat' first
    | with_reducible assumption | exact trivial | with_reducible refine KeptRes.next ?_
    | (refine Kept.written ?_ ?_; (· simp only [written_record]); refine Kept.record ?_ ?_; rotate_left;
          (· first | (dsimp only [prot]; done) | (dsimp only [prot]; (repeat' first | rfl | split); done)))
    | dsimp only | intro

theorem keeps_execMaceHeldEpisode {z0 : State} {s : State} (kp : Kept z0 s) : KeptRes z0 (execMaceHeldEpisode s) := by
  unfold execMaceHeldEpisode
  repeat' first
    | with_reducible assumption | exact trivial | with_reducible refine KeptRes.next ?_
    | (refine Kept.written ?_ ?_; (· simp only [written_record]); refine Kept.record ?_ ?_; rotate_left;
          (· first | (dsimp only [prot]; done) | (dsimp only [prot]; (repeat' first | rfl | split); done)))
    | split | dsimp only | intro

theorem keeps_execSramParityError {z0 : State} (slice : Nat) (place : ParityPlace) {s : State} (kp : Kept z0 s) : KeptRes z0
    (execSramParityError slice place s) := by
  unfold execSramParityError
  repeat' first
    | with_reducible assumption | exact trivial | with_reducible refine KeptRes.next ?_ | with_reducible apply keeps_classC
    | (refine Kept.written ?_ ?_; (· simp only [written_record]); refine Kept.record ?_ ?_; rotate_left;
          (· first | (dsimp only [prot]; done) | (dsimp only [prot]; (repeat' first | rfl | split); done)))
    | split | dsimp only | intro

theorem keeps_storeGone {z0 : State} {s : State} (kp : Kept z0 s) : Kept z0 (storeGone s) := by
  unfold storeGone
  repeat' first
    | with_reducible assumption | with_reducible apply keeps_abortBatch | with_reducible apply keeps_abortGathering
    | with_reducible apply keeps_dropSeals | split | dsimp only | intro

theorem keeps_execCodewordFault {z0 : State} (kind : Engine) (part : Nat) {s : State} (kp : Kept z0 s) : KeptRes z0
    (execCodewordFault kind part s) := by
  unfold execCodewordFault
  repeat' first
    | with_reducible assumption | exact trivial | with_reducible refine KeptRes.next ?_
    | with_reducible apply keeps_partFault | with_reducible apply keeps_storeGone | split | dsimp only | intro

theorem keeps_execStallFault {z0 : State} (kind : Engine) (part : Nat) {s : State} (kp : Kept z0 s) : KeptRes z0
    (execStallFault kind part s) := by
  unfold execStallFault
  repeat' first
    | with_reducible assumption | exact trivial | with_reducible refine KeptRes.next ?_
    | with_reducible apply keeps_partFault | with_reducible apply keeps_storeGone
    | (refine Kept.written ?_ ?_; (· simp only [written_record]); refine Kept.record ?_ ?_; rotate_left;
          (· first | (dsimp only [prot]; done) | (dsimp only [prot]; (repeat' first | rfl | split); done)))
    | split | dsimp only | intro

theorem keeps_repeatKeyJob {z0 : State} {s : State} (id : Nat) (kp : Kept z0 s) : Kept z0 (repeatKeyJob s id) := by
  unfold repeatKeyJob
  repeat' first
    | with_reducible assumption | with_reducible apply keeps_recovered | with_reducible apply keeps_rerunJob
    | (refine Kept.written ?_ ?_; (· simp only [written_record]); refine Kept.record ?_ ?_; rotate_left;
          (· first | (dsimp only [prot]; done) | (dsimp only [prot]; (repeat' first | rfl | split); done)))
    | split | dsimp only | intro

theorem keeps_keyStoreFault {z0 : State} {s : State} (kp : Kept z0 s) : Kept z0 (keyStoreFault s) := by
  unfold keyStoreFault
  repeat' first
    | with_reducible assumption | with_reducible apply keeps_recomputeRegisters | with_reducible apply keeps_recovered
    | with_reducible apply keeps_repeatKeyJob | with_reducible apply keeps_restartKum
    | with_reducible apply keeps_wipeRegisters | with_reducible refine Kept.foldl (fun _ _ _ => ?_) _ ?_ | dsimp only | intro

theorem keeps_ledgerFault {z0 : State} {s : State} (kp : Kept z0 s) : Kept z0 (ledgerFault s) := by
  unfold ledgerFault
  repeat' first | with_reducible assumption | with_reducible apply keeps_recovered | split | dsimp only | intro

theorem keeps_entropyFault {z0 : State} {s : State} (kp : Kept z0 s) : Kept z0 (entropyFault s) := by
  unfold entropyFault
  repeat' first
    | with_reducible assumption
    | (refine Kept.written ?_ ?_; (· simp only [written_record]); refine Kept.record ?_ ?_; rotate_left;
          (· first | (dsimp only [prot]; done) | (dsimp only [prot]; (repeat' first | rfl | split); done)))
    | dsimp only | intro

theorem keeps_managementFault {z0 : State} {s : State} (kp : Kept z0 s) : Kept z0 (managementFault s) := by
  unfold managementFault
  repeat' first
    | with_reducible assumption | with_reducible apply keeps_draw | with_reducible refine keepsE_draw (by assumption) ?_
    | with_reducible apply keeps_restartUnseen | split | dsimp only | intro

theorem keeps_boundaryFault {z0 : State} {s : State} (port : Option Nat) (kp : Kept z0 s) : Kept z0 (boundaryFault s port) := by
  unfold boundaryFault
  repeat' first
    | with_reducible assumption | with_reducible apply keeps_fencePort | with_reducible apply keeps_recovered
    | with_reducible apply keeps_rerunReads
    | (refine Kept.written ?_ ?_; (· simp only [written_record]); refine Kept.record ?_ ?_; rotate_left;
          (· first | (dsimp only [prot]; done) | (dsimp only [prot]; (repeat' first | rfl | split); done)))
    | split | dsimp only | intro

theorem keeps_execCoreWidePartFault {z0 : State} (part : CorePart) {s : State} (kp : Kept z0 s) : KeptRes z0
    (execCoreWidePartFault part s) := by
  unfold execCoreWidePartFault
  repeat' first
    | with_reducible assumption | exact trivial | with_reducible refine KeptRes.next ?_
    | with_reducible apply keeps_boundaryFault | with_reducible apply keeps_coreFault
    | with_reducible apply keeps_entropyFault | with_reducible apply keeps_keyStoreFault
    | with_reducible apply keeps_ledgerFault | with_reducible apply keeps_managementFault
    | (refine Kept.written ?_ ?_; (· simp only [written_record]); refine Kept.record ?_ ?_; rotate_left;
          (· first | (dsimp only [prot]; done) | (dsimp only [prot]; (repeat' first | rfl | split); done)))
    | split | dsimp only | intro

theorem keeps_execPartTestStart {z0 : State} (kind : Engine) (part : Nat) {s : State} (kp : Kept z0 s) : KeptRes z0
    (execPartTestStart kind part s) := by
  unfold execPartTestStart
  repeat' first
    | with_reducible assumption | exact trivial | with_reducible refine KeptRes.next ?_ | with_reducible apply keeps_setPart
    | (refine Kept.written ?_ ?_; (· simp only [written_record]); refine Kept.record ?_ ?_; rotate_left;
          (· first | (dsimp only [prot]; done) | (dsimp only [prot]; (repeat' first | rfl | split); done)))
    | split | dsimp only | intro

theorem keeps_execPartTestEnd {z0 : State} (kind : Engine) (part : Nat) (pass : Bool) {s : State} (kp : Kept z0 s) : KeptRes
    z0 (execPartTestEnd kind part pass s) := by
  unfold execPartTestEnd
  repeat' first
    | with_reducible assumption | exact trivial | with_reducible refine KeptRes.next ?_
    | with_reducible apply keeps_notifyManager | with_reducible apply keeps_setPart | with_reducible apply keeps_storeGone
    | with_reducible apply keeps_sweepKind | with_reducible apply keeps_writeLog
    | (refine Kept.written ?_ ?_; (· simp only [written_record]); refine Kept.record ?_ ?_; rotate_left;
          (· first | (dsimp only [prot]; done) | (dsimp only [prot]; (repeat' first | rfl | split); done)))
    | split | dsimp only | intro

end Sys2Proof.Machine
end

