-- ==== Sys2Proof/Laws/KeptRegs.lean ====
section
/-! SUPPORT. Frames: what register accesses and the remaining commands keep (`Kept`). -/
set_option linter.unusedSimpArgs false
set_option linter.unusedVariables false
namespace Sys2Proof.Machine

theorem keeps_mdpAccess {z0 : State} (path : Path) {s : State} {f : State → State} (kp : Kept z0 s) (kp_f : ∀ x, Kept z0 x →
    Kept z0 (f x)) : Kept z0 (mdpAccess path s f) := by
  unfold mdpAccess
  repeat' first
    | with_reducible assumption | with_reducible apply keeps_guardAnswer | with_reducible apply kp_f
    | (refine Kept.written ?_ ?_; (· simp only [written_record]); refine Kept.record ?_ ?_; rotate_left;
          (· first | (dsimp only [prot]; done) | (dsimp only [prot]; (repeat' first | rfl | split); done)))
    | split | dsimp only | intro

theorem keeps_mdpOk {z0 : State} (path : Path) {s : State} (kp : Kept z0 s) : Kept z0 (mdpOk path s) := by
  unfold mdpOk
  repeat' first
    | with_reducible assumption | with_reducible apply keeps_emit
    | (refine Kept.written ?_ ?_; (· simp only [written_record]); refine Kept.record ?_ ?_; rotate_left;
          (· first | (dsimp only [prot]; done) | (dsimp only [prot]; (repeat' first | rfl | split); done)))
    | split | dsimp only | intro

theorem keeps_mdpError {z0 : State} (path : Path) {s : State} (kp : Kept z0 s) : Kept z0 (mdpError path s) := by
  unfold mdpError
  repeat' first
    | with_reducible assumption | with_reducible apply keeps_emit
    | (refine Kept.written ?_ ?_; (· simp only [written_record]); refine Kept.record ?_ ?_; rotate_left;
          (· first | (dsimp only [prot]; done) | (dsimp only [prot]; (repeat' first | rfl | split); done)))
    | split | dsimp only | intro

theorem keeps_setMdp {z0 s : State} (m : Mdp) (kp : Kept z0 s) (hm : m.measSel = s.mdp.measSel) : Kept z0 (setMdp s m) :=
  kp.upd (by dsimp only [setMdp, prot]; rw [hm])

theorem keeps_mdpMisuse {z0 : State} (path : Path) {s : State} (kp : Kept z0 s) : Kept z0 (mdpMisuse path s) := by
  unfold mdpMisuse
  repeat' first
    | with_reducible assumption | with_reducible apply keeps_mdpError | with_reducible refine keeps_setMdp _ ?_ rfl
    | (refine Kept.written ?_ ?_; (· simp only [written_record]); refine Kept.record ?_ ?_; rotate_left;
          (· first | (dsimp only [prot]; done) | (dsimp only [prot]; (repeat' first | rfl | split); done)))
    | dsimp only | intro

theorem keeps_mdpRefused {z0 : State} (path : Path) {s : State} {f : Mdp → Mdp} (hf : ∀ m, (f m).measSel = m.measSel) (kp :
    Kept z0 s) : Kept z0 (mdpRefused path s f) := by
  unfold mdpRefused
  exact keeps_mdpOk _ (keeps_setMdp _ kp (hf _))

theorem keeps_useHmac {z0 : State} {s : State} (k : Key) (code : Nat) (kp : Kept z0 s) : Kept z0 (useHmac s k code) := by
  unfold useHmac
  repeat' first
    | with_reducible assumption | with_reducible apply keeps_findHmac
    | with_reducible refine keepsE_findHmac (by assumption) ?_ | with_reducible apply keeps_storeHmac
    | (refine Kept.written ?_ ?_; (· simp only [written_record]); refine Kept.record ?_ ?_; rotate_left;
          (· first | (dsimp only [prot]; done) | (dsimp only [prot]; (repeat' first | rfl | split); done)))
    | split | dsimp only | intro

theorem keeps_mdpKey {z0 : State} {s : State} (alg : Nat) (h : Nat) (kp : Kept z0 s) : Kept z0 (mdpKey s alg h).2 := by
  unfold mdpKey
  repeat' first
    | with_reducible assumption | with_reducible apply keeps_findKey
    | with_reducible refine keepsE_findKey (by assumption) ?_ | with_reducible apply keeps_keyDamaged
    | with_reducible apply keeps_useHmac
    | (refine Kept.written ?_ ?_; (· simp only [written_record]); refine Kept.record ?_ ?_; rotate_left;
          (· first | (dsimp only [prot]; done) | (dsimp only [prot]; (repeat' first | rfl | split); done)))
    | split | dsimp only | intro

theorem keepsE_mdpKey {z0 : State} {s : State} {alg : Nat} {h : Nat} {v z1} (he : mdpKey s alg h = (v, z1)) (kp : Kept z0
    s) : Kept z0 z1 := by
  have h9 := keeps_mdpKey (alg := alg) (h := h) (kp := kp)
  rw [he] at h9; exact h9

theorem keeps_mdpClaim {z0 : State} {s : State} (path : Path) (c : W32) (busy : Option MdpBusy) (key : Bytes) (kp : Kept z0
    s) : Kept z0 (mdpClaim s path c busy key) := by
  unfold mdpClaim
  repeat' first
    | with_reducible assumption | with_reducible refine keeps_setMdp _ ?_ rfl
    | (refine Kept.written ?_ ?_; (· simp only [written_record]); refine Kept.record ?_ ?_; rotate_left;
          (· first | (dsimp only [prot]; done) | (dsimp only [prot]; (repeat' first | rfl | split); done)))
    | split | dsimp only | intro

theorem keeps_mdpKeyStart {z0 : State} (path : Path) (c : W32) {s : State} (kp : Kept z0 s) : Kept z0 (mdpKeyStart path c s)
    := by
  unfold mdpKeyStart
  repeat' first
    | with_reducible assumption | with_reducible apply keeps_mdpClaim | with_reducible apply keeps_mdpKey
    | with_reducible refine keepsE_mdpKey (by assumption) ?_ | with_reducible apply keeps_mdpOk
    | with_reducible refine keeps_mdpRefused _ (fun _ => rfl) ?_ | with_reducible refine keeps_setMdp _ ?_ rfl
    | (refine Kept.written ?_ ?_; (· simp only [written_record]); refine Kept.record ?_ ?_; rotate_left;
          (· first | (dsimp only [prot]; done) | (dsimp only [prot]; (repeat' first | rfl | split); done)))
    | split | dsimp only | intro

theorem keeps_mdpKeyRead {z0 : State} {s : State} (c : W32) (kp : Kept z0 s) : Kept z0 (mdpKeyRead s c) := by
  unfold mdpKeyRead
  repeat' first
    | with_reducible assumption | with_reducible apply keeps_mdpKey | with_reducible refine keepsE_mdpKey (by assumption) ?_
    | with_reducible refine keeps_setMdp _ ?_ rfl
    | (refine Kept.written ?_ ?_; (· simp only [written_record]); refine Kept.record ?_ ?_; rotate_left;
          (· first | (dsimp only [prot]; done) | (dsimp only [prot]; (repeat' first | rfl | split); done)))
    | split | dsimp only | intro

theorem keeps_mdpStart {z0 : State} (path : Path) (c : W32) {s : State} (kp : Kept z0 s) : Kept z0 (mdpStart path c s) := by
  unfold mdpStart
  repeat' first
    | with_reducible assumption | with_reducible apply keeps_mdpClaim | with_reducible apply keeps_mdpKeyStart
    | with_reducible apply keeps_mdpOk | with_reducible refine keeps_mdpRefused _ (fun _ => rfl) ?_
    | with_reducible refine keeps_setMdp _ ?_ rfl
    | (refine Kept.written ?_ ?_; (· simp only [written_record]); refine Kept.record ?_ ?_; rotate_left;
          (· first | (dsimp only [prot]; done) | (dsimp only [prot]; (repeat' first | rfl | split); done)))
    | split | dsimp only | intro

theorem keeps_execMdpStart {z0 : State} (path : Path) (cmd : W32) {s : State} (kp : Kept z0 s) : KeptRes z0 (execMdpStart
    path cmd s) := by
  unfold execMdpStart
  repeat' first
    | with_reducible assumption | exact trivial | with_reducible refine KeptRes.next ?_
    | with_reducible apply keeps_mdpAccess | with_reducible apply keeps_mdpStart | with_reducible apply keeps_pathAccess
    | split | dsimp only | intro

theorem keeps_mdpAppend {z0 : State} {s : State} (w : W32) (kp : Kept z0 s) : Kept z0 (mdpAppend s w) := by
  unfold mdpAppend
  repeat' first
    | with_reducible assumption | with_reducible refine keeps_setMdp _ ?_ rfl
    | (refine Kept.written ?_ ?_; (· simp only [written_record]); refine Kept.record ?_ ?_; rotate_left;
          (· first | (dsimp only [prot]; done) | (dsimp only [prot]; (repeat' first | rfl | split); done)))
    | split | dsimp only | intro

theorem keeps_mdpWrite {z0 : State} (path : Path) (w : W32) {s : State} (kp : Kept z0 s) : Kept z0 (mdpWrite path w s) := by
  unfold mdpWrite
  repeat' first
    | with_reducible assumption | with_reducible apply keeps_mdpAppend | with_reducible apply keeps_mdpMisuse
    | with_reducible apply keeps_mdpOk | with_reducible refine keeps_setMdp _ ?_ rfl
    | (refine Kept.written ?_ ?_; (· simp only [written_record]); refine Kept.record ?_ ?_; rotate_left;
          (· first | (dsimp only [prot]; done) | (dsimp only [prot]; (repeat' first | rfl | split); done)))
    | split | dsimp only | intro

theorem keeps_execMdpData {z0 : State} (path : Path) (word : W32) {s : State} (kp : Kept z0 s) : KeptRes z0 (execMdpData
    path word s) := by
  unfold execMdpData
  repeat' first
    | with_reducible assumption | exact trivial | with_reducible refine KeptRes.next ?_
    | with_reducible apply keeps_mdpAccess | with_reducible apply keeps_mdpWrite | with_reducible apply keeps_pathAccess
    | dsimp only | intro

theorem keeps_mdpFinal {z0 : State} (path : Path) (c : W32) {s : State} (kp : Kept z0 s) : Kept z0 (mdpFinal path c s) := by
  unfold mdpFinal
  repeat' first
    | with_reducible assumption | with_reducible apply keeps_mdpMisuse | with_reducible apply keeps_mdpOk
    | with_reducible refine keeps_mdpRefused _ (fun _ => rfl) ?_ | with_reducible refine keeps_setMdp _ ?_ rfl
    | (refine Kept.written ?_ ?_; (· simp only [written_record]); refine Kept.record ?_ ?_; rotate_left;
          (· first | (dsimp only [prot]; done) | (dsimp only [prot]; (repeat' first | rfl | split); done)))
    | split | dsimp only | intro

theorem keeps_execMdpFinal {z0 : State} (path : Path) (cmd : W32) {s : State} (kp : Kept z0 s) : KeptRes z0 (execMdpFinal
    path cmd s) := by
  unfold execMdpFinal
  repeat' first
    | with_reducible assumption | exact trivial | with_reducible refine KeptRes.next ?_
    | with_reducible apply keeps_mdpAccess | with_reducible apply keeps_mdpFinal | with_reducible apply keeps_pathAccess
    | split | dsimp only | intro

theorem keeps_mdpAbort {z0 : State} (path : Path) (c : W32) {s : State} (kp : Kept z0 s) : Kept z0 (mdpAbort path c s) := by
  unfold mdpAbort
  repeat' first
    | with_reducible assumption | with_reducible apply keeps_mdpOk
    | with_reducible refine keeps_mdpRefused _ (fun _ => rfl) ?_ | with_reducible refine keeps_setMdp _ ?_ rfl
    | (refine Kept.written ?_ ?_; (· simp only [written_record]); refine Kept.record ?_ ?_; rotate_left;
          (· first | (dsimp only [prot]; done) | (dsimp only [prot]; (repeat' first | rfl | split); done)))
    | split | dsimp only | intro

theorem keeps_execMdpAbort {z0 : State} (path : Path) (cmd : W32) {s : State} (kp : Kept z0 s) : KeptRes z0 (execMdpAbort
    path cmd s) := by
  unfold execMdpAbort
  repeat' first
    | with_reducible assumption | exact trivial | with_reducible refine KeptRes.next ?_ | with_reducible apply keeps_mdpAbort
    | with_reducible apply keeps_mdpAccess | with_reducible apply keeps_pathAccess | split | dsimp only | intro

theorem keeps_execCmdInvalid {z0 : State} (word : PathWord) {s : State} (kp : Kept z0 s) : KeptRes z0
    (execCmdInvalid word s) := by
  unfold execCmdInvalid
  repeat' first
    | with_reducible assumption | exact trivial | with_reducible refine KeptRes.next ?_
    | with_reducible apply keeps_pathAccess | with_reducible apply keeps_pathWrite
    | with_reducible refine keeps_setMdp _ ?_ rfl
    | (refine Kept.written ?_ ?_; (· simp only [written_record]); refine Kept.record ?_ ?_; rotate_left;
          (· first | (dsimp only [prot]; done) | (dsimp only [prot]; (repeat' first | rfl | split); done)))
    | split | dsimp only | intro

theorem keeps_execMdpBusyEnd {z0 s : State} (kp : Kept z0 s) : KeptRes z0 (execMdpBusyEnd s) := by
  unfold execMdpBusyEnd
  dsimp only
  split
  · exact kp
  · split
    · exact KeptRes.next (keeps_setMdp _ kp rfl)
    · exact KeptRes.next (keeps_setMdp _ kp rfl)
    · exact KeptRes.next (keeps_setMdp _ kp (by unfold mdpDone mdpExtend; dsimp only; repeat' first | rfl | split))
    · exact KeptRes.next (keeps_mdpKeyRead _ kp)

theorem keeps_execMdpIdleLimit {z0 : State} {s : State} (kp : Kept z0 s) : KeptRes z0 (execMdpIdleLimit s) := by
  unfold execMdpIdleLimit
  repeat' first
    | with_reducible assumption | exact trivial | with_reducible refine KeptRes.next ?_
    | with_reducible refine keeps_setMdp _ ?_ rfl
    | (refine Kept.written ?_ ?_; (· simp only [written_record]); refine Kept.record ?_ ?_; rotate_left;
          (· first | (dsimp only [prot]; done) | (dsimp only [prot]; (repeat' first | rfl | split); done)))
    | split | dsimp only | intro

theorem keeps_execMdpExtLockWrite {z0 : State} (word : PathWord) {s : State} (kp : Kept z0 s) : KeptRes z0
    (execMdpExtLockWrite word s) := by
  unfold execMdpExtLockWrite
  repeat' first
    | with_reducible assumption | exact trivial | with_reducible refine KeptRes.next ?_
    | with_reducible apply keeps_lockedWrite | with_reducible apply keeps_pathAccess | with_reducible apply keeps_pathWrite
    | with_reducible refine keeps_setMdp _ ?_ rfl
    | (refine Kept.written ?_ ?_; (· simp only [written_record]); refine Kept.record ?_ ?_; rotate_left;
          (· first | (dsimp only [prot]; done) | (dsimp only [prot]; (repeat' first | rfl | split); done)))
    | split | dsimp only | intro

theorem keeps_execMdpResultRead {z0 : State} (path : Path) (index : Nat) {s : State} (kp : Kept z0 s) : KeptRes z0
    (execMdpResultRead path index s) := by
  unfold execMdpResultRead
  repeat' first
    | with_reducible assumption | exact trivial | with_reducible refine KeptRes.next ?_ | with_reducible apply keeps_emit
    | with_reducible apply keeps_mdpAccess | with_reducible apply keeps_pathAccess
    | with_reducible refine keeps_setMdp _ ?_ rfl
    | (refine Kept.written ?_ ?_; (· simp only [written_record]); refine Kept.record ?_ ?_; rotate_left;
          (· first | (dsimp only [prot]; done) | (dsimp only [prot]; (repeat' first | rfl | split); done)))
    | split | dsimp only | intro

theorem keeps_latchHi {z0 : State} {s : State} (path : Path) (off : Nat) (n : Nat) (kp : Kept z0 s) : Kept z0 (latchHi s
    path off n) := by
  unfold latchHi
  repeat' first
    | with_reducible assumption
    | (refine Kept.written ?_ ?_; (· simp only [written_record]); refine Kept.record ?_ ?_; rotate_left;
          (· first | (dsimp only [prot]; done) | (dsimp only [prot]; (repeat' first | rfl | split); done)))
    | split | dsimp only | intro

theorem keeps_lockedWrite {z0 : State} {s : State} (kp : Kept z0 s) : Kept z0 (lockedWrite s) := by
  unfold lockedWrite
  repeat' first
    | with_reducible assumption
    | (refine Kept.written ?_ ?_; (· simp only [written_record]); refine Kept.record ?_ ?_; rotate_left;
          (· first | (dsimp only [prot]; done) | (dsimp only [prot]; (repeat' first | rfl | split); done)))
    | dsimp only | intro

theorem keeps_setGlb {z0 s : State} (g : Glb) (kp : Kept z0 s)
    (hg : (g.cadSel, g.gridSel, g.partSel) = (s.glb.cadSel, s.glb.gridSel, s.glb.partSel)) : Kept z0 (setGlb s g) := by
  simp only [Prod.mk.injEq] at hg
  exact kp.upd (by dsimp only [setGlb, prot]; rw [hg.1, hg.2.1, hg.2.2])

theorem keeps_setStaged {z0 : State} {s : State} (c : CfgImage) (kp : Kept z0 s) : Kept z0 (setStaged s c) := by
  unfold setStaged
  repeat' first
    | with_reducible assumption
    | (refine Kept.written ?_ ?_; (· simp only [written_record]); refine Kept.record ?_ ?_; rotate_left;
          (· first | (dsimp only [prot]; done) | (dsimp only [prot]; (repeat' first | rfl | split); done)))
    | dsimp only | intro

theorem keeps_writeWindow {z0 : State} {s : State} (off : Nat) (v : W32) (kp : Kept z0 s) : Kept z0 (writeWindow s off v) := by
  unfold writeWindow
  repeat' first
    | with_reducible assumption | with_reducible apply keeps_setStaged
    | (refine Kept.written ?_ ?_; (· simp only [written_record]); refine Kept.record ?_ ?_; rotate_left;
          (· first | (dsimp only [prot]; done) | (dsimp only [prot]; (repeat' first | rfl | split); done)))
    | split | dsimp only | intro

theorem keeps_writeGlb {z0 s : State} (off : Nat) (v : W32) (kp : Kept z0 s) : Kept z0 (writeGlb s off v) := by
  unfold writeGlb
  repeat' first
    | with_reducible assumption
    | (exact kp.registers rfl (fun r => ⟨r.1, r.2, r.3, r.4, r.5, r.6, part_lt _ _ _, r.8, r.9, r.10, r.11⟩))
    | (exact kp.registers rfl (fun r => ⟨r.1, r.2, r.3, r.4, r.5, r.6, r.7, part_lt _ _ _, r.9, r.10, r.11⟩))
    | (exact kp.registers rfl (fun r => ⟨r.1, r.2, r.3, r.4, r.5, r.6, r.7, r.8, part_lt _ _ _, r.10, r.11⟩))
    | with_reducible refine keeps_setGlb _ ?_ rfl | with_reducible apply keeps_setStaged
    | with_reducible apply keeps_lockedWrite | with_reducible apply keeps_updRing | with_reducible apply keeps_writeWindow
    | with_reducible refine Kept.foldl (fun _ _ _ => ?_) _ ?_
    | (refine Kept.written ?_ ?_; (· simp only [written_record]); refine Kept.record ?_ ?_; rotate_left;
          (· first | (dsimp only [prot]; done) | (dsimp only [prot]; (repeat' first | rfl | split); done)))
    | split | dsimp only | intro

theorem keeps_writePort {z0 : State} {s : State} (k : Nat) (off : Nat) (v : W32) (kp : Kept z0 s) : Kept z0 (writePort s k
    off v) := by
  unfold writePort
  repeat' first
    | with_reducible assumption | with_reducible apply keeps_lockedWrite | with_reducible apply keeps_setPort
    | (refine Kept.written ?_ ?_; (· simp only [written_record]); refine Kept.record ?_ ?_; rotate_left;
          (· first | (dsimp only [prot]; done) | (dsimp only [prot]; (repeat' first | rfl | split); done)))
    | split | dsimp only | intro

theorem keeps_writeLink {z0 : State} {s : State} (off : Nat) (v : W32) (kp : Kept z0 s) : Kept z0 (writeLink s off v) := by
  unfold writeLink
  repeat' first
    | with_reducible assumption | with_reducible apply keeps_setStaged
    | (refine Kept.written ?_ ?_; (· simp only [written_record]); refine Kept.record ?_ ?_; rotate_left;
          (· first | (dsimp only [prot]; done) | (dsimp only [prot]; (repeat' first | rfl | split); done)))
    | split | dsimp only | intro

theorem keeps_writeMdp {z0 s : State} (off : Nat) (v : W32) (kp : Kept z0 s) : Kept z0 (writeMdp s off v) := by
  unfold writeMdp
  repeat' first
    | with_reducible assumption
    | (exact kp.registers rfl (fun r => ⟨r.1, r.2, r.3, r.4, r.5, r.6, r.7, r.8, r.9, part_lt _ _ _, r.11⟩))
    | with_reducible refine keeps_setMdp _ ?_ rfl | with_reducible refine Kept.foldl (fun _ _ _ => ?_) _ ?_
    | (refine Kept.written ?_ ?_; (· simp only [written_record]); refine Kept.record ?_ ?_; rotate_left;
          (· first | (dsimp only [prot]; done) | (dsimp only [prot]; (repeat' first | rfl | split); done)))
    | split | dsimp only | intro

theorem keeps_writeEnt {z0 s : State} (off : Nat) (v : W32) (kp : Kept z0 s) : Kept z0 (writeEnt s off v) := by
  unfold writeEnt
  repeat' first
    | with_reducible assumption
    | (exact kp.registers rfl (fun r => ⟨r.1, r.2, r.3, part_lt _ _ _, r.5, r.6, r.7, r.8, r.9, r.10, r.11⟩))
    | (exact kp.registers rfl (fun r => ⟨r.1, by dsimp only; omega, r.3, r.4, r.5, r.6, r.7, r.8, r.9, r.10, r.11⟩))
    | with_reducible apply keeps_settleEntropy | with_reducible apply keeps_lockedWrite
    | with_reducible apply keeps_setStaged | with_reducible refine Kept.foldl (fun _ _ _ => ?_) _ ?_
    | (refine Kept.written ?_ ?_; (· simp only [written_record]); refine Kept.record ?_ ?_; rotate_left;
          (· first | (dsimp only [prot]; done) | (dsimp only [prot]; (repeat' first | rfl | split); done)))
    | split | dsimp only | intro

theorem keeps_writeMbx {z0 s : State} (off : Nat) (v : W32) (kp : Kept z0 s) : Kept z0 (writeMbx s off v) := by
  unfold writeMbx
  repeat' first
    | with_reducible assumption
    | (exact kp.registers rfl (fun r => ⟨by dsimp only; omega, r.2, r.3, r.4, r.5, r.6, r.7, r.8, r.9, r.10, r.11⟩))
    | with_reducible apply keeps_lockedWrite | with_reducible refine Kept.foldl (fun _ _ _ => ?_) _ ?_
    | (refine Kept.written ?_ ?_; (· simp only [written_record]); refine Kept.record ?_ ?_; rotate_left;
          (· first | (dsimp only [prot]; done) | (dsimp only [prot]; (repeat' first | rfl | split); done)))
    | split | dsimp only | intro

theorem keeps_writePwr {z0 : State} {s : State} (off : Nat) (v : W32) (kp : Kept z0 s) : Kept z0 (writePwr s off v) := by
  unfold writePwr
  repeat' first
    | with_reducible assumption
    | (refine Kept.written ?_ ?_; (· simp only [written_record]); refine Kept.record ?_ ?_; rotate_left;
          (· first | (dsimp only [prot]; done) | (dsimp only [prot]; (repeat' first | rfl | split); done)))
    | split | dsimp only | intro

theorem keeps_writeTmp {z0 s : State} (off : Nat) (v : W32) (kp : Kept z0 s) : Kept z0 (writeTmp s off v) := by
  unfold writeTmp
  repeat' first
    | with_reducible assumption
    | (exact kp.registers rfl (fun r => ⟨r.1, r.2, r.3, r.4, part_lt _ _ _, r.6, r.7, r.8, r.9, r.10, r.11⟩))
    | with_reducible refine Kept.foldl (fun _ _ _ => ?_) _ ?_
    | (refine Kept.written ?_ ?_; (· simp only [written_record]); refine Kept.record ?_ ?_; rotate_left;
          (· first | (dsimp only [prot]; done) | (dsimp only [prot]; (repeat' first | rfl | split); done)))
    | split | dsimp only | intro

theorem keeps_writeBst {z0 s : State} (off : Nat) (v : W32) (kp : Kept z0 s) : Kept z0 (writeBst s off v) := by
  unfold writeBst
  repeat' first
    | with_reducible assumption
    | (exact kp.registers rfl (fun r => ⟨r.1, r.2, r.3, r.4, r.5, part_lt _ _ _, r.7, r.8, r.9, r.10, r.11⟩))
    | (exact kp.registers rfl (fun r => ⟨r.1, r.2, by have := r.3; dsimp only; split <;> omega, r.4, r.5, r.6, r.7, r.8, r.9, r.10, r.11⟩))
    | with_reducible refine Kept.foldl (fun _ _ _ => ?_) _ ?_
    | (refine Kept.written ?_ ?_; (· simp only [written_record]); refine Kept.record ?_ ?_; rotate_left;
          (· first | (dsimp only [prot]; done) | (dsimp only [prot]; (repeat' first | rfl | split); done)))
    | split | dsimp only | intro

theorem keeps_writeReg {z0 : State} {s : State} (off : Nat) (v : W32) (kp : Kept z0 s) : Kept z0 (writeReg s off v) := by
  unfold writeReg
  repeat' first
    | with_reducible assumption | with_reducible apply keeps_writeBst | with_reducible apply keeps_writeEnt
    | with_reducible apply keeps_writeGlb | with_reducible apply keeps_writeLink | with_reducible apply keeps_writeMbx
    | with_reducible apply keeps_writeMdp | with_reducible apply keeps_writePort | with_reducible apply keeps_writePwr
    | with_reducible apply keeps_writeTmp | split | dsimp only | intro

theorem keeps_execRegisterWrite {z0 : State} (place : RegPlace) (value : W32) {s : State} (kp : Kept z0 s) :
    KeptRes z0 (execRegisterWrite place value s) := by
  unfold execRegisterWrite
  repeat' first
    | with_reducible assumption | exact trivial | with_reducible refine KeptRes.next ?_
    | with_reducible apply keeps_pathAccess | with_reducible apply keeps_pathWrite | with_reducible apply keeps_writeReg
    | split | dsimp only | intro

theorem keeps_busError {z0 : State} {s : State} (off : Nat) (kp : Kept z0 s) : Kept z0 (busError s off) := by
  unfold busError
  repeat' first
    | with_reducible assumption | with_reducible apply keeps_emit | with_reducible apply keeps_mdpMisuse
    | (refine Kept.written ?_ ?_; (· simp only [written_record]); refine Kept.record ?_ ?_; rotate_left;
          (· first | (dsimp only [prot]; done) | (dsimp only [prot]; (repeat' first | rfl | split); done)))
    | split | dsimp only | intro

theorem keeps_execBadRegisterAccess {z0 : State} (offset : Nat) (shape : AccessShape) {s : State} (kp : Kept z0 s) : KeptRes
    z0 (execBadRegisterAccess offset shape s) := by
  unfold execBadRegisterAccess
  repeat' first
    | with_reducible assumption | exact trivial | with_reducible refine KeptRes.next ?_ | with_reducible apply keeps_busError
    | with_reducible apply keeps_guardAnswer | with_reducible apply keeps_portAccess | split | dsimp only | intro

theorem keeps_execLoRegisterRead {z0 : State} (path : Path) (offset : Nat) {s : State} (kp : Kept z0 s) : KeptRes z0
    (execLoRegisterRead path offset s) := by
  unfold execLoRegisterRead
  repeat' first
    | with_reducible assumption | exact trivial | with_reducible refine KeptRes.next ?_ | with_reducible apply keeps_emit
    | with_reducible apply keeps_latchHi | with_reducible apply keeps_mdpAccess | with_reducible apply keeps_pathAccess
    | (refine Kept.written ?_ ?_; (· simp only [written_record]); refine Kept.record ?_ ?_; rotate_left;
          (· first | (dsimp only [prot]; done) | (dsimp only [prot]; (repeat' first | rfl | split); done)))
    | split | dsimp only | intro

theorem keeps_execFeAddrLoRead {z0 : State} (port : Nat) {s : State} (kp : Kept z0 s) : KeptRes z0 (execFeAddrLoRead port s)
    := by
  unfold execFeAddrLoRead
  repeat' first
    | with_reducible assumption | exact trivial | with_reducible refine KeptRes.next ?_ | with_reducible apply keeps_emit
    | with_reducible apply keeps_guardAnswer | with_reducible apply keeps_portAccess | with_reducible apply keeps_setPort
    | (refine Kept.written ?_ ?_; (· simp only [written_record]); refine Kept.record ?_ ?_; rotate_left;
          (· first | (dsimp only [prot]; done) | (dsimp only [prot]; (repeat' first | rfl | split); done)))
    | split | dsimp only | intro

theorem keeps_bindSlice0 {z0 : State} {s : State} (v : W32) (kp : Kept z0 s) : Kept z0 (bindSlice0 s v) := by
  unfold bindSlice0
  repeat' first
    | with_reducible assumption | with_reducible apply keeps_pumpVectors | with_reducible refine keeps_setGlb _ ?_ rfl
    | with_reducible apply keeps_settle
    | (refine Kept.written ?_ ?_; (· simp only [written_record]); refine Kept.record ?_ ?_; rotate_left;
          (· first | (dsimp only [prot]; done) | (dsimp only [prot]; (repeat' first | rfl | split); done)))
    | dsimp only | intro

theorem keeps_execS0BindWrite {z0 : State} (value : W32) {s : State} (kp : Kept z0 s) : KeptRes z0 (execS0BindWrite value s)
    := by
  unfold execS0BindWrite
  repeat' first
    | with_reducible assumption | exact trivial | with_reducible refine KeptRes.next ?_
    | with_reducible apply keeps_bindSlice0 | with_reducible apply keeps_lockedWrite | with_reducible apply keeps_portAccess
    | with_reducible apply keeps_regWrite | split | dsimp only | intro

theorem keeps_execPwrVddMinWrite {z0 : State} (value : W32) {s : State} (kp : Kept z0 s) : KeptRes z0 (execPwrVddMinWrite
    value s) := by
  unfold execPwrVddMinWrite
  repeat' first
    | with_reducible assumption | exact trivial | with_reducible refine KeptRes.next ?_
    | with_reducible apply keeps_portAccess | with_reducible apply keeps_regWrite
    | (refine Kept.written ?_ ?_; (· simp only [written_record]); refine Kept.record ?_ ?_; rotate_left;
          (· first | (dsimp only [prot]; done) | (dsimp only [prot]; (repeat' first | rfl | split); done)))
    | dsimp only | intro

theorem keeps_heldRow {z0 : State} (c : Held) {s : State} (kp : Kept z0 s) : KeptRes z0 (heldRow c s) := by
  unfold heldRow
  repeat' first
    | with_reducible assumption | exact trivial | with_reducible refine KeptRes.next ?_
    | with_reducible apply keeps_execBadRegisterAccess | with_reducible apply keeps_execCadenceStart
    | with_reducible apply keeps_execCadenceStop | with_reducible apply keeps_execCfgCommit
    | with_reducible apply keeps_execCmdInvalid | with_reducible apply keeps_execEntSrcMaskWrite
    | with_reducible apply keeps_execFeAddrLoRead | with_reducible apply keeps_execLoRegisterRead
    | with_reducible apply keeps_execMbxMgmtRestart | with_reducible apply keeps_execMbxReqSubmit
    | with_reducible apply keeps_execMbxRplPop | with_reducible apply keeps_execMdpAbort
    | with_reducible apply keeps_execMdpData | with_reducible apply keeps_execMdpExtLockWrite
    | with_reducible apply keeps_execMdpFinal | with_reducible apply keeps_execMdpResultRead
    | with_reducible apply keeps_execMdpStart | with_reducible apply keeps_execPwrVddMinWrite
    | with_reducible apply keeps_execRegisterWrite | with_reducible apply keeps_execS0BindWrite
    | with_reducible apply keeps_execTbGridDefault | with_reducible apply keeps_execUnfence
    | with_reducible apply keeps_mdpAbort | with_reducible apply keeps_mdpFinal | with_reducible apply keeps_mdpStart
    | (refine Kept.written ?_ ?_; (· simp only [written_record]); refine Kept.record ?_ ?_; rotate_left;
          (· first | (dsimp only [prot]; done) | (dsimp only [prot]; (repeat' first | rfl | split); done)))
    | split | dsimp only | intro

theorem keeps_afterRow {z0 s : State} (c : Held) (kp : Kept z0 s) : Kept z0 (afterRow s c) := by
  have h := keeps_heldRow c kp
  unfold afterRow
  split
  · rename_i e
    rw [e] at h
    exact h
  · exact kp
  · exact kp

theorem keeps_answerHeld {z0 : State} {s : State} (kp : Kept z0 s) : Kept z0 (answerHeld s) := by
  unfold answerHeld
  repeat' first
    | with_reducible assumption | with_reducible apply keeps_afterRow
    | with_reducible refine Kept.foldl (fun _ _ _ => ?_) _ ?_
    | (refine Kept.written ?_ ?_; (· simp only [written_record]); refine Kept.record ?_ ?_; rotate_left;
          (· first | (dsimp only [prot]; done) | (dsimp only [prot]; (repeat' first | rfl | split); done)))
    | dsimp only | intro

theorem keeps_execQuiesceRelease {z0 : State} (port : Nat) {s : State} (kp : Kept z0 s) : KeptRes z0 (execQuiesceRelease
    port s) := by
  unfold execQuiesceRelease
  repeat' first
    | with_reducible assumption | exact trivial | with_reducible refine KeptRes.next ?_
    | with_reducible apply keeps_answerHeld | with_reducible apply keeps_portReturns | with_reducible apply keeps_ringHeld
    | with_reducible apply keeps_setPort | with_reducible refine Kept.foldl (fun _ _ _ => ?_) _ ?_
    | (refine Kept.written ?_ ?_; (· simp only [written_record]); refine Kept.record ?_ ?_; rotate_left;
          (· first | (dsimp only [prot]; done) | (dsimp only [prot]; (repeat' first | rfl | split); done)))
    | split | dsimp only | intro

theorem keeps_stageSlice {z0 : State} {s : State} (c : Creation) (kp : Kept z0 s) : Kept z0 (stageSlice s c) := by
  unfold stageSlice
  repeat' first
    | with_reducible assumption
    | (refine Kept.written ?_ ?_; (· simp only [written_record]); refine Kept.record ?_ ?_; rotate_left;
          (· first | (dsimp only [prot]; done) | (dsimp only [prot]; (repeat' first | rfl | split); done)))
    | split | dsimp only | intro

theorem keeps_creationInput {z0 : State} (q : Req) (io : MbxIo) {s : State} (kp : Kept z0 s) : Kept z0 (creationInput q io
    s).2 := by
  unfold creationInput
  repeat' first
    | with_reducible assumption | with_reducible apply keeps_readInput
    | with_reducible refine keepsE_readInput (by assumption) ?_
    | (refine Kept.written ?_ ?_; (· simp only [written_record]); refine Kept.record ?_ ?_; rotate_left;
          (· first | (dsimp only [prot]; done) | (dsimp only [prot]; (repeat' first | rfl | split); done)))
    | split | dsimp only | intro

theorem keepsE_creationInput {z0 : State} {q : Req} {io : MbxIo} {s : State} {v z1} (he : creationInput q io s = (v, z1))
    (kp : Kept z0 s) : Kept z0 z1 := by
  have h9 := keeps_creationInput (q := q) (io := io) (kp := kp)
  rw [he] at h9; exact h9

theorem keeps_createSlice {z0 : State} (c : Creation) {s : State} (kp : Kept z0 s) : Kept z0 (createSlice c s).2 := by
  unfold createSlice
  repeat' first
    | with_reducible assumption | with_reducible apply keeps_setSlice | with_reducible apply keeps_stageSlice | split
    | dsimp only | intro

theorem keepsE_createSlice {z0 : State} {c : Creation} {s : State} {v z1} (he : createSlice c s = (v, z1)) (kp : Kept z0 s)
    : Kept z0 z1 := by
  have h9 := keeps_createSlice (c := c) (kp := kp)
  rw [he] at h9; exact h9

theorem keeps_execSliceCreate {z0 : State} (io : MbxIo) {s : State} (kp : Kept z0 s) : KeptRes z0 (execSliceCreate io s) := by
  unfold execSliceCreate
  repeat' first
    | with_reducible assumption | exact trivial | with_reducible refine KeptRes.next ?_
    | with_reducible apply keeps_createSlice | with_reducible refine keepsE_createSlice (by assumption) ?_
    | with_reducible apply keeps_creationInput | with_reducible refine keepsE_creationInput (by assumption) ?_
    | with_reducible apply keeps_runMailbox
    | (refine Kept.written ?_ ?_; (· simp only [written_record]); refine Kept.record ?_ ?_; rotate_left;
          (· first | (dsimp only [prot]; done) | (dsimp only [prot]; (repeat' first | rfl | split); done)))
    | split | dsimp only | intro

theorem keeps_execSliceModify {z0 : State} (io : MbxIo) {s : State} (kp : Kept z0 s) : KeptRes z0 (execSliceModify io s) := by
  unfold execSliceModify
  repeat' first
    | with_reducible assumption | exact trivial | with_reducible refine KeptRes.next ?_
    | with_reducible apply keeps_creationInput | with_reducible refine keepsE_creationInput (by assumption) ?_
    | with_reducible apply keeps_runMailbox | with_reducible apply keeps_stageSlice | with_reducible apply keeps_updSlice
    | (refine Kept.written ?_ ?_; (· simp only [written_record]); refine Kept.record ?_ ?_; rotate_left;
          (· first | (dsimp only [prot]; done) | (dsimp only [prot]; (repeat' first | rfl | split); done)))
    | split | dsimp only | intro

theorem keeps_dropVectors {z0 : State} {s : State} (n : Nat) (kp : Kept z0 s) : Kept z0 (dropVectors s n) := by
  unfold dropVectors
  repeat' first
    | with_reducible assumption
    | (refine Kept.written ?_ ?_; (· simp only [written_record]); refine Kept.record ?_ ?_; rotate_left;
          (· first | (dsimp only [prot]; done) | (dsimp only [prot]; (repeat' first | rfl | split); done)))
    | dsimp only | intro

theorem keeps_dropMessages {z0 : State} {s : State} (n : Nat) (kp : Kept z0 s) : Kept z0 (dropMessages s n) := by
  unfold dropMessages
  repeat' first
    | with_reducible assumption | with_reducible apply keeps_dropUnissued | with_reducible apply keeps_dropVectors
    | (refine Kept.written ?_ ?_; (· simp only [written_record]); refine Kept.record ?_ ?_; rotate_left;
          (· first | (dsimp only [prot]; done) | (dsimp only [prot]; (repeat' first | rfl | split); done)))
    | split | dsimp only | intro

theorem keeps_haltSlice {z0 : State} {s : State} (n : Nat) (kp : Kept z0 s) : Kept z0 (haltSlice s n) := by
  unfold haltSlice
  repeat' first
    | with_reducible assumption | with_reducible apply keeps_abandonIntents | with_reducible apply keeps_dropMessages
    | with_reducible apply keeps_stopCadence | with_reducible apply keeps_stopSlice
    | with_reducible refine Kept.foldl (fun _ _ _ => ?_) _ ?_ | dsimp only | intro

theorem keeps_execSliceReset {z0 : State} {s : State} (kp : Kept z0 s) : KeptRes z0 (execSliceReset s) := by
  unfold execSliceReset
  repeat' first
    | with_reducible assumption | exact trivial | with_reducible refine KeptRes.next ?_
    | with_reducible apply keeps_haltSlice | with_reducible apply keeps_runMailbox | with_reducible apply keeps_updSlice
    | (refine Kept.written ?_ ?_; (· simp only [written_record]); refine Kept.record ?_ ?_; rotate_left;
          (· first | (dsimp only [prot]; done) | (dsimp only [prot]; (repeat' first | rfl | split); done)))
    | split | dsimp only | intro

theorem keeps_execSliceResetDone {z0 : State} (slice : Nat) {s : State} (kp : Kept z0 s) : KeptRes z0 (execSliceResetDone
    slice s) := by
  unfold execSliceResetDone
  repeat' first
    | with_reducible assumption | exact trivial | with_reducible refine KeptRes.next ?_
    | with_reducible apply keeps_dropMessages | with_reducible apply keeps_finishParked | with_reducible apply keeps_updRing
    | with_reducible apply keeps_updSlice | with_reducible apply keeps_writeBack
    | with_reducible refine Kept.foldl (fun _ _ _ => ?_) _ ?_
    | (refine Kept.written ?_ ?_; (· simp only [written_record]); refine Kept.record ?_ ?_; rotate_left;
          (· first | (dsimp only [prot]; done) | (dsimp only [prot]; (repeat' first | rfl | split); done)))
    | split | dsimp only | intro

theorem keeps_freeSlice {z0 : State} {s : State} (n : Nat) (kp : Kept z0 s) : Kept z0 (freeSlice s n) := by
  unfold freeSlice
  repeat' first
    | with_reducible assumption | with_reducible apply keeps_setSlice
    | (refine Kept.written ?_ ?_; (· simp only [written_record]); refine Kept.record ?_ ?_; rotate_left;
          (· first | (dsimp only [prot]; done) | (dsimp only [prot]; (repeat' first | rfl | split); done)))
    | dsimp only | intro

theorem keeps_execSliceDestroy {z0 : State} {s : State} (kp : Kept z0 s) : KeptRes z0 (execSliceDestroy s) := by
  unfold execSliceDestroy
  repeat' first
    | with_reducible assumption | exact trivial | with_reducible refine KeptRes.next ?_
    | with_reducible apply keeps_freeSlice | with_reducible apply keeps_haltSlice | with_reducible apply keeps_runMailbox
    | with_reducible apply keeps_updSlice
    | (refine Kept.written ?_ ?_; (· simp only [written_record]); refine Kept.record ?_ ?_; rotate_left;
          (· first | (dsimp only [prot]; done) | (dsimp only [prot]; (repeat' first | rfl | split); done)))
    | split | dsimp only | intro

theorem keeps_execSliceReleaseDone {z0 : State} (slice : Nat) {s : State} (kp : Kept z0 s) : KeptRes z0
    (execSliceReleaseDone slice s) := by
  unfold execSliceReleaseDone
  repeat' first
    | with_reducible assumption | exact trivial | with_reducible refine KeptRes.next ?_
    | with_reducible apply keeps_closeRing | with_reducible apply keeps_finishParked | with_reducible apply keeps_freeSlice
    | with_reducible refine Kept.foldl (fun _ _ _ => ?_) _ ?_ | split | dsimp only | intro

theorem keeps_execSliceQuery {z0 : State} (io : MbxIo) {s : State} (kp : Kept z0 s) : KeptRes z0 (execSliceQuery io s) := by
  unfold execSliceQuery
  repeat' first
    | with_reducible assumption | exact trivial | with_reducible refine KeptRes.next ?_
    | with_reducible apply keeps_runMailbox | with_reducible apply keeps_writeOutput
    | with_reducible refine keepsE_writeOutput (by assumption) ?_
    | (refine Kept.written ?_ ?_; (· simp only [written_record]); refine Kept.record ?_ ?_; rotate_left;
          (· first | (dsimp only [prot]; done) | (dsimp only [prot]; (repeat' first | rfl | split); done)))
    | split | dsimp only | intro

theorem keeps_readContext {z0 : State} {s : State} (r : Nat) (out : ReadOutcome) (kp : Kept z0 s) : Kept z0 (readContext s r
    out).2 := by
  unfold readContext
  repeat' first
    | with_reducible assumption | with_reducible apply keeps_readInput
    | with_reducible refine keepsE_readInput (by assumption) ?_ | split | dsimp only | intro

theorem keepsE_readContext {z0 : State} {s : State} {r : Nat} {out : ReadOutcome} {v z1} (he : readContext s r out = (v,
    z1)) (kp : Kept z0 s) : Kept z0 z1 := by
  have h9 := keeps_readContext (r := r) (out := out) (kp := kp)
  rw [he] at h9; exact h9

theorem keeps_enableRing {z0 : State} {s : State} (r : Nat) (b : Bytes) (kp : Kept z0 s) : Kept z0 (enableRing s r b) := by
  unfold enableRing
  repeat' first
    | with_reducible assumption | with_reducible apply keeps_abandonIntents | with_reducible apply keeps_openRingNow
    | (refine Kept.written ?_ ?_; (· simp only [written_record]); refine Kept.record ?_ ?_; rotate_left;
          (· first | (dsimp only [prot]; done) | (dsimp only [prot]; (repeat' first | rfl | split); done)))
    | dsimp only | intro

theorem keeps_execRingEnable {z0 : State} (io : MbxIo) {s : State} (kp : Kept z0 s) : KeptRes z0 (execRingEnable io s) := by
  unfold execRingEnable
  repeat' first
    | with_reducible assumption | exact trivial | with_reducible refine KeptRes.next ?_
    | with_reducible apply keeps_enableRing | with_reducible apply keeps_readContext
    | with_reducible refine keepsE_readContext (by assumption) ?_ | with_reducible apply keeps_runMailbox
    | (refine Kept.written ?_ ?_; (· simp only [written_record]); refine Kept.record ?_ ?_; rotate_left;
          (· first | (dsimp only [prot]; done) | (dsimp only [prot]; (repeat' first | rfl | split); done)))
    | split | dsimp only | intro

theorem keeps_drainRing {z0 : State} {s : State} (r : Nat) (kp : Kept z0 s) : Kept z0 (drainRing s r) := by
  unfold drainRing
  repeat' first
    | with_reducible assumption | with_reducible apply keeps_sliceFault | with_reducible apply keeps_stopCadence
    | with_reducible apply keeps_stopFetching | with_reducible apply keeps_updRing | with_reducible apply keeps_writeBack
    | (refine Kept.written ?_ ?_; (· simp only [written_record]); refine Kept.record ?_ ?_; rotate_left;
          (· first | (dsimp only [prot]; done) | (dsimp only [prot]; (repeat' first | rfl | split); done)))
    | split | dsimp only | intro

theorem keeps_execRingDisable {z0 : State} {s : State} (kp : Kept z0 s) : KeptRes z0 (execRingDisable s) := by
  unfold execRingDisable
  repeat' first
    | with_reducible assumption | exact trivial | with_reducible refine KeptRes.next ?_
    | with_reducible apply keeps_drainRing | with_reducible apply keeps_runMailbox
    | (refine Kept.written ?_ ?_; (· simp only [written_record]); refine Kept.record ?_ ?_; rotate_left;
          (· first | (dsimp only [prot]; done) | (dsimp only [prot]; (repeat' first | rfl | split); done)))
    | split | dsimp only | intro

theorem keeps_execRingDrainDone {z0 : State} (ring : Nat) {s : State} (kp : Kept z0 s) : KeptRes z0 (execRingDrainDone ring
    s) := by
  unfold execRingDrainDone
  repeat' first
    | with_reducible assumption | exact trivial | with_reducible refine KeptRes.next ?_
    | with_reducible apply keeps_closeRing | split | dsimp only | intro

theorem keeps_walkNotes {z0 : State} {s : State} (c : RingCtx) (w : WalkIo) (kp : Kept z0 s) : Kept z0 (walkNotes s c w) := by
  unfold walkNotes
  repeat' first
    | with_reducible assumption | with_reducible apply keeps_emit | with_reducible refine Kept.foldl (fun _ _ _ => ?_) _ ?_
    | dsimp only | intro

theorem keeps_resumeRing {z0 : State} {s : State} (q : Req) (b : Bytes) (w : WalkIo) (kp : Kept z0 s) : Kept z0 (resumeRing
    s q b w) := by
  unfold resumeRing
  repeat' first
    | with_reducible assumption | with_reducible apply keeps_abandonIntents | with_reducible apply keeps_fetchPump
    | with_reducible apply keeps_openRingNow | with_reducible apply keeps_sequencer | with_reducible apply keeps_setRing
    | with_reducible apply keeps_walkFrom | with_reducible refine keepsE_walkFrom (by assumption) ?_
    | (refine Kept.written ?_ ?_; (· simp only [written_record]); refine Kept.record ?_ ?_; rotate_left;
          (· first | (dsimp only [prot]; done) | (dsimp only [prot]; (repeat' first | rfl | split); done)))
    | split | dsimp only | intro

theorem keeps_execRingResume {z0 : State} (io : MbxIo) (walk : WalkIo) {s : State} (kp : Kept z0 s) : KeptRes z0
    (execRingResume io walk s) := by
  unfold execRingResume
  repeat' first
    | with_reducible assumption | exact trivial | with_reducible refine KeptRes.next ?_
    | with_reducible apply keeps_readContext | with_reducible refine keepsE_readContext (by assumption) ?_
    | with_reducible apply keeps_resumeRing | with_reducible apply keeps_runMailbox | with_reducible apply keeps_walkNotes
    | (refine Kept.written ?_ ?_; (· simp only [written_record]); refine Kept.record ?_ ?_; rotate_left;
          (· first | (dsimp only [prot]; done) | (dsimp only [prot]; (repeat' first | rfl | split); done)))
    | split | dsimp only | intro

theorem keeps_endSegment {z0 : State} {s : State} (j : Job) (kp : Kept z0 s) : Kept z0 (endSegment s j) := by
  unfold endSegment
  repeat' first
    | with_reducible assumption | with_reducible apply keeps_chargeRest | with_reducible apply keeps_countWindow
    | with_reducible apply keeps_endWith | with_reducible apply keeps_failStep | with_reducible apply keeps_freeParts
    | with_reducible apply keeps_issueResults | with_reducible refine keepsE_issueResults (by assumption) ?_
    | with_reducible apply keeps_makeReady
    | (refine Kept.written ?_ ?_; (· simp only [written_record]); refine Kept.record ?_ ?_; rotate_left;
          (· first | (dsimp only [prot]; done) | (dsimp only [prot]; (repeat' first | rfl | split); done)))
    | split | dsimp only | intro

theorem keeps_execEngineFinish {z0 : State} (job : Nat) (second : Bool) {s : State} (kp : Kept z0 s) : KeptRes z0
    (execEngineFinish job second s) := by
  unfold execEngineFinish
  repeat' first
    | with_reducible assumption | exact trivial | with_reducible refine KeptRes.next ?_
    | with_reducible apply keeps_afterRelease | with_reducible apply keeps_setJob
    | (refine Kept.written ?_ ?_; (· simp only [written_record]); refine Kept.record ?_ ?_; rotate_left;
          (· first | (dsimp only [prot]; done) | (dsimp only [prot]; (repeat' first | rfl | split); done)))
    | split | dsimp only | intro

theorem keeps_countOverrun {z0 : State} {s : State} (r : Released) (kp : Kept z0 s) : Kept z0 (countOverrun s r) := by
  unfold countOverrun
  repeat' first
    | with_reducible assumption
    | (refine Kept.written ?_ ?_; (· simp only [written_record]); refine Kept.record ?_ ?_; rotate_left;
          (· first | (dsimp only [prot]; done) | (dsimp only [prot]; (repeat' first | rfl | split); done)))
    | split | dsimp only | intro

theorem keeps_releaseFirst {z0 : State} {s : State} (j : Job) (kp : Kept z0 s) : Kept z0 (releaseFirst s j).1 := by
  unfold releaseFirst
  repeat' first
    | with_reducible assumption | with_reducible apply keeps_countOverrun
    | (refine Kept.written ?_ ?_; (· simp only [written_record]); refine Kept.record ?_ ?_; rotate_left;
          (· first | (dsimp only [prot]; done) | (dsimp only [prot]; (repeat' first | rfl | split); done)))
    | split | dsimp only | intro

theorem keepsE_releaseFirst {z0 : State} {s : State} {j : Job} {v z1} (he : releaseFirst s j = (z1, v)) (kp : Kept z0 s) :
    Kept z0 z1 := by
  have h9 := keeps_releaseFirst (j := j) (kp := kp)
  rw [he] at h9; exact h9

theorem keepsE3_releaseFirst {z0 : State} {s : State} {j : Job} {v w z1} (he : releaseFirst s j = (z1, v, w)) (kp : Kept z0
    s) : Kept z0 z1 := by
  have h9 := keeps_releaseFirst (j := j) (kp := kp)
  rw [he] at h9; exact h9

theorem keeps_releaseSecond {z0 : State} {s : State} (j : Job) (kp : Kept z0 s) : Kept z0 (releaseSecond s j).1 := by
  unfold releaseSecond
  repeat' first
    | with_reducible assumption | with_reducible apply keeps_countOverrun
    | (refine Kept.written ?_ ?_; (· simp only [written_record]); refine Kept.record ?_ ?_; rotate_left;
          (· first | (dsimp only [prot]; done) | (dsimp only [prot]; (repeat' first | rfl | split); done)))
    | split | dsimp only | intro

theorem keepsE_releaseSecond {z0 : State} {s : State} {j : Job} {v z1} (he : releaseSecond s j = (z1, v)) (kp : Kept z0 s)
    : Kept z0 z1 := by
  have h9 := keeps_releaseSecond (j := j) (kp := kp)
  rw [he] at h9; exact h9

theorem keepsE3_releaseSecond {z0 : State} {s : State} {j : Job} {v w z1} (he : releaseSecond s j = (z1, v, w)) (kp : Kept
    z0 s) : Kept z0 z1 := by
  have h9 := keeps_releaseSecond (j := j) (kp := kp)
  rw [he] at h9; exact h9

theorem keeps_execGridRelease {z0 : State} (job : Nat) {s : State} (kp : Kept z0 s) : KeptRes z0 (execGridRelease job s) := by
  unfold execGridRelease
  repeat' first
    | with_reducible assumption | exact trivial | with_reducible refine KeptRes.next ?_
    | with_reducible apply keeps_afterRelease | with_reducible apply keeps_releaseFirst
    | with_reducible refine keepsE_releaseFirst (by assumption) ?_
    | with_reducible refine keepsE3_releaseFirst (by assumption) ?_ | with_reducible apply keeps_releaseSecond
    | with_reducible refine keepsE_releaseSecond (by assumption) ?_
    | with_reducible refine keepsE3_releaseSecond (by assumption) ?_ | with_reducible apply keeps_setJob
    | (refine Kept.written ?_ ?_; (· simp only [written_record]); refine Kept.record ?_ ?_; rotate_left;
          (· first | (dsimp only [prot]; done) | (dsimp only [prot]; (repeat' first | rfl | split); done)))
    | split | dsimp only | intro

theorem keeps_endSeal {z0 : State} {s : State} (n : Nat) (kp : Kept z0 s) : Kept z0 (endSeal s n) := by
  unfold endSeal
  repeat' first
    | with_reducible assumption | with_reducible apply keeps_pumpGrants | with_reducible apply keeps_readAnswered
    | with_reducible apply keeps_storePump | with_reducible apply keeps_storeWant | with_reducible apply keeps_updPart
    | (refine Kept.written ?_ ?_; (· simp only [written_record]); refine Kept.record ?_ ?_; rotate_left;
          (· first | (dsimp only [prot]; done) | (dsimp only [prot]; (repeat' first | rfl | split); done)))
    | split | dsimp only | intro

theorem keeps_execSegmentEnd {z0 : State} (kind : Engine) (part : Nat) {s : State} (kp : Kept z0 s) : KeptRes z0
    (execSegmentEnd kind part s) := by
  unfold execSegmentEnd
  repeat' first
    | with_reducible assumption | exact trivial | with_reducible refine KeptRes.next ?_ | with_reducible apply keeps_endSeal
    | with_reducible apply keeps_endSegment
    | (refine Kept.written ?_ ?_; (· simp only [written_record]); refine Kept.record ?_ ?_; rotate_left;
          (· first | (dsimp only [prot]; done) | (dsimp only [prot]; (repeat' first | rfl | split); done)))
    | split | dsimp only | intro

theorem keeps_attachStore {z0 : State} {s : State} (a : Attach) (kp : Kept z0 s) : Kept z0 (attachStore s a) := by
  unfold attachStore
  repeat' first
    | with_reducible assumption | with_reducible apply keeps_archiveAgain | with_reducible apply keeps_storeWant
    | (refine Kept.written ?_ ?_; (· simp only [written_record]); refine Kept.record ?_ ?_; rotate_left;
          (· first | (dsimp only [prot]; done) | (dsimp only [prot]; (repeat' first | rfl | split); done)))
    | split | dsimp only | intro

theorem keeps_execStoreAttach {z0 : State} (io : MbxIo) {s : State} (kp : Kept z0 s) : KeptRes z0 (execStoreAttach io s) := by
  unfold execStoreAttach
  repeat' first
    | with_reducible assumption | exact trivial | with_reducible refine KeptRes.next ?_
    | with_reducible apply keeps_attachStore | with_reducible apply keeps_readInput
    | with_reducible refine keepsE_readInput (by assumption) ?_ | with_reducible apply keeps_runMailbox
    | (refine Kept.written ?_ ?_; (· simp only [written_record]); refine Kept.record ?_ ?_; rotate_left;
          (· first | (dsimp only [prot]; done) | (dsimp only [prot]; (repeat' first | rfl | split); done)))
    | split | dsimp only | intro

theorem keeps_abortOpen {z0 : State} {s : State} (sub : Nat) (kp : Kept z0 s) : Kept z0 (abortOpen s sub) := by
  unfold abortOpen
  repeat' first
    | with_reducible assumption | with_reducible apply keeps_abortBatch | with_reducible apply keeps_abortGathering | split
    | dsimp only | intro

theorem keeps_detachStore {z0 : State} {s : State} (kp : Kept z0 s) : Kept z0 (detachStore s) := by
  unfold detachStore
  repeat' first
    | with_reducible assumption | with_reducible apply keeps_abortOpen
    | (refine Kept.written ?_ ?_; (· simp only [written_record]); refine Kept.record ?_ ?_; rotate_left;
          (· first | (dsimp only [prot]; done) | (dsimp only [prot]; (repeat' first | rfl | split); done)))
    | dsimp only | intro

theorem keeps_execStoreDetach {z0 : State} {s : State} (kp : Kept z0 s) : KeptRes z0 (execStoreDetach s) := by
  unfold execStoreDetach
  repeat' first
    | with_reducible assumption | exact trivial | with_reducible refine KeptRes.next ?_
    | with_reducible apply keeps_detachStore | with_reducible apply keeps_runMailbox | split | dsimp only | intro

theorem keeps_execStoreStatus {z0 : State} (io : MbxIo) {s : State} (kp : Kept z0 s) : KeptRes z0 (execStoreStatus io s) := by
  unfold execStoreStatus
  repeat' first
    | with_reducible assumption | exact trivial | with_reducible refine KeptRes.next ?_
    | with_reducible apply keeps_reportBlock | with_reducible refine keepsE_reportBlock (by assumption) ?_
    | with_reducible apply keeps_runMailbox | dsimp only | intro

theorem keeps_startFormat {z0 : State} {s : State} (kp : Kept z0 s) : Kept z0 (startFormat s) := by
  unfold startFormat
  repeat' first
    | with_reducible assumption | with_reducible apply keeps_abortOpen | with_reducible apply keeps_enqueue
    | (refine Kept.written ?_ ?_; (· simp only [written_record]); refine Kept.record ?_ ?_; rotate_left;
          (· first | (dsimp only [prot]; done) | (dsimp only [prot]; (repeat' first | rfl | split); done)))
    | dsimp only | intro

theorem keeps_execStoreFormat {z0 : State} {s : State} (kp : Kept z0 s) : KeptRes z0 (execStoreFormat s) := by
  unfold execStoreFormat
  repeat' first
    | with_reducible assumption | exact trivial | with_reducible refine KeptRes.next ?_
    | with_reducible apply keeps_runMailbox | with_reducible apply keeps_startFormat | split | dsimp only | intro

theorem keeps_execStoreSnapshot {z0 : State} (io : MbxIo) (content : Bytes) {s : State} (kp : Kept z0 s) : KeptRes z0
    (execStoreSnapshot io content s) := by
  unfold execStoreSnapshot
  repeat' first
    | with_reducible assumption | exact trivial | with_reducible refine KeptRes.next ?_
    | with_reducible apply keeps_readInput | with_reducible refine keepsE_readInput (by assumption) ?_
    | with_reducible apply keeps_runMailbox | with_reducible apply keeps_writeOutput
    | with_reducible refine keepsE_writeOutput (by assumption) ?_
    | (refine Kept.written ?_ ?_; (· simp only [written_record]); refine Kept.record ?_ ?_; rotate_left;
          (· first | (dsimp only [prot]; done) | (dsimp only [prot]; (repeat' first | rfl | split); done)))
    | split | dsimp only | intro

theorem keeps_storeTree {z0 : State} {s : State} (r : KeyRec) (m : Bytes) (h : Nat) (l : Nat) (kp : Kept z0 s) : Kept z0
    (storeTree s r m h l) := by
  unfold storeTree
  repeat' first
    | with_reducible assumption | with_reducible apply keeps_changeObjects | with_reducible apply keeps_joinBatch
    | (refine Kept.written ?_ ?_; (· simp only [written_record]); refine Kept.record ?_ ?_; rotate_left;
          (· first | (dsimp only [prot]; done) | (dsimp only [prot]; (repeat' first | rfl | split); done)))
    | dsimp only | intro

theorem keeps_endBuild {z0 : State} {s : State} (b : TreeBuild) (n : Nat) (kp : Kept z0 s) : Kept z0 (endBuild s b n) := by
  unfold endBuild
  repeat' first
    | with_reducible assumption | with_reducible apply keeps_abandonBuild | with_reducible apply keeps_findRecord
    | with_reducible refine keepsE_findRecord (by assumption) ?_ | with_reducible apply keeps_freeBuildLane
    | with_reducible apply keeps_setBuilds | with_reducible apply keeps_storeTree
    | (refine Kept.written ?_ ?_; (· simp only [written_record]); refine Kept.record ?_ ?_; rotate_left;
          (· first | (dsimp only [prot]; done) | (dsimp only [prot]; (repeat' first | rfl | split); done)))
    | split | dsimp only | intro

theorem keeps_execTreeBuildDone {z0 : State} (handle : Nat) (layer : Nat) {s : State} (kp : Kept z0 s) : KeptRes z0
    (execTreeBuildDone handle layer s) := by
  unfold execTreeBuildDone
  repeat' first
    | with_reducible assumption | exact trivial | with_reducible refine KeptRes.next ?_ | with_reducible apply keeps_endBuild
    | with_reducible apply keeps_noteWork
    | (refine Kept.written ?_ ?_; (· simp only [written_record]); refine Kept.record ?_ ?_; rotate_left;
          (· first | (dsimp only [prot]; done) | (dsimp only [prot]; (repeat' first | rfl | split); done)))
    | split | dsimp only | intro

end Sys2Proof.Machine
end

