-- ==== Sys2Proof/WellFormed.lean ====
section
/-! DEFINITION. Which commands are well formed: every operand lies in the range that the boundary gives it. The commands name
ports, tags, rings, links, slices, parts, sensors and slots by number; a number that names nothing there is refused here. -/
namespace Sys2Proof

/-- A part of an engine kind (R159). -/
def partOk (k : Engine) (n : Nat) : Bool := decide (n < Machine.engCount k)
/-- A core-wide part; the boundary's datapath is that of one of 16 ports or of the register port (R547). -/
def corePartOk : CorePart → Bool
  | .boundary (some port) => decide (port < 16)
  | .boundary none | .keyStore | .ledger | .entropy | .management => true
/-- A supply reading fits the 16 bits of PWR_RAIL0 and PWR_RAIL1 (R588). -/
def millivolts (mv : Nat) : Bool := decide (mv < 2 ^ 16)
/-- What a read inside a step may bring: at most the 64 KiB of the largest mailbox input (R489). -/
def readOk : ReadOutcome → Bool
  | .ok data => decide (data.length ≤ 65536)
  | .bad _ | .event => true
/-- Host memory as a mailbox command meets it. -/
def ioOk (io : MbxIo) : Bool := readOk io.read
/-- The walk of a ring: slots of a ring of at most 2^16 entries, descriptors of 64 bytes, completions of 32 or 64 (R108). -/
def walkOk (w : WalkIo) : Bool :=
  w.descriptors.all (fun d => decide (d.1 < 2 ^ 16) && d.2.length == 64) &&
  w.completions.all (fun c => decide (c.1 < 2 ^ 16) && (c.2.length == 32 || c.2.length == 64))
/-- A sample of the sensor hub: four rails, 16 temperatures, 16 clocks (R493). -/
def sampleOk (x : Sample) : Bool :=
  [x.vdd, x.vddm, x.vaon, x.vbat].all millivolts && x.temps.length == 16 && x.clocks.length == 16

/-- The command's operands lie in their ranges. -/
def Instr.wf : Instr → Bool
  | .fabricReadResponse port tag _ data => decide (port < 16) && decide (tag < 64) && decide (data.length ≤ 4096)
  | .fabricWriteResponse port tag _ => decide (port < 16) && decide (tag < 64)
  | .faultEvent port _ => decide (port < 16)
  | .snoopNotification port line => decide (port < 16) && decide (line < 2 ^ 64) && line % 64 == 0
  | .pollIntervalExpiry ring => decide (ring < 4096)
  | .poolPollExpiry ring => decide (ring < 4096)
  | .jobDispatch kind part => partOk kind part
  | .segmentEnd kind part => partOk kind part
  | .coalesceTimeout ring => decide (ring < 4096)
  | .contextWritebackTimer ring => decide (ring < 4096)
  | .agentDoorbell link ring _ => decide (link < 256) && decide (ring < 4096)
  | .completionNoticeTaken link => decide (link < 256)
  | .quiesceRequest port => decide (port < 16)
  | .quiesceRelease port => decide (port < 16)
  | .clockWindowEnd port edges => decide (port < 16) && decide (edges < 2 ^ 32)
  | .unfence port _ => decide (port < 16)
  | .registerWrite place _ => decide (place.offset < 2 ^ 20)
  | .badRegisterAccess offset _ => decide (offset < 2 ^ 20)
  | .loRegisterRead _ offset => decide (offset < 2 ^ 20)
  | .feAddrLoRead port => decide (port < 16)
  | .vddHigh mv => millivolts mv
  | .vaonChangeover mv => millivolts mv
  | .sliceResetDone slice => decide (slice < 256)
  | .sliceReleaseDone slice => decide (slice < 256)
  | .ringDrainDone ring => decide (ring < 4096)
  | .ringResume io walk => ioOk io && walkOk walk
  | .cadenceStart ring => decide (ring < 4096)
  | .cadenceStop ring => decide (ring < 4096)
  | .cadenceOrigin ring => decide (ring < 4096)
  | .periodEnd ring => decide (ring < 4096)
  | .cadenceLost ring => decide (ring < 4096)
  | .cfgCommit _ contexts => contexts.all (fun c => decide (c.1 < 4096) && c.2.length == 256)
  | .commitTakesEffect table => readOk table
  | .treeBuildDone handle layer => decide (handle < 2 ^ 32) && decide (layer < 12)
  | .mdpResultRead _ index => decide (index < 16)
  | .entropyStartupTestEnd source _ => decide (source < 8)
  | .repetitionCountFailure source => decide (source < 8)
  | .adaptiveProportionFailure source => decide (source < 8)
  | .storeSnapshot io content => ioOk io && decide (content.length < 2 ^ 32)
  | .storeResponse rid _ data => decide (rid < 2 ^ 48) && decide (data.length ≤ 4096)
  | .storeTimeout rid => decide (rid < 2 ^ 48)
  | .sensorSample sample => sampleOk sample
  | .selfTestPreconditionMet start => start.sourcesPass.length == 8
  | .partTestStart kind part => partOk kind part
  | .partTestEnd kind part _ => partOk kind part
  | .sheddingLevelDown vdd vddm => millivolts vdd && millivolts vddm
  | .sheddingLevelUp vdd vddm => millivolts vdd && millivolts vddm
  | .lightEvent sensor => decide (sensor < 96)
  | .lightSampleWindow sensors => sensors.all (fun n => decide (n < 96))
  | .lightSensorSelfTest sensor _ => decide (sensor < 96)
  | .sramParityError slice _ => decide (slice < 256)
  | .codewordFault kind part => partOk kind part
  | .stallFault kind part => partOk kind part
  | .coreWidePartFault part => corePartOk part
  | .messageRepeat peer => decide (peer < 8)
  | .sliceCreate io | .sliceModify io | .sliceQuery io | .ringEnable io | .persistStatus io | .logExport io
  | .storeAttach io | .storeStatus io | .updateWrite io | .sensorRead io | .mirrorJoin io | .mirrorTake io
  | .mirrorJournal io | .mirrorStatus io | .joinOffer io | .joinAccept io | .joinRefused io | .leaseRequest io
  | .leaseGrant io | .heartbeat io | .blockRequest io | .blockRecord io | .blockAck io | .blockGrant io | .endLookup io
  | .endReply io | .journalRequest io | .journalEntry io | .time io | .leave io => ioOk io
  | .admission _ | .engineFinish _ _ | .gridRelease _ | .s0BindWrite _ | .pwrVddMinWrite _ | .pwrGoodFall | .rstNAssert _
  | .rstNRelease | .longReset | .maceAssert | .maceRelease | .maceHeldEpisode | .sliceReset | .sliceDestroy | .ringDisable
  | .trefStop | .trefReturn | .tbGridDefault _ | .nop _ | .fence _ | .cbcEnc _ | .cbcDec _ | .cfbEnc _ | .cfbDec _
  | .ofbEnc _ | .ofbDec _ | .ctrEnc _ | .ctrDec _ | .gcmEnc _ | .gcmDec _ | .ccmEnc _ | .ccmDec _ | .xtsEnc _ | .xtsDec _
  | .kwWrap _ | .kwUnwrap _ | .kwpWrap _ | .kwpUnwrap _ | .sha224 _ | .sha256 _ | .sha384 _ | .sha512 _ | .sha512_256 _
  | .sha3_224 _ | .sha3_256 _ | .sha3_384 _ | .sha3_512 _ | .shake128 _ | .shake256 _ | .cshake128 _ | .cshake256 _
  | .kmac128 _ | .kmac256 _ | .kmac128Verify _ | .kmac256Verify _ | .hmacSha224 _ | .hmacSha256 _ | .hmacSha384 _
  | .hmacSha512 _ | .hmacSha512_256 _ | .hmacSha224Verify _ | .hmacSha256Verify _ | .hmacSha384Verify _
  | .hmacSha512Verify _ | .hmacSha512_256Verify _ | .mulacc _ | .mulaccVec _ | .rsaPssSign _ | .rsaV15Sign _
  | .rsaPssVerify _ | .rsaV15Verify _ | .rsaOaepEncrypt _ | .rsaOaepDecrypt _ | .ecdsaSign _ | .ecdsaVerify _ | .ecKeygen _
  | .ecdh _ | .eddsaSign _ | .eddsaVerify _ | .eddsaBatchVerify _ | .eddsaKeygen _ | .xdh _ | .xdhKeygen _ | .curveLoad _
  | .curveUnload _ | .hybridSign _ | .hybridVerify _ | .hybridKeygen _ | .mlkemKeygen _ | .mlkemEncaps _ | .mlkemDecaps _
  | .mldsaKeygen _ | .mldsaSign _ | .mldsaVerify _ | .slhdsaKeygen _ | .slhdsaSign _ | .slhdsaVerify _ | .hykemKeygen _
  | .hykemEncaps _ | .hykemDecaps _ | .hbsSign _ | .hbsVerify _ | .hbsStatus _ | .ordSign _ | .ordQuery _
  | .ordTargetConfig _ | .ordCheck _ | .random _ | .randomPr _ | .reseed _ | .keyWrap _ | .keyUnwrap _ | .keyDerive _
  | .keyDestroy _ | .keyInfo _ | .keyGenerate _ | .transportOffer _ | .attest _ | .enrol _ | .commission _ | .roster _
  | .load _ | .generate _ | .replace _ | .destroy _ | .ackLog _ | .policy _ | .recover _ | .mdpStart _ _ | .mdpData _ _
  | .mdpFinal _ _ | .mdpAbort _ _ | .mdpBusyEnd | .mdpIdleLimit | .mdpExtLockWrite _ | .conditionedBlock _ _
  | .internalReseed | .entSrcMaskWrite _ | .ledgerCommitDone _ _ | .mramRefresh | .poweredTimeMove | .archiveRetry
  | .logRateSecond | .storeDetach | .storeFormat | .batchStart | .mbxReqSubmit _ | .mbxRplPop _ | .unknownCommand | .ping
  | .updateCheck | .updateActivate | .updateAbandon | .mbxMgmtRestart _ | .watchdogExpiry | .pairHalt _ _ _
  | .doubleFault _ _ _ | .lockstepMismatch _ _ | .restartComplete _ | .selfTestTimeout | .rootDraw | .monitorSelfTest _ _
  | .vbatLow | .aonGap | .mirrorLeave | .heartbeatTimeout | .leaseRenewal | .timeRequestTimer | .blockGrantTimeout _
  | .behindHoldTimeout _ | .batteryRemoval | .ledgerCreditGain | .cmdInvalid _ | .leaseExpiry | .grantExpiry
  | .storeInterruptWindow | .mirrorVectorWindow | .mbxHeartbeatIncrement => true

end Sys2Proof
end

