-- ==== Sys2Proof/Tests/Slice0.lean ====
section
/-! SUPPORT. Small tests: ill-formed commands are refused, standards' example values come out, and every hypothesis of the
statements holds in a concrete state, clause by clause. Example values come from the standards that the spec cites. -/
namespace Sys2Proof.Tests
open Sys2Proof.Machine
set_option Elab.async false

/-! ## States -/

/-- A core in service, some time after its start. -/
def up : State :=
  { clock := { now := 10 ^ 12 }
    pwr := { main := .up, rstAsserted := false, coldNext := false, startKind := 1, startDone := true }
    keys := { lifecycle := .service }
    mgmt := { st := .running }
    glb := { s0Bound := true }
    ent := { st := .available, mustReseed := false, katDue := false, buffer := List.replicate 4 (zeros 48), serialEnd := 1024
             drbgs := [(256, { st := .ready, key := zeros 32, v := zeros 16 }), (1, { st := .ready, key := zeros 32, v := zeros 16 })] } }
/-- The same core in SAFE. -/
def inSafe : State := { up with pwr := { up.pwr with main := .safe }, keys := { lifecycle := .safe } }
/-- A submission at one descriptor, its operands read. -/
def jobAt (d : Desc) : Job := { descs := [d], phase := .operands, part := some (.bignum, 0), slice := 1, ring := 2 }
/-- A core with one submission. -/
def withJob (j : Job) : State := { up with jobs := [j] }
/-- A submission at an opcode with a 32-byte source. -/
def opJob (op : Nat) : Job :=
  { jobAt { opcode := op, length := 32, dst := 0x1000 } with
    data := [⟨.src, 0, zeros 32⟩], loaded := some { material := zeros 32 } }
/-- A core whose next mailbox request is this one, with 16 MiB of windows for slice 0. -/
def asked (q : Req) : State :=
  { up with
    mgmt := { up.mgmt with requests := [q] }
    cfg := { cur := { windows := [(0, [{ base := 0, pages := 4096, read := true, write := true }])] } } }
/-- A mailbox command's host memory: these bytes are read, writes succeed. -/
def reads (b : Bytes) : MbxIo := { read := .ok b, write := .ok }
/-- The next request is this one. -/
def startsB (s : State) (code i : Nat) (q : Req) : Bool := mbxNext s == some (i, q) && q.cmd == code && !reportsOnly s
/-- A submission that stands at an opcode. -/
def standsB (s : State) (op id : Nat) (j : Job) : Bool :=
  jobOf s id == some j && canRun s op j && (!valueLater j (stepEff j) || j.value.isSome)

theorem starts_of {s : State} {code i : Nat} {q : Req} (h : startsB s code i q = true) : Starts s code i q := by
  simp [startsB] at h; exact ⟨h.1.1, h.1.2, h.2⟩
theorem stands_of {s : State} {op id : Nat} {j : Job} (h : standsB s op id j = true) : Stands s op id j := by
  simp [standsB] at h; exact ⟨h.1.1, h.1.2, fun k => by rcases h.2 with h | h <;> simp_all⟩

/-! ## Ill-formed commands are refused -/

/-- Host memory whose read brings 64 KiB and one byte, and one that brings none. -/
def longIo : MbxIo := { read := .ok (zeros 65537), write := .ok }
def shortIo : MbxIo := { read := .ok [], write := .ok }
theorem test_wf_boundary : ∀ i ∈ (
    [.fabricReadResponse 16 0 0 [], .fabricReadResponse 0 64 0 [], .fabricReadResponse 0 0 0 (zeros 4097),
     .fabricWriteResponse 16 0 0, .fabricWriteResponse 0 64 0, .faultEvent 16 ⟨0, false, 0, 0, 0, 0, 0⟩, .snoopNotification 16 0,
     .snoopNotification 0 32, .snoopNotification 0 (2 ^ 64), .pollIntervalExpiry 4096, .poolPollExpiry 4096,
     .jobDispatch .pepper 4096, .segmentEnd .pepper 4096, .coalesceTimeout 4096, .contextWritebackTimer 4096,
     .agentDoorbell 256 0 0, .agentDoorbell 0 4096 0, .completionNoticeTaken 256, .quiesceRequest 16, .quiesceRelease 16,
     .clockWindowEnd 16 0, .clockWindowEnd 0 (2 ^ 32), .unfence 16 0, .registerWrite ⟨.pair, (2 ^ 20)⟩ 0,
     .badRegisterAccess (2 ^ 20) .burst, .loRegisterRead .pair (2 ^ 20)] : List Instr), i.wf = false := by decide +kernel
theorem test_wf_registers_and_rings : ∀ i ∈ (
    [.feAddrLoRead 16, .vddHigh 65536, .vaonChangeover 65536, .sliceResetDone 256, .sliceReleaseDone 256, .ringDrainDone 4096,
     .ringResume shortIo ⟨[(65536, zeros 64)], [], none⟩,
     .ringResume shortIo ⟨[(0, zeros 63)], [], none⟩, .ringResume shortIo ⟨[], [(65536, zeros 64)], none⟩,
     .ringResume shortIo ⟨[], [(0, zeros 48)], none⟩, .cadenceStart 4096, .cadenceStop 4096, .cadenceOrigin 4096, .periodEnd 4096,
     .cadenceLost 4096, .cfgCommit 1 [(4096, zeros 256)], .cfgCommit 1 [(0, zeros 255)], 
     .treeBuildDone (2 ^ 32) 0, .treeBuildDone 0 12, .mdpResultRead .regPort 16] : List Instr), i.wf = false := by decide +kernel
theorem test_wf_rest : ∀ i ∈ (
    [.entropyStartupTestEnd 8 true, .repetitionCountFailure 8, .adaptiveProportionFailure 8, 
     .storeResponse (2 ^ 48) 0 [], .storeResponse 0 0 (zeros 4097), .storeTimeout (2 ^ 48),
     .sensorSample ⟨65536, 0, 0, 0, List.replicate 16 0, List.replicate 16 0⟩,
     .sensorSample ⟨0, 0, 0, 65536, List.replicate 16 0, List.replicate 16 0⟩, .sensorSample ⟨0, 0, 0, 0, [], List.replicate 16 0⟩,
     .sensorSample ⟨0, 0, 0, 0, List.replicate 16 0, []⟩, .selfTestPreconditionMet ⟨none, false, [], [], [], true, true⟩,
     .partTestStart .hash 4096, .partTestEnd .hash 4096 true, .sheddingLevelDown 65536 0, .sheddingLevelDown 0 65536,
     .sheddingLevelUp 65536 0, .sheddingLevelUp 0 65536, .lightEvent 96, .lightSampleWindow [95, 96], .lightSensorSelfTest 96 true,
     .sramParityError 256 .scratch, .codewordFault .hash 4096, .stallFault .hash 4096, .coreWidePartFault (.boundary (some 16)),
     .messageRepeat 8] : List Instr), i.wf = false := by decide +kernel
theorem test_long_read : ioOk longIo = false := by decide +kernel
theorem test_wf_mailbox (io : MbxIo) : (
    [.sliceCreate io, .sliceModify io, .sliceQuery io, .ringEnable io, .persistStatus io, .logExport io,
     .storeAttach io, .storeStatus io, .updateWrite io, .sensorRead io, .mirrorJoin io, .mirrorTake io,
     .mirrorJournal io, .mirrorStatus io, .joinOffer io, .joinAccept io, .joinRefused io, .leaseRequest io,
     .leaseGrant io, .heartbeat io, .blockRequest io, .blockRecord io, .blockAck io, .blockGrant io,
     .endLookup io, .endReply io, .journalRequest io, .journalEntry io, .time io,
     .leave io] : List Instr).map Instr.wf =
    List.replicate 30 (ioOk io) := by rfl
theorem test_wf_io (io : MbxIo) (h : ioOk io = false) : (Instr.ringResume io ⟨[], [], none⟩).wf = false ∧ (Instr.storeSnapshot io []).wf = false ∧
    (Instr.commitTakesEffect io.read).wf = false := by
  exact ⟨by simp [Instr.wf, h], by simp [Instr.wf, h], h⟩
/-- The largest operands are well formed, and so is a command without any. -/
theorem test_wf_bounds : ∀ i ∈ ([.fabricReadResponse 15 63 7 (zeros 4096), .snoopNotification 15 (2 ^ 64 - 64), .agentDoorbell 255 4095 0,
    .registerWrite ⟨.regPort, (2 ^ 20 - 1)⟩ 0, .ping, .ringResume shortIo ⟨[(65535, zeros 64)], [(65535, zeros 32)], none⟩, .lightEvent 95,
    .messageRepeat 7, .coreWidePartFault (.boundary none), .coreWidePartFault (.boundary (some 15)), .coreWidePartFault .ledger] :
    List Instr), i.wf = true := by decide +kernel
/-- The table gives no row bits: no word is a command, and none is put in the queue. -/
theorem test_no_words : decodeTableWord 32 0x0101 = none ∧ State.withFetchWord up 32 0x0101 = up := by decide +kernel

/-! ## Example values of the standards that R206, R218 and R225 name -/

/-- FIPS 180-4, the message abc. -/
theorem test_sha256 : sha2 .s256 (ascii "abc") = beBytes 32 0xba7816bf8f01cfea414140de5dae2223b00361a396177a9cb410ff61f20015ad := by
  decide +kernel
/-- FIPS 202, the empty message. -/
theorem test_sha3_256 : beNat (sha3 32 []) = 0xa7ffc6f8bf1ed76651c14756a061d662f580ff4de43b49fa82d80a4b80f8434a := by decide +kernel
/-- FIPS 197, appendix C.3. -/
def keyC3 : Bytes := (List.range 32).map (BitVec.ofNat 8)
theorem test_aes256 : beNat (aesEnc keyC3 (beBytes 16 0x00112233445566778899aabbccddeeff)) = 0x8ea2b7ca516745bfeafc49904b496089 := by
  decide +kernel
/-- The GCM specification, test case 14 (AES-256, key and IV zero, one block of zeros). -/
theorem test_gcm_block : beNat (gcmCtr (zeros 32) (zeros 12) (zeros 16)) = 0xcea7403d4d606b6e074ec5d3baf39d18 ∧
    beNat (gcmTag (zeros 32) (zeros 12) [] (beBytes 16 0xcea7403d4d606b6e074ec5d3baf39d18)) = 0xd0d1c8a799996bf0265b98b5d48ab919 := by
  decide +kernel
/-- RFC 3394, section 4.1: 128 bits of key data with a 128-bit KEK. -/
theorem test_kw : beNat (kwWrap (keyC3.take 16) (beBytes 16 0x00112233445566778899aabbccddeeff)) =
    0x1fa68b0a8112b447aef34bd8fb5a7b829d3e862371d2cfe5 := by decide +kernel

/-! ## Witnesses: queue and opcodes -/

/-- A step with a command waiting, with none, and with none while both supplies of the always-on domain are gone. -/
theorem witness_ticks : up.pending = [] ∧ aonAbsent up = false ∧ up.clock.running = true ∧
    aonAbsent { up with pwr := { up.pwr with vaon := 849, vbat := 1999 } } = true ∧
    aonAbsent { up with pwr := { up.pwr with vaon := 850, vbat := 1999 } } = false ∧
    aonAbsent { up with pwr := { up.pwr with vaon := 849, vbat := 2000 } } = false := by decide +kernel
/-- A core in service is legal, a step takes it on, and so does a command. -/
theorem witness_legal : Legal up :=
  { registers := { watchdog := by decide +kernel, sources := by decide +kernel, testPeriod := by decide +kernel
                   drbgSelect := by decide +kernel, latchSelect := by decide +kernel, testSelect := by decide +kernel
                   cadenceSelect := by decide +kernel, gridSelect := by decide +kernel, partSelect := by decide +kernel
                   measureSelect := by decide +kernel, tamper := by decide +kernel }
    memories := ⟨by decide +kernel, by decide +kernel, by decide +kernel⟩
    channels := fun _ _ => Nat.zero_le _
    replies := Nat.zero_le _ }
theorem witness_step : (∃ t, step up = .next t) ∧ ∃ t, exec .ping up = .next t := ⟨⟨_, rfl⟩, ⟨_, rfl⟩⟩
/-- The first command beyond each absolute maximum, and the last within. -/
theorem witness_ratings : [overRatings (.vddHigh 1001), overRatings (.vddHigh 1000), overRatings (.sheddingLevelDown 800 2001),
    overRatings (.sheddingLevelUp 1000 2000), overRatings (.vaonChangeover 1051), overRatings (.vaonChangeover 1050),
    overRatings .ping] = [true, false, true, false, true, false, false] := by decide +kernel
theorem witness_queue : ({ up with pending := [.ping] } : State).pending = [.ping] := by decide +kernel
theorem witness_stands : ∀ op ∈ bulkRows.map (·.1) ++ wrapRows.map (·.1) ++ digestRows.map (·.1) ++ macRows.map (·.1) ++
    macVerifyRows.map (·.1), standsB (withJob (opJob op)) op 0 (opJob op) = true ∧ (opJob op).loaded.isSome := by decide +kernel
/-- The first write of a step, to memory. -/
theorem witness_bulk_output : (opJob 0x0109).written = 0 ∧ isHandle (dstAddr (opJob 0x0109)) = false ∧
    gcmCtr (zeros 16) (zeros 12) (cipherSource (opJob 0x0109) (stepEff (opJob 0x0109))).2 ≠ [] := by decide +kernel
/-- The same with further parts held, for the hybrid opcodes. -/
def drawJob (op : Nat) : Job := { opJob op with more := [(.saffron, 0), (.lattice, 0), (.bignum, 1), (.hash, 0), (.hash, 1), (.hash, 2), (.hash, 3)] }
theorem witness_drawn : ∀ op ∈ drawnRows.map (·.1), standsB (withJob (drawJob op)) op 0 (drawJob op) = true ∧
    internalReady (withJob (drawJob op)) = true ∧ (withJob (drawJob op)).per.broken = [] := by decide +kernel
/-- An encapsulation that drew before and one that has not: both have their values. -/
theorem witness_random_ready : ∀ e ∈ [[], [(0, 5)]], let j := { drawJob 0x0501 with encaps := e }
    RandomReady (withJob j) j := by
  intro e he _
  exact fun _ => .inr (by simp only [List.mem_cons, List.not_mem_nil, or_false] at he; rcases he with rfl | rfl <;> decide +kernel)
/-- An ECDSA signature under a key of no curve is found wrong; the first clause's check is the free value's. -/
theorem witness_found_wrong : let j := drawJob 0x0410
    ∀ n ∈ [0, 1], (pubWork (withJob j) j (stepEff j) j.loaded n).checked = true ∧ (pubWork (withJob j) j (stepEff j) j.loaded n).wrong = true := by
  decide +kernel
/-- HBS_STATUS has no result that is checked. -/
theorem witness_unchecked : (latWork (withJob (drawJob 0x0603)) (drawJob 0x0603) (stepEff (drawJob 0x0603)) (drawJob 0x0603).loaded 0).checked = false := by
  decide +kernel
/-- Operands of MULACC with W = 32. -/
def accJob : Job :=
  { jobAt { opcode := 0x0300, length := 128, dst := 0x1000 } with
    data := [⟨.src, 0, [3] ++ zeros 31 ++ [5] ++ zeros 31 ++ [7] ++ zeros 63⟩] }
theorem witness_mulacc : standsB (withJob accJob) 0x0300 0 accJob = true ∧ mulaccW (stepEff accJob) = some 32 ∧
    (rangeData accJob .src).length = 4 * 32 ∧ isHandle (dstAddr accJob) = false := by decide +kernel
theorem witness_mulacc_handle :
    let j := { accJob with descs := [{ opcode := 0x0300, length := 128, dst := handleBase }] }
    standsB (withJob j) 0x0300 0 j = true ∧ mulaccW (stepEff j) = some 32 ∧ isHandle (dstAddr j) = true := by decide +kernel
theorem witness_mulacc_vec :
    let j := { accJob with descs := [{ opcode := 0x0301, length := 256, inline := 2, dst := 0x1000 }] }
    standsB (withJob j) 0x0301 0 j = true ∧ mulaccW (stepEff j) = some 32 := by decide +kernel
/-- 3 times 5 plus 7. -/
theorem test_mulacc : (match execMulacc 0 (withJob accJob) with
    | .next t => (t.jobs.map (fun j => (j.out.map (fun w => leNat w.2), j.result, j.ending.status))) | _ => []) =
    [([22], 0, stDone)] := by decide +kernel
/-- A submission of the random family with its instance as given, the internal instance just seeded. -/
def rngJob (op : Nat) : Job := jobAt { opcode := op, length := 32, dst := 0x1000 }
def rngState (op : Nat) (x : DrbgSt) : State :=
  { withJob (rngJob op) with
    ent := { up.ent with drbgs := [(256, { st := .ready, seededAt := 10 ^ 12 }), (1, { st := x, key := zeros 32, v := zeros 16 })] } }
theorem witness_random : ∀ op ∈ [0x0700, 0x0701, 0x0702], standsB (rngState op .ready) op 0 (rngJob op) = true ∧
    entropyDown (rngState op .ready) = false ∧
    (readyInstance (rngState op .ready) (rngJob op) (stepEff (rngJob op))).1.isSome = true := by decide +kernel
theorem witness_random_as_it_is : (drbgOf (rngState 0x0700 .ready) 1).st ≠ .uninstantiated ∧
    wantsReseed (rngState 0x0700 .ready) (rngJob 0x0700) (stepEff (rngJob 0x0700)) = false := by decide +kernel
theorem witness_random_reseed : ∀ op ∈ [0x0701, 0x0702], (drbgOf (rngState op .ready) 1).st ≠ .uninstantiated ∧
    (rngState op .ready).ent.st = .available ∧ internalDue (rngState op .ready) = false ∧ canSeed (rngState op .ready) = true ∧
    wantsReseed (rngState op .ready) (rngJob op) (stepEff (rngJob op)) = true := by decide +kernel
theorem witness_random_first : (drbgOf (rngState 0x0700 .uninstantiated) 1).st = .uninstantiated ∧
    internalDue (rngState 0x0700 .uninstantiated) = false ∧ canSeed (rngState 0x0700 .uninstantiated) = true ∧
    (stepEff (rngJob 0x0700)).opcode = 0x0700 := by decide +kernel
/-- A KUM of the given OP: header, no body, one empty signature entry. -/
def kumText (op : Nat) : Bytes :=
  ascii "PRDKUM01" ++ leBytes 4 256 ++ leBytes 2 1 ++ leBytes 1 op ++ leBytes 1 1 ++ zeros 240 ++ zeros 8
def kumJobOf (op : Nat) : Job :=
  { jobAt { opcode := 0x0808, length := 264 } with part := some (.keyStore, 0), more := [(.saffron, 0)], data := [⟨.src, 0, kumText op⟩] }
theorem witness_kums : ∀ op ∈ kumRows.map (·.1), jobOf (withJob (kumJobOf op)) 0 = some (kumJobOf op) ∧
    canRun (withJob (kumJobOf op)) 0x0808 (kumJobOf op) = true ∧ kumOp (kumBytes (kumJobOf op)) = op ∧
    kumFirst (withJob (kumJobOf op)) (kumJobOf op) = true ∧ kindGone (withJob (kumJobOf op)) .saffron = false := by decide +kernel
/-- A KUM of the given OP under key-administration counter 1: DESTROY of record 1, or GENERATE of an AES key of slice 5 at
record 2, or another that names no record; one signature. -/
def kumHead (op : Nat) : Bytes :=
  ascii "PRDKUM01" ++ leBytes 4 256 ++ leBytes 2 1 ++ leBytes 1 op ++ leBytes 1 1 ++ zeros 48 ++ leBytes 8 1 ++
    (if op = 0x11 then leBytes 4 2 ++ leBytes 2 5 ++ zeros 2 ++ [1, 1, 0, 0] ++ leBytes 4 256 ++ leBytes 2 32 ++ zeros 166
     else leBytes 4 (if op = 0x13 then 1 else 0) ++ zeros 180)
/-- An officer's P-384 key and an ECDSA signature under it of the KUM of an OP, from an own calculation with the equations of
FIPS 186-5; the key is chosen so that s is the digest itself and r a small multiple of it. -/
structure Officer where
  op : Nat
  key : Nat × Nat
  sig : Nat × Nat
def officers : List Officer :=
  [{ op := 0x02
     key := (0x28baab03d8a2b6926407a127ec1e67f2bd51279b1f9df21e3dc713529d4d6495ac1b680f89953498e0fdc101b963355c,
       0xbc58eeac5ece15bca19dd602fe3becc5a50d63132b77c7526773f7062807430432ce4f416f351024b9d9b451b54a2d8a)
     sig := (0x50cf455da257691fcb7b515d5131457e28333f2f87d21581a1950bfd69602cd0bafda55982fc4af939c70c3eb84a93eb,
       0xd433d1576895da47f2ded457544c515f8a0ccfcbe1f485603defbd20d1816d9bb0d2f39c1743905a8022d61fc7a68411) },
   { op := 0x11
     key := (0x2b675cefc8fa109fe5190fff2328f574acc02510483b48f3f12f9a3f7868c3ecf9a7d264564e040559f488dfe7d9ac35,
       0x6a9e5355f03165a15a40ae2bf89098d2ad8691599e039be84c2fa3e4587145e8f95f87d87210efbb2f5bcc85fe05ad2)
     sig := (0xa6a1822ebedafb75025a14a79ea68180fca71c5d8229b3df3d8f4c5cc44701527eaa57ed6befa7387ee40cdb9d8116af,
       0xd350c1175f6d7dba812d0a53cf5340c07e538e2ec114d9ef82794cef5c3f1798eb6232cfda502759b5e8132335232011) },
   { op := 0x13
     key := (0xee5f69c046e3a0c82aca85ee8e969e9384df1896379a3d7ab39f6338aa4be25c0cd5fd14ae51cec49ed7da8b6680bdf4,
       0x3639ff6d10772739f50763d79229cbe099adbb3af3afc10518b63333de922de15f0624e8ca1d881e8218d30860e5f681)
     sig := (0xee199abf8a969d7aff5f7c80201d9f9ffb9b4fa494b6b70b1a5c199cb2ad380573d3b338d704cbbaa1429118d0687e52,
       0xee199abf8a969d7aff5f7c80201d9f9ffb9b4fa494b6b70b1a5c199cb2ad380573d3b338d704cbbaa1429118d0687e52) },
   { op := 0x20
     key := (0x79ae09a934e15e76ca7f1e6bf7a53c2090c1885b7759394aeea1bb3e757cd03d2806eca232ba35cd0950f3e39c514fe5,
       0xeb731b9a33668ef5038738dff9e6c21b6cc1267727ca465193146632b9ce8b697e1562aef555fa7c2eca486c98ebf052)
     sig := (0x90dab5a07659fac1258d7d9ba28b4c2bcac598ed66624d49ea7498bfd32cddabc211219f01b9075b7fd4d6befaad20ae,
       0x90dab5a07659fac1258d7d9ba28b4c2bcac598ed66624d49ea7498bfd32cddabc211219f01b9075b7fd4d6befaad20ae) },
   { op := 0x21
     key := (0xd067351c0f36843dd0a127c4225acbe782b4c057de44f0ba8320f57516709a5c7f99fccc8b8385b6b792c8d80ee7ea25,
       0xa02580a29f0d825de36e498353573a65cfb5cbd0b91236a9a6f8d2a5bd96c5541b6a5a010102cff2803a8efb6c1bb7ce)
     sig := (0xce4588ffec42d997161af4314b05609ac887cec74c959eda5b208605dc158afe0cc48de240550adbd7baf45a1501118e,
       0xce4588ffec42d997161af4314b05609ac887cec74c959eda5b208605dc158afe0cc48de240550adbd7baf45a1501118e) }]
def officerFor (op : Nat) : Officer := (officers.find? (fun o => o.op == op)).getD { op := 0, key := (0, 0), sig := (0, 0) }
def kumSignedText (op : Nat) : Bytes :=
  kumHead op ++ [0, 0, 0, 0] ++ leBytes 4 96 ++ beBytes 48 (officerFor op).sig.1 ++ beBytes 48 (officerFor op).sig.2
/-- A roster of one officer and quorum 1. -/
def rosterWith (o : Officer) : Roster :=
  { st := .active
    image := ascii "PRDROST1" ++ zeros 4 ++ [1, 1] ++ zeros 498 ++ [1, 0, 0, 0] ++ leBytes 4 97 ++ zeros 40 ++
      ([4] ++ beBytes 48 o.key.1 ++ beBytes 48 o.key.2) ++ zeros 1855 }
def signedJob (op : Nat) : Job :=
  { jobAt { opcode := 0x0808, length := 360 } with part := some (.keyStore, 0), more := [(.saffron, 0)], data := [⟨.src, 0, kumSignedText op⟩] }
def officered (op : Nat) : State :=
  { withJob (signedJob op) with
    slices := [(5, { st := .active })]
    keys := { lifecycle := if op = 0x02 then .enrolled else .service, rosterA := rosterWith (officerFor op), records := [(1, {})] } }
/-- These KUMs pass every check: OP 0x02, 0x11, 0x13, 0x20 and 0x21. -/
theorem witness_kum_passes : ∀ o ∈ officers, jobOf (officered o.op) 0 = some (signedJob o.op) ∧
    canRun (officered o.op) 0x0808 (signedJob o.op) = true ∧ kumOp (kumBytes (signedJob o.op)) = o.op ∧
    kumFirst (officered o.op) (signedJob o.op) = true ∧ kindGone (officered o.op) .saffron = false ∧
    (match kumCheck (officered o.op) (signedJob o.op) with
     | (.pass, _, u) => jobOf u 0 == some (signedJob o.op) && internalReady u
     | _ => false) = true := by decide +kernel
/-- Without counter and signature it fails. -/
theorem witness_kum_fails : ∀ op ∈ kumRows.map (·.1), (kumJobOf op).repeats = none ∧
    (match kumCheck (withJob (kumJobOf op)) (kumJobOf op) with
     | (.fail x, _, u) => x.status != stWindow && !isDone x.status && jobOf u 0 == some (kumJobOf op)
     | _ => false) = true := by decide +kernel
theorem witness_kum_parsed : ∀ o ∈ officers, ((parseKum (kumBytes (signedJob o.op))).map (·.op)) = some o.op := by decide +kernel
theorem witness_kum_record : ∀ op ∈ [0x11, 0x13], ((parseKum (kumBytes (signedJob op))).map fun k =>
      (isMramHandle k.record, isStoreHandle k.record, hasTrees k.template.alg k.template.use,
        hasImage (wipeCopy (raiseActive (officered op) k) k.record 0) k.record)) = some (true, false, false, false) := by decide +kernel
theorem witness_kum_enrolled : (officered 0x02).keys.lifecycle = .enrolled ∧ kumOp (kumBytes (signedJob 0x02)) = 0x02 ∧
    kumOp (kumBytes (signedJob 0x20)) ≠ 0x02 := by decide +kernel

/-! ## Witnesses: fabric, links, timers, dispatch, ports -/

/-- A core with one request outstanding on FP0 under tag 5. -/
def asking (write : Bool) : State := { up with fabric := { txns := [{ tag := 5, isWrite := write, len := 8 }] } }
theorem witness_read_response : mainOn (asking false) = true ∧ (findTxn (asking false) 0 5 false).isSome = true ∧
    ((findTxn (asking false) 0 5 false).map (fun t => t.sunk || t.eventSeen)) = some false ∧
    (findTxn (asking false) 0 5 true) = none := by decide +kernel
theorem witness_write_response : (findTxn (asking true) 0 5 true).isSome = true ∧ (portOf (asking true) 0).clockLost = false ∧
    (findTxn (asking true) 0 5 false) = none := by decide +kernel
/-- A fault event under tag 5. -/
def event5 (write : Bool) : FaultEv := { addr := 64, write := write, master := 1, region := 2, expected := 3, found := 4, tag := 5 }
theorem witness_event_none : findTxn up 0 (event5 false).tag.toNat false = none ∧
    look? up.fabric.lastTag (tagKey 0 false (event5 false).tag.toNat) = none := by decide +kernel
/-- The same tag when its last transaction was an operand read of slice 5, or a write-back. -/
def reused (p : Purpose) : State := { up with fabric := { lastTag := [(tagKey 0 false 5, { slice := 5, purpose := p })] } }
theorem witness_event_late : ∀ p ∈ [Purpose.operand 0 .src 0, .writeback 7], mainOn (reused p) = true ∧
    findTxn (reused p) 0 (event5 false).tag.toNat false = none ∧
    look? (reused p).fabric.lastTag (tagKey 0 (event5 false).write (event5 false).tag.toNat) = some { slice := 5, purpose := p } := by
  decide +kernel
theorem witness_sunk_read : ((findTxn { up with fabric := { txns := [{ tag := 5, len := 8, sunk := true }] } } 0 5 false).map (·.sunk)) = some true ∧
    (let s := { asking true with fabric := { (asking true).fabric with ports := [(0, { fenced := true, clockLost := true })] } }
     let t := takeWrite (endTxn s { tag := 5, isWrite := true, len := 8 } 0) { tag := 5, isWrite := true, len := 8 } 0
     findTxn s 0 5 true = some { tag := 5, isWrite := true, len := 8 } ∧ (portOf t 0).clockLost = true ∧ (portOf t 0).fenced = true) := by
  decide +kernel
theorem witness_event_seen : mainOn (asking true) = true ∧ (findTxn (asking true) 0 (event5 true).tag.toNat true).isSome := by
  decide +kernel
theorem test_late_event : (match execFaultEvent 15 (event5 false) up with
    | .next t => ((portOf t 15).feCount, (portOf t 15).lateEvent) | _ => (0, false)) = (1, true) := by decide +kernel
theorem witness_snoop : serving up = true ∧ serving inSafe = false ∧ aonAbsent up = false ∧ aonAbsent inSafe = false := by decide +kernel
/-- A core with one ring, enabled. -/
def ringed (x : Ring) : State := { up with rings := [(7, { x with st := .enabled })] }
theorem witness_poll : serving (ringed {}) = true ∧ isPolled (ringed {}) 7 = true ∧
    (ringOf (ringed {}) 7).polledAt + pollTicks (ringed {}) (ringOf (ringed {}) 7).ctx.pollInterval ≤ now (ringed {}) := by decide +kernel
theorem witness_pool_poll :
    let s := { ringed { poolWait := true, prod := 1, ctx := { rbpBase := 4096, pollInterval := 10 } } with slices := [(0, { st := .active })] }
    serving s = true ∧ poolInterval s (ringOf s 7).ctx.slice (ringOf s 7).ctx.rbpBase = some 10 ∧ (ringOf s 7).poolWait = true ∧
      poolAsking s 7 (ringOf s 7).ctx.slice (ringOf s 7).ctx.rbpBase = false ∧
      (ringOf s 7).poolPolledAt + pollTicks s 10 ≤ now s := by decide +kernel
theorem witness_coalesce :
    let s := ringed { coalPending := 1, ctx := { coalTime := 5 } }
    pastStart s = true ∧ (ringOf s 7).coalPending ≠ 0 ∧ (ringOf s 7).ctx.coalTime ≠ 0 ∧
      (ringOf s 7).coalSince + us (ringOf s 7).ctx.coalTime ≤ now s := by decide +kernel
theorem witness_writeback :
    let s := ringed { wbDue := true }
    let t := { ringed {} with jobs := [{ ring := 7, phase := .ready }] }
    (pastStart s = true ∧ hasTxn s (fun p => p == .writeback 7) = false ∧ (ringOf s 7).wbDue = true) ∧
      (hasTxn t (fun p => p == .writeback 7) = false ∧ ringWork t 7 = true ∧ (ringOf t 7).wbAt + ms 1 ≤ now t) := by decide +kernel
/-- A core whose link 3 is enabled for slice 1, with ring 7 of slice 1 enabled. -/
def linked : State := { ringed { ctx := { slice := 1, agentDb := true } } with cfg := { cur := { alCfg := [(3, 0x80000001)] } } }
theorem witness_doorbell_held :
    let s := { linked with fabric := { ports := [(0, { qreq := true })] } }
    mainOn s = true ∧ (portOf s (3 / 16)).qreq = true := by decide +kernel
theorem witness_doorbell : (portOf linked (3 / 16)).qreq = false ∧ (portOf linked (3 / 16)).qack = false ∧ serving linked = true ∧
    linkEnabled linked 3 = true ∧ (ringOf linked 7).st = .enabled ∧ (ringOf linked 7).ctx.agentDb = true ∧
    (ringOf linked 7).ctx.slice = linkSlice linked 3 ∧ linkEnabled linked 4 = false ∧ (ringOf linked 8).st ≠ .enabled ∧
    serving inSafe = false ∧ aonAbsent inSafe = false ∧ (portOf inSafe 0).qreq = false ∧ (portOf inSafe 0).qack = false := by decide +kernel
theorem witness_notice :
    let s := { linked with links := [(3, { offered := some (7, 1) })] }
    let t := { linked with links := [(3, { offered := some (7, 1), waiting := [(7, 2)] })] }
    (mainOn s = true ∧ (linkOf s 3).offered.isSome = true ∧ (linkOf s 3).waiting = []) ∧
      ((linkOf t 3).offered.isSome = true ∧ (linkOf t 3).waiting = (7, 2) :: [] ∧ (ringOf t 7).ctx.slice = linkSlice t 3) := by
  decide +kernel
/-- A hash job of slice 1 that waits for a lane. -/
def readyJob : Job := { opJob 0x0201 with phase := .ready, part := none }
theorem witness_dispatch :
    let s := withJob readyJob
    let u := noteWork s
    serving u = true ∧ 0 < engCount .hash ∧ kindOpen u .hash = true ∧ partFree (partOf u .hash 0) = true ∧
      (dispatchSeal u .hash 0).or (dispatchBuild u .hash 0) = none ∧ (pick u .hash 0).isSome = true ∧ startRefused u .hash = false ∧
      pick s .hash 0 = some readyJob := by decide +kernel
/-- A core with a store page to seal, and one with a tree to build. -/
def sealing : State := { up with store := { sealing := [{ req := {} }] } }
def building : State :=
  { up with
    slices := [(5, { st := .active })]
    cfg := { cur := { allots := [(5, { weights := [1, 1, 1, 1, 1], caps := [1, 1, 1, 1, 1] })] } }
    res := { hbs := [(0x2010, { building := [1] })], builds := [{ handle := 0x2010, layer := 1, slice := 5 }] } }
theorem witness_dispatch_seal : serving (noteWork sealing) = true ∧ kindOpen (noteWork sealing) .saffron = true ∧
    partFree (partOf (noteWork sealing) .saffron 0) = true ∧ (dispatchSeal (noteWork sealing) .saffron 0).isSome = true := by decide +kernel
theorem witness_dispatch_build : kindOpen (noteWork building) .hash = true ∧ partFree (partOf (noteWork building) .hash 0) = true ∧
    (dispatchBuild (noteWork building) .hash 0).isSome = true := by decide +kernel
theorem witness_admission : jobOf (withJob readyJob) 0 = some readyJob := by decide +kernel
/-- A hash job of two segments on lane 0. -/
def longJob : Job := { jobAt { opcode := 0x0201, length := 70000, dst := 0x1000 } with part := some (.hash, 0) }
theorem witness_segment :
    let s := { withJob longJob with sched := { parts := [(partKey .hash 0, { busy := some 0 })] } }
    mainOn s = true ∧ (partOf s .hash 0).own = false ∧ (partOf s .hash 0).busy.bind (jobOf s) = some longJob ∧ longJob.part = some (.hash, 0) ∧
      longJob.phase = .operands ∧ isSegmented (stepDesc longJob).opcode = true ∧ lastSegment longJob = false := by decide +kernel
theorem witness_segment_own : (partOf { up with sched := { parts := [(partKey .saffron 63, { own := true })] } } .saffron 63).own = true := by
  decide +kernel
theorem witness_finish : ∀ j ∈ [{ opJob 0x0201 with phase := .computed }, { opJob 0x0201 with phase := .computed, t1 := { classes := [3] } },
    { opJob 0x0201 with phase := .computed, t2 := { classes := [3] } }], jobOf (withJob j) 0 = some j ∧ mainOn (withJob j) = true ∧
    j.t1.ended = none ∧ j.t2.ended = none := by decide +kernel
theorem witness_untimed : timed { opJob 0x0201 with phase := .computed } = false := by decide +kernel
/-- A timed job whose check ended after 250 ticks, of a class with the least entry of 100 ticks. -/
def gridJob (start : Nat) : Job := { opJob 0x0201 with phase := .computed, t1 := { classes := [3], start := start, ended := some (start + 250) } }
theorem witness_grid : ∀ start ∈ [0, 10 ^ 12 - 299], 
    let s := { withJob (gridJob start) with cfg := { cur := { gen := 0, grid := [(3, 100)] } } }
    mainOn s = true ∧ jobOf s 0 = some (gridJob start) ∧ 1 ≤ gridEntry (cfgOf s (gridJob start).gen) 3 ∧
      gridPoint start 100 1 (start + 250) = 3 := by decide +kernel
theorem test_grid_overrun : (match execGridRelease 0 { withJob (gridJob 0) with cfg := { cur := { gen := 0, grid := [(3, 100)] } } } with
    | .next t => (look t.sched.gridOvr 3 0, t.jobs.map (·.releaseTime)) | _ => (0, [])) = (1, [300]) := by decide +kernel
theorem witness_quiesce : aonAbsent up = false ∧ aonAbsent State.reset = false ∧ mainOn up = true ∧ mainOn State.reset = false ∧ (portOf up 15).qreq = false ∧ (portOf State.reset 15).qreq = false ∧
    (portOf { up with fabric := { ports := [(15, { qreq := true, qack := true })] } } 15).qack = true ∧
    (portOf { State.reset with fabric := { ports := [(15, { qreq := true, qack := true })] } } 15).qack = true := by decide +kernel
theorem witness_clock : mainOn up = true ∧ up.clock.running = true ∧ (portOf up 15).fenced = false ∧
    103 * (portOf up 15).fmaxInForce < 10 * 16481 ∧ ¬ 103 * (portOf up 15).fmaxInForce < 10 * 16480 := by decide +kernel
theorem witness_clock_stopped : (portOf up 15).qack = false ∧ (10 * 1 ≤ 103 * (portOf up 15).fmaxInForce) := by decide +kernel
theorem serves_of {s : State} (h : (!regGuarded s && !portHeld s) = true) : PortServes s := by
  simp only [Bool.and_eq_true, Bool.not_eq_true'] at h; exact ⟨h.1, h.2⟩
theorem witness_port_serves : PortServes up := serves_of (by decide +kernel)
def fencedPort (n : Nat) : State := { up with fabric := { ports := [(15, { fenced := true, okWindows := n })] } }
/-- Whatever else the state holds. -/
theorem witness_serves_with {s : State} (hp : s.pwr = up.pwr) (hf : s.fabric = up.fabric) : PortServes s :=
  ⟨by rw [show regGuarded s = regGuarded up by simp only [regGuarded, mainOn, hp]]; decide +kernel,
   by rw [show portHeld s = portHeld up by simp only [portHeld, mainOn, portOf, hp, hf]]; decide +kernel⟩
theorem witness_unfence : ∀ n ∈ [2, 3], PortServes (fencedPort n) ∧ (portOf (fencedPort n) 15).fenced = true ∧
    (portOf (fencedPort n) 15).okWindows = n := by
  intro n h
  exact ⟨serves_of (by revert n; decide +kernel), by revert n; decide +kernel⟩

/-! ## Witnesses: registers, supplies, tamper -/

/-- The register port guarded, and held with FP0 quiesced. -/
theorem witness_port_closed : regGuarded State.reset = true ∧ portHeld State.reset = false ∧ aonAbsent State.reset = false ∧
    portHeld { up with fabric := { ports := [(0, { qreq := true, qack := true })] } } = true ∧ mainOn up = true := by decide +kernel
theorem witness_spare : 0x3C ∈ spareSlots ∧ 0x3518 ∈ spareSlots ∧ 0x355C ∈ spareSlots ∧ ¬ 0x14 ∈ spareSlots := by decide +kernel
theorem witness_spans : ∃ r ∈ regSpans, r.1 ≤ 0x57FC ∧ 0x57FC < r.2 := by decide +kernel
theorem witness_plain_write : holdsReg 0x28 = true ∧ ownRow 0x28 0x1000 = false := by decide +kernel
theorem witness_bad_access : inSpan 0x5800 = false ∧ 0x5800 % 4 = 0 ∧ inSpan 0x57FD = true ∧ badShape 0x57FD .unaligned = true ∧
    badShape 0x5800 .unmapped = true ∧ badShape 0x3000 .burst = true ∧ badShape 0x30BF .subWord = true ∧ inSpan 0x30C0 = false ∧
    inSpan 0x2FFC = false := by decide +kernel
theorem witness_lo_read : (pairValue up 0x80).isSome = true := by decide +kernel
theorem witness_bind : up.glb.s0Bound = true ∧ ({ up with glb := {} } : State).glb.s0Bound = false ∧
    regGuarded { up with glb := {} } = false ∧ portHeld { up with glb := {} } = false := by decide +kernel
theorem witness_lk_bounds : up.glb.rctxLoLocked = false ∧ part (0x1000 : W32) 0 12 = 0 ∧ part (0x1001 : W32) 0 12 ≠ 0 ∧
    up.mgmt.wdtLocked = false ∧ part (0 : W32) 0 10 = 0 ∧ part (1 : W32) 0 10 = 1 ∧ part (1000 : W32) 0 10 = 1000 ∧
    part (1001 : W32) 0 10 = 1001 := by decide +kernel
theorem witness_locked : ∀ s ∈ ([{ up with glb := { rctxLoLocked := true, rctxHiLocked := true } }] : List State),
    regGuarded s = false ∧ portHeld s = false ∧ s.glb.rctxLoLocked = true ∧ s.glb.rctxHiLocked = true := by decide +kernel
theorem witness_locked_others : ({ up with mgmt := { wdtLocked := true } } : State).mgmt.wdtLocked = true ∧
    ({ up with ent := { minLocked := true } } : State).ent.minLocked = true ∧
    (portOf { up with fabric := { ports := [(0, { fmaxLocked := true })] } } 0).fmaxLocked = true := by decide +kernel
/-- A core with some healthy sources. -/
def sourced (n : Nat) : State := { up with ent := { up.ent with sources := (List.range n).map (fun i => (i, { st := .healthy })) } }
theorem witness_sources : healthySources (sourced 3) < (sourced 3).ent.minSources ∧ (sourced 4).ent.minSources ≤ healthySources (sourced 4) ∧
    mainOn (sourced 4) = true ∧ (sourced 4).ent.st ≠ .failed ∧ (sourced 4).ent.katDue = false ∧ ({ sourced 4 with ent := { (sourced 4).ent with buffer := [] } } : State).ent.buffer.length < 4 ∧
    part (1 : W32) 0 4 < 2 ∧ 8 < part (9 : W32) 0 4 ∧ part (2 : W32) 0 4 = 2 ∧ part (8 : W32) 0 4 = 8 ∧ up.ent.minLocked = false := by
  decide +kernel
/-- VAON falls with the battery good, and with the battery gone; MACE_N held across it. -/
theorem witness_vaon : (2000 ≤ up.pwr.vbat) ∧ ({ up with pwr := { up.pwr with vbat := 1999 } } : State).pwr.vbat < 2000 ∧
    overRatings (.vaonChangeover 1050) = false ∧ up.pwr.vddOver = false := by decide +kernel
/-- PWR_GOOD may fall with a latch free and nothing queued for the ledger. -/
theorem witness_latch_free : (look State.reset.per.latches 15 {}).kind = 0 ∧ up.per.queue = [] := by decide +kernel
theorem witness_vbat : up.pwr.onBattery = false ∧ ({ up with pwr := { onBattery := true } } : State).pwr.onBattery = true := by decide +kernel
theorem test_vbat_low : (match execVbatLow up with | .next t => (t.pwr.vbatLow, t.irq.mgrEvent.getLsbD 13) | _ => (false, false)) =
    (true, true) := by decide +kernel
theorem witness_levels : levelBelow 639 1800 = .secure ∧ levelBelow 640 1619 = .secure ∧ levelBelow 640 1620 = .finish ∧
    levelBelow 669 1620 = .finish ∧ levelBelow 670 1620 = .essential ∧ levelBelow 700 1620 = .trim ∧ levelBelow 720 1620 = .full := by
  decide +kernel
theorem witness_level_changes : mainOn up = true ∧ levelCode up.pwr.level < levelCode (levelBelow 700 1800) ∧ levelCode up.pwr.level < 4 ∧
    levelCode (levelAbove 800) < levelCode ({ up with pwr := { up.pwr with level := .finish } } : State).pwr.level := by decide +kernel
theorem witness_pwr_good : up.pwr.pwrGood = true ∧ State.reset.pwr.pwrGood = true ∧ mainOn State.reset = false := by decide +kernel
theorem witness_monitor : serving up = true ∧ testDue up up.pwr.monTestAt (railBit .vbat) = true := by decide +kernel
theorem witness_light_test : ∀ n ∈ [0, 2], let s := { up with pwr := { up.pwr with lightTries := [(95, n)] } }
    s.pwr.onBattery = false ∧ mainOn s = true ∧ testDue s s.pwr.lightTestAt 95 = true ∧ look s.pwr.lightTries 95 0 = n := by
  decide +kernel
/-- The always-on domain on its battery, MACE_N held. -/
def dark : State := { State.reset with pwr := { State.reset.pwr with onBattery := true, maceAsserted := true } }
theorem witness_mace : up.pwr.maceAsserted = false ∧ (850 ≤ up.pwr.vaon ∨ 2000 ≤ up.pwr.vbat) ∧ dark.pwr.onBattery = true ∧
    dark.pwr.maceAsserted = true ∧ dark.pwr.maceCounted = false ∧ mainOn dark = false := by decide +kernel

/-! ## Witnesses: alarms, starts, faults, the pair, entropy -/

theorem test_class_a : (match execLightEvent 3 up with
    | .next t => (t.pwr.alarmClass, t.pwr.alarmCause, t.keys.lifecycle, t.per.rootA) | _ => (0, 0, .blank, [])) = (1, 1, .safe, zeros 32) := by
  decide +kernel
theorem witness_reset_pin : up.pwr.rstAsserted = false ∧ State.reset.pwr.rstAsserted = true ∧
    (850 ≤ State.reset.pwr.vaon ∨ 2000 ≤ State.reset.pwr.vbat) ∧ State.reset.pwr.maceAsserted = false ∧ dark.pwr.rstAsserted = true ∧
    (850 ≤ dark.pwr.vaon ∨ 2000 ≤ dark.pwr.vbat) := by decide +kernel
/-- A start in step 4, and one that waits for its root. -/
def begun : State := { up with pwr := { main := .precondition, rstAsserted := false } }
def rootless (x : EntSt) : State := { up with pwr := { main := .rootWait, rstAsserted := false }, ent := { up.ent with st := x } }
/-- A start whose self-test ends as given. -/
def startIo (fail : Option Nat) : StartIo :=
  { testFail := fail, parityError := false, unreadable2 := [], unreadable3 := [], sourcesPass := List.replicate 8 true
    katPass := true, drbgKatPass := true }
theorem witness_start : ({ begun with pwr := { begun.pwr with saved := none, bstState := 0, bstStartPass := 0x3F } } : State).pwr.main = .precondition ∧ begun.pwr.main = .precondition ∧ begun.keys.lifecycle ≠ .retired ∧ begun.pwr.releasedAt + ms 10000 ≤ now begun ∧
    (startIo (some 2)).parityError = false ∧ (startIo (some 2)).testFail = some 0x02 ∧ (startIo (some 7)).testFail = some 0x07 ∧
    (startIo none).testFail = none := by decide +kernel
theorem witness_no_image : chooseBank (extendSlot { begun with pwr := { begun.pwr with saved := none, bstState := 0, bstStartPass := 0x3F } } 0 bootRomDigest) (startIo none) = none := by decide +kernel
theorem witness_root_wait : (rootless .available).pwr.main = .rootWait ∧ rootOf (rootless .available) = none ∧
    internalReady (rootless .available) = true ∧ (rootless .starting).ent.st = .starting ∧
    (rootless .starting).pwr.waitSince + ms 100 ≤ now (rootless .starting) ∧ (rootless .starting).keys.lifecycle ≠ .retired := by
  decide +kernel
theorem witness_part_test : serving up = true ∧ up.pwr.bstEnable = true ∧ rotates .lattice = true ∧ 31 < engCount .lattice ∧
    partOut (partOf up .lattice 31) = false ∧ up.pwr.level = .full ∧ testRange up = false ∧
    testRange { up with mgmt := { up.mgmt with sample := some { vdd := 800, vddm := 1800, vaon := 900, vbat := 3000, temps := [25], clocks := [] } } } =
      true := by decide +kernel
theorem witness_test_end : ∀ b : Bool, let s := { up with sched := { parts := [(partKey .hash 127, { test := .underTest, mayReturn := b })] } }
    mainOn s = true ∧ (partOf s .hash 127).test = .underTest ∧ (partOf s .hash 127).busy = none ∧
      (partOf s .hash 127).own = false := by decide +kernel
theorem witness_part_fault :
    let s := { withJob longJob with sched := { parts := [(partKey .hash 0, { busy := some 0 })] } }
    canFault s .hash 0 = true ∧ (partOf s .hash 0).busy.bind (jobOf s) = some longJob ∧ longJob.phase = .operands ∧
      missingMore s longJob = [] := by decide +kernel
/-- A slice whose fault has been raised, without and with an accepted submission left. -/
def faulting (j : Job) : State := { withJob j with slices := [(1, { st := .active, faulting := some 3 })] }
theorem witness_settle_fault : (sliceOf (faulting readyJob) 1).faulting = some 3 ∧
    ([{ readyJob with slice := 2 }, readyJob].map fun j => (faulting j).jobs.any (fun j => j.slice == 1 && accepted j)) = [false, true] := by
  decide +kernel
theorem witness_slice_fault : sliceServes { st := .active } = true ∧ sliceServes { st := .active, faulting := some 3 } = false ∧
    sliceServes { st := .resetting } = false := by decide +kernel
theorem test_fault_settles : (sliceOf (settleFault (faulting { readyJob with slice := 2 }) 1) 1).st = .faulted ∧
    (sliceOf (settleFault (faulting readyJob) 1) 1).st = .active := by decide +kernel
theorem witness_parity : serving { up with slices := [(9, { st := .active })] } = true ∧
    (sliceOf { up with slices := [(9, { st := .active })] } 9).st = .active ∧ (sliceOf up 9).st ≠ .active := by decide +kernel
theorem witness_core_wide : pastStart up = true ∧ up.pwr.recovering = [] ∧ up.pwr.main = .up ∧ up.keys.lifecycle ≠ .retired ∧
    ({ up with pwr := { up.pwr with recovering := [.ledger] } } : State).pwr.recovering ≠ [] := by decide +kernel
theorem witness_pair : up.mgmt.st = .running ∧ up.mgmt.lastKick + ms up.mgmt.wdtTimeout ≤ now up ∧ keyPath up = false ∧
    keyPath { up with mgmt := { up.mgmt with keypath := true } } = true ∧
    (1 : W32).getLsbD 0 = true ∧ ({ up with mgmt := { st := .restarting } } : State).mgmt.st = .restarting := by decide +kernel
theorem witness_trap_frame : ∀ i ∈ List.range 160, pairWrites up true (pairEnd - 160 + i) = true := by decide +kernel
theorem witness_source_test : ∀ n ∈ [0, 2], let s := { up with ent := { up.ent with sources := [(7, { st := .testing, startFails := n })] } }
    mainOn s = true ∧ (sourceOf s 7).st = .testing ∧ (sourceOf s 7).startFails = n := by decide +kernel
theorem witness_source_healthy : (sourceOf (sourced 4) 3).st = .healthy ∧ up.ent.maskLocked = false := by decide +kernel
theorem test_fourth_failure : (match execRepetitionCountFailure 0
      { up with ent := { up.ent with sources := [(0, { st := .healthy, failTimes := [10 ^ 12, 10 ^ 12, 10 ^ 12] })] } } with
    | .next t => (sourceOf t 0).st | _ => .off) = .fatal := by decide +kernel
theorem witness_blocks : ∀ n ∈ [0, 3], ∀ due : Bool,
    let s := { sourced 4 with ent := { (sourced 4).ent with buffer := List.replicate n (zeros 48), katDue := due } }
    mainOn s = true ∧ s.ent.st ≠ .failed ∧ s.ent.minSources ≤ healthySources s ∧ s.ent.buffer.length < 4 ∧ s.ent.katDue = due := by decide +kernel
theorem witness_blocks_full : 4 ≤ (sourced 4).ent.buffer.length ∧ (sourced 4).ent.minSources ≤ healthySources (sourced 4) := by decide +kernel
theorem witness_internal_reseed : mainOn up = true ∧ internalDue up = true ∧ up.ent.katDue = false ∧ up.ent.st = .available ∧
    up.pwr.main ≠ .rootWait ∧ (drbgOf up 256).st ≠ .uninstantiated ∧ canSeed up = true := by decide +kernel
/-- Two of the eight groups of 64 bits from each of four sources: 32 groups finish a block. -/
theorem test_block_bits : ((absorbGroups 32 (sourced 4)).ent.progress.map (fun g => (g.1, g.2.length))).take 5 =
    [(0, 8), (1, 8), (2, 8), (3, 8), (0, 8)] ∧ (absorbGroups 32 (sourced 4)).ent.progress.length = 32 := by decide +kernel

/-! ## Witnesses: slices, rings, cadences, configuration, the measurement port -/

/-- A creation block for slice 5, PASID 7: one ring, vectors 16 to 19, a window of 4 MiB at zero. -/
def creationText : Bytes :=
  [5, 0, 0, 3] ++ leBytes 4 7 ++ leBytes 2 8 ++ leBytes 2 1 ++ leBytes 2 16 ++ leBytes 2 4 ++ leBytes 2 64 ++ leBytes 2 4 ++
    leBytes 2 0 ++ leBytes 2 16 ++ leBytes 4 0 ++ leBytes 4 64 ++ leBytes 4 64 ++ [1, 1, 1, 1, 1] ++ zeros 3 ++ zeros 10 ++ zeros 10 ++
    leBytes 8 0 ++ leBytes 8 (1024 + 3 * 2 ^ 62) ++ zeros 240
def ask5 (code : Nat) : Req := { cmd := code, target := 5, param := 0x10000 }
/-- The same core with slice 5 as given, holding what the block gives. -/
def slice5 (q : Req) (x : SliceSt) : State :=
  { asked q with slices := [(5, { st := x, pasid := 7, colour := 3, held := (creationFrom creationText).allot })] }
theorem witness_slice_create : startsB (asked (ask5 0x0101)) 0x0101 0 (ask5 0x0101) = true ∧ (ask5 0x0101).target ≠ 0 ∧ (asked (ask5 0x0101)).glb.s0Bound = true ∧
    (sliceOf (asked (ask5 0x0101)) 5).st = .free ∧
    (creationInput (ask5 0x0101) (reads creationText) (asked (ask5 0x0101))).1 = .data creationText ∧
    (let t := (creationInput (ask5 0x0101) (reads creationText) (asked (ask5 0x0101))).2
     noResource t 5 (creationFrom creationText).allot = false ∧ bit (creationFrom creationText).flags 0 = false ∧
       pasidTaken t 7 = false) := by decide +kernel
/-- Another slice holds ring 8; 16 privileged slices stand. -/
def crowded : State := { asked (ask5 0x0101) with slices := [(6, { st := .active, held := { firstRing := 8, ringCount := 1 } })] }
def privilegedText : Bytes := [5, 0, 1, 3] ++ creationText.drop 4
def courtly : State := { asked (ask5 0x0101) with slices := (List.range 16).map (fun i => (i + 10, { st := .active, privileged := true })) }
theorem witness_slice_taken : startsB crowded 0x0101 0 (ask5 0x0101) = true ∧
    (creationInput (ask5 0x0101) (reads creationText) crowded).1 = .data creationText ∧
    noResource (creationInput (ask5 0x0101) (reads creationText) crowded).2 5 (creationFrom creationText).allot = true := by decide +kernel
theorem witness_slice_privileged : startsB courtly 0x0101 0 (ask5 0x0101) = true ∧
    (creationInput (ask5 0x0101) (reads privilegedText) courtly).1 = .data privilegedText ∧
    bit (creationFrom privilegedText).flags 0 = true ∧ 16 ≤ privilegedCount (creationInput (ask5 0x0101) (reads privilegedText) courtly).2 ∧
    privilegedCount (asked (ask5 0x0101)) < 16 := by decide +kernel
/-- PASID 7 belongs to another slice. -/
def rented : State := { asked (ask5 0x0101) with slices := [(6, { st := .active, pasid := 7 })] }
theorem witness_pasid_taken : startsB rented 0x0101 0 (ask5 0x0101) = true ∧ (sliceOf rented 5).st = .free ∧
    (creationInput (ask5 0x0101) (reads creationText) rented).1 = .data creationText ∧
    (let t := (creationInput (ask5 0x0101) (reads creationText) rented).2
     noResource t 5 (creationFrom creationText).allot = false ∧ pasidTaken t 7 = true) := by decide +kernel
theorem test_slice_create : (match execSliceCreate (reads creationText) (asked (ask5 0x0101)) with
    | .next t => ((sliceOf t 5).st, (sliceOf t 5).pasid, t.mgmt.replies.map (·.code), (windowsOf t.cfg.staged 5).head?.map (·.pages))
    | _ => (.free, 0, [], none)) = (.creating, 7, [rOk], some 1024) := by decide +kernel
theorem witness_slice_modify : ∀ x ∈ [SliceSt.active, .faulted], startsB (slice5 (ask5 0x0102) x) 0x0102 0 (ask5 0x0102) = true ∧
    (sliceOf (slice5 (ask5 0x0102) x) 5).st = x ∧
    (creationInput (ask5 0x0102) (reads creationText) (slice5 (ask5 0x0102) x)).1 = .data creationText ∧
    (let t := (creationInput (ask5 0x0102) (reads creationText) (slice5 (ask5 0x0102) x)).2
     sameIdentity t (creationFrom creationText) = true ∧ noResource t 5 (creationFrom creationText).allot = false ∧
       modifyInUse t 5 (creationFrom creationText) = false) := by decide +kernel
theorem witness_slice_states : ∀ c ∈ [0x0103, 0x0104, 0x0105], ∀ x ∈ [SliceSt.creating, .active, .faulted],
    startsB (slice5 (ask5 c) x) c 0 (ask5 c) = true ∧ argsFrom (ask5 c) 0 = false ∧ (ask5 c).target ≤ 255 ∧
    (sliceOf (slice5 (ask5 c) x) 5).st = x ∧ ownsRecords (slice5 (ask5 c) x) 5 = false ∧
    outputFault (slice5 (ask5 c) x) (ask5 c).param 256 = none ∧ (reads []).write = .ok := by decide +kernel
theorem witness_slice_keys : ∀ x ∈ [SliceSt.active, .faulted],
    let s := { slice5 (ask5 0x0104) x with keys := { lifecycle := .service, records := [(1, { owner := 5 })] } }
    startsB s 0x0104 0 (ask5 0x0104) = true ∧ ownsRecords s 5 = true := by decide +kernel
theorem witness_slice_quiet : ∀ x ∈ [SliceSt.resetting, .destroying], pastStart (slice5 (ask5 0x0103) x) = true ∧
    (sliceOf (slice5 (ask5 0x0103) x) 5).st = x ∧ sliceQuiet (slice5 (ask5 0x0103) x) 5 = true := by decide +kernel
theorem test_slice_release : (match execSliceReleaseDone 5 (slice5 (ask5 0x0104) .destroying) with
    | .next t => (sliceOf t 5).st | _ => .creating) = .free := by decide +kernel

/-- A ring context of slice 5: queues at 64 KiB and 128 KiB, doorbell at 256 KiB, 16 slots, the given EPOCH and period. -/
def contextText (epoch period : Nat) : Bytes :=
  leBytes 8 0x10000 ++ leBytes 8 0x20000 ++ leBytes 8 0x40000 ++ [4, 0] ++ leBytes 2 5 ++ leBytes 2 0xFFFF ++ leBytes 2 0 ++
    leBytes 2 1 ++ leBytes 2 0 ++ leBytes 2 1 ++ leBytes 2 0 ++ leBytes 8 0 ++ zeros 16 ++ leBytes 4 period ++ leBytes 4 4 ++
    [1] ++ zeros 55 ++ leBytes 2 epoch ++ leBytes 2 1 ++ zeros 124
def ask8 (code : Nat) : Req := { cmd := code, target := 8 }
/-- Slice 5 is active with ring 8 and windows; the context table is locked at 8 MiB. -/
def tabledRing (q : Req) : State :=
  { asked q with
    glb := { s0Bound := true, rctxLo := 0x800000, rctxLoLocked := true, rctxHiLocked := true }
    slices := [(5, { st := .active, pasid := 7 })]
    cfg := { cur := { allots := [(5, (creationFrom creationText).allot)]
                      windows := [(0, [{ base := 0, pages := 4096, read := true, write := true }]),
                                  (5, [{ base := 0, pages := 1024, read := true, write := true }])] }
             staged := { windows := [(5, [{ base := 0, pages := 1024, read := true, write := true }])] } } }
theorem witness_ring_enable : startsB (tabledRing (ask8 0x0201)) 0x0201 0 (ask8 0x0201) = true ∧
    ringRefused (tabledRing (ask8 0x0201)) 8 = false ∧ argsFrom (ask8 0x0201) 0 = false ∧
    (readContext (tabledRing (ask8 0x0201)) 8 (.ok (contextText 1 0))).1 = .data (contextText 1 0) ∧
    contextFault (readContext (tabledRing (ask8 0x0201)) 8 (.ok (contextText 1 0))).2 8 (contextText 1 0) = false ∧ allZero (subBytes (contextText 1 0) 0xA0 96) = true ∧
    ctxInUse (readContext (tabledRing (ask8 0x0201)) 8 (.ok (contextText 1 0))).2 8 (ctxFrom (contextText 1 0)) = false := by decide +kernel
/-- The staged windows no longer hold the ring. -/
def narrowed : State := { tabledRing (ask8 0x0201) with cfg := { (tabledRing (ask8 0x0201)).cfg with staged := {} } }
theorem witness_ring_in_use : startsB narrowed 0x0201 0 (ask8 0x0201) = true ∧ ringRefused narrowed 8 = false ∧
    (readContext narrowed 8 (.ok (contextText 1 0))).1 = .data (contextText 1 0) ∧ (let t := (readContext narrowed 8 (.ok (contextText 1 0))).2
     contextFault t 8 (contextText 1 0) = false ∧ ctxInUse t 8 (ctxFrom (contextText 1 0)) = true) := by decide +kernel
/-- The same with ring 8 in a state. -/
def ringIs (code : Nat) (x : RingSt) : State := { tabledRing (ask8 code) with rings := [(8, { st := x, ctx := { slice := 5, periodUs := 100 } })] }
theorem witness_ring_disable : ∀ x ∈ [RingSt.disabled, .draining, .enabled],
    startsB (ringIs 0x0202 x) 0x0202 0 (ask8 0x0202) = true ∧ (ringOf (ringIs 0x0202 x) 8).st = x ∧ droppedCause (ringIs 0x0202 x) 8 = 0 := by decide +kernel
theorem witness_ring_drained : pastStart (ringIs 0x0202 .draining) = true ∧ drained (ringIs 0x0202 .draining) 8 = true := by decide +kernel
/-- RING_RESUME of a ring none of whose slots is used, after the given kind of start. -/
def resumeAsk : Req := { cmd := 0x0203, target := 8, args := [1] }
def resumed (kind : Nat) : State := { tabledRing resumeAsk with pwr := { up.pwr with startKind := kind } }
theorem witness_ring_resume : ∀ k ∈ [1, 2], startsB (resumed k) 0x0203 0 resumeAsk = true ∧ ringRefused (resumed k) 8 = false ∧
    argsFrom resumeAsk 3 = false ∧ (resumed k).pwr.startKind = k ∧
    (readContext (resumed k) 8 (.ok (contextText 1 0))).1 = .data (contextText 1 0) ∧ walkFault { descriptors := [], completions := [], failed := none } = none := by
  decide +kernel
theorem witness_ring_resume_range : resumeFault (resumed 1) { resumeAsk with args := [1, 3, 3] } (contextText 1 0) = none ∧
    resumeFault (resumed 1) { resumeAsk with args := [1, 3, 19] } (contextText 1 0) = none := by decide +kernel
theorem witness_resume_ok : resumeFault (readContext (resumed 1) 8 (.ok (contextText 1 0))).2 resumeAsk (contextText 1 0) = none := by decide +kernel
theorem witness_table_unlocked : ∀ g ∈ [({ s0Bound := true } : Glb), { s0Bound := true, rctxLoLocked := true },
      { s0Bound := true, rctxHiLocked := true }], ∀ c ∈ [0x0201, 0x0203],
    startsB { asked (ask8 c) with glb := g } c 0 (ask8 c) = true ∧ (g.rctxLoLocked = false ∨ g.rctxHiLocked = false) := by decide +kernel
theorem witness_table_bits : (1 : W32).extractLsb' 0 12 ≠ 0 ∧ (0x800 : W32).extractLsb' 0 12 ≠ 0 ∧
    (0x1000 : W32).extractLsb' 0 12 = 0 := by decide +kernel

/-- A core with one ring whose cadence is as given. -/
def withCad (r : RingSt) (period : Nat) (c : Cadence) : State := { up with rings := [(8, { st := r, ctx := { periodUs := period }, cad := c })] }
theorem witness_cad_start : (∀ x ∈ [CadSt.waiting, .running, .late], let s := withCad .enabled 100 { st := x }
      (ringOf s 8).st = .enabled ∧ (ringOf s 8).ctx.periodUs ≠ 0 ∧ (ringOf s 8).cad.st ≠ .stopped ∧ regGuarded s = false ∧ portHeld s = false) ∧
    (ringOf (withCad .disabled 100 {}) 8).st = .disabled ∧ (ringOf (withCad .draining 100 {}) 8).st = .draining ∧
    (ringOf (withCad .enabled 0 {}) 8).ctx.periodUs = 0 ∧ (ringOf (withCad .enabled 1 {}) 8).cad.st = .stopped := by decide +kernel
theorem test_cad_start_repeated : (match execCadenceStart 8 (withCad .enabled 100 { st := .running }) with
    | .next t => ((ringOf t 8).cad.startRepeated, (ringOf t 8).cad.cmdIgnored) | _ => (false, true)) = (true, false) := by decide +kernel
theorem test_cad_start_disabled : (match execCadenceStart 8 (withCad .draining 100 {}) with
    | .next t => ((ringOf t 8).cad.startRepeated, (ringOf t 8).cad.cmdIgnored) | _ => (true, false)) = (false, true) := by decide +kernel
theorem witness_cad_origin : let s := withCad .enabled 100 { st := .waiting, openAt := 10 ^ 12 }
    cadenceRuns s = true ∧ (ringOf s 8).cad.st = .waiting ∧ (ringOf s 8).cad.openAt ≤ now s := by decide +kernel
/-- A period whose scheduled end has come, with its work done or not. -/
def ended : State := withCad .enabled 100 { st := .running, inPeriod := true, period := 3, scheduledEnd := 10 ^ 12 }
theorem witness_cad_end : ∀ s ∈ [ended, { ended with jobs := [{ ring := 8, phase := .ready, period := some 3 }] }],
    cadenceRuns s = true ∧ (ringOf s 8).cad.st = .running ∧ (ringOf s 8).cad.inPeriod = true ∧ (ringOf s 8).cad.scheduledEnd ≤ now s := by
  decide +kernel
theorem witness_cad_work : periodWork ended 8 = false ∧
    periodWork { ended with jobs := [{ ring := 8, phase := .ready, period := some 3 }] } 8 = true := by decide +kernel
theorem witness_cad_open : ({ ctx := { periodUs := 1 } } : Ring).cad.staged = none ∧ ({ ctx := { periodUs := 1 } } : Ring).ctx.periodUs ≠ 0 := by
  decide +kernel
/-- Half the debt of 1,000 ticks is paid back where CATCHUP allows 5/16 of 16 us. -/
theorem test_cad_catchup : (openRing { ctx := { periodUs := 16, catchup := 5, budget := 9 }, cad := { debt := 1000 } } 5000).cad.debt = 500 ∧
    (openRing { ctx := { periodUs := 16, catchup := 5, budget := 9 }, cad := { debt := 1000 } } 5000).cad.scheduledEnd = 6100 := by
  decide +kernel
theorem witness_cad_lost : ∀ d ∈ [(40000, 10 ^ 12 - 1), (40001, 10 ^ 12)],
    let s := withCad .enabled 100 { st := .late, inPeriod := true, debt := d.1, scheduledEnd := d.2 }
    cadenceRuns s = true ∧ (ringOf s 8).cad.st = .late ∧ (ringOf s 8).cad.inPeriod = true ∧ (ringOf s 8).cad.rejoin = false ∧
    4 * periodOf (ringOf s 8).ctx < (ringOf s 8).cad.debt + (now s - (ringOf s 8).cad.scheduledEnd) := by decide +kernel
theorem witness_tref : up.clock.running = true ∧ ({ up with clock := { running := false } } : State).clock.running = false ∧
    (ringOf (withCad .enabled 100 { st := .late }) 8).cad.st = .late ∧ mainOn up = true := by decide +kernel

theorem witness_commit_refused : serving inSafe = false ∧ regGuarded inSafe = false ∧ portHeld inSafe = false ∧ (1 : W32).getLsbD 0 = true ∧
    ({ up with cfg := { pendingCommit := some {} } } : State).cfg.pendingCommit.isSome = true := by decide +kernel
/-- A staged configuration whose windows hold the vector table. -/
def tabled : State :=
  { up with cfg := { staged := { windows := [(0, [{ base := 0, pages := 16, read := true, write := true }])] } } }
theorem witness_commit : serving up = true ∧ up.cfg.pendingCommit = none ∧ commitFault up [] = some 0x28 ∧
    serving tabled = true ∧ tabled.cfg.pendingCommit = none ∧ commitFault tabled [] = none := by decide +kernel
theorem witness_commit_effect : let s := { tabled with cfg := { tabled.cfg with pendingCommit := some tabled.cfg.staged } }
    s.cfg.pendingCommit = some tabled.cfg.staged ∧ pastStart s = true ∧ olderJobs s = false ∧ s.glb.s0Bound = true := by decide +kernel
theorem test_generation_wraps : nextGen 0xFFFFFFFF = 1 ∧ nextGen 0xFFFFFFFE = 0xFFFFFFFF := by decide +kernel
/-- The default grid table's first and last entries of its first classes (R189): 5 ticks, doubling squares. -/
theorem test_grid_default : gridDefault 0 = 105 ∧ gridDefault 31 = 5220 := by decide +kernel
theorem witness_control : ∀ op ∈ [0x0F00, 0x0F01], let j := { jobAt { opcode := op } with phase := .ready }
    mainOn (withJob j) = true ∧ jobOf (withJob j) 0 = some j ∧ j.phase = .ready ∧ fencePassed (withJob j) j = true ∧
    j.bufDue = false ∧ j.abort = none ∧ (stepDesc j).opcode = op := by decide +kernel
/-- A tree of key 0x2010 that lane 127 builds, its record cached, and the store up. -/
def planting : State :=
  { up with
    store := { attach := some {} }
    keys := { lifecycle := .service, smk := some (zeros 32, zeros 32) }
    res := { hbs := [(0x2010, { building := [1] })], builds := [{ handle := 0x2010, layer := 1, slice := 5, lane := some 127 }] } }
theorem witness_tree : mainOn planting = true ∧ storeUp (freeBuildLane planting 127) = true ∧
    planting.res.builds.find? (fun b => b.handle == 0x2010 && b.layer == 1) =
      some { handle := 0x2010, layer := 1, slice := 5, lane := some 127 } := by decide +kernel
/-- The same for the key of record 1, sealed under this core's key. -/
def grown : State :=
  { planting with
    keys := { planting.keys with records := [(1, sealRecord (zeros 32) { handle := 1, alg := 0x40, matLen := 16 } (zeros 16))] }
    res := { builds := [{ handle := 1, layer := 1, slice := 5, lane := some 127 }] } }
/-- The record opens. -/
theorem witness_tree_key : (treeKey (freeBuildLane grown 127) 1).isSome = true ∧ storeUp (freeBuildLane grown 127) = true ∧
    grown.res.builds.find? (fun b => b.handle == 1 && b.layer == 1) = some { handle := 1, layer := 1, slice := 5, lane := some 127 } := by
  decide +kernel

/-- A core whose measurement port is as given. -/
def port (m : Mdp) : State := { up with mdp := m }
theorem witness_mdp_start : cmdOp 0x11010000 = 1 ∧ cmdOwner 0x11010000 = 0x01 ∧ cmdAlg 0x11010000 = 1 ∧
    extendRefused up 0x11010000 = false ∧ mdpOpen up = false := by decide +kernel
theorem witness_mdp_start_loader : cmdOp 0x14020000 = 1 ∧ cmdOwner 0x14020000 = 0x02 ∧ cmdAlg 0x14020000 = 4 ∧
    extendRefused up 0x14020000 = false := by decide +kernel
theorem witness_mdp_restart : mdpOpen (port { st := .opened, owner := 1 }) = true ∧ (port { st := .opened, owner := 1 }).mdp.path = .regPort ∧
    (port { st := .opened, owner := 1 }).mdp.owner = cmdOwner 0x11010000 := by decide +kernel
theorem witness_mdp_data : ∀ p ∈ [Path.regPort, .pair], let s := port { st := .opened, path := p, count := 2 ^ 32 - 5 }
    mainOn s = true ∧ regGuarded s = false ∧ portHeld s = false ∧ s.mdp.path = p ∧ s.mdp.st = .opened ∧ s.mdp.count + 4 ≤ 2 ^ 32 - 1 := by decide +kernel
theorem witness_mdp_misuse : (port { st := .busy }).mdp.path = .regPort ∧ (port { st := .busy }).mdp.st = .busy := by decide +kernel
theorem witness_mdp_final : ∀ e ∈ [((0x20010000 : W32), 0), (0x20010001, 4), (0x20010004, 64)],
    let s := port { st := .opened, owner := 1, count := e.2 }
    cmdOp e.1 = 2 ∧ s.mdp.owner = cmdOwner e.1 ∧ cmdValid e.1 ≤ 4 ∧ (cmdValid e.1 = 0 ↔ s.mdp.count = 0) := by decide +kernel
theorem witness_mdp_busy : (port { st := .busy }).mdp.why = .block ∧ (port { st := .busy, why := .final 4 }).mdp.why = .final 4 := by
  decide +kernel
/-- The SHA-256 digest of no bytes. -/
theorem test_mdp_empty : (match execMdpBusyEnd (port { st := .busy, why := .final 0, alg := 1 }) with
    | .next t => (t.mdp.st, (t.mdp.result.take 4).map (·.toNat)) | _ => (.idle, [])) = (.done, [0xe3, 0xb0, 0xc4, 0x42]) := by decide +kernel
theorem witness_mdp_extend : ∀ n ∈ [0, 3, 4, 7], let s := port { st := .busy, why := .final 0, alg := 2, extend := true, slot := n }
    s.mdp.extend = true ∧ (if s.mdp.slot < 4 then s.mdp.closed.getLsbD s.mdp.slot else s.mdp.lockBits.getLsbD (s.mdp.slot - 4)) = false := by
  decide +kernel
theorem witness_mdp_abort : cmdOp 0x30010000 = 3 ∧ mdpOpen (port { st := .opened, owner := 1 }) = true ∧
    (port { st := .opened, owner := 1 }).mdp.owner = cmdOwner 0x30010000 := by decide +kernel
theorem witness_mdp_idle : let s := port { st := .opened, idleLimit := 1 }
    mainOn s = true ∧ mdpOpen s = true ∧ s.mdp.idleLimit ≠ 0 ∧ s.mdp.lastWrite + us s.mdp.idleLimit ≤ now s := by decide +kernel
theorem witness_mdp_rest : up.mdp.extLocked = false ∧ cmdOp 0 = 0 ∧ cmdOp 0x40000000 = 4 ∧ (port { st := .done }).mdp.st = .done ∧
    mdpOpen (port { st := .done }) = false := by decide +kernel

/-! ## Witnesses: the ledger, the log, the store -/

/-- A core in service whose main row of persistence is as given. -/
def kept (p : Persist) : State := { up with per := p }
/-- A commission record waits; then one with a counter move. -/
theorem witness_commit_queue : mainOn up = true ∧
    ∀ p ∈ [LPayload.counter [(0, 7)], .root 9 [], .start 3 [], .doneRec 5 0 (some (0, 4)) none, .rollback 1],
      let s := kept { nextSeq := 2 ^ 48 - 2, queue := [({ payload := p }, .nothing)] }
      s.per.queue = [({ payload := p }, .nothing)] ∧ s.per.nextSeq < 2 ^ 48 - 1 := by decide +kernel
/-- A record that names a smaller value does not lower its counter, and one that names a larger one raises it. -/
theorem test_commit_counter : ([3, 9].map fun v =>
    match execLedgerCommitDone true true (kept { counters := [(0, 7)], queue := [({ payload := .counter [(0, v)] }, .nothing)] }) with
    | .next t => (counterOf t 0, t.per.nextSeq, t.per.credit) | _ => (0, 0, 0)) = [(7, 1, 32767), (9, 1, 32767)] := by decide +kernel
theorem witness_refresh : let s := kept { counters := [(13, 43200)] }
    counterOf s 14 + 43200 ≤ counterOf s 13 ∧ queuedMove s 14 = false ∧ s.per.poweredAt + 3600 * ms 1000 ≤ now s ∧
      queuedMove s 13 = false := by decide +kernel
theorem witness_credit : 0 < (now up - up.per.creditAt) * 32768 / ms 1000 := by decide +kernel
theorem witness_archive : ∀ p ∈ [({ archiving := some 0 } : Persist), { nextLseq := 9216 }],
    ((kept p).per.archiving.isSome = true ∨ archiveDue (kept p) = true) ∧ (kept p).per.archiveAt + ms 1000 ≤ now (kept p) := by decide +kernel
/-- A request with a buffer at 64 KiB. -/
def askHost (code : Nat) : Req := { cmd := code, param := 0x10000 }
theorem witness_status_blocks : ∀ e ∈ [(0x0300, 64), (0x0402, 64), (0x0600, 256), (0x0705, 64)],
    startsB (asked (askHost e.1)) e.1 0 (askHost e.1) = true ∧ argsFrom (askHost e.1) 0 = false ∧
    outputFault (asked (askHost e.1)) (askHost e.1).param e.2 = none ∧ (reads []).write = .ok := by decide +kernel
theorem witness_log : unarchived (kept { nextLseq := 12223 }) < 12224 ∧ isEvidence 0x0013 = true ∧ isEvidence 0x0001 = false ∧
    look (kept { rate := [(1, 511)] }).per.rate 0x0001 0 < 512 ∧ 512 ≤ look (kept { rate := [(1, 512)] }).per.rate 0x0001 0 ∧
    up.per.logRowsFail.contains (up.per.nextLseq % 12288) = false ∧ up.per.rateAt + ms 1000 ≤ now up := by decide +kernel
/-- The log as its record 6 is written after a record 5. -/
def logged : State := kept { nextLseq := 6, audit := [(5, { lseq := 5, code := 2 })] }
theorem witness_log_chain : logged.per.nextLseq ≠ 0 ∧ heldRecord logged (logged.per.nextLseq - 1) = some { lseq := 5, code := 2 } := by
  decide +kernel
/-- LOG_EXPORT of record 5 to 128 KiB, with the MAK held. -/
def exporting : State :=
  { asked (askHost 0x0301) with
    per := logged.per
    keys := { lifecycle := .service, mak := some (zeros 48, zeros 32) } }
def exportText : Bytes := leBytes 8 5 ++ leBytes 2 1 ++ zeros 6 ++ leBytes 8 0x20000
theorem witness_export : seedPending exporting = false ∧ startsB exporting 0x0301 0 (askHost 0x0301) = true ∧ argsFrom (askHost 0x0301) 0 = false ∧
    (readInput exporting 0x10000 24 (.ok exportText)).1 = .data exportText ∧ allZero (subBytes exportText 0x0A 6) = true ∧
    field exportText 8 2 = 1 ∧ field exportText 0x10 8 % 64 = 0 ∧ outputFault exporting (field exportText 0x10 8) 4915 = none ∧
    heldRecord exporting (field exportText 0 8) = some { lseq := 5, code := 2 } ∧ exporting.keys.mak.isSome = true ∧
    internalReady exporting = true := by decide +kernel

/-- A STORE_ATTACH block: rings of 64 entries, 256 buffers, polled every microsecond. -/
def attachText : Bytes :=
  leBytes 8 0x10000 ++ leBytes 8 0x20000 ++ leBytes 8 0x30000 ++ leBytes 8 0x30008 ++ leBytes 8 0x100000 ++ leBytes 4 256 ++ [6, 0] ++
    leBytes 2 0xFFFF ++ leBytes 4 0 ++ leBytes 2 1 ++ zeros 10
theorem witness_attach : let s := asked (askHost 0x0400)
    startsB s 0x0400 0 (askHost 0x0400) = true ∧ s.store.attach = none ∧ argsFrom (askHost 0x0400) 0 = false ∧
    (readInput s 0x10000 64 (.ok attachText)).1 = .data attachText ∧ attachOk (readInput s 0x10000 64 (.ok attachText)).2 attachText (attachFrom attachText) = true ∧
    (readInput s 0x10000 64 (.ok (zeros 64))).1 = .data (zeros 64) ∧ attachOk s (zeros 64) (attachFrom (zeros 64)) = false := by decide +kernel
/-- A store that is up, in the given lifecycle, and the request that comes next. -/
def storing (q : Req) (x : Lifecycle) : State :=
  { asked q with
    store := { attach := some { timeoutMs := 1 } }
    keys := { lifecycle := x, smk := some (zeros 32, zeros 32) } }
theorem witness_attached : (startsB (storing (askHost 0x0400) .service) 0x0400 0 (askHost 0x0400) = true) ∧
    (storing (askHost 0x0400) .service).store.attach.isSome = true ∧
    startsB (storing { cmd := 0x0401 } .service) 0x0401 0 { cmd := 0x0401 } = true := by decide +kernel
theorem witness_format : ∀ x ∈ [Lifecycle.service, .blank, .enrolled], let s := storing { cmd := 0x0403 } x
    startsB s 0x0403 0 { cmd := 0x0403 } = true ∧ rootPending s = false ∧ s.keys.lifecycle = x ∧ s.store.attach.isSome = true ∧
    s.store.formatLeft = none := by decide +kernel
def snapshotText : Bytes := leBytes 4 3275 ++ zeros 4 ++ leBytes 8 0x20000
theorem witness_snapshot : ∀ held ∈ [[], [3275]],
    let s := { storing (askHost 0x0404) .service with store := { attach := some {}, snapshots := held } }
    startsB s 0x0404 0 (askHost 0x0404) = true ∧ (readInput s 0x10000 16 (.ok snapshotText)).1 = .data snapshotText ∧
    field snapshotText 0 4 < 3276 ∧ outputFault s (field snapshotText 8 8) (1280 * 1024) = none ∧ storeUp s = true ∧
    (s.store.snapshots.contains (field snapshotText 0 4) = !held.isEmpty) := by decide +kernel
/-- A store with a WRITE outstanding. -/
def awaiting : State :=
  { up with store := { attach := some { timeoutMs := 1 }, outstanding := [{ rid := 4, op := .write }], lastMsg := some 0, msgDeferred := true } }
theorem witness_store_requests : mainOn awaiting = true ∧ awaiting.store.attach.isSome = true ∧
    awaiting.store.outstanding.find? (fun r => r.rid == 3) = none ∧
    awaiting.store.outstanding.find? (fun r => r.rid == 4) = some { rid := 4, op := .write } ∧
    awaiting.store.attach = some { timeoutMs := 1 } ∧ ({ rid := 4, op := .write } : StoreReq).issuedAt + ms 1 ≤ now awaiting ∧
    awaiting.store.lastMsg = some 0 ∧ awaiting.store.msgDeferred = true ∧ 0 + us 10 ≤ now awaiting := by decide +kernel
/-- A batch that waits 1 ms, with the store away, up, and out of versions. -/
def batching (s : State) : State := { s with store := { s.store with gathering := some { requests := 1 } } }
theorem witness_batch : batchDue (batching up) { requests := 1 } = true ∧ storeUp (batching up) = false ∧
    batchDue (batching (storing {} .service)) { requests := 1 } = true ∧ storeUp (batching (storing {} .service)) = true ∧
    versionsGone (batching (storing {} .service)) = false ∧
    versionsGone (batching { storing {} .service with per := { counters := [(5, 2 ^ 20)] } }) = true ∧
    loadPaths (({ requests := 1 } : Batch).changes.map (·.1)) (batching (storing {} .service)) =
      (.have [], batching (storing {} .service)) := by decide +kernel

/-! ## Witnesses: the mailbox, updates, sensors -/

theorem witness_submit : up.mgmt.requests = [] ∧ queuedCount (asked {}) = 1 ∧
    queuedCount { up with mgmt := { requests := List.replicate 16 {} } } = 16 ∧
    (asked {}).mgmt.requests.any (mergesInto (stagedReq (asked {}))) = false ∧ (1 : W32).getLsbD 0 = true := by decide +kernel
theorem test_queue_full : ([15, 16].map fun n => match execMbxReqSubmit 1 { up with mgmt := { up.mgmt with requests := List.replicate n {} } } with
    | .next t => (t.mgmt.requests.length, t.mgmt.queueFull) | _ => (0, false)) = [(16, false), (16, true)] := by decide +kernel
theorem witness_pop : ∀ r ∈ [[], [({ tag := 2 } : Reply)]], let s := { up with mgmt := { up.mgmt with replies := { tag := 1 } :: r } }
    s.mgmt.replies = { tag := 1 } :: r ∧ s.mgmt.requests.any (fun q => q.st == .replyHeld) = false := by decide +kernel
theorem witness_finish_request : (asked {}).mgmt.requests[0]? = some ({} : Req) ∧ ({} : Req).merged = [] ∧ (asked {}).mgmt.replies = [] ∧
    (asked {}).mgmt.st = .running := by decide +kernel
theorem witness_unknown : ∀ s ∈ [asked { cmd := 0x0800 }, { asked { cmd := 0x0800 } with pwr := inSafe.pwr, keys := inSafe.keys }],
    mbxNext s = some (0, { cmd := 0x0800 }) ∧ cmdCodes.contains 0x0800 = false := by decide +kernel
theorem witness_ping : ∀ a ∈ [[], [0, 0, 0, 1]], mbxNext (asked { cmd := 1, args := a }) = some (0, { cmd := 1, args := a }) := by decide +kernel
theorem witness_heartbeat : mainOn up = true ∧ up.mgmt.st = .running ∧ up.mgmt.beatAt + ms 1 ≤ now up := by decide +kernel
/-- A request to write one bank's last 64 bytes, bank 0 running. -/
def updateAsk (bank : Nat) : Req := { cmd := 0x0500, param := 0x10000, args := [bank, 0x3FFFC0, 64] }
theorem witness_update_write : ∀ b ∈ [0, 1], startsB (asked (updateAsk b)) 0x0500 0 (updateAsk b) = true ∧
    (asked (updateAsk b)).mgmt.updSt ≠ .activated ∧ argOf (updateAsk b) 0 = b ∧ argOf (updateAsk b) 1 = 0x3FFFC0 ∧
    argOf (updateAsk b) 2 = 64 ∧ (asked (updateAsk b)).mgmt.runningBank = 0 ∧ updElsewhere (asked (updateAsk b)) b = false ∧
    (readInput (asked (updateAsk b)) 0x10000 64 (.ok (List.replicate 64 7))).1 = .data (List.replicate 64 7) := by decide +kernel
theorem witness_update_lowest : let q : Req := { cmd := 0x0500, param := 0x10000, args := [1, 0x1000, 65536] }
    startsB (asked q) 0x0500 0 q = true ∧ argOf q 1 = 0x1000 ∧ argOf q 2 = 65536 := by decide +kernel
/-- The other bank is the one written, in the given state. -/
def updating (q : Req) (x : UpdSt) : State := { asked q with mgmt := { (asked q).mgmt with updSt := x, updBank := 1 } }
theorem witness_update_check : ∀ x ∈ [UpdSt.writing, .checked], ∀ c ∈ [0x0501, 0x0502, 0x0503],
    let q : Req := { cmd := c, args := [1] }
    startsB (updating q x) c 0 q = true ∧ argOf q 0 ≠ (updating q x).mgmt.runningBank ∧ (updating q x).mgmt.updBank = argOf q 0 ∧
      (updating q x).mgmt.updSt = x ∧ rosterPending (updating q x) = false ∧ updElsewhere (updating q x) (argOf q 0) = false := by
  decide +kernel
theorem witness_package_bad : packageFault (updating { cmd := 0x0501, args := [1] } .writing) 1 [] = some 0x01 := by decide +kernel
theorem witness_versions : versionOk (kept { counters := [(2, 4)], otpFloor := 3 }) 4 = true ∧
    versionOk (kept { counters := [(2, 4)], otpFloor := 3 }) 3 = false ∧ versionOk (kept { otpFloor := 5 }) 4 = false := by decide +kernel
/-- A sample at nominal voltages. -/
def sampled : Sample := { vdd := 800, vddm := 1800, vaon := 900, vbat := 3000, temps := [], clocks := [] }
theorem witness_sample : overRatings (.sensorSample sampled) = false ∧ up.mgmt.sample = none ∧ 850 ≤ sampled.vaon ∧
    ({ up with mgmt := { sample := some sampled } } : State).mgmt.sampleAt + ms 1 ≤ now up := by decide +kernel

/-! ## Witnesses: mirror groups -/

/-- A charter of three members, the last with no bits but its first; this core is member 0. -/
def charterText : Bytes :=
  ascii "PRDMGRP1" ++ leBytes 4 6 ++ [3, 0] ++ leBytes 2 50 ++ zeros 48 ++ zeros 48 ++ ([1] ++ zeros 47) ++ ([2] ++ zeros 47) ++ zeros 240 ++
    zeros 8
def joinAsk : Req := { cmd := 0x0700, param := 0x10000, args := [456] }
def joining : State := { asked joinAsk with per := { counters := [(1, 6)] } }
theorem witness_join : startsB joining 0x0700 0 joinAsk = true ∧ argsFrom joinAsk 1 = false ∧
    (readInput joining 0x10000 456 (.ok charterText)).1 = .data charterText ∧
    (parseCharter charterText).map (fun c => (c.rosterGen, c.n, c.leaseMs, c.dids.findIdx? (· == fit 48 joining.keys.did))) =
      some (6, 3, 50, some 0) ∧
    joining.keys.lifecycle = .service ∧ inGroup joining = false ∧ counterOf joining 1 = 6 ∧ internalReady joining = true := by decide +kernel
/-- The charter signed by an officer whose key was chosen like those of the KUMs, and that roster active. -/
def charterOfficer : Officer :=
  { op := 0
    key := (0x2114a88121e34b5f1e68a1becb01fe7598e8957fa8486a09c0455a77533c6b27cc9b7705d2f2948936a0441a87c36fee,
      0xc5c90e03b0af9b8ca75d4c7a3afab0ca2f1454b6fb2e12b7aac5acd98468f7116e99d1c18944f9247abcae75bd0efd1a)
    sig := (0x14a3380d81bb5409cdeb9f47b95844657916901caf696b87e8e72461a01fb2704627d43d931c420720c5404c6d1b7c2c,
      0x528ce03606ed502737ae7d1ee5611195e45a4072bda5ae1fa39c9186807ec9c1189f50f64c71081c83150131b46df0b) }
def signedCharter : Bytes :=
  charterText.take 448 ++ [0, 0, 0, 0] ++ leBytes 4 96 ++ beBytes 48 charterOfficer.sig.1 ++ beBytes 48 charterOfficer.sig.2
def chartered : State := { joining with keys := { joining.keys with rosterA := rosterWith charterOfficer } }
theorem witness_join_signed : let q : Req := { cmd := 0x0700, param := 0x10000, args := [552] }
    let s := { chartered with mgmt := { chartered.mgmt with requests := [q] } }
    startsB s 0x0700 0 q = true ∧ argsFrom q 1 = false ∧
    (readInput s 0x10000 552 (.ok signedCharter)).1 = .data signedCharter ∧
    (parseCharter signedCharter).map (charterSigned (readInput s 0x10000 552 (.ok signedCharter)).2) = some true := by decide +kernel
theorem witness_join_unsigned : (parseCharter charterText).map (charterSigned joining) = some false := by decide +kernel
/-- A member of a group of three, its leader member 1, with pair keys formed. -/
def member (q : Req) (x : MirSt) : State :=
  { asked q with
    mir := { st := x, own := 0, n := 3, leaseMs := 50, leader := some 1, groupId := zeros 16
             peers := [(1, { key := some (zeros 32) }), (2, { key := some (zeros 32) })] } }
theorem witness_leave : startsB (asked { cmd := 0x0701 }) 0x0701 0 { cmd := 0x0701 } = true ∧ inGroup (asked { cmd := 0x0701 }) = false ∧
    startsB (member { cmd := 0x0701 } .member) 0x0701 0 { cmd := 0x0701 } = true ∧ inGroup (member { cmd := 0x0701 } .member) = true := by
  decide +kernel
/-- MIRROR_TAKE with room for the first of two messages. -/
def takeAsk : Req := { cmd := 0x0702, param := 0x10000, args := [100] }
theorem witness_take : let s := { asked takeAsk with mir := { outbound := [zeros 96, zeros 72] } }
    startsB s 0x0702 0 takeAsk = true ∧ argsFrom takeAsk 1 = false ∧ outputFault s 0x10000 (argOf takeAsk 0) = none ∧
    fitting (argOf takeAsk 0) s.mir.outbound = [zeros 96] := by decide +kernel
/-- MIRROR_JOURNAL of an acknowledgement of the log to member 2. -/
def journalAsk : Req := { cmd := 0x0704, param := 0x10000, args := [264, 2] }
theorem witness_journal : ∀ x ∈ [MirSt.member, .leader], startsB (member journalAsk x) 0x0704 0 journalAsk = true ∧
    argsFrom journalAsk 2 = false ∧ argOf journalAsk 0 ≤ 262144 ∧
    (readInput (member journalAsk x) 0x10000 264 (.ok (kumText 0x20))).1 = .data (kumText 0x20) ∧
    (member journalAsk x).mir.st = x ∧ (joinedPeers (member journalAsk x)).contains 2 = true := by decide +kernel
theorem witness_journal_kum : (parseKum (kumText 0x20)).map (fun k => (k.counter, (carriedState (member journalAsk .leader) k).1.isSome)) =
    some (0, true) := by decide +kernel

/-- A message of member 1 to this one: header, the shortest body of its type, and a tag or signature of zeros. -/
def msgText (type : Nat) : Bytes :=
  ascii "PRDMIRR1" ++ [BitVec.ofNat 8 type, 1, 0, 0] ++ leBytes 4 (bodyLen type []) ++ leBytes 8 1 ++ zeros 40 ++ zeros (bodyLen type []) ++
    zeros (if isSigned type then 4723 else 32)
def giveAsk (type : Nat) : Req := { cmd := 0x0703, param := 0x10000, args := [(msgText type).length] }
theorem witness_messages : ∀ type ∈ msgTypes.filter (fun t => !isSigned t), startsB (member (giveAsk type) .member) 0x0703 0 (giveAsk type) = true ∧
    argsFrom (giveAsk type) 1 = false ∧ field (msgText type) 8 1 = type ∧ inGroup (member (giveAsk type) .member) = true ∧
    (readInput (member (giveAsk type) .member) 0x10000 (argOf (giveAsk type) 0) (.ok (msgText type))).1 = .data (msgText type) ∧
    (parseMsg (member (giveAsk type) .member) (msgText type)).isSome = true := by decide +kernel
theorem witness_messages_signed : ∀ type ∈ [0x01, 0x03], startsB (member (giveAsk type) .member) 0x0703 0 (giveAsk type) = true ∧
    argsFrom (giveAsk type) 1 = false ∧ field (msgText type) 8 1 = type ∧
    (parseMsg (member (giveAsk type) .member) (msgText type)).isSome = true := by decide +kernel
theorem witness_no_group : startsB (asked (giveAsk 0x40)) 0x0703 0 (giveAsk 0x40) = true ∧ inGroup (asked (giveAsk 0x40)) = false := by
  decide +kernel
/-- With no pair key formed, what arrives is dropped: it does not stay. -/
theorem witness_dropped : ∀ type ∈ msgTypes.filter (fun t => !isSigned t),
    let s := { member (giveAsk type) .member with mir := { (member {} .member).mir with peers := [] } }
    (parseMsg s (msgText type)).map (tagAccepts s) = some false := by decide +kernel
/-- An END_LOOKUP with its tag under the pair key of zeros. -/
def lookupText : Bytes := (msgText 0x24).take 88 ++ beBytes 32 96007818225878128156178050148057095358972878392608549155616882614686925494332
theorem lookup_tag : mirTag (zeros 32) (lookupText.take 88) = lookupText.drop 88 := by decide +kernel
/-- A member whose store is attached with nothing of it read: an END_LOOKUP waits for the store. -/
def lookingUp : State :=
  { member (giveAsk 0x24) .member with
    store := { attach := some {}, root := { present := true } }
    keys := { (member (giveAsk 0x24) .member).keys with smk := some (zeros 32, zeros 32) } }
def lookupMsg : Msg :=
  { type := 0x24, sender := 1, ctr := 1, term := 0, group := zeros 16, body := zeros 24, signed := lookupText.take 88, tag := lookupText.drop 88 }
theorem witness_stays : startsB lookingUp 0x0703 0 (giveAsk 0x24) = true ∧ inGroup lookingUp = true ∧
    parseMsg lookingUp lookupText = some lookupMsg ∧ (hearTagged hearEndLookup lookingUp lookupMsg).1 = .stay := by
  refine ⟨by decide +kernel, by decide +kernel, by decide +kernel, ?_⟩
  have k : (peerOf lookingUp 1).key = some (zeros 32) := by decide +kernel
  have c : (peerOf lookingUp 1).ctrIn = 0 := by decide +kernel
  have g : lookingUp.mir.term = 0 ∧ fit 16 lookingUp.mir.groupId = zeros 16 := by decide +kernel
  have a : tagAccepts lookingUp lookupMsg = true := by simp [tagAccepts, lookupMsg, k, c, g, lookup_tag]
  have h : (hearEndLookup (noteMsg lookingUp lookupMsg) lookupMsg).1 = .stay := by decide +kernel
  simp only [hearTagged, a]
  revert h
  rcases hearEndLookup (noteMsg lookingUp lookupMsg) lookupMsg with ⟨_ | _ | _ | _, t⟩ <;> simp
/-- With the pair key formed and no store, the same message is taken. -/
theorem witness_heard : (hearEndLookup (noteMsg (member (giveAsk 0x24) .member) lookupMsg) lookupMsg).1 = .taken := by decide +kernel
theorem witness_join_dropped : ∀ type ∈ [0x01, 0x02, 0x03], let s := { member {} .member with mir := { (member {} .member).mir with peers := [] } }
    (parseMsg s (msgText type)).map (fun m => [(hearOffer s m).1, (hearAccept s m).1, (hearRefused s m).1]) =
      some [.dropped 4, .dropped 0, .dropped 0] := by decide +kernel
/-- A heartbeat of member 1 in term 3, its body and header empty, under the key of zeros. -/
def taggedMsg (ctr term : Nat) : Msg :=
  { type := 0x12, sender := 1, ctr := ctr, term := term, group := zeros 16, body := zeros 24, signed := [], tag := mirTag (zeros 32) [] }
theorem witness_tag : tagAccepts (member {} .member) (taggedMsg 1 3) = true := by
  have k : (peerOf (member {} .member) 1).key = some (zeros 32) := by decide +kernel
  have c : (peerOf (member {} .member) 1).ctrIn = 0 := by decide +kernel
  have t : (member {} .member).mir.term = 0 := by decide +kernel
  have g : fit 16 (member {} .member).mir.groupId = zeros 16 := by decide +kernel
  simp [tagAccepts, taggedMsg, k, c, t, g]
theorem witness_tag_fails : tagAccepts up (taggedMsg 1 3) = false := by decide +kernel

/-- A member whose grant to member 2 runs for another tick. -/
def granted : State := { member {} .member with mir := { (member {} .member).mir with grant := some (3, 2, 10 ^ 12 + 1) } }
theorem witness_grant : grantHeld granted = some (3, 2, 10 ^ 12 + 1) ∧ (taggedMsg 1 3).sender ≠ 2 := by decide +kernel
theorem witness_candidate : let s := member {} .member
    serving s = true ∧ s.mir.st = .member ∧ claimAt s ≤ now s ∧ settledIn s = true ∧ s.mir.noClaimUntil ≤ now s ∧ grantHeld s = none := by
  decide +kernel
theorem witness_leader : let s := member {} .leader
    serving s = true ∧ s.mir.st = .leader ∧ s.mir.requestedAt + 25000 * s.mir.leaseMs ≤ now s ∧ s.mir.leaseEnd ≤ now s := by decide +kernel
theorem witness_grant_end : ∀ e ∈ [0, 10 ^ 12],
    let s := { member {} .member with mir := { (member {} .member).mir with grant := some (3, 2, e) } }
    s.mir.grant = some (3, 2, e) ∧ e ≤ now s := by decide +kernel
theorem witness_group_timers : let s := member {} .member
    inGroup s = true ∧ s.mir.leader = some 1 ∧ s.mir.timeAskedAt + ms 1000 ≤ now s := by decide +kernel
theorem witness_vector_window : let s := { member {} .member with mir := { (member {} .member).mir with lastVector := some 5, outbound := [[0]] } }
    s.mir.lastVector = some 5 ∧ s.mir.outbound ≠ [] ∧ 5 + us 10 ≤ now s := by decide +kernel
theorem witness_group_waits : ∀ p ∈ [Phase.waiting, .operands],
    let j := { jobAt { opcode := 0x0601 } with phase := p, blockSince := some 5, heldSince := some 5 }
    jobOf (withJob j) 0 = some j ∧ serving (withJob j) = true ∧ 5 + ms 1000 ≤ now (withJob j) ∧ j.phase = p := by decide +kernel

/-- RFC 7748, section 5.2, the first X25519 vector. -/
theorem test_x25519 : xAgree x25519 (beBytes 32 0xa546e36bf0527c9d3b16154b82465edd62144c0ac1fc5a18506a2244ba449ac4)
    (beBytes 32 0xe6db6867583030db3594c1a424b15f7c726624ec26b3353b10a903a6d0ab1c4c) =
    beBytes 32 0xc3da55379de9c6908e94ea4df28d084f32eccf03491c71f754b4075577a28552 := by decide +kernel
/-- Twice the base point of P-256, from the published multiples of it. -/
theorem test_p256_double : (ecMul curveP256 2 (ecBase curveP256)).map (·.1) =
    some 0x7cf27b188d034f7e8a52380304b51ac3c08969e277f21b35a60b48fc47669978 := by decide +kernel

end Sys2Proof.Tests
end

section
/-! SUPPORT. Rules for accesses to the register file: what an access through the register port or the internal path answers when the
port serves, is guarded or is held (R49, R51, R73, R473), what the lockable registers take (R575), and what the reads that latch
leave (R576, R583). -/
namespace Sys2Proof.Machine

/-! ## An access through a path -/

theorem portAccess_of_free {s : State} (h : portHeld s = false) (c : Held) (r : Res) : portAccess c s r = r := by
  simp [portAccess, h]

theorem portAccess_of_serves {s : State} (h : PortServes s) (c : Held) (r : Res) : portAccess c s r = r :=
  portAccess_of_free h.free c r

theorem portAccess_of_held {s : State} (h : portHeld s = true) (c : Held) (r : Res) :
    portAccess c s r = .next { s with fabric := { s.fabric with heldAccess := s.fabric.heldAccess ++ [c] } } := by
  simp [portAccess, h]

theorem regWrite_of_serves {s : State} (h : PortServes s) (f : State → State) : regWrite s f = emit (f s) .regOk := by
  simp [regWrite, h.answered]

theorem guardAnswer_of_supplied {s : State} (h : aonAbsent s = false) :
    guardAnswer s = emit s (.regAbsent (BitVec.allOnes 32)) := by
  simp [guardAnswer, h]

theorem regWrite_of_guarded {s : State} (h : regGuarded s = true) (f : State → State) : regWrite s f = guardAnswer s := by
  simp [regWrite, h]

theorem mdpAccess_of_serves {s : State} (h : PortServes s) (f : State → State) : mdpAccess .regPort s f = f s := by
  simp [mdpAccess, h.answered]

theorem mdpAccess_pair {s : State} (h : mainOn s = true) (f : State → State) : mdpAccess .pair s f = f s := by
  simp [mdpAccess, h]

/-! ## REGISTER_WRITE -/

/-- A write to a register without a row of its own is an access through its path. -/
theorem exec_registerWrite {off : Nat} {v : W32} (hr : holdsReg off = true) (ho : ownRow off v = false) (p : Path) (s : State) :
    exec (.registerWrite ⟨p, off⟩ v) s =
      pathAccess p (.registerWrite off v) s (.next (pathWrite p s (fun s => writeReg s off v))) := by
  change execRegisterWrite ⟨p, off⟩ v s = _
  simp [execRegisterWrite, hr, ho]

theorem exec_registerWrite_of_serves {s : State} {off : Nat} {v : W32} (h : PortServes s) (hr : holdsReg off = true)
    (ho : ownRow off v = false) : exec (.registerWrite ⟨.regPort, off⟩ v) s = .next (emit (writeReg s off v) .regOk) := by
  simp only [exec_registerWrite hr ho, pathAccess, pathWrite, portAccess_of_serves h, regWrite_of_serves h]

theorem exec_registerWrite_of_guarded {s : State} {off : Nat} {v : W32} (hg : regGuarded s = true) (hf : portHeld s = false)
    (ha : aonAbsent s = false) (hr : holdsReg off = true) (ho : ownRow off v = false) :
    exec (.registerWrite ⟨.regPort, off⟩ v) s = .next (emit s (.regAbsent (BitVec.allOnes 32))) := by
  simp only [exec_registerWrite hr ho, pathAccess, pathWrite, portAccess_of_free hf, regWrite_of_guarded hg,
    guardAnswer_of_supplied ha]

theorem exec_registerWrite_of_held {s : State} {off : Nat} {v : W32} (h : portHeld s = true) (hr : holdsReg off = true)
    (ho : ownRow off v = false) : exec (.registerWrite ⟨.regPort, off⟩ v) s =
      .next { s with fabric := { s.fabric with heldAccess := s.fabric.heldAccess ++ [.registerWrite off v] } } := by
  simp only [exec_registerWrite hr ho, pathAccess, portAccess_of_held h]

theorem exec_registerWrite_pair {s : State} {off : Nat} {v : W32} (h : mainOn s = true) (hr : holdsReg off = true)
    (ho : ownRow off v = false) : exec (.registerWrite ⟨.pair, off⟩ v) s = .next (writeReg s off v) := by
  simp only [exec_registerWrite hr ho, pathAccess, pathWrite, h, ↓reduceIte]

/-- Only at TB_CAD_CMD does the written value decide whether another row states the write. -/
theorem ownRow_eq_zero {off : Nat} (h : off ≠ 0x88) (v : W32) : ownRow off v = ownRow off 0 := by
  simp only [ownRow, beq_false_of_ne h, Bool.false_and]

/-- At a given offset other than TB_CAD_CMD, that the register has no row of its own is a closed check. -/
theorem exec_registerWrite_at {s : State} (off : Nat) (v : W32) (h : PortServes s)
    (hoff : (off != 0x88 && holdsReg off && !ownRow off 0) = true) :
    exec (.registerWrite ⟨.regPort, off⟩ v) s = .next (emit (writeReg s off v) .regOk) := by
  simp only [Bool.and_eq_true, bne_iff_ne, Bool.not_eq_true'] at hoff
  obtain ⟨⟨hne, hr⟩, ho⟩ := hoff
  exact exec_registerWrite_of_serves h hr ((ownRow_eq_zero hne v).trans ho)

/-! ## The lockable registers (R79, R477, R575, R583) -/

/-- GLB_RCTX_BASE_LO. -/
theorem writeReg_rctxLo (s : State) (v : W32) : writeReg s 0x30 v =
    if s.glb.rctxLoLocked then lockedWrite s
    else if part v 0 12 ≠ 0 then s
    else setGlb s { s.glb with rctxLo := v, rctxLoLocked := true } := rfl

/-- GLB_RCTX_BASE_HI. -/
theorem writeReg_rctxHi (s : State) (v : W32) : writeReg s 0x34 v =
    if s.glb.rctxHiLocked then lockedWrite s else setGlb s { s.glb with rctxHi := v, rctxHiLocked := true } := rfl

/-- MBX_WDT_TIMEOUT. -/
theorem writeReg_wdtTimeout (s : State) (v : W32) : writeReg s 0x325C v =
    if s.mgmt.wdtLocked then lockedWrite s
    else if part v 0 10 = 0 ∨ 1000 < part v 0 10 then s
    else { s with mgmt := { s.mgmt with wdtTimeout := part v 0 10, wdtLocked := true } } := rfl

/-- ENT_MIN_SOURCES. -/
theorem writeReg_minSources (s : State) (v : W32) : writeReg s 0x3104 v =
    if s.ent.minLocked then lockedWrite s
    else if part v 0 4 < 2 ∨ 8 < part v 0 4 then s
    else settleEntropy { s with ent := { s.ent with minSources := part v 0 4, minLocked := true } } := rfl

/-- FP0_FMAX. -/
theorem writeReg_fmax (s : State) (v : W32) : writeReg s 0x1008 v =
    if (portOf s 0).fmaxLocked then lockedWrite s
    else if part v 0 11 = 0 ∨ 1600 < part v 0 11 then s
    else setPort s 0 { portOf s 0 with fmax := part v 0 11, fmaxLocked := true } := rfl

/-- The register at an offset is an LK register that has been locked. -/
def LockedAt (s : State) (off : Nat) : Prop :=
  off = 0x30 ∧ s.glb.rctxLoLocked = true ∨ off = 0x34 ∧ s.glb.rctxHiLocked = true ∨ off = 0x325C ∧ s.mgmt.wdtLocked = true ∨
    off = 0x3104 ∧ s.ent.minLocked = true ∨ off = 0x1008 ∧ (portOf s 0).fmaxLocked = true

theorem writeReg_of_locked {s : State} {off : Nat} (h : LockedAt s off) (v : W32) : writeReg s off v = lockedWrite s := by
  rcases h with ⟨rfl, hl⟩ | ⟨rfl, hl⟩ | ⟨rfl, hl⟩ | ⟨rfl, hl⟩ | ⟨rfl, hl⟩
  · rw [writeReg_rctxLo, if_pos hl]
  · rw [writeReg_rctxHi, if_pos hl]
  · rw [writeReg_wdtTimeout, if_pos hl]
  · rw [writeReg_minSources, if_pos hl]
  · rw [writeReg_fmax, if_pos hl]

/-- None of the lockable registers that REGISTER_WRITE reaches has a row of its own. -/
theorem plain_of_lockedAt {s : State} {off : Nat} (h : LockedAt s off) :
    (off != 0x88 && holdsReg off && !ownRow off 0) = true := by
  rcases h with ⟨rfl, -⟩ | ⟨rfl, -⟩ | ⟨rfl, -⟩ | ⟨rfl, -⟩ | ⟨rfl, -⟩ <;> decide

/-- S0_BIND_WRITE on a serving port, the first write and a later one. -/
theorem exec_s0BindWrite_of_serves {s : State} (h : PortServes s) (v : W32) : exec (.s0BindWrite v) s =
    .next (emit (if s.glb.s0Bound then lockedWrite s else bindSlice0 s v) .regOk) := by
  change execS0BindWrite v s = _
  simp only [execS0BindWrite, portAccess_of_serves h, regWrite_of_serves h]

/-! ## BAD_REGISTER_ACCESS (R49, R245) -/

theorem exec_badRegisterAccess_of_serves {s : State} {off : Nat} {shape : AccessShape} (h : PortServes s)
    (hb : badShape off shape = true) : exec (.badRegisterAccess off shape) s = .next (busError s off) := by
  change execBadRegisterAccess off shape s = _
  simp [execBadRegisterAccess, hb, portAccess_of_serves h, h.answered]

theorem busError_outside (s : State) {off : Nat} (h : inSpan off = false) :
    busError s off = emit { s with glb := { s.glb with unmapped := true } } .regBusError := by
  simp [busError, h]

theorem busError_inside (s : State) {off : Nat} (h : inSpan off = true) (hm : off < 0x3000 ∨ 0x30C0 ≤ off) :
    busError s off = emit s .regBusError := by
  have hn : ¬ (0x3000 ≤ off ∧ off < 0x30C0) := by omega
  simp [busError, h, hn]

theorem inSpan_measurement {off : Nat} (h0 : 0x3000 ≤ off) (h1 : off < 0x30C0) : inSpan off = true := by
  have hm : (0x3000, 0x30C0) ∈ regSpans := by decide
  exact List.any_eq_true.mpr ⟨_, hm, by simp [h0, h1]⟩

theorem busError_measurement (s : State) {off : Nat} (h0 : 0x3000 ≤ off) (h1 : off < 0x30C0) :
    busError s off = mdpMisuse .regPort s := by
  simp [busError, inSpan_measurement h0 h1, h0, h1]

/-! ## The reads that latch (R576, R583) -/

theorem latchedHi_latchHi_same (s : State) (p : Path) (off n : Nat) : latchedHi (latchHi s p off n) p off = hi32 n := by
  cases p <;> exact look_put_same _ _ _ _

theorem latchedHi_latchHi_other (s : State) {p q : Path} (h : q ≠ p) (off n o : Nat) :
    latchedHi (latchHi s p off n) q o = latchedHi s q o := by
  match p, q, h with
  | .regPort, .pair, _ => rfl
  | .pair, .regPort, _ => rfl

theorem latchHi_frame (s : State) (p : Path) (off n : Nat) :
    latchHi s p off n = { s with glb := (latchHi s p off n).glb } := by
  cases p <;> rfl

@[simp] theorem latchedHi_emit (s : State) (x : Out) (p : Path) (off : Nat) : latchedHi (emit s x) p off = latchedHi s p off := by
  cases p <;> rfl

theorem exec_loRegisterRead_of_serves {s : State} {off n : Nat} (h : PortServes s) (hv : pairValue s off = some n) :
    exec (.loRegisterRead .regPort off) s = .next (emit (latchHi s .regPort off n) (.regValue (lo32 n))) := by
  change execLoRegisterRead .regPort off s = _
  simp only [execLoRegisterRead, hv, pathAccess, portAccess_of_serves h, mdpAccess_of_serves h]

theorem exec_loRegisterRead_pair {s : State} {off n : Nat} (h : mainOn s = true) (hv : pairValue s off = some n) :
    exec (.loRegisterRead .pair off) s = .next (latchHi s .pair off n) := by
  change execLoRegisterRead .pair off s = _
  simp only [execLoRegisterRead, hv, pathAccess, mdpAccess_pair h]

theorem exec_feAddrLoRead_of_serves {s : State} {k : Nat} (hk : k < 16) (h : PortServes s) : exec (.feAddrLoRead k) s =
    .next (emit (setPort s k { portOf s k with feLatch := (portOf s k).fe }) (.regValue (lo32 (portOf s k).fe.ev.addr.toNat))) := by
  change execFeAddrLoRead k s = _
  simp [execFeAddrLoRead, Nat.not_le.mpr hk, portAccess_of_serves h, h.answered]

theorem portOf_setPort_same (s : State) (k : Nat) (p : Port) : portOf (setPort s k p) k = p := look_put_same _ _ _ _

@[simp] theorem portOf_emit (s : State) (x : Out) (k : Nat) : portOf (emit s x) k = portOf s k := rfl

end Sys2Proof.Machine
end

section
/-! CERTIFICATES. Register accesses (R8, R49, R51, R73, R574, R576, R583) and the lockable registers (R8, R79, R477, R575, R580). -/
namespace Sys2Proof.Machine

/-- Settles O27: each clause is the rule of its command for a port that serves, is guarded or is held, or for the internal path. -/
theorem registerAccess : Obligations.RegisterAccess := by
  refine ⟨fun s off v hr ho => ⟨fun h => ?_, fun hg hf ha => ?_, fun h => ?_, fun h => ?_⟩,
    fun s off shape h hb => ⟨fun ho => ?_, fun hi hm => ?_, fun h0 h1 => ?_⟩,
    fun s off n hv h => ⟨_, exec_loRegisterRead_of_serves h hv, ?_⟩,
    fun s off n hv h => ⟨_, exec_loRegisterRead_pair h hv, ?_⟩,
    fun s k hk h => ⟨_, exec_feAddrLoRead_of_serves hk h, ?_⟩⟩
  · exact exec_registerWrite_of_serves h hr ho
  · exact exec_registerWrite_of_guarded hg hf ha hr ho
  · exact exec_registerWrite_of_held h hr ho
  · exact exec_registerWrite_pair h hr ho
  · rw [exec_badRegisterAccess_of_serves h hb, busError_outside s ho]; rfl
  · rw [exec_badRegisterAccess_of_serves h hb, busError_inside s hi hm]; rfl
  · rw [exec_badRegisterAccess_of_serves h hb, busError_measurement s h0 h1]
  · refine ⟨rfl, ?_, fun o => ?_, rfl⟩
    · rw [latchedHi_emit, latchedHi_latchHi_same]; rfl
    · rw [latchedHi_emit, latchedHi_latchHi_other s (by decide)]
  · exact ⟨latchedHi_latchHi_same s .pair off n, latchedHi_latchHi_other s (by decide) off n, latchHi_frame s .pair off n⟩
  · refine ⟨rfl, ?_, rfl, rfl⟩
    rw [portOf_emit, portOf_setPort_same]

/-- Settles O28: a lockable register has three cases, locked, unlocked with a value it may not hold, and unlocked with a valid one,
and its equation picks one of them. -/
theorem lockableRegisters : Obligations.LockableRegisters := by
  refine ⟨fun s v h => ⟨fun hb => ?_, fun hb => ?_⟩, fun s v h hl => ⟨fun hv => ?_, fun hv => ?_⟩, fun s v h hl => ?_,
    fun s v h hl => ⟨fun hv => ?_, fun h1 h2 => ?_⟩, fun s v off h hl => ?_⟩
  · rw [exec_s0BindWrite_of_serves h, if_pos hb]
  · rw [exec_s0BindWrite_of_serves h, hb]; rfl
  · rw [exec_registerWrite_at 0x30 v h (by decide), writeReg_rctxLo, hl, if_neg (by decide), if_pos hv]
  · rw [exec_registerWrite_at 0x30 v h (by decide), writeReg_rctxLo, hl, if_neg (by decide), if_neg (fun hn => hn hv)]; rfl
  · rw [exec_registerWrite_at 0x34 v h (by decide), writeReg_rctxHi, hl]; rfl
  · rw [exec_registerWrite_at 0x325C v h (by decide), writeReg_wdtTimeout, hl, if_neg (by decide), if_pos hv]
  · have hv : ¬ (part v 0 10 = 0 ∨ 1000 < part v 0 10) := by omega
    rw [exec_registerWrite_at 0x325C v h (by decide), writeReg_wdtTimeout, hl, if_neg (by decide), if_neg hv]; rfl
  · rw [exec_registerWrite_at off v h (plain_of_lockedAt hl), writeReg_of_locked hl]; rfl

end Sys2Proof.Machine
end

section
/-! SUPPORT. The frame of a command, whichever it is: the frame lemmas under Sys2Proof/Laws/, one for each arm of the dispatch. -/
namespace Sys2Proof.Machine

/-- What the state before a command keeps of an earlier state `r`, the state after it keeps too. An opcode is run by `runOp`,
`runControl` (NOP, FENCE) or `runKum` (the KUM rows), whose frames hold for every number; each other command has its own. -/
theorem keeps_exec {r s : State} (kp : Kept r s) : ∀ c, KeptRes r (exec c s)
  | .fabricReadResponse port tag code data => keeps_execFabricReadResponse port tag code data kp
  | .fabricWriteResponse port tag code => keeps_execFabricWriteResponse port tag code kp
  | .faultEvent port ev => keeps_execFaultEvent port ev kp
  | .snoopNotification port line => keeps_execSnoopNotification port line kp
  | .pollIntervalExpiry ring => keeps_execPollIntervalExpiry ring kp
  | .poolPollExpiry ring => keeps_execPoolPollExpiry ring kp
  | .admission job => keeps_execAdmission job kp
  | .jobDispatch kind part => keeps_execJobDispatch kind part kp
  | .segmentEnd kind part => keeps_execSegmentEnd kind part kp
  | .engineFinish job second => keeps_execEngineFinish job second kp
  | .gridRelease job => keeps_execGridRelease job kp
  | .coalesceTimeout ring => keeps_execCoalesceTimeout ring kp
  | .contextWritebackTimer ring => keeps_execContextWritebackTimer ring kp
  | .agentDoorbell link ring pidx => keeps_execAgentDoorbell link ring pidx kp
  | .completionNoticeTaken link => keeps_execCompletionNoticeTaken link kp
  | .quiesceRequest port => keeps_execQuiesceRequest port kp
  | .quiesceRelease port => keeps_execQuiesceRelease port kp
  | .clockWindowEnd port edges => keeps_execClockWindowEnd port edges kp
  | .unfence port value => keeps_execUnfence port value kp
  | .registerWrite place value => keeps_execRegisterWrite place value kp
  | .badRegisterAccess offset shape => keeps_execBadRegisterAccess offset shape kp
  | .loRegisterRead path offset => keeps_execLoRegisterRead path offset kp
  | .feAddrLoRead port => keeps_execFeAddrLoRead port kp
  | .s0BindWrite value => keeps_execS0BindWrite value kp
  | .pwrVddMinWrite value => keeps_execPwrVddMinWrite value kp
  | .vddHigh mv => keeps_execVddHigh mv kp
  | .pwrGoodFall => keeps_execPwrGoodFall kp
  | .rstNAssert ns => keeps_execRstNAssert ns kp
  | .rstNRelease => keeps_execRstNRelease kp
  | .longReset => keeps_execLongReset kp
  | .maceAssert => keeps_execMaceAssert kp
  | .maceRelease => keeps_execMaceRelease kp
  | .maceHeldEpisode => keeps_execMaceHeldEpisode kp
  | .vaonChangeover mv => keeps_execVaonChangeover mv kp
  | .sliceCreate io => keeps_execSliceCreate io kp
  | .sliceModify io => keeps_execSliceModify io kp
  | .sliceReset => keeps_execSliceReset kp
  | .sliceResetDone slice => keeps_execSliceResetDone slice kp
  | .sliceDestroy => keeps_execSliceDestroy kp
  | .sliceReleaseDone slice => keeps_execSliceReleaseDone slice kp
  | .sliceQuery io => keeps_execSliceQuery io kp
  | .ringEnable io => keeps_execRingEnable io kp
  | .ringDisable => keeps_execRingDisable kp
  | .ringDrainDone ring => keeps_execRingDrainDone ring kp
  | .ringResume io walk => keeps_execRingResume io walk kp
  | .cadenceStart ring => keeps_execCadenceStart ring kp
  | .cadenceStop ring => keeps_execCadenceStop ring kp
  | .cadenceOrigin ring => keeps_execCadenceOrigin ring kp
  | .periodEnd ring => keeps_execPeriodEnd ring kp
  | .cadenceLost ring => keeps_execCadenceLost ring kp
  | .trefStop => keeps_execTrefStop kp
  | .trefReturn => keeps_execTrefReturn kp
  | .cfgCommit value contexts => keeps_execCfgCommit value contexts kp
  | .commitTakesEffect table => keeps_execCommitTakesEffect table kp
  | .tbGridDefault value => keeps_execTbGridDefault value kp
  | .nop job | .fence job => keeps_runControl _ job kp
  | .cbcEnc job | .cbcDec job | .cfbEnc job | .cfbDec job | .ofbEnc job | .ofbDec job | .ctrEnc job | .ctrDec job
  | .gcmEnc job | .gcmDec job | .ccmEnc job | .ccmDec job | .xtsEnc job | .xtsDec job | .kwWrap job | .kwUnwrap job
  | .kwpWrap job | .kwpUnwrap job | .sha224 job | .sha256 job | .sha384 job | .sha512 job | .sha512_256 job
  | .sha3_224 job | .sha3_256 job | .sha3_384 job | .sha3_512 job | .shake128 job | .shake256 job | .cshake128 job
  | .cshake256 job | .kmac128 job | .kmac256 job | .kmac128Verify job | .kmac256Verify job | .hmacSha224 job
  | .hmacSha256 job | .hmacSha384 job | .hmacSha512 job | .hmacSha512_256 job | .hmacSha224Verify job
  | .hmacSha256Verify job | .hmacSha384Verify job | .hmacSha512Verify job | .hmacSha512_256Verify job | .mulacc job
  | .mulaccVec job | .rsaPssSign job | .rsaV15Sign job | .rsaPssVerify job | .rsaV15Verify job | .rsaOaepEncrypt job
  | .rsaOaepDecrypt job | .ecdsaSign job | .ecdsaVerify job | .ecKeygen job | .ecdh job | .eddsaSign job
  | .eddsaVerify job | .eddsaBatchVerify job | .eddsaKeygen job | .xdh job | .xdhKeygen job | .curveLoad job
  | .curveUnload job | .hybridSign job | .hybridVerify job | .hybridKeygen job | .mlkemKeygen job | .mlkemEncaps job
  | .mlkemDecaps job | .mldsaKeygen job | .mldsaSign job | .mldsaVerify job | .slhdsaKeygen job | .slhdsaSign job
  | .slhdsaVerify job | .hykemKeygen job | .hykemEncaps job | .hykemDecaps job | .hbsSign job | .hbsVerify job
  | .hbsStatus job | .ordSign job | .ordQuery job | .ordTargetConfig job | .ordCheck job | .random job | .randomPr job
  | .reseed job | .keyWrap job | .keyUnwrap job | .keyDerive job | .keyDestroy job | .keyInfo job | .keyGenerate job
  | .transportOffer job | .attest job => keeps_runOp _ job kp
  | .treeBuildDone handle layer => keeps_execTreeBuildDone handle layer kp
  | .enrol job | .commission job | .roster job | .load job | .generate job | .replace job | .destroy job | .ackLog job
  | .policy job | .recover job => keeps_runKum _ job kp
  | .mdpStart path cmd => keeps_execMdpStart path cmd kp
  | .mdpData path word => keeps_execMdpData path word kp
  | .mdpFinal path cmd => keeps_execMdpFinal path cmd kp
  | .mdpAbort path cmd => keeps_execMdpAbort path cmd kp
  | .mdpBusyEnd => keeps_execMdpBusyEnd kp
  | .mdpIdleLimit => keeps_execMdpIdleLimit kp
  | .mdpExtLockWrite word => keeps_execMdpExtLockWrite word kp
  | .mdpResultRead path index => keeps_execMdpResultRead path index kp
  | .entropyStartupTestEnd source pass => keeps_execEntropyStartupTestEnd source pass kp
  | .repetitionCountFailure source => keeps_execRepetitionCountFailure source kp
  | .adaptiveProportionFailure source => keeps_execAdaptiveProportionFailure source kp
  | .conditionedBlock katPass drbgKatPass => keeps_execConditionedBlock katPass drbgKatPass kp
  | .internalReseed => keeps_execInternalReseed kp
  | .entSrcMaskWrite value => keeps_execEntSrcMaskWrite value kp
  | .ledgerCommitDone bank2 bank3 => keeps_execLedgerCommitDone bank2 bank3 kp
  | .mramRefresh => keeps_execMramRefresh kp
  | .poweredTimeMove => keeps_execPoweredTimeMove kp
  | .archiveRetry => keeps_execArchiveRetry kp
  | .logRateSecond => keeps_execLogRateSecond kp
  | .persistStatus io => keeps_execPersistStatus io kp
  | .logExport io => keeps_execLogExport io kp
  | .storeAttach io => keeps_execStoreAttach io kp
  | .storeDetach => keeps_execStoreDetach kp
  | .storeStatus io => keeps_execStoreStatus io kp
  | .storeFormat => keeps_execStoreFormat kp
  | .storeSnapshot io content => keeps_execStoreSnapshot io content kp
  | .batchStart => keeps_execBatchStart kp
  | .storeResponse rid status data => keeps_execStoreResponse rid status data kp
  | .storeTimeout rid => keeps_execStoreTimeout rid kp
  | .mbxReqSubmit value => keeps_execMbxReqSubmit value kp
  | .mbxRplPop value => keeps_execMbxRplPop value kp
  | .unknownCommand => keeps_execUnknownCommand kp
  | .ping => keeps_execPing kp
  | .updateWrite io => keeps_execUpdateWrite io kp
  | .updateCheck => keeps_execUpdateCheck kp
  | .updateActivate => keeps_execUpdateActivate kp
  | .updateAbandon => keeps_execUpdateAbandon kp
  | .sensorRead io => keeps_execSensorRead io kp
  | .sensorSample sample => keeps_execSensorSample sample kp
  | .mbxMgmtRestart value => keeps_execMbxMgmtRestart value kp
  | .watchdogExpiry => keeps_execWatchdogExpiry kp
  | .pairHalt pc sp cause => keeps_execPairHalt pc sp cause kp
  | .doubleFault pc sp cause => keeps_execDoubleFault pc sp cause kp
  | .lockstepMismatch pc sp => keeps_execLockstepMismatch pc sp kp
  | .restartComplete digestsMatch => keeps_execRestartComplete digestsMatch kp
  | .selfTestPreconditionMet start => keeps_execSelfTestPreconditionMet start kp
  | .selfTestTimeout => keeps_execSelfTestTimeout kp
  | .rootDraw => keeps_execRootDraw kp
  | .partTestStart kind part => keeps_execPartTestStart kind part kp
  | .partTestEnd kind part pass => keeps_execPartTestEnd kind part pass kp
  | .sheddingLevelDown vdd vddm => keeps_execSheddingLevelDown vdd vddm kp
  | .sheddingLevelUp vdd vddm => keeps_execSheddingLevelUp vdd vddm kp
  | .monitorSelfTest rail pass => keeps_execMonitorSelfTest rail pass kp
  | .lightEvent sensor => keeps_execLightEvent sensor kp
  | .lightSampleWindow sensors => keeps_execLightSampleWindow sensors kp
  | .lightSensorSelfTest sensor pass => keeps_execLightSensorSelfTest sensor pass kp
  | .vbatLow => keeps_execVbatLow kp
  | .aonGap => keeps_execAonGap kp
  | .sramParityError slice place => keeps_execSramParityError slice place kp
  | .codewordFault kind part => keeps_execCodewordFault kind part kp
  | .stallFault kind part => keeps_execStallFault kind part kp
  | .coreWidePartFault part => keeps_execCoreWidePartFault part kp
  | .mirrorJoin io => keeps_execMirrorJoin io kp
  | .mirrorLeave => keeps_execMirrorLeave kp
  | .mirrorTake io => keeps_execMirrorTake io kp
  | .mirrorJournal io => keeps_execMirrorJournal io kp
  | .mirrorStatus io => keeps_execMirrorStatus io kp
  | .joinOffer io => keeps_execJoinOffer io kp
  | .joinAccept io => keeps_execJoinAccept io kp
  | .joinRefused io => keeps_execJoinRefused io kp
  | .leaseRequest io => keeps_execLeaseRequest io kp
  | .leaseGrant io => keeps_execLeaseGrant io kp
  | .heartbeat io => keeps_execHeartbeat io kp
  | .blockRequest io => keeps_execBlockRequest io kp
  | .blockRecord io => keeps_execBlockRecord io kp
  | .blockAck io => keeps_execBlockAck io kp
  | .blockGrant io => keeps_execBlockGrant io kp
  | .endLookup io => keeps_execEndLookup io kp
  | .endReply io => keeps_execEndReply io kp
  | .journalRequest io => keeps_execJournalRequest io kp
  | .journalEntry io => keeps_execJournalEntry io kp
  | .time io => keeps_execTime io kp
  | .leave io => keeps_execLeave io kp
  | .heartbeatTimeout => keeps_execHeartbeatTimeout kp
  | .leaseRenewal => keeps_execLeaseRenewal kp
  | .messageRepeat peer => keeps_execMessageRepeat peer kp
  | .timeRequestTimer => keeps_execTimeRequestTimer kp
  | .blockGrantTimeout job => keeps_execBlockGrantTimeout job kp
  | .behindHoldTimeout job => keeps_execBehindHoldTimeout job kp
  | .batteryRemoval => keeps_execBatteryRemoval kp
  | .ledgerCreditGain => keeps_execLedgerCreditGain kp
  | .cmdInvalid word => keeps_execCmdInvalid word kp
  | .leaseExpiry => keeps_execLeaseExpiry kp
  | .grantExpiry => keeps_execGrantExpiry kp
  | .storeInterruptWindow => keeps_execStoreInterruptWindow kp
  | .mirrorVectorWindow => keeps_execMirrorVectorWindow kp
  | .mbxHeartbeatIncrement => keeps_execMbxHeartbeatIncrement kp

end Sys2Proof.Machine
end

section
/-! CERTIFICATES. What no command undoes (R25, R34, R405, R425, R444; the queue and TREF by log entry 9). -/
namespace Sys2Proof.Machine

/-- Settles O6: the state before a command keeps itself, so by the frame of the command the state after it keeps that state. -/
theorem commandsKeep : Obligations.CommandsKeep := by
  intro c s t h
  have hk : KeptRes s (exec c s) := keeps_exec (.refl s) c
  rwa [h] at hk

end Sys2Proof.Machine
end

section
/-! SUPPORT. What a step runs, and which commands answer a next state: the shared runners always do, and a command does where each
of its branches does. -/
namespace Sys2Proof.Machine

/-! ## The step -/

theorem step_of_empty {s : State} (h : s.pending = []) : step s = .next (idleTick s) := by
  simp only [step, h]

theorem step_of_waiting {s : State} {c : Instr} {rest : List Instr} (h : s.pending = c :: rest) :
    step s = exec c { s with pending := rest } := by
  simp only [step, h]

/-- Neither the queue nor the clocks bear on what is legal. -/
theorem Legal.withQueueAndClock {s : State} (h : Legal s) (q : List Instr) (c : Clock) :
    Legal { s with pending := q, clock := c } :=
  { registers := { h.registers with }, memories := h.memories, channels := h.channels, replies := h.replies }

/-! ## Answers -/

/-- The outcome is a next state. -/
def Answers (r : Res) : Prop := ∃ t, r = .next t

theorem Answers.next (t : State) : Answers (.next t) := ⟨t, rfl⟩

theorem Answers.ite {c : Prop} [Decidable c] {a b : Res} (ha : Answers a) (hb : Answers b) : Answers (if c then a else b) := by
  split
  · exact ha
  · exact hb

/-- A command that has its effect under a guard answers either way. -/
theorem Answers.guard {c : Prop} [Decidable c] {a b : State} : Answers (if c then .next a else .next b) :=
  .ite (.next a) (.next b)

/-- A command that stops beyond a rating answers within it. -/
theorem Answers.within {b : Bool} {f : Fault} {r : Res} (h : b = false) (hr : Answers r) :
    Answers (if b then .fault f else r) := by
  rwa [h, if_neg Bool.false_ne_true]

theorem answers_portAccess {s : State} {r : Res} (c : Held) (hr : Answers r) : Answers (portAccess c s r) :=
  .ite (.next _) hr

theorem answers_pathAccess {p : Path} {c : Held} {s : State} {r : Res} (hr : Answers r) : Answers (pathAccess p c s r) := by
  cases p with
  | regPort => exact answers_portAccess c hr
  | pair => exact hr

theorem answers_runOp (op id : Nat) (s : State) : Answers (runOp op id s) := by
  unfold runOp
  split
  · exact .next _
  · exact .next _

theorem answers_runControl (op id : Nat) (s : State) : Answers (runControl op id s) := by
  unfold runControl
  split
  · exact .guard
  · exact .next _

theorem answers_runKum (op id : Nat) (s : State) : Answers (runKum op id s) := by
  unfold runKum
  split
  · exact .ite .guard (.next _)
  · exact .next _

theorem answers_runMailbox (code : Nat) (mine : Req → Bool) (f : Req → State → Ran × State) (s : State) :
    Answers (runMailbox code mine f s) := by
  unfold runMailbox
  split
  · exact .next _
  · refine .ite (.next _) (.ite (.next _) ?_)
    split
    · exact .next _
    · exact .next _

theorem answers_giveRow (type : Nat) (f : State → Msg → Heard × State) (io : MbxIo) (s : State) : Answers (giveRow type f io s) := by
  unfold giveRow
  split
  · exact .next _
  · refine .ite (.next _) (.ite (.next _) (.ite (.next _) ?_))
    split
    · exact .next _
    · refine .ite (.next _) ?_
      split
      · exact .next _
      · split
        · exact .next _
        · exact .next _
        · exact .next _
        · exact .next _

/-- A command within the ratings answers in every state. An opcode is run by `runOp`, `runControl` or `runKum`, a mailbox row by
`runMailbox` or `giveRow`, a register access by `portAccess` or `pathAccess`; the other commands have guards and cases of their own. -/
theorem answers_exec (s : State) : ∀ c, overRatings c = false → Answers (exec c s)
  | .cbcEnc job, _ | .cbcDec job, _ | .cfbEnc job, _ | .cfbDec job, _ | .ofbEnc job, _ | .ofbDec job, _ | .ctrEnc job, _
  | .ctrDec job, _ | .gcmEnc job, _ | .gcmDec job, _ | .ccmEnc job, _ | .ccmDec job, _ | .xtsEnc job, _ | .xtsDec job, _
  | .kwWrap job, _ | .kwUnwrap job, _ | .kwpWrap job, _ | .kwpUnwrap job, _ | .sha224 job, _ | .sha256 job, _
  | .sha384 job, _ | .sha512 job, _ | .sha512_256 job, _ | .sha3_224 job, _ | .sha3_256 job, _ | .sha3_384 job, _
  | .sha3_512 job, _ | .shake128 job, _ | .shake256 job, _ | .cshake128 job, _ | .cshake256 job, _ | .kmac128 job, _
  | .kmac256 job, _ | .kmac128Verify job, _ | .kmac256Verify job, _ | .hmacSha224 job, _ | .hmacSha256 job, _
  | .hmacSha384 job, _ | .hmacSha512 job, _ | .hmacSha512_256 job, _ | .hmacSha224Verify job, _ | .hmacSha256Verify job, _
  | .hmacSha384Verify job, _ | .hmacSha512Verify job, _ | .hmacSha512_256Verify job, _ | .mulacc job, _
  | .mulaccVec job, _ | .rsaPssSign job, _ | .rsaV15Sign job, _ | .rsaPssVerify job, _ | .rsaV15Verify job, _
  | .rsaOaepEncrypt job, _ | .rsaOaepDecrypt job, _ | .ecdsaSign job, _ | .ecdsaVerify job, _ | .ecKeygen job, _
  | .ecdh job, _ | .eddsaSign job, _ | .eddsaVerify job, _ | .eddsaBatchVerify job, _ | .eddsaKeygen job, _ | .xdh job, _
  | .xdhKeygen job, _ | .curveLoad job, _ | .curveUnload job, _ | .hybridSign job, _ | .hybridVerify job, _
  | .hybridKeygen job, _ | .mlkemKeygen job, _ | .mlkemEncaps job, _ | .mlkemDecaps job, _ | .mldsaKeygen job, _
  | .mldsaSign job, _ | .mldsaVerify job, _ | .slhdsaKeygen job, _ | .slhdsaSign job, _ | .slhdsaVerify job, _
  | .hykemKeygen job, _ | .hykemEncaps job, _ | .hykemDecaps job, _ | .hbsSign job, _ | .hbsVerify job, _
  | .hbsStatus job, _ | .ordSign job, _ | .ordQuery job, _ | .ordTargetConfig job, _ | .ordCheck job, _ | .random job, _
  | .randomPr job, _ | .reseed job, _ | .keyWrap job, _ | .keyUnwrap job, _ | .keyDerive job, _ | .keyDestroy job, _
  | .keyInfo job, _ | .keyGenerate job, _ | .transportOffer job, _ | .attest job, _ => answers_runOp _ job s
  | .nop job, _ | .fence job, _ => answers_runControl _ job s
  | .enrol job, _ | .commission job, _ | .roster job, _ | .load job, _ | .generate job, _ | .replace job, _
  | .destroy job, _ | .ackLog job, _ | .policy job, _ | .recover job, _ => answers_runKum _ job s
  | .sliceCreate _, _ | .sliceModify _, _ | .sliceReset, _ | .sliceDestroy, _ | .sliceQuery _, _ | .ringEnable _, _
  | .ringDisable, _ | .ringResume _ _, _ | .persistStatus _, _ | .storeAttach _, _ | .storeDetach, _ | .storeStatus _, _
  | .storeSnapshot _ _, _ | .ping, _ | .updateWrite _, _ | .updateCheck, _ | .updateActivate, _ | .updateAbandon, _
  | .sensorRead _, _ | .mirrorLeave, _ | .mirrorTake _, _ | .mirrorStatus _, _ => by
    simp only [exec]
    exact answers_runMailbox _ _ _ s
  | .joinOffer _, _ | .joinAccept _, _ | .joinRefused _, _ | .leaseRequest _, _ | .leaseGrant _, _ | .heartbeat _, _
  | .blockRequest _, _ | .blockRecord _, _ | .blockAck _, _ | .blockGrant _, _ | .endLookup _, _ | .endReply _, _
  | .journalRequest _, _ | .journalEntry _, _ | .time _, _ | .leave _, _ => answers_giveRow _ _ _ s
  | .unfence _ _, _ | .s0BindWrite _, _ | .pwrVddMinWrite _, _ | .cadenceStart _, _ | .cadenceStop _, _
  | .cfgCommit _ _, _ | .tbGridDefault _, _ | .entSrcMaskWrite _, _ | .mbxReqSubmit _, _ | .mbxRplPop _, _
  | .mbxMgmtRestart _, _ => answers_portAccess _ (.next _)
  | .mdpStart _ _, _ | .mdpData _ _, _ | .mdpFinal _ _, _ | .mdpAbort _ _, _ | .mdpExtLockWrite _, _ | .cmdInvalid _, _
  | .mdpResultRead _ _, _ => answers_pathAccess (.next _)
  | .longReset, _ | .aonGap, _ | .batteryRemoval, _ | .maceRelease, _ | .codewordFault _ _, _ | .stallFault _ _, _ => .next _
  | .cadenceOrigin _, _ | .cadenceLost _, _ | .snoopNotification _ _, _ | .pollIntervalExpiry _, _ | .coalesceTimeout _, _
  | .contextWritebackTimer _, _ | .agentDoorbell _ _ _, _ | .completionNoticeTaken _, _ | .repetitionCountFailure _, _
  | .adaptiveProportionFailure _, _ | .storeResponse _ _ _, _ | .clockWindowEnd _ _, _ | .ledgerCommitDone _ _, _
  | .mramRefresh, _ | .poweredTimeMove, _ | .archiveRetry, _ | .logRateSecond, _ | .ledgerCreditGain, _
  | .mbxHeartbeatIncrement, _ | .watchdogExpiry, _ | .pairHalt _ _ _, _ | .doubleFault _ _ _, _ | .lockstepMismatch _ _, _
  | .rstNRelease, _ | .selfTestTimeout, _ | .selfTestPreconditionMet _, _ | .internalReseed, _ | .monitorSelfTest _ _, _
  | .vbatLow, _ | .lightEvent _, _ | .maceAssert, _ | .maceHeldEpisode, _ | .sramParityError _ _, _
  | .coreWidePartFault _, _ | .mdpIdleLimit, _ | .heartbeatTimeout, _ | .leaseRenewal, _ | .leaseExpiry, _
  | .grantExpiry, _ | .messageRepeat _, _ | .sliceResetDone _, _ | .sliceReleaseDone _, _ | .ringDrainDone _, _
  | .entropyStartupTestEnd _ _, _ => .guard
  | .trefStop, _ | .trefReturn, _ | .conditionedBlock _ _, _ | .rstNAssert _, _ | .restartComplete _, _ | .rootDraw, _
  | .pwrGoodFall, _ | .partTestStart _ _, _ | .partTestEnd _ _ _, _ => .ite (.next _) .guard
  | .quiesceRequest _, _ | .quiesceRelease _, _ | .lightSensorSelfTest _ _, _ => .ite (.next _) (.ite (.next _) .guard)
  | .periodEnd _, _ => .ite (.next _) (.ite (.next _) (.ite (.next _) .guard))
  | .logExport _, _ | .storeFormat, _ | .mirrorJoin _, _ => .ite (.next _) (answers_runMailbox _ _ _ s)
  | .registerWrite _ _, _ => .ite (.next _) (answers_pathAccess (.next _))
  | .badRegisterAccess _ _, _ | .feAddrLoRead _, _ => .ite (.next _) (answers_portAccess _ (.next _))
  | .loRegisterRead _ _, _ => by
    simp only [exec, execLoRegisterRead]
    split
    · exact .next _
    · exact answers_pathAccess (.next _)
  | .fabricReadResponse _ _ _ _, _ | .fabricWriteResponse _ _ _, _ | .faultEvent _ _, _ | .poolPollExpiry _, _
  | .admission _, _ | .jobDispatch _ _, _ | .segmentEnd _ _, _ | .engineFinish _ _, _ | .gridRelease _, _
  | .commitTakesEffect _, _ | .treeBuildDone _ _, _ | .mdpBusyEnd, _ | .batchStart, _ | .storeTimeout _, _
  | .unknownCommand, _ | .lightSampleWindow _, _ | .mirrorJournal _, _ | .timeRequestTimer, _ | .blockGrantTimeout _, _
  | .behindHoldTimeout _, _ | .storeInterruptWindow, _ | .mirrorVectorWindow, _ => by
    simp only [exec, execFabricReadResponse, execFabricWriteResponse, execFaultEvent, execPoolPollExpiry, execAdmission,
      execJobDispatch, execSegmentEnd, execEngineFinish, execGridRelease, execCommitTakesEffect, execTreeBuildDone,
      execMdpBusyEnd, execBatchStart, execStoreTimeout, execUnknownCommand, execLightSampleWindow, execMirrorJournal,
      execTimeRequestTimer, execBlockGrantTimeout, execBehindHoldTimeout, execStoreInterruptWindow, execMirrorVectorWindow]
    repeat' split
    all_goals exact .next _
  | .vddHigh _, h => .within h .guard
  | .vaonChangeover _, h => .within h (.next _)
  | .sheddingLevelDown .., h => .within h (.ite (.next _) .guard)
  | .sheddingLevelUp .., h | .sensorSample _, h => .within h .guard

/-- A command beyond a rating ends in the fault of that rating, whatever the state. -/
theorem exec_of_overRatings (s : State) : ∀ c, overRatings c = true → exec c s = .fault .beyondAbsoluteMaximum := by
  intro c h
  unfold overRatings at h
  split at h
  · exact if_pos h
  · exact if_pos h
  · exact if_pos h
  · exact if_pos h
  · exact if_pos h
  · cases h

end Sys2Proof.Machine
end

section
/-! CERTIFICATES. The step: the idle tick (R76, log entry 9), the legal values at reset and over a step (R25, R44, R345, R361, R477,
R482, R504, R540, R554), and the ratings that stop the model (R65, log entry 12). -/
namespace Sys2Proof.Machine

/-- Settles O2: the tick writes the clock alone, and the always-on count takes 32,768 with the remainder kept in its phase. -/
theorem emptyQueueTicks : Obligations.EmptyQueueTicks := by
  intro s hq
  refine ⟨idleTick s, step_of_empty hq, rfl, rfl, rfl, fun ha => ?_, fun ha => ?_⟩
  · simp only [idleTick, ha, ↓reduceIte]
  · simp only [idleTick, ha, Bool.false_eq_true, ↓reduceIte]
    omega

/-- Settles O4: every register's reset value lies in its range, the memories are empty, and nothing is outstanding or queued. -/
theorem legalAtReset : Obligations.LegalAtReset where
  registers := by constructor <;> decide
  memories := ⟨rfl, rfl, rfl⟩
  channels := fun _ _ => Nat.zero_le _
  replies := Nat.zero_le _

/-- Settles O5: an idle tick moves the clocks alone, and a command keeps a legal state legal (`commandsKeep`). -/
theorem stepKeepsLegal : Obligations.StepKeepsLegal := by
  intro s t hl hs
  cases hq : s.pending with
  | nil =>
    rw [step_of_empty hq] at hs
    cases hs
    exact hl.withQueueAndClock s.pending _
  | cons c rest =>
    rw [step_of_waiting hq] at hs
    exact (commandsKeep c _ t hs).legal (hl.withQueueAndClock rest s.clock)

/-- Settles O7: the five rows that report a supply test it first, and every branch of every command answers. -/
theorem onlyRatingsStop : Obligations.OnlyRatingsStop :=
  fun c s => ⟨exec_of_overRatings s c, answers_exec s c⟩

end Sys2Proof.Machine
end

section
/-! SUPPORT. Rules for the fabric ports: what a response, a fault event and a clock window write, and what they leave (R45, R46, R63,
R64). -/
namespace Sys2Proof.Machine

/-! ## Responses (R45, R592) -/

theorem findTxn_some {s : State} {port tag : Nat} {w : Bool} {t : Txn} (h : findTxn s port tag w = some t) :
    t.port = port ∧ t.tag = tag ∧ t.isWrite = w := by
  have hp := List.find?_some h
  simpa [and_assoc] using hp

/-- Ending a request takes off what has its port, tag and direction; counting a bad response touches the port alone. -/
theorem endTxn_txns (s : State) (t : Txn) (code : BitVec 3) : (endTxn s t code).fabric.txns =
    s.fabric.txns.filter (fun x => !(x.port == t.port && x.tag == t.tag && x.isWrite == t.isWrite)) := by
  unfold endTxn
  dsimp only
  split
  · rfl
  · split
    · rfl
    · rfl

theorem endTxn_ends {s : State} {port tag : Nat} {w : Bool} {t : Txn} (h : findTxn s port tag w = some t) (code : BitVec 3) :
    ∀ x ∈ (endTxn s t code).fabric.txns, ¬ (x.port = port ∧ x.tag = tag ∧ x.isWrite = w) := by
  obtain ⟨rfl, rfl, rfl⟩ := findTxn_some h
  intro x hx
  rw [endTxn_txns] at hx
  rintro ⟨hp, ht, hw⟩
  simp [hp, ht, hw] at hx

theorem execFabricReadResponse_found {s : State} {port tag : Nat} {t : Txn} (hm : mainOn s = true)
    (h : findTxn s port tag false = some t) (code : BitVec 3) (data : Bytes) :
    execFabricReadResponse port tag code data s =
      .next (settle (if t.sunk then endTxn s t code
        else if code ≠ 0 ∨ t.eventSeen then badRead (endTxn s t code) t code
        else goodRead (endTxn s t code) t (fit t.len data))) := by
  simp only [execFabricReadResponse, hm, h, Bool.not_true, Bool.false_eq_true, ↓reduceIte]
  split
  · rfl
  · split
    · rfl
    · rfl

theorem execFabricReadResponse_none {s : State} {port tag : Nat} (hm : mainOn s = true) (h : findTxn s port tag false = none)
    (code : BitVec 3) (data : Bytes) : execFabricReadResponse port tag code data s = .next (strayResponse s) := by
  simp only [execFabricReadResponse, hm, h, Bool.not_true, Bool.false_eq_true, ↓reduceIte]

theorem execFabricWriteResponse_found {s : State} {port tag : Nat} {t : Txn} (hm : mainOn s = true)
    (h : findTxn s port tag true = some t) (code : BitVec 3) :
    execFabricWriteResponse port tag code s =
      let v := takeWrite (endTxn s t code) t code
      .next (settle (if (portOf v port).clockLost ∧ (portOf v port).fenced then rerunReads v port else v)) := by
  simp only [execFabricWriteResponse, hm, h, Bool.not_true, Bool.false_eq_true, ↓reduceIte]

theorem execFabricWriteResponse_none {s : State} {port tag : Nat} (hm : mainOn s = true) (h : findTxn s port tag true = none)
    (code : BitVec 3) : execFabricWriteResponse port tag code s = .next (strayResponse s) := by
  simp only [execFabricWriteResponse, hm, h, Bool.not_true, Bool.false_eq_true, ↓reduceIte]

/-! ## Fault events (R46) -/

/-- The outstanding requests with the event noted on the one it names. -/
def markEvent (l : List Txn) (port : Nat) (t : Txn) : List Txn :=
  l.map (fun x => if x.port = port ∧ x.tag = t.tag ∧ x.isWrite = t.isWrite then { x with eventSeen := true } else x)

theorem eventSeen_of_mem_markEvent {l : List Txn} {port : Nat} {t y : Txn} (hy : y ∈ markEvent l port t) (hp : y.port = port)
    (ht : y.tag = t.tag) (hw : y.isWrite = t.isWrite) : y.eventSeen = true := by
  obtain ⟨x, -, rfl⟩ := List.mem_map.mp hy
  by_cases hn : x.port = port ∧ x.tag = t.tag ∧ x.isWrite = t.isWrite
  · rw [if_pos hn]
  · rw [if_neg hn] at hp ht hw
    exact absurd ⟨hp, ht, hw⟩ hn

@[simp] theorem portOf_noteEvent (s : State) (port : Nat) (ev : FaultEv) (sl : Nat) : portOf (noteEvent s port ev sl) port =
    { portOf s port with feCount := satInc 32 (portOf s port).feCount, fe := { ev := ev, slice := BitVec.ofNat 8 sl } } :=
  portOf_setPort_same s port _

theorem execFaultEvent_outstanding {s : State} {port : Nat} {ev : FaultEv} {t : Txn} (hm : mainOn s = true) (hp : port < 16)
    (h : findTxn s port ev.tag.toNat ev.write = some t) :
    execFaultEvent port ev s =
      let u := noteEvent s port ev t.slice
      .next (settle (eventFor { u with fabric := { u.fabric with txns := markEvent u.fabric.txns port t } } t)) := by
  simp only [execFaultEvent, hm, h, Nat.not_le.mpr hp, Bool.not_true, Bool.false_eq_true, or_self, ↓reduceIte]
  rfl

/-- A late event is noted for a slice, and the port says that it was late. -/
def noteLate (s : State) (port : Nat) (ev : FaultEv) (sl : Nat) : State :=
  setPort (noteEvent s port ev sl) port { portOf (noteEvent s port ev sl) port with lateEvent := true }

theorem portOf_noteLate (s : State) (port : Nat) (ev : FaultEv) (sl : Nat) : portOf (noteLate s port ev sl) port =
    { portOf s port with
      feCount := satInc 32 (portOf s port).feCount, fe := { ev := ev, slice := BitVec.ofNat 8 sl }, lateEvent := true } := by
  rw [noteLate, portOf_setPort_same, portOf_noteEvent]

theorem execFaultEvent_late {s : State} {port : Nat} {ev : FaultEv} {p : LastUse} (hm : mainOn s = true) (hp : port < 16)
    (h : findTxn s port ev.tag.toNat ev.write = none)
    (hl : look? s.fabric.lastTag (tagKey port ev.write ev.tag.toNat) = some p) :
    execFaultEvent port ev s =
      let u := noteLate s port ev p.slice
      .next (settle (if ownTraffic p.purpose then lateOwn u p.purpose else sliceFault u p.slice 3)) := by
  simp only [execFaultEvent, hm, h, hl, Nat.not_le.mpr hp, Bool.not_true, Bool.false_eq_true, or_self, ↓reduceIte]
  rfl

theorem execFaultEvent_unused {s : State} {port : Nat} {ev : FaultEv} (hm : mainOn s = true) (hp : port < 16)
    (h : findTxn s port ev.tag.toNat ev.write = none)
    (hl : look? s.fabric.lastTag (tagKey port ev.write ev.tag.toNat) = none) :
    execFaultEvent port ev s = .next (noteLate s port ev 0) := by
  simp only [execFaultEvent, hm, h, hl, Nat.not_le.mpr hp, Bool.not_true, Bool.false_eq_true, or_self, ↓reduceIte]
  rfl

/-! ## Clock windows (R63, R64) -/

theorem portOf_congr {s t : State} (h : t.fabric.ports = s.fabric.ports) (k : Nat) : portOf t k = portOf s k := by
  unfold portOf; rw [h]

theorem portOf_rerunReads (s : State) (k j : Nat) : portOf (rerunReads s k) j = portOf s j :=
  portOf_congr (request_traffic _ _).2.1 j

theorem portOf_fencePort (s : State) (k : Nat) (f : Port → Port) :
    portOf (fencePort s k f) k = f { portOf s k with fenced := true, okWindows := 0 } := by
  rw [fencePort, portOf_congr (notifyManager_traffic _ 1).2.1, portOf_setPort_same]

/-- What judging a window notes whatever the count: the count, the limit in force from now on, and the windows in limit. -/
def judgedPort (p : Port) (n : Nat) : Port :=
  { p with clkCount := n, fmaxInForce := p.fmax, okWindows := if overLimit p n || n == 0 then 0 else min 3 (p.okWindows + 1) }

theorem judgeWindow_eq (s : State) (k n : Nat) : judgeWindow s k n =
    let p := portOf s k
    let u := setPort s k (judgedPort p n)
    if overLimit p n then (if p.fenced && p.overFreq then u else fencePort u k (fun q => { q with overFreq := true }))
    else if n == 0 && !p.qack then
      rerunReads (if p.fenced && p.clockLost then u else fencePort u k (fun q => { q with clockLost := true })) k
    else u := rfl

/-- A port above its limit is fenced for OVERFREQ, one fenced for it before included. -/
theorem portOf_judgeWindow_over {s : State} {k n : Nat} (h : overLimit (portOf s k) n = true) :
    portOf (judgeWindow s k n) k = { judgedPort (portOf s k) n with fenced := true, overFreq := true, okWindows := 0 } := by
  rw [judgeWindow_eq]
  dsimp only
  rw [if_pos h]
  split
  · rename_i hf
    obtain ⟨hf, ho⟩ := Bool.and_eq_true_iff.mp hf
    simp [portOf_setPort_same, judgedPort, h, hf, ho]
  · rw [portOf_fencePort, portOf_setPort_same]

/-- A port without an edge, not quiesced, is fenced for CLOCK_LOST, one fenced for it before included. -/
theorem portOf_judgeWindow_lost {s : State} {k : Nat} (h : (portOf s k).qack = false) :
    portOf (judgeWindow s k 0) k = { judgedPort (portOf s k) 0 with fenced := true, clockLost := true, okWindows := 0 } := by
  have ho : overLimit (portOf s k) 0 = false := by simp [overLimit]
  rw [judgeWindow_eq]
  dsimp only
  rw [ho, h, if_neg Bool.false_ne_true, if_pos (by rfl), portOf_rerunReads]
  split
  · rename_i hf
    obtain ⟨hf, hc⟩ := Bool.and_eq_true_iff.mp hf
    simp [portOf_setPort_same, judgedPort, h, hf, hc]
  · rw [portOf_fencePort, portOf_setPort_same]

theorem portOf_judgeWindow_within {s : State} {k n : Nat} (h : overLimit (portOf s k) n = false)
    (hl : (n == 0 && !(portOf s k).qack) = false) : portOf (judgeWindow s k n) k = judgedPort (portOf s k) n := by
  rw [judgeWindow_eq]
  dsimp only
  rw [h, hl, if_neg Bool.false_ne_true, if_neg Bool.false_ne_true, portOf_setPort_same]

theorem portOf_judgeWindow_counts (s : State) (k n : Nat) :
    (portOf (judgeWindow s k n) k).clkCount = n ∧ (portOf (judgeWindow s k n) k).fmaxInForce = (portOf s k).fmax := by
  cases ho : overLimit (portOf s k) n with
  | true => rw [portOf_judgeWindow_over ho]; exact ⟨rfl, rfl⟩
  | false =>
    cases hl : n == 0 && !(portOf s k).qack with
    | true =>
      obtain ⟨hn, hq⟩ := Bool.and_eq_true_iff.mp hl
      obtain rfl := beq_iff_eq.mp hn
      rw [portOf_judgeWindow_lost (by simpa using hq)]; exact ⟨rfl, rfl⟩
    | false => rw [portOf_judgeWindow_within ho hl]; exact ⟨rfl, rfl⟩

/-! ## UNFENCE (R63) -/

/-- A write of UNFENCE through a serving port takes its effect and completes. -/
theorem exec_unfence_of_serves {s : State} {k : Nat} {v : W32} (hk : k < 16) (h : PortServes s) (hv : v.getLsbD 0 = true) :
    exec (.unfence k v) s = .next (emit (unfencePort s k) .regOk) := by
  change execUnfence k v s = _
  simp only [execUnfence, portAccess_of_serves h, regWrite_of_serves h, hv, hk, and_self, ↓reduceIte]

theorem unfencePort_open {s : State} {k : Nat} (h : (portOf s k).fenced = false) : unfencePort s k = s := by
  simp [unfencePort, h]

theorem unfencePort_early {s : State} {k : Nat} (h : (portOf s k).fenced = true) (hw : (portOf s k).okWindows < 3) :
    unfencePort s k = setPort s k { portOf s k with unfenceEarly := true } := by
  simp [unfencePort, h, hw]

theorem unfencePort_returns {s : State} {k : Nat} (h : (portOf s k).fenced = true) (hw : 3 ≤ (portOf s k).okWindows) :
    unfencePort s k = portReturns (setPort s k { portOf s k with fenced := false }) := by
  simp [unfencePort, h, Nat.not_lt.mpr hw]

/-! ## Agent links (R53 to R55, R144) -/

theorem linkOf_setLink_same (s : State) (k : Nat) (x : Link) : linkOf (setLink s k x) k = x := look_put_same _ _ _ _

@[simp] theorem linkOf_emit (s : State) (x : Out) (k : Nat) : linkOf (emit s x) k = linkOf s k := rfl

theorem execAgentDoorbell_held {s : State} {k r : Nat} {p : W32} (hm : mainOn s = true)
    (h : (portOf s (k / 16)).qreq = true ∨ (portOf s (k / 16)).qack = true) :
    execAgentDoorbell k r p s = .next (setLink s k { linkOf s k with held := some (r, p) }) :=
  if_pos ⟨hm, h⟩

theorem execAgentDoorbell_open {s : State} {k r : Nat} {p : W32}
    (h : mainOn s = false ∨ ((portOf s (k / 16)).qreq = false ∧ (portOf s (k / 16)).qack = false)) :
    execAgentDoorbell k r p s = .next (ringLink s k r p) := by
  refine if_neg ?_
  rintro ⟨hm, hq⟩
  rcases h with h | ⟨hr, ha⟩
  · rw [h] at hm; cases hm
  · rw [hr, ha] at hq; simp at hq

theorem ringLink_absent {s : State} {k r : Nat} {p : W32} (hs : serving s = false) (ha : aonAbsent s = false) :
    ringLink s k r p = emit s (.dbAck k .refusedAbsent) := by
  simp [ringLink, hs, ha]

theorem ringLink_disabled {s : State} {k r : Nat} {p : W32} (hs : serving s = true) (hl : linkEnabled s k = false) :
    ringLink s k r p = emit (setLink s k { linkOf s k with refusedDisabled := satInc 8 (linkOf s k).refusedDisabled })
      (.dbAck k .refusedDisabled) := by
  simp [ringLink, hs, hl]

theorem ringLink_enabled {s : State} {k r : Nat} {p : W32} (hs : serving s = true) (hl : linkEnabled s k = true) :
    ringLink s k r p =
      if (ringOf s r).st = .enabled ∧ (ringOf s r).ctx.agentDb ∧ (ringOf s r).ctx.slice = linkSlice s k then
        takeProducer (emit s (.dbAck k .accepted)) r p
      else emit (setLink s k { linkOf s k with refusedRing := satInc 8 (linkOf s k).refusedRing }) (.dbAck k .refusedRing) := by
  simp [ringLink, hs, hl]

theorem execCompletionNoticeTaken_offered {s : State} {k : Nat} (hm : mainOn s = true) (ho : (linkOf s k).offered.isSome = true) :
    execCompletionNoticeTaken k s = .next (offerNext k (linkOf s k).waiting s) :=
  if_pos ⟨hm, ho⟩

theorem offerNext_nil (k : Nat) (s : State) :
    offerNext k [] s = setLink s k { linkOf s k with offered := none, waiting := [] } := rfl

theorem offerNext_cons {k r : Nat} {c : W32} {w : Tbl W32} {s : State} (h : (ringOf s r).ctx.slice = linkSlice s k) :
    offerNext k ((r, c) :: w) s = setLink s k { linkOf s k with offered := some (r, c), waiting := w } :=
  if_pos h

/-! ## Snoops (R47, R48) -/

/-- Reads the doorbell words of the enabled rings of a list again. -/
def rereadDoorbells (s : State) (rings : List Nat) : State :=
  rings.foldl (fun s r => if (ringOf s r).st = .enabled then readDoorbell s r false false else s) s

theorem execSnoopNotification_watching {s : State} {port line : Nat} (ha : aonAbsent s = false) (hs : serving s = true)
    (hc : Config.snCapable port = true) :
    execSnoopNotification port line s =
      let hit := s.fabric.watches.filter (fun w => w.port == port && w.line == line)
      let rest := s.fabric.watches.filter (fun w => !(w.port == port && w.line == line))
      .next (rereadDoorbells { emit s (.snoopAnswer port line) with fabric := { s.fabric with watches := rest } } (hit.map (·.ring))) := by
  have hs' : serving (emit s (.snoopAnswer port line)) = true := hs
  simp only [execSnoopNotification, ha, hs', hc, Bool.not_true, Bool.false_eq_true, or_self, ↓reduceIte]
  rfl

theorem execSnoopNotification_idle {s : State} {port line : Nat} (ha : aonAbsent s = false)
    (h : serving s = false ∨ Config.snCapable port = false) :
    execSnoopNotification port line s = .next (emit s (.snoopAnswer port line)) := by
  have hg : (!serving (emit s (.snoopAnswer port line))) = true ∨ (!Config.snCapable port) = true :=
    h.imp (fun e => by rw [show serving (emit s (.snoopAnswer port line)) = serving s from rfl, e]; rfl) (fun e => by rw [e]; rfl)
  simp only [execSnoopNotification, ha, Bool.false_eq_true, ↓reduceIte]
  exact if_pos hg

end Sys2Proof.Machine
end

section
/-! CERTIFICATES. The fabric boundary: responses, fault events, snoops, agent links and clock monitoring (R45 to R48, R53 to R55, R60,
R63, R64, R592). -/
namespace Sys2Proof.Machine

/-- Settles O17: a found request picks the branch of its response, and taking it off the port leaves none of its name. -/
theorem fabricResponses : Obligations.FabricResponses := by
  intro s port tag code data hm
  refine ⟨fun t ht hs he => ⟨fun hc => ?_, fun hc => ?_⟩, fun t ht hs => ?_, fun t ht => ⟨fun hc => ?_, fun hc hf => ?_⟩,
    fun t w ht => endTxn_ends ht code, fun hn => execFabricReadResponse_none hm hn code data,
    fun hn => execFabricWriteResponse_none hm hn code⟩
  · have hg : ¬ (code ≠ 0 ∨ t.eventSeen = true) := by simp [hc, he]
    refine (execFabricReadResponse_found hm ht code data).trans ?_
    rw [hs, if_neg Bool.false_ne_true, if_neg hg]
  · refine (execFabricReadResponse_found hm ht code data).trans ?_
    rw [hs, if_neg Bool.false_ne_true, if_pos (.inl hc)]
  · refine (execFabricReadResponse_found hm ht code data).trans ?_
    rw [hs, if_pos rfl]
  · refine (execFabricWriteResponse_found hm ht code).trans ?_
    simp only [hc, Bool.false_eq_true, false_and, ↓reduceIte]
  · refine (execFabricWriteResponse_found hm ht code).trans ?_
    simp only [hc, hf, and_self, ↓reduceIte]

/-- Settles O18: an event is noted on its port in each of the three cases, and a snoop is answered whether or not a watch is held. -/
theorem eventsAndSnoops : Obligations.EventsAndSnoops := by
  refine ⟨fun s port ev x hm hp hx => ⟨_, execFaultEvent_outstanding hm hp hx, ?_, ?_, rfl, fun y hy => ?_⟩,
    fun s port ev p hm hp hx hl => ⟨_, execFaultEvent_late hm hp hx hl, ?_, ?_, ?_, rfl, rfl⟩,
    fun s port ev hm hp hx hl => ⟨_, execFaultEvent_unused hm hp hx hl, ?_, ?_, ?_, rfl, rfl⟩,
    fun s port line ha => ⟨execSnoopNotification_watching ha, execSnoopNotification_idle ha⟩⟩
  · exact congrArg Port.fe (portOf_noteEvent s port ev x.slice)
  · exact congrArg Port.feCount (portOf_noteEvent s port ev x.slice)
  · exact eventSeen_of_mem_markEvent hy
  · rw [portOf_noteLate]
  · rw [portOf_noteLate]
  · rw [portOf_noteLate]
  · rw [portOf_noteLate]
  · rw [portOf_noteLate]
  · rw [portOf_noteLate]; rfl

/-- Settles O20: each clause is one case of a doorbell, or of the list of notices that wait. -/
theorem agentLinks : Obligations.AgentLinks := by
  intro s k r p
  refine ⟨execAgentDoorbell_held, fun hq => ⟨fun hs ha => ?_, fun hs hl he hd hc => ?_, fun hs hl => ?_, fun hs hl hw => ?_⟩,
    fun hm ho hw => ?_, fun c w hm ho hw hc => ?_⟩
  · refine (execAgentDoorbell_open hq).trans ?_
    rw [ringLink_absent hs ha]; rfl
  · refine (execAgentDoorbell_open hq).trans ?_
    rw [ringLink_enabled hs hl, if_pos ⟨he, hd, hc⟩]; rfl
  · refine ⟨_, (execAgentDoorbell_open hq).trans (by rw [ringLink_disabled hs hl]), rfl, ?_, rfl⟩
    rw [linkOf_emit, linkOf_setLink_same]
  · have hn : ¬ ((ringOf s r).st = .enabled ∧ (ringOf s r).ctx.agentDb = true ∧ (ringOf s r).ctx.slice = linkSlice s k) := by
      rintro ⟨he, hd, hc⟩
      simp [he, hd, hc] at hw
    refine ⟨_, (execAgentDoorbell_open hq).trans (by rw [ringLink_enabled hs hl, if_neg hn]), rfl, ?_, rfl⟩
    rw [linkOf_emit, linkOf_setLink_same]
  · refine ⟨_, (execCompletionNoticeTaken_offered hm ho).trans (by rw [hw, offerNext_nil]), ?_, ?_, rfl⟩
    · rw [linkOf_setLink_same]
    · rw [linkOf_setLink_same]
  · refine ⟨_, (execCompletionNoticeTaken_offered hm ho).trans (by rw [hw, offerNext_cons hc]), ?_, ?_, rfl⟩
    · rw [linkOf_setLink_same]
    · rw [linkOf_setLink_same]

/-- Settles O25: a window is over the limit, without an edge, or within; a write of UNFENCE meets an open port, an early one or one
that may return. -/
theorem clockMonitor : Obligations.ClockMonitor := by
  refine ⟨fun s k n hm hr hk => ?_, fun s k n => ?_, fun s k v hk h hv => ?_⟩
  · change execClockWindowEnd k n s = _
    simp [execClockWindowEnd, hm, hr, Nat.not_le.mpr hk]
  · obtain ⟨hcount, hlimit⟩ := portOf_judgeWindow_counts s k n
    refine ⟨hcount, hlimit, fun ho => ?_, fun hn hq => ?_, fun hn ho => ?_⟩
    · rw [portOf_judgeWindow_over (decide_eq_true ho)]
      exact ⟨rfl, rfl, rfl⟩
    · rw [hn, portOf_judgeWindow_lost hq]
      exact ⟨rfl, rfl, rfl⟩
    · have hover : overLimit (portOf s k) n = false := decide_eq_false (Nat.not_lt.mpr ho)
      rw [portOf_judgeWindow_within hover (by simp [hn])]
      exact ⟨rfl, by simp [judgedPort, hover, hn]⟩
  · refine ⟨fun hf => ?_, fun hf hw => ?_, fun hf hw => ?_⟩
    · rw [exec_unfence_of_serves hk h hv, unfencePort_open hf]; rfl
    · refine ⟨_, by rw [exec_unfence_of_serves hk h hv, unfencePort_early hf hw], ?_, ?_, rfl, rfl⟩
      · rw [portOf_emit, portOf_setPort_same]
      · rw [portOf_emit, portOf_setPort_same]; exact hf
    · rw [exec_unfence_of_serves hk h hv, unfencePort_returns hf hw]

end Sys2Proof.Machine
end

section
/-! SUPPORT. Frames of power and reset: what an event latch, a Class A alarm, a commit at a reset and the held boundary write, and what
they leave (R69, R73, R417, R523, R530, R533). -/
namespace Sys2Proof.Machine

/-! ## What a commit writes (R417, R421, R422) -/

/-- Traffic and free values aside, only what the ledger holds or moves has changed. -/
def OnlyCommitted (s t : State) : Prop :=
  t = { s with
    fabric := t.fabric, irq := t.irq, drawn := t.drawn
    per := { s.per with
      ledger := t.per.ledger, nextSeq := t.per.nextSeq, queue := t.per.queue, credit := t.per.credit
      throttled := t.per.throttled, counters := t.per.counters, homes := t.per.homes, aux := t.per.aux
      reserves := t.per.reserves, openIntents := t.per.openIntents } }

theorem OnlyCommitted.refl (s : State) : OnlyCommitted s s := rfl

theorem OnlyCommitted.trans {a b c : State} (h : OnlyCommitted a b) (k : OnlyCommitted b c) : OnlyCommitted a c := by
  unfold OnlyCommitted at *; rw [k, h]

theorem OnlyTraffic.committed {a b : State} (h : OnlyTraffic a b) : OnlyCommitted a b := by
  unfold OnlyTraffic OnlyCommitted at *; rw [h]

theorem OnlyCommitted.pwr {s t : State} (h : OnlyCommitted s t) : t.pwr = s.pwr := by
  unfold OnlyCommitted at h; rw [h]

theorem OnlyCommitted.keys {s t : State} (h : OnlyCommitted s t) : t.keys = s.keys := by
  unfold OnlyCommitted at h; rw [h]

/-- Battery-backed memory and the tamper thermometer are outside the ledger (R24, R25). -/
theorem OnlyCommitted.battery {s t : State} (h : OnlyCommitted s t) :
    t.per.rootA = s.per.rootA ∧ t.per.rootB = s.per.rootB ∧ t.per.rootCheck = s.per.rootCheck ∧ t.per.canary = s.per.canary ∧
      t.per.latches = s.per.latches ∧ t.per.otpTamper = s.per.otpTamper := by
  unfold OnlyCommitted at h; rw [h]; exact ⟨rfl, rfl, rfl, rfl, rfl, rfl⟩

theorem draw_committed (s : State) : OnlyCommitted s (draw s).2 := rfl

theorem moveCounters_committed (l : List (Nat × Nat)) (s : State) : OnlyCommitted s (l.foldl moveCounter s) := by
  induction l generalizing s with
  | nil => exact .refl s
  | cons m r ih => exact OnlyCommitted.trans (b := moveCounter s m) rfl (ih _)

theorem applyRecord_committed (s : State) (seq : Nat) (r : LRec) : OnlyCommitted s (applyRecord s seq r) := by
  have hm := moveCounters_committed (movesOf r.payload) s
  unfold applyRecord
  dsimp only
  generalize (movesOf r.payload).foldl moveCounter s = u at hm ⊢
  refine hm.trans ?_
  rcases auxOf r.payload with _ | a
  all_goals
    split
    · split
      · rfl
      · rfl
    all_goals rfl

theorem spendCredit_committed (s : State) (carried : Bool) : OnlyCommitted s (spendCredit s carried) := by
  unfold spendCredit throttle
  split
  · rfl
  · dsimp only
    split
    · refine OnlyCommitted.trans ?_ (notifyManager_traffic _ 9).1.committed
      rfl
    · rfl

theorem clearZone_committed (s : State) (seq : Nat) : OnlyCommitted s (clearZone s seq) := by
  unfold clearZone
  dsimp only
  split
  · rfl
  · split
    · rfl
    · split
      · rfl
      · rfl

theorem commitHead_committed (s : State) : OnlyCommitted s (commitHead s) := by
  unfold commitHead
  split
  · rfl
  · split
    · rfl
    · unfold commitRecord
      refine OnlyCommitted.trans ?_
        (((applyRecord_committed _ _ _).trans (spendCredit_committed _ _)).trans (clearZone_committed _ _))
      rfl

/-! ## The held boundary and the reset (R69, R73) -/

/-- Nothing but messages over the boundary has come to pass. -/
def OnlySent (s t : State) : Prop := t = { s with outbox := t.outbox }

theorem OnlySent.trans {a b c : State} (h : OnlySent a b) (k : OnlySent b c) : OnlySent a c := by
  unfold OnlySent at *; rw [k, h]

theorem emit_sent (s : State) (o : Out) : OnlySent s (emit s o) := rfl

theorem guardAnswer_sent (s : State) : OnlySent s (guardAnswer s) := by
  unfold guardAnswer
  split
  · rfl
  · rfl

theorem foldl_sent {α : Type} {f : State → α → State} (hf : ∀ s a, OnlySent s (f s a)) (l : List α) (s : State) :
    OnlySent s (l.foldl f s) := by
  induction l generalizing s with
  | nil => rfl
  | cons a r ih => exact (hf s a).trans (ih _)

/-- The ports of a held boundary: QACK follows QREQ. -/
def heldPorts (s : State) : Tbl Port := s.fabric.ports.map (fun e => (e.1, { e.2 with qack := e.2.qreq }))

theorem holdBoundary_eq (s : State) :
    holdBoundary s = { s with outbox := (holdBoundary s).outbox, links := [], fabric := { ports := heldPorts s } } := by
  have ha := foldl_sent (fun s (_ : Held) => guardAnswer_sent s) s.fabric.heldAccess s
  unfold holdBoundary heldPorts
  dsimp only
  generalize s.fabric.heldAccess.foldl (fun s _ => guardAnswer s) s = u at ha ⊢
  have hd := foldl_sent (fun s (e : Nat × Link) => emit_sent s (.dbAck e.1 .refusedAbsent)) (u.links.filter (fun e => e.2.held.isSome)) u
  generalize (u.links.filter _).foldl _ u = v at hd ⊢
  have hv : OnlySent s v := ha.trans hd
  rw [hv]

@[simp] theorem holdBoundary_pwr (s : State) : (holdBoundary s).pwr = s.pwr := by rw [holdBoundary_eq]
@[simp] theorem holdBoundary_per (s : State) : (holdBoundary s).per = s.per := by rw [holdBoundary_eq]
@[simp] theorem holdBoundary_keys (s : State) : (holdBoundary s).keys = s.keys := by rw [holdBoundary_eq]
@[simp] theorem holdBoundary_links (s : State) : (holdBoundary s).links = [] := by rw [holdBoundary_eq]
@[simp] theorem holdBoundary_txns (s : State) : (holdBoundary s).fabric.txns = [] := by rw [holdBoundary_eq]

theorem mainOn_holdBoundary (s : State) : mainOn (holdBoundary s) = mainOn s := by
  simp only [mainOn, holdBoundary_pwr]

/-- The state in which a reset meets the ledger: a free value says whether the record in progress was completed (R523). -/
def resetCommit (s : State) : State :=
  if mainOn (draw s).2 ∧ Config.freeNat (draw s).1 % 2 = 1 then commitHead (draw s).2 else (draw s).2

theorem resetCommit_committed (s : State) : OnlyCommitted s (resetCommit s) := by
  unfold resetCommit
  split
  · exact (draw_committed s).trans (commitHead_committed _)
  · exact draw_committed s

/-- A reset out of a finished start in BLANK, ENROLLED or SERVICE, after which the next start may be warm (R494). -/
def cleanReset (s : State) : Bool :=
  s.pwr.main == .up && s.pwr.startDone &&
    (s.keys.lifecycle == .blank || s.keys.lifecycle == .enrolled || s.keys.lifecycle == .service)

theorem enterReset_eq (s : State) : enterReset s = holdBoundary { resetCommit s with pwr := { (resetCommit s).pwr with
    main := .inReset, rstAsserted := true, coldNext := (resetCommit s).pwr.coldNext || !cleanReset s } } := rfl

theorem enterReset_pwr (s : State) : (enterReset s).pwr = { s.pwr with
    main := .inReset, rstAsserted := true, coldNext := s.pwr.coldNext || !cleanReset s } := by
  rw [enterReset_eq, holdBoundary_pwr, (resetCommit_committed s).pwr]

theorem enterReset_keys (s : State) : (enterReset s).keys = s.keys := by
  rw [enterReset_eq, holdBoundary_keys]
  exact (resetCommit_committed s).keys

theorem enterReset_per (s : State) : (enterReset s).per = (resetCommit s).per := by
  rw [enterReset_eq, holdBoundary_per]

theorem mainOn_enterReset (s : State) : mainOn (enterReset s) = false := by
  simp only [mainOn, enterReset_pwr]

/-! ## Latches and alarms (R530, R533) -/

theorem latch_eq (s : State) (kind sensor : Nat) :
    latch s kind sensor = { s with per := { s.per with latches := (latch s kind sensor).per.latches } } := by
  unfold latch
  dsimp only
  split
  · rfl
  · split
    · rfl
    · split
      · rfl
      · rfl

/-- With the main domain off a Class A alarm is the root's end, the alarm's record and a cold start to come. -/
theorem classA_off {s : State} (h : mainOn s = false) (cause : Nat) :
    classA s cause = { recordAlarm (zeroRoot s) 1 cause 0 with
      pwr := { (recordAlarm (zeroRoot s) 1 cause 0).pwr with coldNext := true } } :=
  if_neg (ne_true_of_eq_false h)

/-! ## Supplies (R65, R67, R72) -/

theorem aonAbsent_of_supplied {s : State} (h : 850 ≤ s.pwr.vaon ∨ 2000 ≤ s.pwr.vbat) : aonAbsent s = false := by
  simp only [aonAbsent, Bool.and_eq_false_iff, decide_eq_false_iff_not]
  omega

theorem aonAbsent_of_low {s : State} (hv : s.pwr.vaon < 850) (hb : s.pwr.vbat < 2000) : aonAbsent s = true := by
  simp only [aonAbsent, hv, hb, decide_true, Bool.and_self]

theorem mainOn_of_inReset {s : State} (h : s.pwr.main = .inReset) : mainOn s = false := by
  simp only [mainOn, h]

theorem aonDown_of_supplied {s : State} (h : aonAbsent s = false) : aonDown s = s := by
  simp [aonDown, h]

/-- Without a supply for the always-on domain the main domain is in reset, entered now or before. -/
theorem aonDown_of_absent {s : State} (h : aonAbsent s = true) :
    (aonDown s).pwr.main = .inReset ∧ (aonDown s).pwr.vaon = s.pwr.vaon ∧ (aonDown s).keys = s.keys := by
  by_cases hr : s.pwr.main = .inReset
  · have hd : aonDown s = s := by simp [aonDown, hr]
    rw [hd]
    exact ⟨hr, rfl, rfl⟩
  · have hd : aonDown s = enterReset s := if_pos ⟨h, hr⟩
    rw [hd, enterReset_pwr, enterReset_keys]
    exact ⟨rfl, rfl, rfl⟩

/-- VDD_HIGH on a running main domain: the reading, a log record unless the episode is known, and the two marks. -/
theorem execVddHigh_in {s : State} {mv : Nat} (hm : mainOn s = true) (hlo : 900 < mv) (hhi : mv ≤ 1000) :
    execVddHigh mv s =
      let u := setVdd s mv
      let v := if u.pwr.vddOver then u else writeLog u Config.vddHighCode.toNat 0xFFFF (leBytes 2 mv)
      .next { v with pwr := { v.pwr with vddHigh := true, vddOver := true } } := by
  have hb : beyondMaximum mv 0 0 0 = false := by simp [beyondMaximum]; omega
  have hg : ¬ ((!mainOn s) = true ∨ mv ≤ 900) := by simp [hm]; omega
  simp only [execVddHigh, hb, hg, Bool.false_eq_true, ↓reduceIte]

/-- The supply state after VAON has come to `mv`: below 0.82 V the battery takes over and MACE_N counts as released. -/
def vaonAt (s : State) (mv : Nat) : State :=
  { s with pwr := { s.pwr with
    vaon := mv, onBattery := decide (mv < 820), maceAsserted := s.pwr.maceAsserted && !decide (mv < 820)
    maceCounted := s.pwr.maceCounted && !decide (mv < 820) } }

theorem execVaonChangeover_in {s : State} {mv : Nat} (h : mv ≤ 1050) :
    execVaonChangeover mv s = .next (aonDown (vaonAt s mv)) := by
  refine if_neg ?_
  simp [beyondMaximum]; omega

/-! ## Tamper events (R71, R524, R525, R529, R536) -/

theorem execLightEvent_seen {s : State} {n : Nat} (hn : n < 96) (hb : s.pwr.onBattery = false) : execLightEvent n s =
    .next (lightSeen { s with pwr := { s.pwr with lightNow := s.pwr.lightNow.filter (· != n) ++ [n] } } n) := by
  simp only [execLightEvent, Nat.not_le.mpr hn, hb, Bool.false_eq_true, or_self, ↓reduceIte]

theorem execLightSampleWindow_seen {s : State} {n : Nat} (l : List Nat) (hn : n < 96) (hb : s.pwr.onBattery = true) :
    execLightSampleWindow (n :: l) s =
      .next (lightSeen { s with pwr := { s.pwr with lightNow := (n :: l).filter (fun i => decide (i < 96)) } } n) := by
  simp only [execLightSampleWindow, hb, hn, List.filter_cons, decide_true, Bool.not_true, Bool.false_eq_true, ↓reduceIte]

theorem execLightSampleWindow_nil {s : State} (hb : s.pwr.onBattery = true) :
    execLightSampleWindow [] s = .next { s with pwr := { s.pwr with lightNow := [] } } := by
  simp only [execLightSampleWindow, hb, List.filter_nil, Bool.not_true, Bool.false_eq_true, ↓reduceIte]

theorem execMaceAssert_observed {s : State} (hm : s.pwr.maceAsserted = false) (hb : s.pwr.onBattery = false)
    (ha : aonAbsent s = false) : execMaceAssert s =
      .next (classA (latch { s with pwr := { s.pwr with maceAsserted := true, maceCounted := false } } 2 0) 2) := by
  simp only [execMaceAssert, hm, hb, ha, Bool.false_eq_true, or_self, ↓reduceIte]

theorem execMaceHeldEpisode_first {s : State} (ha : s.pwr.maceAsserted = true) (hc : s.pwr.maceCounted = false) :
    execMaceHeldEpisode s =
      .next { s with pwr := { s.pwr with maceCounted := true, maceHeldEpisodes := s.pwr.maceHeldEpisodes + 1 } } :=
  if_pos ⟨ha, by rw [hc]; rfl⟩

theorem execMaceHeldEpisode_counted {s : State} (hc : s.pwr.maceCounted = true) : execMaceHeldEpisode s = .next s := by
  simp only [execMaceHeldEpisode, hc, Bool.not_true, Bool.false_eq_true, and_false, ↓reduceIte]

theorem execAonGap_eq (s : State) :
    execAonGap s = .next (if s.pwr.onBattery then classA (latch s 4 0) 4 else latch s 4 0) := by
  simp only [execAonGap, latch_pwr]

/-! ## The reset pin (R69) -/

theorem execRstNAssert_long {s : State} {ns : Nat} (hr : s.pwr.rstAsserted = false) (h : 1000 ≤ ns) :
    execRstNAssert ns s = .next (enterReset s) := by
  have hlo : ¬ ns < 100 := by omega
  simp only [execRstNAssert, hr, hlo, h, Bool.false_eq_true, or_self, ↓reduceIte]

theorem execRstNAssert_between {s : State} {ns : Nat} (hr : s.pwr.rstAsserted = false) (hlo : 100 ≤ ns) (hhi : ns < 1000) :
    execRstNAssert ns s = .next (if Config.freeNat (draw s).1 % 2 = 1 then enterReset (draw s).2 else (draw s).2) := by
  simp only [execRstNAssert, hr, Nat.not_lt.mpr hlo, Nat.not_le.mpr hhi, Bool.false_eq_true, or_self, ↓reduceIte]

/-! ## The start after a reset (R495, R497) -/

theorem countLatch_persistent (s : State) (e : Nat × Latch) : ∃ p, countLatch s e = { s with per := p } := by
  unfold countLatch tamperStep
  split
  · exact ⟨_, rfl⟩
  · exact ⟨s.per, rfl⟩

theorem countLatches_persistent (l : List (Nat × Latch)) (s : State) : ∃ p, l.foldl countLatch s = { s with per := p } := by
  induction l generalizing s with
  | nil => exact ⟨s.per, rfl⟩
  | cons e r ih =>
    obtain ⟨p, hp⟩ := countLatch_persistent s e
    obtain ⟨q, hq⟩ := ih (countLatch s e)
    exact ⟨q, by rw [List.foldl_cons, hq, hp]⟩

/-- Counting the latches moves persistent state, and the canary's step is noted. -/
theorem countTamper_eq (s : State) : ∃ p b, countTamper s =
    { s with per := p, pwr := { s.pwr with canaryLost := false, canaryStep := b } } := by
  obtain ⟨p, hp⟩ := countLatches_persistent s.per.latches s
  unfold countTamper
  rw [hp]
  dsimp only
  split
  · exact ⟨_, _, rfl⟩
  · exact ⟨_, _, rfl⟩

theorem beginStart_mace {s : State} (h : s.pwr.maceAsserted = true) :
    beginStart s = startFailed (atStep (freshState s) 1) 0x0B := if_pos h

theorem beginStart_cold {s : State} (h : s.pwr.maceAsserted = false) (hc : s.pwr.coldNext = true ∨ secureLatched s = true) :
    beginStart s = goCold (clearSecure (countTamper (freshState s))) := by
  have hm : (freshState s).pwr.maceAsserted = false := h
  simp only [beginStart, hm, Bool.or_eq_true_iff.mpr hc, Bool.false_eq_true, ↓reduceIte]

theorem beginStart_warm {s : State} (h : s.pwr.maceAsserted = false) (hc : ¬ (s.pwr.coldNext = true ∨ secureLatched s = true)) :
    beginStart s = { clearSecure (countTamper (freshState s)) with
      pwr := { (clearSecure (countTamper (freshState s))).pwr with startKind := 2 } } := by
  have hm : (freshState s).pwr.maceAsserted = false := h
  have hk : ¬ (s.pwr.coldNext || secureLatched s) = true := fun e => hc (Bool.or_eq_true_iff.mp e)
  simp only [beginStart, hm, hk, Bool.false_eq_true, ↓reduceIte]

theorem execRstNRelease_supplied {s : State} (hr : s.pwr.rstAsserted = true) (hs : 850 ≤ s.pwr.vaon ∨ 2000 ≤ s.pwr.vbat) :
    execRstNRelease s = .next (beginStart s) := by
  simp only [execRstNRelease, hr, aonAbsent_of_supplied hs, Bool.not_true, Bool.false_eq_true, or_self, ↓reduceIte]

/-- What a start with MACE_N released begins with, by its kind. -/
theorem beginStart_begun {s : State} (h : s.pwr.maceAsserted = false) :
    (beginStart s).pwr.main = .precondition ∧ (beginStart s).pwr.rstAsserted = false ∧
      (beginStart s).pwr.startKind = (if s.pwr.coldNext = true ∨ secureLatched s = true then 1 else 2) ∧
      (beginStart s).keys.rk = none ∧ (beginStart s).pwr.releasedAt = now s ∧
      (beginStart s).glb.s0Bound = (if s.pwr.coldNext = true ∨ secureLatched s = true then false else s.glb.s0Bound) := by
  obtain ⟨p, b, ht⟩ := countTamper_eq (freshState s)
  by_cases hc : s.pwr.coldNext = true ∨ secureLatched s = true
  · rw [if_pos hc, if_pos hc, beginStart_cold h hc, ht]
    exact ⟨rfl, rfl, rfl, rfl, rfl, rfl⟩
  · rw [if_neg hc, if_neg hc, beginStart_warm h hc, ht]
    exact ⟨rfl, rfl, rfl, rfl, rfl, rfl⟩

end Sys2Proof.Machine
end

section
/-! CERTIFICATES. Power, tamper and the reset pin (R65, R67 to R72, R497, R524, R525, R528, R529, R536, R537, R540). -/
namespace Sys2Proof.Machine

/-- Settles O31: a known episode writes no record and a new one only a record; VAON out of range with VBAT enters reset. -/
theorem supplies : Obligations.Supplies := by
  refine ⟨fun s mv hm hlo hhi => ⟨_, execVddHigh_in hm hlo hhi, ?_⟩, fun s mv hhi hs => ⟨_, execVaonChangeover_in hhi, ?_⟩,
    fun s mv hv hb => ⟨_, execVaonChangeover_in (by omega), ?_⟩, fun s v h => ?_, fun s => ⟨_, rfl, ?_⟩⟩
  · have hover : (setVdd s mv).pwr.vddOver = s.pwr.vddOver := by simp [setVdd, hlo]
    dsimp only
    rw [hover]
    cases ho : s.pwr.vddOver with
    | true => exact ⟨rfl, rfl, rfl, rfl, rfl, rfl, rfl, fun _ => rfl⟩
    | false =>
      have hl := writeLog_logged (setVdd s mv) Config.vddHighCode.toNat 0xFFFF (leBytes 2 mv)
      rw [if_neg Bool.false_ne_true, hl]
      exact ⟨rfl, rfl, rfl, rfl, rfl, rfl, rfl, fun h => nomatch h⟩
  · rw [aonDown_of_supplied (aonAbsent_of_supplied (s := vaonAt s mv) hs)]
    exact ⟨rfl, rfl, fun hlow => by simp [vaonAt, hlow], fun hin => by simp [vaonAt, Nat.not_lt.mpr hin], rfl⟩
  · obtain ⟨hr, ha, hk⟩ := aonDown_of_absent (aonAbsent_of_low (s := vaonAt s mv) hv hb)
    exact ⟨ha, hr, mainOn_of_inReset hr, hk⟩
  · change execPwrVddMinWrite v s = _
    rw [execPwrVddMinWrite, portAccess_of_serves h, regWrite_of_serves h]
    rfl
  · rw [holdBoundary_per, holdBoundary_pwr, mainOn_holdBoundary]
    exact ⟨rfl, rfl, rfl, rfl, rfl, rfl, rfl, rfl, rfl, rfl, rfl, rfl⟩

/-- Settles O34: each event is latched before its alarm, which with the main domain off writes the root and the power state alone. -/
theorem tamperEvents : Obligations.TamperEvents := by
  refine ⟨fun s n hn hb => ⟨_, execLightEvent_seen hn hb, rfl, ?_⟩,
    fun s n l hn hb => ⟨_, execLightSampleWindow_seen l hn hb, rfl, rfl⟩, fun s hb => execLightSampleWindow_nil hb,
    fun s hm hb hs => ⟨_, execMaceAssert_observed hm hb (aonAbsent_of_supplied hs), rfl, rfl⟩,
    fun s => ⟨_, rfl, rfl, rfl, rfl⟩,
    fun s ha hc => ⟨_, execMaceHeldEpisode_first ha hc, rfl, rfl, rfl, execMaceHeldEpisode_counted rfl⟩,
    fun s hb => (execAonGap_eq s).trans ?_, fun s hb => (execAonGap_eq s).trans ?_, fun s cause hm => ?_⟩
  · simp
  · rw [hb, if_neg Bool.false_ne_true]
  · rw [hb, if_pos rfl]
  · rw [classA_off hm]
    exact ⟨rfl, rfl, rfl, rfl, rfl, rfl⟩

/-- Settles O36: a pulse is classed by its length, the reset is the held boundary over at most one commit, and a release begins a
start, which MACE_N ends in SAFE. -/
theorem resetPin : Obligations.ResetPin := by
  refine ⟨fun s ns hr => ⟨fun hns => ?_, fun hns => ?_, fun hlo hhi => ?_⟩, fun s => ?_, fun s hr => ?_,
    fun s hr hs => ⟨fun hm => ⟨_, execRstNRelease_supplied hr hs, beginStart_begun hm⟩,
      fun hm => ⟨_, execRstNRelease_supplied hr hs, ?_⟩⟩⟩
  · exact if_pos (.inr hns)
  · exact execRstNAssert_long hr hns
  · exact execRstNAssert_between hr hlo hhi
  · obtain ⟨ha, hb, hc, hd, he, hf⟩ := (resetCommit_committed s).battery
    dsimp only
    rw [enterReset_per]
    refine ⟨?_, ?_, mainOn_enterReset s, ?_, ?_, enterReset_keys s, ha, hb, hc, hd, he, hf, fun hcold => ?_⟩
    · rw [enterReset_pwr]
    · rw [enterReset_pwr]
    · rw [enterReset_eq, holdBoundary_links]
    · rw [enterReset_eq, holdBoundary_txns]
    · rw [enterReset_pwr, hcold]
      rfl
  · change execLongReset s = _
    simp only [execLongReset, hr, ↓reduceIte]
  · rw [beginStart_mace hm]
    exact ⟨rfl, rfl, rfl, rfl, rfl⟩

end Sys2Proof.Machine
end

section
/-! SUPPORT. Rules for slices, parts and the requests of the mailbox: what a write to one of their tables, a log record with its manager
vector, and the start of a request write, and what they leave (R58, R104, R483, R543, R550). -/
namespace Sys2Proof.Machine

/-! ## Tables of slices, parts and leases -/

theorem sliceOf_congr {s t : State} (h : t.slices = s.slices) (n : Nat) : sliceOf t n = sliceOf s n := by
  rw [sliceOf, h, ← sliceOf]

theorem sliceOf_setSlice_same (s : State) (n : Nat) (x : Slice) : sliceOf (setSlice s n x) n = x := look_put_same _ _ _ _

theorem sliceOf_setSlice_other (s : State) {n m : Nat} (x : Slice) (h : m ≠ n) : sliceOf (setSlice s n x) m = sliceOf s m :=
  look_put_other _ _ _ h

theorem sliceOf_updSlice_same (s : State) (n : Nat) (f : Slice → Slice) : sliceOf (updSlice s n f) n = f (sliceOf s n) :=
  sliceOf_setSlice_same _ _ _

theorem partOf_congr {s t : State} (h : t.sched = s.sched) (k : Engine) (n : Nat) : partOf t k n = partOf s k n := by
  rw [partOf, h, ← partOf]

theorem leaseEpoch_congr {s t : State} (h : t.sched = s.sched) (r : Leased) : leaseEpoch t r = leaseEpoch s r := by
  rw [leaseEpoch, h, ← leaseEpoch]

theorem leaseEpoch_revoke_same (s : State) (r : Leased) : leaseEpoch (revoke s r) r = leaseEpoch s r + 1 := by
  rw [leaseEpoch, revoke, List.find?_cons_of_pos (by simp)]
  rfl

/-! ## A log record and its manager vector (R58, R443) -/

theorem mgrEvent_notifyManager (s : State) {n : Nat} (h : n < 15) : (notifyManager s n).irq.mgrEvent.getLsbD n = true := by
  obtain ⟨-, -, hirq⟩ := notifyManager_traffic s n
  rw [hirq, BitVec.getLsbD_or, BitVec.getLsbD_ofNat, Nat.testBit_two_pow_self, decide_eq_true h, Bool.true_and, Bool.or_true]

theorem notifyManager_writeLog_logged (s : State) (code sl : Nat) (data : Bytes) (n : Nat) :
    OnlyLogged s (notifyManager (writeLog s code sl data) n) :=
  (writeLog_logged s code sl data).trans (notifyManager_traffic _ n).1.logged

theorem OnlyLogged.sched {s t : State} (h : OnlyLogged s t) : t.sched = s.sched := by unfold OnlyLogged at h; rw [h]
theorem OnlyLogged.jobs {s t : State} (h : OnlyLogged s t) : t.jobs = s.jobs := by unfold OnlyLogged at h; rw [h]
theorem OnlyLogged.keys {s t : State} (h : OnlyLogged s t) : t.keys = s.keys := by unfold OnlyLogged at h; rw [h]
theorem OnlyLogged.slices {s t : State} (h : OnlyLogged s t) : t.slices = s.slices := by unfold OnlyLogged at h; rw [h]

/-! ## A request that the firmware starts (R483, R506) -/

/-- How a started request goes on: it has its reply, or it waits on the datapath. -/
def ranNext (i : Nat) (q : Req) : Ran × State → Res
  | (.reply a, t) => .next (finishReq t i a)
  | (.park, t) => .next (parkReq t i q)

theorem runMailbox_of_starts {s : State} {code i : Nat} {q : Req} (h : Starts s code i q) (f : Req → State → Ran × State) :
    runMailbox code anyReq f s = ranNext i q (f q s) := by
  have hc : ¬ (q.cmd ≠ code ∨ (!anyReq q) = true) := by simp [h.command, anyReq]
  have hr : ¬ (reportsOnly s = true ∧ code ≠ 0x0001 ∧ code ≠ 0x0600) := by simp [h.allowed]
  simp only [runMailbox, h.next]
  rw [if_neg hc, if_neg hr]
  rcases f q s with ⟨_ | _, t⟩
  · rfl
  · rfl

/-- Input that arrives leaves a note of its read, and nothing else. -/
theorem readInput_data {s t : State} {a n : Nat} {r : ReadOutcome} {b : Bytes} (h : readInput s a n r = (.data b, t)) :
    t = emit s (readNote s 0 a n) := by
  unfold readInput at h
  split at h
  · cases h
  · split at h
    · cases h
    · cases r <;> cases h
      rfl

end Sys2Proof.Machine
end

section
/-! SUPPORT. Rules for faults: what the fence of a part writes, when a fault of a part takes effect, and when a slice fault settles (R96,
R542, R543, R550). -/
namespace Sys2Proof.Machine

/-! ## Faults of parts (R542, R543, R550) -/

/-- A part as its fence leaves it. -/
def fencedPart (x : Part) (why : FenceSt) : Part := { x with fence := why, busy := none, own := false }

theorem partFree_fencedPart (x : Part) (why : FenceSt) :
    partFree (fencedPart x why) = (why == .inService && x.test != .underTest) := by
  simp [partFree, partOut, fencedPart, bne]

/-- The fence writes the part, its lease and, on a lane with work of its own, that work; then come the log record and the vector. -/
theorem fencePart_logged (s : State) (k : Engine) (n : Nat) (why : FenceSt) :
    ∃ st rs, OnlyLogged (revoke { updPart s k n (fencedPart · why) with store := st, res := rs } (.part k n))
      (fencePart s (k, n) why) := by
  unfold fencePart
  dsimp only
  split
  · exact ⟨_, _, notifyManager_writeLog_logged _ _ _ _ _⟩
  · split
    · exact ⟨_, _, notifyManager_writeLog_logged _ _ _ _ _⟩
    · exact ⟨s.store, s.res, notifyManager_writeLog_logged _ _ _ _ _⟩

theorem partOf_fencePart (s : State) (k : Engine) (n : Nat) (why : FenceSt) :
    partOf (fencePart s (k, n) why) k n = fencedPart (partOf s k n) why := by
  obtain ⟨st, rs, h⟩ := fencePart_logged s k n why
  rw [partOf_congr h.sched]
  exact look_put_same _ _ _ _

theorem leaseEpoch_fencePart (s : State) (k : Engine) (n : Nat) (why : FenceSt) :
    leaseEpoch (fencePart s (k, n) why) (.part k n) = leaseEpoch s (.part k n) + 1 := by
  obtain ⟨st, rs, h⟩ := fencePart_logged s k n why
  rw [leaseEpoch_congr h.sched, leaseEpoch_revoke_same]
  rfl

/-- No submission, key or slice changes with a fence. -/
theorem fencePart_kept (s : State) (k : Engine) (n : Nat) (why : FenceSt) : (fencePart s (k, n) why).jobs = s.jobs ∧
    (fencePart s (k, n) why).keys = s.keys ∧ (fencePart s (k, n) why).slices = s.slices := by
  obtain ⟨st, rs, h⟩ := fencePart_logged s k n why
  exact ⟨h.jobs, h.keys, h.slices⟩

theorem mgrEvent_fencePart (s : State) (k : Engine) (n : Nat) (why : FenceSt) :
    (fencePart s (k, n) why).irq.mgrEvent.getLsbD 8 = true := mgrEvent_notifyManager _ (by decide)

theorem exec_codewordFault_of_canFault {s : State} {k : Engine} {n : Nat} (h : canFault s k n = true) :
    exec (.codewordFault k n) s = .next (storeGone (partFault s k n .codeword)) := by
  change execCodewordFault k n s = _
  rw [execCodewordFault, if_pos h]

/-- A submission on a part stalls it while its computation is to go on: no part is missing, or its results wait to be written. -/
theorem exec_stallFault_of_canFault {s : State} {k : Engine} {n : Nat} {j : Job} (h : canFault s k n = true)
    (hj : (partOf s k n).busy.bind (jobOf s) = some j)
    (hp : (j.phase = .operands ∧ missingMore s j = []) ∨ j.phase = .computed) :
    exec (.stallFault k n) s = .next (storeGone (partFault s k n .stall)) := by
  have hs : (j.phase == .operands && (missingMore s j).isEmpty || j.phase == .computed) = true := by
    rcases hp with ⟨hp, hm⟩ | hp
    · rw [hp, hm]; rfl
    · rw [hp]; rfl
  change execStallFault k n s = _
  simp only [execStallFault, hj, h, hs, and_self, ↓reduceIte]

/-! ## Faults of slices (R96) -/

/-- A slice whose fault waits for no submission becomes FAULTED, with a record and vector 4. -/
theorem settleFault_settles {s : State} {sl c : Nat} (hf : (sliceOf s sl).faulting = some c)
    (hj : s.jobs.any (fun j => j.slice == sl && accepted j) = false) : settleFault s sl = notifyManager
      (writeLog (updSlice s sl (fun x => { x with st := .faulted, faultCause := c, faulting := none })) 0x0008 sl (leBytes 1 c)) 4 := by
  simp only [settleFault, hf, hj, Bool.false_eq_true, ↓reduceIte]

theorem sliceOf_settleFault {s : State} {sl c : Nat} (hf : (sliceOf s sl).faulting = some c)
    (hj : s.jobs.any (fun j => j.slice == sl && accepted j) = false) :
    sliceOf (settleFault s sl) sl = { sliceOf s sl with st := .faulted, faultCause := c, faulting := none } := by
  rw [settleFault_settles hf hj, sliceOf_congr (notifyManager_writeLog_logged _ _ _ _ _).slices, sliceOf_updSlice_same]

theorem settleFault_waits {s : State} {sl : Nat} (hj : s.jobs.any (fun j => j.slice == sl && accepted j) = true) :
    settleFault s sl = s := by
  unfold settleFault
  split
  · rfl
  · rw [if_pos hj]

theorem sliceFault_left {s : State} {sl : Nat} (h : sliceServes (sliceOf s sl) = false) (cause : Nat) : sliceFault s sl cause = s := by
  simp only [sliceFault, h, Bool.not_false, ↓reduceIte]

theorem sliceFault_stops {s : State} {sl : Nat} (h : sliceServes (sliceOf s sl) = true) (cause : Nat) : sliceFault s sl cause =
    settleFault (stopSlice (updSlice s sl (fun x => { x with faulting := some cause })) sl stAbortFault) sl := by
  simp only [sliceFault, h, Bool.not_true, Bool.false_eq_true, ↓reduceIte]

end Sys2Proof.Machine
end

section
/-! SUPPORT. Rules for the commands of the mailbox that create, modify, reset, destroy and query a slice: the branch that each takes, and
what it writes (R81, R94, R100, R104 to R107, R596). -/
namespace Sys2Proof.Machine

/-! ## The creation block and what is staged (R81, R104, R596) -/

/-- A creation block that is taken has been read, and it names the target. -/
theorem creationInput_data {q : Req} {io : MbxIo} {s t : State} {b : Bytes} (h : creationInput q io s = (.data b, t)) :
    t = emit s (readNote s 0 q.param 320) ∧ (creationFrom b).slice = q.target := by
  unfold creationInput at h
  split at h
  · cases h
  · split at h
    · cases h
    · rename_i b' t' hr
      split at h
      · rename_i hok
        cases h
        exact ⟨readInput_data hr, hok.2⟩
      · cases h

theorem sliceOf_stageSlice (s : State) (c : Creation) (n : Nat) : sliceOf (stageSlice s c) n = sliceOf s n := rfl

theorem allotOf_stageSlice (s : State) (c : Creation) : allotOf (stageSlice s c).cfg.staged c.slice = c.allot := by
  unfold stageSlice
  dsimp only
  split
  · exact look_put_same _ _ _ _
  · exact look_put_same _ _ _ _

theorem windowsOf_stageSlice (s : State) {c : Creation} (h : c.slice ≠ 0) :
    windowsOf (stageSlice s c).cfg.staged c.slice = c.windows := by
  simp only [stageSlice, h, ↓reduceIte]
  exact look_put_same _ _ _ _

/-- A request for a slice without arguments passes the test of its parameters (R484, R596). -/
theorem not_badRequest {q : Req} (ha : argsFrom q 0 = false) (ht : q.target ≤ 255) :
    ¬ (argsFrom q 0 = true ∨ 255 < q.target) := by
  rintro (h | h)
  · rw [ha] at h; cases h
  · omega

/-! ## SLICE_CREATE (R94, R104) -/

/-- The slice that a creation makes. -/
def createdSlice (c : Creation) : Slice :=
  { st := .creating, pasid := BitVec.ofNat 20 c.pasid, colour := BitVec.ofNat 8 c.colour, saffron := c.cls == 1
    privileged := bit c.flags 0, held := c.allot }

theorem createSlice_lacking {c : Creation} {s : State}
    (h : noResource s c.slice c.allot = true ∨ (bit c.flags 0 = true ∧ 16 ≤ privilegedCount s)) :
    createSlice c s = (.reply { code := rNoResource }, s) := if_pos h

theorem createSlice_enough {c : Creation} {s : State} (hr : noResource s c.slice c.allot = false)
    (hp : bit c.flags 0 = false ∨ privilegedCount s < 16) : createSlice c s =
      if pasidTaken s c.pasid then (.reply { code := rInUse }, s)
      else (.reply { code := rOk }, stageSlice (setSlice s c.slice (createdSlice c)) c) := by
  refine if_neg ?_
  rintro (h | ⟨hb, hn⟩)
  · rw [hr] at h; cases h
  · rcases hp with hp | hp
    · rw [hp] at hb; cases hb
    · omega

/-- Over a good creation block SLICE_CREATE is the creation. -/
theorem exec_sliceCreate_good {s t : State} {io : MbxIo} {i : Nat} {q : Req} {b : Bytes} (h : Starts s 0x0101 i q)
    (h0 : q.target ≠ 0) (hf : (sliceOf s q.target).st = .free) (hb : s.glb.s0Bound = true)
    (hin : creationInput q io s = (.data b, t)) :
    exec (.sliceCreate io) s = ranNext i q (createSlice (creationFrom b) t) := by
  change execSliceCreate io s = _
  rw [execSliceCreate, runMailbox_of_starts h]
  simp [h0, hf, hb, hin]

/-! ## SLICE_MODIFY (R81, R104, R106) -/

/-- What a modification without fault leaves: the allotment is held, and staged with the windows. -/
def modifySlice (s : State) (n : Nat) (c : Creation) : State := stageSlice (updSlice s n (fun x => { x with held := c.allot })) c

theorem sliceOf_modifySlice (s : State) (n : Nat) (c : Creation) :
    sliceOf (modifySlice s n c) n = { sliceOf s n with held := c.allot } := by
  rw [modifySlice, sliceOf_stageSlice, sliceOf_updSlice_same]

theorem exec_sliceModify_good {s t : State} {io : MbxIo} {i : Nat} {q : Req} {b : Bytes} (h : Starts s 0x0102 i q)
    (hst : (sliceOf s q.target).st = .active ∨ (sliceOf s q.target).st = .faulted) (hb : s.glb.s0Bound = true)
    (hin : creationInput q io s = (.data b, t)) (hid : sameIdentity t (creationFrom b) = true)
    (hr : noResource t q.target (creationFrom b).allot = false) (hu : modifyInUse t q.target (creationFrom b) = false) :
    exec (.sliceModify io) s = .next (finishReq (modifySlice t q.target (creationFrom b)) i { code := rOk }) := by
  have hg : ¬ ((q.target ≤ 255 ∧ (sliceOf s q.target).st ≠ .active ∧ (sliceOf s q.target).st ≠ .faulted) ∨
      (!s.glb.s0Bound) = true) := by
    rintro (⟨-, ha, hf⟩ | hn)
    · exact hst.elim ha hf
    · rw [hb] at hn; cases hn
  change execSliceModify io s = _
  rw [execSliceModify, runMailbox_of_starts h]
  dsimp only
  rw [if_neg hg, hin]
  simp [hid, hr, hu, ranNext, modifySlice]

/-! ## SLICE_RESET (R100, R101, R587) -/

theorem exec_sliceReset_halts {s : State} {i : Nat} {q : Req} (h : Starts s 0x0103 i q) (ha : argsFrom q 0 = false)
    (ht : q.target ≤ 255) (hst : (sliceOf s q.target).st = .active ∨ (sliceOf s q.target).st = .faulted) :
    exec .sliceReset s = .next (parkReq
      (haltSlice (updSlice s q.target (fun x => { x with st := .resetting, faulting := none })) q.target) i q) := by
  have hg : ¬ (q.target ≤ 255 ∧ (sliceOf s q.target).st ≠ .active ∧ (sliceOf s q.target).st ≠ .faulted) :=
    fun ⟨_, hna, hnf⟩ => hst.elim hna hnf
  change execSliceReset s = _
  rw [execSliceReset, runMailbox_of_starts h]
  dsimp only
  rw [if_neg hg, if_neg (not_badRequest ha ht)]
  rfl

theorem exec_sliceResetDone_quiet {s : State} {n : Nat} (hp : pastStart s = true) (hst : (sliceOf s n).st = .resetting)
    (hq : sliceQuiet s n = true) : ∃ v, exec (.sliceResetDone n) s = .next (finishParked
      (updSlice v n (fun x => { x with st := .active, faultCause := 0, record := none }))
      (fun q => q.cmd == 0x0103 && q.target == n) { code := rOk }) :=
  ⟨_, if_pos ⟨hp, hst, hq⟩⟩

/-! ## SLICE_DESTROY (R94, R105) -/

/-- What a destruction of a slice that can be destroyed does. -/
def destroySlice (s : State) (n : Nat) : Ran × State :=
  if ownsRecords s n then (.reply { code := rKeysPresent }, s)
  else if (sliceOf s n).st = .creating then (.reply { code := rOk }, freeSlice s n)
  else (.park, haltSlice (updSlice s n (fun x => { x with st := .destroying, faulting := none })) n)

theorem exec_sliceDestroy_good {s : State} {i : Nat} {q : Req} (h : Starts s 0x0104 i q) (h0 : q.target ≠ 0)
    (ha : argsFrom q 0 = false) (ht : q.target ≤ 255)
    (hst : (sliceOf s q.target).st = .creating ∨ (sliceOf s q.target).st = .active ∨ (sliceOf s q.target).st = .faulted) :
    exec .sliceDestroy s = ranNext i q (destroySlice s q.target) := by
  have hg : ¬ (q.target = 0 ∨ (q.target ≤ 255 ∧ (sliceOf s q.target).st ≠ .active ∧ (sliceOf s q.target).st ≠ .faulted ∧
      (sliceOf s q.target).st ≠ .creating)) := by
    rintro (hz | ⟨-, hna, hnf, hnc⟩)
    · exact h0 hz
    · exact hst.elim hnc (·.elim hna hnf)
  change execSliceDestroy s = _
  rw [execSliceDestroy, runMailbox_of_starts h]
  dsimp only
  rw [if_neg hg, if_neg (not_badRequest ha ht), destroySlice]

theorem exec_sliceReleaseDone_quiet {s : State} {n : Nat} (hp : pastStart s = true) (hst : (sliceOf s n).st = .destroying)
    (hq : sliceQuiet s n = true) : exec (.sliceReleaseDone n) s = .next (finishParked
      (freeSlice ((sliceRings s n).foldl closeRing s) n) (fun q => q.cmd == 0x0104 && q.target == n) { code := rOk }) :=
  if_pos ⟨hp, hst, hq⟩

theorem ne_of_mem_del {α : Type} {t : Tbl α} {k : Nat} {e : Nat × α} (h : e ∈ del t k) : e.1 ≠ k :=
  bne_iff_ne.mp (List.mem_filter.mp h).2

/-- The configuration in force forgets a freed slice. -/
theorem freeSlice_cur (s : State) (n : Nat) : (freeSlice s n).cfg.cur = forgetIn s.cfg.cur n := rfl

theorem sliceOf_freeSlice (s : State) (n : Nat) : sliceOf (freeSlice s n) n = { sliceOf s n with
    st := .free, pasid := 0, colour := 0, saffron := false, privileged := false, held := {}, faultCause := 0, record := none
    faulting := none } := sliceOf_setSlice_same _ _ _

/-! ## SLICE_QUERY (R104) -/

theorem exec_sliceQuery_written {s : State} {io : MbxIo} {i : Nat} {q : Req} (h : Starts s 0x0105 i q) (ha : argsFrom q 0 = false)
    (ht : q.target ≤ 255) (ho : outputFault s q.param 256 = none) (hw : io.write = .ok) :
    exec (.sliceQuery io) s = .next (finishReq
      (emit s (writeNote s 0 q.param ((List.range 256).map (Config.queryByte (queryFacts s q.target))))) i { code := rOk }) := by
  change execSliceQuery io s = _
  rw [execSliceQuery, runMailbox_of_starts h]
  simp only [ha, Nat.not_lt.mpr ht, ho, hw, writeOutput, ranNext, Bool.false_eq_true, or_self, ↓reduceIte]

end Sys2Proof.Machine
end

section
/-! CERTIFICATES. Slices: faults of parts and of slices (R96, R98, R533, R542, R543), and the commands that create, modify, reset,
destroy and query a slice (R81, R94, R100, R101, R104 to R106). -/
namespace Sys2Proof.Machine

/-- Settles O39: a fence writes its part and the lease before its record and vector 8, and a slice fault settles once no accepted
submission is left. -/
theorem partFaults : Obligations.PartFaults := by
  refine ⟨fun s k n h => exec_codewordFault_of_canFault h, fun s k n j h hj hp => exec_stallFault_of_canFault h hj hp,
    fun s k n why => ?_, fun s n place hs hn => ?_, fun s sl c hf hj => ?_,
    fun s sl hj => settleFault_waits hj, fun s sl cause h => sliceFault_left h cause,
    fun s sl cause h => ⟨_, sliceFault_stops h cause, rfl⟩⟩
  · have hp := partOf_fencePart s k n why
    dsimp only
    rw [hp]
    exact ⟨rfl, rfl, rfl, leaseEpoch_fencePart s k n why, partFree_fencedPart _ why, mgrEvent_fencePart s k n why,
      fencePart_kept s k n why⟩
  · exact if_neg (by simp [hs, hn])
  · rw [sliceOf_settleFault hf hj]
    refine ⟨rfl, rfl, ?_⟩
    rw [settleFault_settles hf hj]
    exact mgrEvent_notifyManager _ (by decide)

/-- Settles O44: each command takes the branch that its guards leave, over the state in which its creation block was read; what
it stages or frees is one write of the slice and of the configuration. -/
theorem sliceCommands : Obligations.SliceCommands := by
  refine ⟨fun s t io i q b h h0 hf hb hin => ?_, fun s t io i q b h hst hb hin hid hr hu => ?_,
    fun s i q h ha ht hst => exec_sliceReset_halts h ha ht hst, fun s n hp hst hq => ?_,
    fun s i q h h0 ha ht hst => ?_, fun s n hp hst hq => ?_,
    fun s io i q h ha ht ho hw => exec_sliceQuery_written h ha ht ho hw⟩
  · obtain ⟨rfl, hn⟩ := creationInput_data hin
    dsimp only
    rw [exec_sliceCreate_good h h0 hf hb hin, ← hn]
    refine ⟨fun hl => ?_, fun hr hp => ?_⟩
    · rw [createSlice_lacking hl]; rfl
    · rw [createSlice_enough hr hp]
      refine ⟨fun hu => ?_, fun hu => ?_⟩
      · rw [if_pos hu]; rfl
      · rw [hu, if_neg Bool.false_ne_true]
        refine ⟨_, rfl, ?_, allotOf_stageSlice _ _, windowsOf_stageSlice _ (hn ▸ h0), rfl, fun n hne => ?_, rfl⟩
        · rw [sliceOf_stageSlice, sliceOf_setSlice_same]; rfl
        · rw [sliceOf_stageSlice, sliceOf_setSlice_other _ _ hne]; rfl
  · obtain ⟨rfl, hn⟩ := creationInput_data hin
    refine ⟨_, exec_sliceModify_good h hst hb hin hid hr hu, ?_⟩
    rw [sliceOf_modifySlice, ← hn]
    exact ⟨rfl, rfl, allotOf_stageSlice _ _, fun h0 => windowsOf_stageSlice _ h0, rfl, rfl⟩
  · obtain ⟨v, hv⟩ := exec_sliceResetDone_quiet hp hst hq
    refine ⟨_, hv, ?_⟩
    rw [sliceOf_updSlice_same]
    exact ⟨rfl, rfl, rfl⟩
  · rw [exec_sliceDestroy_good h h0 ha ht hst, destroySlice]
    refine ⟨fun ho => ?_, fun ho hc => ?_, fun ho hc => ?_⟩
    · rw [if_pos ho]; rfl
    · rw [ho, if_neg Bool.false_ne_true, if_pos hc]; rfl
    · rw [ho, if_neg Bool.false_ne_true, if_neg hc]; rfl
  · refine ⟨_, exec_sliceReleaseDone_quiet hp hst hq, ?_⟩
    rw [sliceOf_freeSlice, freeSlice_cur]
    exact ⟨rfl, rfl, fun e he => ne_of_mem_del he, fun e he => ne_of_mem_del he⟩

end Sys2Proof.Machine
end

section
/-! SUPPORT. Rules for rings: what a context write-back, the naming of a pool and the watch entries write to the table of rings, and what
the commands that open, drain, close and resume a ring leave of it; and the start of the completion of a control opcode (R88, R109 to
R111, R118, R138, R509 to R511). -/
namespace Sys2Proof.Machine

/-! ## Traffic and pools -/

/-- Beside traffic only the return-buffer pools have changed. -/
def OnlyPooled (s t : State) : Prop := t = { s with fabric := t.fabric, irq := t.irq, drawn := t.drawn, pools := t.pools }

theorem OnlyPooled.trans {a b c : State} (h : OnlyPooled a b) (k : OnlyPooled b c) : OnlyPooled a c := by
  unfold OnlyPooled at *; rw [k, h]
theorem OnlyTraffic.pooled {a b : State} (h : OnlyTraffic a b) : OnlyPooled a b := by
  unfold OnlyTraffic OnlyPooled at *; rw [h]
theorem OnlyPooled.rings {s t : State} (h : OnlyPooled s t) : t.rings = s.rings := by unfold OnlyPooled at h; rw [h]
theorem OnlyPooled.clock {s t : State} (h : OnlyPooled s t) : t.clock = s.clock := by unfold OnlyPooled at h; rw [h]
theorem OnlyPooled.cfg {s t : State} (h : OnlyPooled s t) : t.cfg = s.cfg := by unfold OnlyPooled at h; rw [h]
theorem OnlyPooled.jobs {s t : State} (h : OnlyPooled s t) : t.jobs = s.jobs := by unfold OnlyPooled at h; rw [h]
theorem OnlyPooled.slices {s t : State} (h : OnlyPooled s t) : t.slices = s.slices := by unfold OnlyPooled at h; rw [h]
theorem OnlyPooled.keys {s t : State} (h : OnlyPooled s t) : t.keys = s.keys := by unfold OnlyPooled at h; rw [h]

theorem poolWriteBack_pooled (s : State) (r : Nat) : OnlyPooled s (poolWriteBack s r) := by
  unfold poolWriteBack
  dsimp only
  split
  · split
    · exact OnlyPooled.trans (by unfold OnlyPooled; rfl) (request_traffic _ _).1.pooled
    · rfl
  · rfl

theorem namePool_pooled (s : State) (r : Nat) : OnlyPooled s (namePool s r) := by
  unfold namePool
  dsimp only
  split
  · rfl
  · exact OnlyPooled.trans (by unfold OnlyPooled; rfl) (request_traffic _ _).1.pooled

theorem readDoorbell_pooled (s : State) (r : Nat) (drain ordered : Bool) : OnlyPooled s (readDoorbell s r drain ordered) := by
  unfold readDoorbell
  dsimp only
  split
  · rfl
  · exact (request_traffic _ _).1.pooled

theorem returnBuffer_pooled (s : State) (r : Nat) (b : Option Nat) : OnlyPooled s (returnBuffer s r b) := by
  unfold returnBuffer
  split
  · rfl
  · dsimp only
    split
    · split
      · rfl
      · rfl
    · rfl

/-! ## The table of rings -/

theorem ringOf_congr {s t : State} (h : t.rings = s.rings) (r : Nat) : ringOf t r = ringOf s r := by
  rw [ringOf, h, ← ringOf]

theorem ringOf_updRing_same (s : State) (r : Nat) (f : Ring → Ring) : ringOf (updRing s r f) r = f (ringOf s r) :=
  look_put_same _ _ _ _

/-- A ring whose context write-back has just been issued (R110). -/
def wroteBack (s : State) (x : Ring) : Ring := { x with wbDue := false, wbAt := now s }

/-- A write-back notes its time on the ring, and no more of it. -/
theorem writeBack_pooled (s : State) (r : Nat) : OnlyPooled (updRing s r (wroteBack s)) (writeBack s r) := by
  have hp := poolWriteBack_pooled s r
  refine OnlyPooled.trans ?_ (request_traffic _ _).1.pooled
  unfold OnlyPooled at *
  rw [hp]
  rfl

theorem ringOf_writeBack (s : State) (r : Nat) : ringOf (writeBack s r) r = wroteBack s (ringOf s r) := by
  rw [ringOf_congr (writeBack_pooled s r).rings, ringOf_updRing_same]

/-- Giving out a slice's watch entries writes no more of a ring than whether it has one. -/
theorem ringOf_giveWatches (s : State) (sl r : Nat) : ringOf (giveWatches s sl) r = ringOf s r ∨
    ringOf (giveWatches s sl) r = { ringOf s r with
      watchEntry := ((watchRings s sl).take (allotOf s.cfg.cur sl).watchCount).contains r } := by
  unfold ringOf giveWatches
  dsimp only
  induction s.rings with
  | nil => exact .inl rfl
  | cons e t ih =>
    obtain ⟨k, x⟩ := e
    by_cases hk : k = r
    · subst hk
      by_cases hs : x.ctx.slice = sl
      · exact .inr (by simp [look, hs])
      · exact .inl (by simp [look, hs])
    · by_cases hs : x.ctx.slice = sl
      · simpa [look, hs, hk] using ih
      · simpa [look, hs, hk] using ih

/-! ## Opening a ring (R111, R509) -/

theorem ringOf_armRing (s : State) (r : Nat) : ringOf (armRing s r) r = { ringOf s r with polledAt := now s } := by
  rw [armRing, ringOf_congr (readDoorbell_pooled _ _ _ _).rings, ringOf_updRing_same]

theorem now_writeBack (s : State) (r : Nat) : now (writeBack s r) = now s := congrArg Clock.now (writeBack_pooled s r).clock

theorem now_namePool (s : State) (r : Nat) : now (namePool s r) = now s := congrArg Clock.now (namePool_pooled s r).clock

/-- A ring is opened with what it is given; its doorbell has been read and its context written back. -/
theorem ringOf_openRingNow (s : State) (r : Nat) (x : Ring) : ∃ w, ringOf (openRingNow s r x) r =
    { x with watchEntry := w, wbDue := false, wbAt := now s, polledAt := now s } := by
  have hx : ringOf (setRing s r x) r = x := look_put_same _ _ _ _
  have hnow : now (giveWatches (setRing s r x) x.ctx.slice) = now s := rfl
  rw [openRingNow, ringOf_armRing, now_writeBack, ringOf_writeBack, wroteBack, now_namePool,
    ringOf_congr (namePool_pooled _ r).rings, hnow]
  rcases ringOf_giveWatches (setRing s r x) x.ctx.slice r with h | h
  · exact ⟨x.watchEntry, by rw [h, hx]⟩
  · exact ⟨_, by rw [h, hx]⟩

/-- RING_ENABLE of a ring whose context is good. -/
theorem exec_ringEnable_good {s t : State} {io : MbxIo} {i : Nat} {q : Req} {b : Bytes} (h : Starts s 0x0201 i q)
    (hr : ringRefused s q.target = false) (ha : argsFrom q 0 = false) (hc : readContext s q.target io.read = (.data b, t))
    (hf : contextFault t q.target b = false) (hz : allZero (subBytes b 0xA0 96) = true) : exec (.ringEnable io) s =
      if ctxInUse t q.target (ctxFrom b) then .next (finishReq t i { code := rInUse })
      else .next (parkReq (enableRing t q.target b) i q) := by
  change execRingEnable io s = _
  rw [execRingEnable, runMailbox_of_starts h]
  simp only [hr, ha, hc, hf, hz, Bool.not_true, Bool.false_eq_true, or_self, ↓reduceIte]
  split
  · rfl
  · rfl

/-- An enabled ring starts the epoch after the recorded one, at index zero. -/
theorem ringOf_enableRing (s : State) (r : Nat) (b : Bytes) : (ringOf (enableRing s r b) r).st = .enabled ∧
    (ringOf (enableRing s r b) r).epoch = epochAfter (field b 0x80 2 % 2 ^ 15) ∧ (ringOf (enableRing s r b) r).cidx = 0 ∧
    (ringOf (enableRing s r b) r).nextSeq = 0 ∧ (ringOf (enableRing s r b) r).cqidx = 0 := by
  obtain ⟨w, h⟩ := ringOf_openRingNow (abandonIntents s (fun _ q => q == r)) r
    { recordedRing s r b with
      epoch := epochAfter (recordedRing s r b).epoch, cidx := 0, nextSeq := 0, cqidx := 0, prod := 0, nextCpl := 0 }
  rw [enableRing, h]
  exact ⟨rfl, rfl, rfl, rfl, rfl⟩

/-- RING_RESUME of a ring that was refused, or after a start that was not cold. -/
theorem exec_ringResume_refused {s : State} {io : MbxIo} {walk : WalkIo} {i : Nat} {q : Req} (h : Starts s 0x0203 i q)
    (hr : ringRefused s q.target = true ∨ s.pwr.startKind ≠ 1) :
    exec (.ringResume io walk) s = .next (finishReq s i { code := rWrongState }) := by
  change execRingResume io walk s = _
  rw [execRingResume, runMailbox_of_starts h, if_pos hr]
  rfl

/-- RING_RESUME after a cold start, over a context that can be resumed and a walk without an error. -/
theorem exec_ringResume_good {s t : State} {io : MbxIo} {walk : WalkIo} {i : Nat} {q : Req} {b : Bytes} (h : Starts s 0x0203 i q)
    (hr : ringRefused s q.target = false) (hk : s.pwr.startKind = 1) (ha : argsFrom q 3 = false)
    (hc : readContext s q.target io.read = (.data b, t)) (hf : resumeFault t q b = none) (hw : walkFault walk = none) :
    exec (.ringResume io walk) s = .next (parkReq (resumeRing (walkNotes t (ctxFrom b) walk) q b walk) i q) := by
  change execRingResume io walk s = _
  rw [execRingResume, runMailbox_of_starts h]
  simp only [hr, hk, ha, hc, hf, hw, ne_eq, not_true_eq_false, Bool.false_eq_true, or_self, ↓reduceIte]
  rfl

/-! ## Draining a ring (R111, R510) -/

/-- RING_DISABLE by the state of the ring. -/
theorem exec_ringDisable_ran {s : State} {i : Nat} {q : Req} (h : Starts s 0x0202 i q) (ha : argsFrom q 0 = false) :
    exec .ringDisable s = match (ringOf s q.target).st with
      | .disabled => .next (finishReq s i { code := rWrongState })
      | .draining => .next (parkReq s i q)
      | .enabled => .next (parkReq (drainRing s q.target) i q) := by
  change execRingDisable s = _
  rw [execRingDisable, runMailbox_of_starts h, ha]
  cases (ringOf s q.target).st with
  | disabled => rfl
  | enabled => rfl
  | draining => rfl

theorem rings_foldl_dropWaiting (l : List Job) (s : State) : (l.foldl dropWaiting s).rings = s.rings := by
  induction l generalizing s with
  | nil => rfl
  | cons j l ih => exact (ih _).trans (returnBuffer_pooled (dropJob s j.id) j.ring j.buf).rings

/-- A ring that stops fetching keeps its state and its cadence. -/
theorem ringOf_stopFetching (s : State) (r : Nat) : ringOf (stopFetching s r) r = { ringOf s r with
    fetching := false, chain := [], reserved := none, poolFail := none, poolCause := 0, poolWait := false } := by
  unfold stopFetching
  rw [ringOf_updRing_same, ringOf_congr (returnBuffer_pooled _ _ _).rings, ringOf_congr (rings_foldl_dropWaiting _ _)]

/-- A ring that drains for no fault is draining, with its cadence stopped. -/
theorem drainRing_draining {s : State} {r : Nat} (h : droppedCause s r = 0) : (ringOf (drainRing s r) r).st = .draining ∧
    (ringOf (drainRing s r) r).cad = { (ringOf s r).cad with
      st := .stopped, accepting := false, rejoin := false, regain := false, inPeriod := false } := by
  unfold drainRing
  dsimp only
  rw [if_pos h, ringOf_writeBack, ringOf_updRing_same, ringOf_stopFetching, stopCadence, updCad, ringOf_updRing_same]
  exact ⟨rfl, rfl⟩

/-! ## Closing a drained ring (R510) -/

theorem exec_ringDrainDone_drained {s : State} {r : Nat} (hp : pastStart s = true) (hd : drained s r = true) :
    exec (.ringDrainDone r) s = .next (closeRing s r) := if_pos ⟨hp, hd⟩

/-- A ring as its closing leaves it, before the watch entries of its slice are given out again. -/
def closedRing (x : Ring) : Ring := { x with st := .disabled, watchEntry := false, dbRetry := false, drainDue := false }

/-- Closing a ring writes the ring, and gives the watch entries of its slice out again. -/
theorem rings_closeRing (s : State) (r : Nat) : (closeRing s r).rings =
    (giveWatches (updRing (updRing s r closedRing) r (wroteBack s)) (ringOf s r).ctx.slice).rings := by
  have h := fun u => writeBack_pooled u r
  unfold closeRing
  simp only [dropIdlePools, giveWatches, watchRings, (h _).rings, (h _).cfg]
  rfl

theorem closeRing_kept (s : State) (r : Nat) : (closeRing s r).jobs = s.jobs ∧ (closeRing s r).slices = s.slices ∧
    (closeRing s r).keys = s.keys := by
  have h := fun u => writeBack_pooled u r
  exact ⟨(h _).jobs, (h _).slices, (h _).keys⟩

theorem st_closeRing (s : State) (r : Nat) : (ringOf (closeRing s r) r).st = .disabled := by
  rw [ringOf_congr (rings_closeRing s r)]
  rcases ringOf_giveWatches (updRing (updRing s r closedRing) r (wroteBack s)) (ringOf s r).ctx.slice r with h | h
  · rw [h, ringOf_updRing_same, ringOf_updRing_same]; rfl
  · rw [h, ringOf_updRing_same, ringOf_updRing_same]; rfl

theorem put_put {α : Type} (t : Tbl α) (k : Nat) (v w : α) : put (put t k v) k w = put t k w := by
  induction t with
  | nil => simp [put]
  | cons e t ih =>
    obtain ⟨c, x⟩ := e
    by_cases hlt : k < c
    · simp [put, hlt]
    · by_cases hc : c = k
      · simp [put, hc]
      · simp [put, hlt, hc, ih]

/-- In a table whose keys ascend a key that is written stands once. -/
theorem eq_of_mem_put {α : Type} {t : Tbl α} {k : Nat} {v w : α} (h : t.Pairwise (·.1 < ·.1)) (hw : (k, w) ∈ put t k v) :
    w = v := by
  induction t with
  | nil => simpa [put] using hw
  | cons e t ih =>
    obtain ⟨c, x⟩ := e
    obtain ⟨hc, ht⟩ := List.pairwise_cons.mp h
    unfold put at hw
    split at hw
    · rcases List.mem_cons.mp hw with he | hw
      · exact (Prod.mk.inj he).2
      · rcases List.mem_cons.mp hw with he | hw
        · have := (Prod.mk.inj he).1; omega
        · have := hc _ hw; dsimp only at this; omega
    · split at hw
      · rcases List.mem_cons.mp hw with he | hw
        · exact (Prod.mk.inj he).2
        · have := hc _ hw; dsimp only at this; omega
      · rcases List.mem_cons.mp hw with he | hw
        · exact absurd (Prod.mk.inj he).1.symm ‹_›
        · exact ih ht hw

/-- With one entry for each ring, a closed ring holds no watch entry. -/
theorem watchEntry_closeRing {s : State} {r : Nat} (h : s.rings.Pairwise (·.1 < ·.1)) :
    (ringOf (closeRing s r) r).watchEntry = false := by
  let u := updRing (updRing s r closedRing) r (wroteBack s)
  have hr : ringOf u r = wroteBack s (closedRing (ringOf s r)) := by rw [ringOf_updRing_same, ringOf_updRing_same]
  have hu : u.rings = put s.rings r (ringOf u r) := by
    rw [hr, show u.rings = put (put s.rings r _) r _ from rfl, put_put, ringOf_updRing_same]
  have hnone : r ∉ watchRings u (ringOf s r).ctx.slice := by
    intro hm
    obtain ⟨⟨k, x⟩, he, rfl⟩ := List.mem_map.mp hm
    obtain ⟨he, hx⟩ := List.mem_filter.mp he
    rw [hu] at he
    rw [eq_of_mem_put h he, hr] at hx
    simp [wroteBack, closedRing] at hx
  rw [ringOf_congr (rings_closeRing s r)]
  rcases ringOf_giveWatches u (ringOf s r).ctx.slice r with hw | hw
  · rw [hw, hr]; rfl
  · rw [hw]
    exact Bool.eq_false_iff.mpr fun hc => hnone (List.mem_of_mem_take (List.contains_iff_mem.mp hc))

/-- RING_ENABLE, RING_DISABLE, RING_RESUME and the rest of RING_DRAIN_DONE hold in every state: what is left of the obligation is
that a closed ring holds no watch entry. -/
theorem ringCommands_iff : Obligations.RingCommands ↔
    ∀ (s : State) (r : Nat), pastStart s = true → drained s r = true → (ringOf (closeRing s r) r).watchEntry = false := by
  refine ⟨fun h s r hp hd => ?_, fun hw => ⟨fun s t io i q b h hr ha hc hf hz => ?_, fun s i q h ha => ?_, fun s r hp hd => ?_,
    fun s io walk i q h => ⟨exec_ringResume_refused h, fun t b hr hk ha hc hf hwalk => exec_ringResume_good h hr hk ha hc hf hwalk⟩⟩⟩
  · obtain ⟨-, -, hdone, -⟩ := h
    obtain ⟨t, ht, -, hw, -⟩ := hdone s r hp hd
    rw [exec_ringDrainDone_drained hp hd] at ht
    rwa [Host.Outcome.next.inj ht]
  · rw [exec_ringEnable_good h hr ha hc hf hz]
    exact ⟨fun hu => if_pos hu, fun hu => ⟨_, if_neg (by simp [hu]), ringOf_enableRing t q.target b⟩⟩
  · rw [exec_ringDisable_ran h ha]
    refine ⟨fun hs => by rw [hs], fun hs => by rw [hs], fun hs => ⟨_, by rw [hs], rfl, fun hc => ?_⟩⟩
    obtain ⟨hst, hcad⟩ := drainRing_draining hc
    rw [hcad]
    exact ⟨hst, rfl, rfl⟩
  · exact ⟨_, exec_ringDrainDone_drained hp hd, st_closeRing s r, hw s r hp hd, closeRing_kept s r⟩

/-! ## Control opcodes (R118) -/

/-- NOP or FENCE that stands ready starts its completion. -/
theorem runControl_ready {s : State} {op id : Nat} {j : Job} (hm : mainOn s = true) (hj : jobOf s id = some j) (hp : j.phase = .ready)
    (hf : fencePassed s j = true) (hb : j.bufDue = false) (ha : j.abort = none) (ho : (stepDesc j).opcode = op) :
    runControl op id s = .next (startResults s { j with
      ending := { status := stDone }, result := 0, resultLen := 0, out := [], dispatchTime := 0, lastPart := none } 0) := by
  simp only [runControl, hj]
  exact if_pos ⟨hm, hp, ho, hf, by rw [hb]; rfl, by rw [ha]; rfl⟩

end Sys2Proof.Machine
end

section
/-! CERTIFICATES. Rings: their commands and timers, the control opcodes and the end of a tree build (R110, R111, R118, R134, R144, R314,
R509 to R511, R594). -/
namespace Sys2Proof.Machine

/-- A table with two entries for ring 8, of slice 0, which has one watch entry: the first drains with nothing left, the second is
enabled and asks for a watch. -/
def doubleEntry : State :=
  { pwr := { main := .up }
    cfg := { cur := { allots := [(0, { watchCount := 1 })] } }
    rings := [(8, { st := .draining }), (8, { st := .enabled, ctx := { watch := true } })] }

theorem watchEntry_closeRing_doubleEntry : (ringOf (closeRing doubleEntry 8) 8).watchEntry = true := by
  rw [ringOf_congr (rings_closeRing doubleEntry 8)]
  rfl

/-- Refutes O45: the statement is of every state, one whose table lists a ring twice included. There the second entry of the closed
ring still asks for a watch, and the slice's watch entry goes to that ring's number, so to the entry just closed. No other clause
fails (`ringCommands_iff`), and this one holds of a table whose keys ascend, as `put` keeps them (`watchEntry_closeRing`). -/
theorem not_ringCommands : ¬ Obligations.RingCommands := by
  intro h
  have hw := ringCommands_iff.mp h doubleEntry 8 rfl rfl
  rw [watchEntry_closeRing_doubleEntry] at hw
  cases hw

/-- Settles O50: both opcodes are one control rule, and a tree whose lane is free goes to a store that is up with its key at hand. -/
theorem controlAndTrees : Obligations.ControlAndTrees := by
  refine ⟨fun s id j hm hj hp hf hb ha => ⟨runControl_ready hm hj hp hf hb ha, runControl_ready hm hj hp hf hb ha⟩,
    fun s h l n b hm hb hl => ⟨?_, fun r m hu hk => ?_⟩⟩
  · change execTreeBuildDone h l s = _
    simp only [execTreeBuildDone, hb, hl, hm, ↓reduceIte]
  · simp only [endBuild, hu, hk, Bool.not_true, Bool.false_eq_true, ↓reduceIte]
    rfl

/-- Settles O19: each timer acts where the guard of its command stands. -/
theorem ringTimers : Obligations.RingTimers := by
  intro s r
  refine ⟨fun hs hp hd => if_pos ⟨hs, hp, hd⟩, fun n hs hn hw ha hd => ?_, fun hp hc ht hd => if_pos ⟨hp, hc, ht, hd⟩,
    fun hp ht hw => if_pos ⟨hp, by rw [ht]; rfl, hw⟩⟩
  change execPoolPollExpiry r s = _
  simp only [execPoolPollExpiry, hn]
  exact if_pos ⟨hs, hw, by rw [ha]; rfl, hd⟩

end Sys2Proof.Machine
end

section
/-! SUPPORT. Rules for cadences: what a START, the opening of a period and a loss write to a ring, and what keeping the grid after TREF's
return leaves (R172 to R181). -/
namespace Sys2Proof.Machine

/-! ## Rings and submissions -/

/-- Beside traffic and persistent state only rings, pools, submissions and the schedule have changed. -/
def OnlyFlow (s t : State) : Prop := t = { s with
  fabric := t.fabric, irq := t.irq, drawn := t.drawn, per := t.per, rings := t.rings, pools := t.pools, jobs := t.jobs, sched := t.sched }

theorem OnlyFlow.trans {a b c : State} (h : OnlyFlow a b) (k : OnlyFlow b c) : OnlyFlow a c := by unfold OnlyFlow at *; rw [k, h]
theorem OnlyPooled.flow {a b : State} (h : OnlyPooled a b) : OnlyFlow a b := by unfold OnlyPooled OnlyFlow at *; rw [h]
theorem OnlyLogged.flow {a b : State} (h : OnlyLogged a b) : OnlyFlow a b := by unfold OnlyLogged OnlyFlow at *; rw [h]
theorem OnlyTraffic.flow {a b : State} (h : OnlyTraffic a b) : OnlyFlow a b := h.logged.flow
theorem OnlyFlow.cfg {s t : State} (h : OnlyFlow s t) : t.cfg = s.cfg := by unfold OnlyFlow at h; rw [h]
theorem OnlyFlow.clock {s t : State} (h : OnlyFlow s t) : t.clock = s.clock := by unfold OnlyFlow at h; rw [h]
theorem OnlyFlow.glb {s t : State} (h : OnlyFlow s t) : t.glb = s.glb := by unfold OnlyFlow at h; rw [h]

theorem foldl_flow {α : Type} {f : State → α → State} (hf : ∀ s a, OnlyFlow s (f s a)) (l : List α) (s : State) :
    OnlyFlow s (l.foldl f s) := by
  induction l generalizing s with
  | nil => rfl
  | cons a l ih => exact (hf s a).trans (ih _)

theorem updRing_flow (s : State) (r : Nat) (f : Ring → Ring) : OnlyFlow s (updRing s r f) := rfl

theorem ringOf_updRing_other (s : State) {r q : Nat} (f : Ring → Ring) (h : q ≠ r) : ringOf (updRing s r f) q = ringOf s q :=
  look_put_other _ _ _ h

theorem cad_updCad_same (s : State) (r : Nat) (f : Cadence → Cadence) : (ringOf (updCad s r f) r).cad = f (ringOf s r).cad := by
  rw [updCad, ringOf_updRing_same]

theorem ringOf_updCad_other (s : State) {r q : Nat} (f : Cadence → Cadence) (h : q ≠ r) : ringOf (updCad s r f) q = ringOf s q :=
  ringOf_updRing_other s _ h

/-! ## START (R178, R179) -/

theorem exec_cadenceStart_of_serves {s : State} (h : PortServes s) (r : Nat) :
    exec (.cadenceStart r) s = .next (emit (startCadence s r) .regOk) := by
  change execCadenceStart r s = _
  rw [execCadenceStart, portAccess_of_serves h, regWrite_of_serves h]

theorem startCadence_ignored {s : State} {r : Nat} (h : (ringOf s r).st ≠ .enabled ∨ (ringOf s r).ctx.periodUs = 0) :
    startCadence s r = updCad s r (fun c => { c with cmdIgnored := true }) := if_pos h

theorem startCadence_repeated {s : State} {r : Nat} (he : (ringOf s r).st = .enabled) (hp : (ringOf s r).ctx.periodUs ≠ 0)
    (hc : (ringOf s r).cad.st ≠ .stopped) : startCadence s r = updCad s r (fun c => { c with startRepeated := true }) := by
  have hn : ¬ ((ringOf s r).st ≠ .enabled ∨ (ringOf s r).ctx.periodUs = 0) := by simp [he, hp]
  exact (if_neg hn).trans (if_pos hc)

/-- A cadence that a START makes wait for an origin. -/
def waitFrom (t0 : Nat) (c : Cadence) : Cadence :=
  { c with st := .waiting, t0 := t0, openAt := t0, debt := 0, period := 0, periods := 0, inPeriod := false, accepting := false,
           rejoin := false, regain := false }

theorem startCadence_stopped {s : State} {r : Nat} (he : (ringOf s r).st = .enabled) (hp : (ringOf s r).ctx.periodUs ≠ 0)
    (hc : (ringOf s r).cad.st = .stopped) : startCadence s r =
      updCad (closeOldPeriods { s with glb := { s.glb with cadT0 := 0 } } r) r
        (waitFrom (alignOrigin s (originOf s) (periodOf (ringOf s r).ctx))) := by
  have hn : ¬ ((ringOf s r).st ≠ .enabled ∨ (ringOf s r).ctx.periodUs = 0) := by simp [he, hp]
  exact (if_neg hn).trans (if_neg (not_not_intro hc))

theorem cad_startCadence_stopped {s : State} {r : Nat} (he : (ringOf s r).st = .enabled) (hp : (ringOf s r).ctx.periodUs ≠ 0)
    (hc : (ringOf s r).cad.st = .stopped) : (ringOf (startCadence s r) r).cad =
      waitFrom (alignOrigin s (originOf s) (periodOf (ringOf s r).ctx)) (ringOf s r).cad := by
  rw [startCadence_stopped he hp hc, cad_updCad_same]
  rfl

/-- Closing a ring's old periods leaves each submission of another ring or of no period. -/
theorem jobOf_closeOldPeriods {s : State} {r id : Nat} {j : Job} (h : jobOf s id = some j) (hj : j.ring ≠ r ∨ j.period = none) :
    jobOf (closeOldPeriods s r) id = some j := by
  have hkeep : ¬ (j.ring = r ∧ j.period.isSome = true) := by
    rintro ⟨hr, hp⟩
    rcases hj with hj | hj
    · exact hj hr
    · rw [hj] at hp; cases hp
  have hid : ∀ x : Job, (if x.ring = r ∧ x.period.isSome = true then { x with period := some (2 ^ 64) } else x).id = x.id := by
    intro x; split <;> rfl
  rw [jobOf] at h
  rw [jobOf, closeOldPeriods, List.find?_map]
  simp only [Function.comp_def, hid, h, Option.map_some, if_neg hkeep]

/-! ## STOP (R180, R181) -/

theorem exec_cadenceStop_of_serves {s : State} (h : PortServes s) (r : Nat) : exec (.cadenceStop r) s = .next (emit
    (if (ringOf s r).cad.st = .stopped then updCad s r (fun c => { c with stopWithoutStart := true }) else stopCadence s r) .regOk) := by
  change execCadenceStop r s = _
  rw [execCadenceStop, portAccess_of_serves h, regWrite_of_serves h]

theorem cad_stopCadence (s : State) (r : Nat) : (ringOf (stopCadence s r) r).cad = { (ringOf s r).cad with
    st := .stopped, accepting := false, rejoin := false, regain := false, inPeriod := false } := by
  rw [stopCadence, cad_updCad_same]

theorem ringOf_stopCadence_other (s : State) {r q : Nat} (h : q ≠ r) : ringOf (stopCadence s r) q = ringOf s q := by
  rw [stopCadence, ringOf_updCad_other s _ h]

/-! ## Periods (R172, R174) -/

theorem takeStaged_of_none {x : Ring} (h : x.cad.staged = none) (b : Nat) : takeStaged x b = x := by
  rw [takeStaged, h]

/-- The opening of a period, with no parameters staged. -/
theorem openRing_of_none {x : Ring} (h : x.cad.staged = none) (hp : x.ctx.periodUs ≠ 0) (b : Nat) :
    let cut := min (x.ctx.catchup * periodOf x.ctx / 16) x.cad.debt
    openRing x b = { x with cad := { x.cad with
      st := .running, accepting := true, inPeriod := true, rejoin := false, regain := false
      budgetLeft := x.ctx.budget
      debt := x.cad.debt - cut
      scheduledEnd := b + periodOf x.ctx - cut
      period := x.cad.period + (if x.cad.inPeriod then 1 else 0)
      periods := satInc 32 x.cad.periods } } := by
  rw [openRing, takeStaged_of_none h]
  exact if_neg hp

theorem exec_cadenceOrigin_come {s : State} {r : Nat} (hr : cadenceRuns s = true) (hw : (ringOf s r).cad.st = .waiting)
    (ho : (ringOf s r).cad.openAt ≤ now s) : exec (.cadenceOrigin r) s = .next (openPeriod s r (ringOf s r).cad.openAt) :=
  if_pos ⟨hr, hw, ho⟩

/-- The scheduled end of a running period has come. -/
theorem exec_periodEnd_come {s : State} {r : Nat} (hr : cadenceRuns s = true) (hs : (ringOf s r).cad.st = .running)
    (hi : (ringOf s r).cad.inPeriod = true) (he : (ringOf s r).cad.scheduledEnd ≤ now s) : exec (.periodEnd r) s =
      if periodWork s r then .next (updCad s r (fun c => { c with st := .late, accepting := false }))
      else .next (openPeriod s r (ringOf s r).cad.scheduledEnd) := by
  change execPeriodEnd r s = _
  simp [execPeriodEnd, hr, hs, hi, Nat.not_lt.mpr he]

/-! ## Losses (R174, R175) -/

/-- A cadence once its loss is reported. -/
def lostCad (c : Cadence) : Cadence := { c with lost := satInc 32 c.lost, cadenceLost := true, accepting := false, rejoin := true }

theorem reportLost_traffic (s : State) (r : Nat) : OnlyTraffic (updCad s r lostCad) (reportLost s r) :=
  (notifyManager_traffic (updCad s r lostCad) 6).1

theorem reportLost_flow (s : State) (r : Nat) : OnlyFlow s (reportLost s r) :=
  (updRing_flow s r _).trans (reportLost_traffic s r).flow

theorem cad_reportLost_same (s : State) (r : Nat) : (ringOf (reportLost s r) r).cad = lostCad (ringOf s r).cad := by
  rw [ringOf_congr (reportLost_traffic s r).pooled.rings, cad_updCad_same]

theorem ringOf_reportLost_other (s : State) {r q : Nat} (h : q ≠ r) : ringOf (reportLost s r) q = ringOf s q := by
  rw [ringOf_congr (reportLost_traffic s r).pooled.rings, ringOf_updCad_other s _ h]

/-- Each ring of a list that is reported lost is marked, and none that was marked loses its mark. -/
theorem cadenceLost_foldl_reportLost {l : List Nat} {s : State} {r : Nat} (h : r ∈ l ∨ (ringOf s r).cad.cadenceLost = true) :
    (ringOf (l.foldl reportLost s) r).cad.cadenceLost = true := by
  induction l generalizing s with
  | nil => exact h.resolve_left (by simp)
  | cons a l ih =>
    refine ih ?_
    by_cases ha : r = a
    · subst ha
      exact .inr (by rw [cad_reportLost_same]; rfl)
    · rw [ringOf_reportLost_other s ha]
      exact h.imp_left fun hm => (List.mem_cons.mp hm).resolve_left ha

/-- A table has the entry that a read finds in it, unless the read finds the default. -/
theorem look_mem {α : Type} {t : Tbl α} {k : Nat} {d : α} (h : look t k d ≠ d) : (k, look t k d) ∈ t := by
  induction t with
  | nil => exact absurd rfl h
  | cons e t ih =>
    obtain ⟨c, v⟩ := e
    by_cases hc : c = k
    · subst hc; simp [look]
    · simp only [look, hc, ↓reduceIte] at h ⊢
      exact List.mem_cons_of_mem _ (ih h)

theorem mem_runningCadences {s : State} {r : Nat} (h : (ringOf s r).cad.st = .running ∨ (ringOf s r).cad.st = .late) :
    r ∈ runningCadences s := by
  have hne : ringOf s r ≠ {} := by
    intro he
    rw [he] at h
    rcases h with h | h <;> cases h
  exact List.mem_map.mpr ⟨(r, ringOf s r), List.mem_filter.mpr ⟨look_mem hne, by simpa using h⟩, rfl⟩

/-! ## TREF's return (R175) -/

theorem openOnGrid_flow (s : State) (r m : Nat) : OnlyFlow s (openOnGrid s r m) := by
  unfold openOnGrid
  dsimp only
  split
  · exact (updRing_flow s r _).trans (updRing_flow _ r _)
  · exact updRing_flow s r _

theorem regainGrid_flow (s : State) (r : Nat) : OnlyFlow s (regainGrid s r) := by
  have hlog : OnlyFlow s (logLost s r (now s + 1)) := (writeLog_logged s _ _ _).flow
  unfold regainGrid
  dsimp only
  split
  · exact hlog.trans (updRing_flow _ r _)
  · exact hlog.trans (openOnGrid_flow _ r _)

theorem regainOrigin_flow (s : State) (r : Nat) : OnlyFlow s (regainOrigin s r) := by
  unfold regainOrigin
  dsimp only
  split
  · rfl
  · exact updRing_flow s r _

/-- The core as TREF's stop leaves its clock and flag. -/
def trefStopped (s : State) : State := { s with clock := { s.clock with running := false }, glb := { s.glb with trefLost := true } }

/-- The core as TREF's return leaves its clock and flag. -/
def trefBack (s : State) : State := { s with clock := { s.clock with running := true }, glb := { s.glb with trefLost := false } }

/-- TREF's stop outside reset reports each running cadence lost. -/
theorem exec_trefStop_running {s : State} (hr : s.clock.running = true) (hm : mainOn s = true) : exec .trefStop s =
    .next ((runningCadences s).foldl reportLost (trefStopped s)) := by
  have hm' : mainOn { s with clock := { s.clock with running := false } } = true := hm
  change execTrefStop s = _
  simp only [execTrefStop, hr, hm', Bool.not_true, Bool.false_eq_true, ↓reduceIte]
  rfl

theorem exec_trefStop_held {s : State} (hr : s.clock.running = true) (hm : mainOn s = false) :
    exec .trefStop s = .next { s with clock := { s.clock with running := false } } := by
  have hm' : mainOn { s with clock := { s.clock with running := false } } = false := hm
  change execTrefStop s = _
  simp only [execTrefStop, hr, hm', Bool.not_true, Bool.not_false, Bool.false_eq_true, ↓reduceIte]

/-- TREF's return outside reset gives each running or waiting ring its next opening. -/
theorem exec_trefReturn_flow {s : State} (hr : s.clock.running = false) (hm : mainOn s = true) :
    ∃ t, exec .trefReturn s = .next t ∧ OnlyFlow (trefBack s) t := by
  have hm' : mainOn { s with clock := { s.clock with running := true } } = true := hm
  change ∃ t, execTrefReturn s = _ ∧ _
  simp only [execTrefReturn, hr, hm', Bool.not_true, Bool.false_eq_true, ↓reduceIte]
  exact ⟨_, rfl, (foldl_flow regainGrid_flow (runningCadences s) (trefBack s)).trans (foldl_flow regainOrigin_flow _ _)⟩

theorem exec_trefReturn_held {s : State} (hr : s.clock.running = false) (hm : mainOn s = false) :
    exec .trefReturn s = .next { s with clock := { s.clock with running := true } } := by
  have hm' : mainOn { s with clock := { s.clock with running := true } } = false := hm
  change execTrefReturn s = _
  simp only [execTrefReturn, hr, hm', Bool.not_false, Bool.false_eq_true, ↓reduceIte]

end Sys2Proof.Machine
end

section
/-! SUPPORT. Rules for the ends of engine work: a segment's end, the end of a timed computation, and the grid point at which a check is
released (R167, R185, R186, R283). -/
namespace Sys2Proof.Machine

/-! ## Segments (R167) -/

theorem exec_segmentEnd_job {s : State} {k : Engine} {n : Nat} {j : Job} (hm : mainOn s = true) (ho : (partOf s k n).own = false)
    (hj : (partOf s k n).busy.bind (jobOf s) = some j) (hp : j.part = some (k, n)) (hph : j.phase = .operands)
    (hs : isSegmented (stepDesc j).opcode = true) (hl : lastSegment j = false) :
    exec (.segmentEnd k n) s = .next (endSegment s j) := by
  change execSegmentEnd k n s = _
  have hown : ¬ (k = .saffron ∧ (partOf s k n).own = true) := by simp [ho]
  rw [execSegmentEnd, if_neg hown, hj]
  exact if_pos ⟨hm, hp, hph, hs, by rw [hl]; rfl⟩

theorem exec_segmentEnd_seal {s : State} {n : Nat} (hm : mainOn s = true) (ho : (partOf s .saffron n).own = true) :
    exec (.segmentEnd .saffron n) s = .next (endSeal s n) := by
  change execSegmentEnd .saffron n s = _
  rw [execSegmentEnd, if_pos ⟨rfl, ho⟩, if_pos hm]

/-! ## Engines (R185, R283) -/

theorem timed_of_first {j : Job} (h : j.t1.classes ≠ []) : timed j = true := by simp [timed, h]
theorem timed_of_second {j : Job} (h : j.t2.classes ≠ []) : timed j = true := by simp [timed, h]

/-- ENGINE_FINISH of a computed submission, by its timing. -/
theorem execEngineFinish_computed {s : State} {id : Nat} {j : Job} (hm : mainOn s = true) (hj : jobOf s id = some j)
    (hp : j.phase = .computed) (second : Bool) : execEngineFinish id second s =
      if !timed j then (if second then .next s else .next (afterRelease s j (now s)))
      else if second then
        if j.t2.classes ≠ [] ∧ j.t2.ended = none then .next (setJob s { j with t2 := { j.t2 with ended := some (now s) } }) else .next s
      else if j.t1.classes ≠ [] ∧ j.t1.ended = none then .next (setJob s { j with t1 := { j.t1 with ended := some (now s) } })
      else .next s := by
  have hrun : ¬ ((!mainOn s) = true ∨ j.phase ≠ .computed) := by simp [hm, hp]
  simp only [execEngineFinish, hj, if_neg hrun]

theorem exec_engineFinish_untimed {s : State} {id : Nat} {j : Job} (hm : mainOn s = true) (hj : jobOf s id = some j)
    (hp : j.phase = .computed) (ht : timed j = false) : exec (.engineFinish id false) s = .next (afterRelease s j (now s)) := by
  change execEngineFinish id false s = _
  rw [execEngineFinish_computed hm hj hp, ht]
  rfl

theorem exec_engineFinish_first {s : State} {id : Nat} {j : Job} (hm : mainOn s = true) (hj : jobOf s id = some j)
    (hp : j.phase = .computed) (hc : j.t1.classes ≠ []) (he : j.t1.ended = none) :
    exec (.engineFinish id false) s = .next (setJob s { j with t1 := { j.t1 with ended := some (now s) } }) := by
  change execEngineFinish id false s = _
  rw [execEngineFinish_computed hm hj hp, timed_of_first hc]
  exact if_pos (And.intro hc he)

theorem exec_engineFinish_second {s : State} {id : Nat} {j : Job} (hm : mainOn s = true) (hj : jobOf s id = some j)
    (hp : j.phase = .computed) (hc : j.t2.classes ≠ []) (he : j.t2.ended = none) :
    exec (.engineFinish id true) s = .next (setJob s { j with t2 := { j.t2 with ended := some (now s) } }) := by
  change execEngineFinish id true s = _
  rw [execEngineFinish_computed hm hj hp, timed_of_second hc]
  exact if_pos (And.intro hc he)

/-! ## The grid (R185, R186, R306) -/

theorem ceilDiv_le_iff {a b k : Nat} (hb : 1 ≤ b) : ceilDiv a b ≤ k ↔ a ≤ k * b := by
  rw [ceilDiv, ← Nat.lt_succ_iff, Nat.div_lt_iff_lt_mul hb, Nat.succ_mul]
  omega

/-- A number of blocks reaches the grid point exactly where it covers one block, the planned blocks and the end. -/
theorem gridPoint_le_iff {start g blocks ended k : Nat} (hg : 1 ≤ g) :
    gridPoint start g blocks ended ≤ k ↔ blocks ≤ k ∧ 1 ≤ k ∧ ended ≤ start + k * g := by
  rw [gridPoint, Nat.max_le, Nat.max_le, Nat.max_eq_right hg, ceilDiv_le_iff hg, Nat.sub_le_iff_le_add']

/-- What the release of a part's one check at its grid point gives. -/
def releasedAt (cfg : CfgImage) (x : Timed) (c e : Nat) : Released :=
  let m := gridPoint x.start (gridEntry cfg c) x.blocks e
  let r := x.start + m * gridEntry cfg c
  ⟨{ classes := [], start := r, blocks := 1 }, c, decide (x.blocks < m), r⟩

/-- A grid point lies after the time zero. -/
theorem time_releasedAt_ne_zero {cfg : CfgImage} {x : Timed} {c e : Nat} (hg : 1 ≤ gridEntry cfg c) :
    (releasedAt cfg x c e).time ≠ 0 := by
  obtain ⟨-, hm, -⟩ := (gridPoint_le_iff hg).mp (Nat.le_refl (gridPoint x.start (gridEntry cfg c) x.blocks e))
  exact Nat.ne_zero_of_lt (Nat.add_pos_right _ (Nat.mul_pos hm hg))

theorem releaseOf_single {cfg : CfgImage} {t c e : Nat} {x : Timed} (hc : x.classes = [c]) (he : x.ended = some e) :
    releaseOf cfg t x = if (releasedAt cfg x c e).time ≤ t then some (releasedAt cfg x c e) else none := by
  rw [releaseOf, hc, he]
  rfl

theorem releaseFirst_of_none {s : State} {j : Job} (h : releaseOf (cfgOf s j.gen) (now s) j.t1 = none) :
    releaseFirst s j = (s, j, 0) := by
  rw [releaseFirst, h]

theorem releaseFirst_of_some {s : State} {j : Job} {r : Released} (h : releaseOf (cfgOf s j.gen) (now s) j.t1 = some r) :
    releaseFirst s j = (countOverrun s r, { j with t1 := r.timed, gridOverrun := j.gridOverrun || r.overrun }, r.time) := by
  rw [releaseFirst, h]

theorem releaseSecond_of_none {s : State} {j : Job} (h : j.t2.classes = []) : releaseSecond s j = (s, j, 0) := by
  have hr : releaseOf (cfgOf s j.gen) (now s) j.t2 = none := by rw [releaseOf, h]
  rw [releaseSecond, hr]

/-- GRID_RELEASE of a submission that is timed on its first part only has no effect before the grid point. -/
theorem exec_gridRelease_early {s : State} {id : Nat} {j : Job} (hj : jobOf s id = some j) (h2 : j.t2.classes = [])
    (hr : releaseOf (cfgOf s j.gen) (now s) j.t1 = none) : exec (.gridRelease id) s = .next s := by
  change execGridRelease id s = _
  simp only [execGridRelease, hj, releaseFirst_of_none hr, releaseSecond_of_none h2, and_self, ↓reduceIte, ite_self]

/-- A submission whose one check is released. -/
def releasedJob (j : Job) (r : Released) : Job :=
  { j with t1 := r.timed, gridOverrun := j.gridOverrun || r.overrun, releaseTime := max j.releaseTime r.time }

/-- From the grid point of the first part's last check on, the results of a computed submission are due. -/
theorem exec_gridRelease_come {s : State} {id : Nat} {j : Job} {r : Released} (hm : mainOn s = true) (hj : jobOf s id = some j)
    (hp : j.phase = .computed) (hc : j.t1.classes ≠ []) (h2 : j.t2.classes = [])
    (hr : releaseOf (cfgOf s j.gen) (now s) j.t1 = some r) (hl : r.timed.classes = []) (ht : r.time ≠ 0) :
    exec (.gridRelease id) s = .next
      (afterRelease (setJob (countOverrun s r) (releasedJob j r)) (releasedJob j r) (releasedJob j r).releaseTime) := by
  have hrun : ¬ ((!mainOn s) = true ∨ j.phase ≠ .computed ∨ (!timed j) = true) := by simp [hm, hp, timed_of_first hc]
  have h2' : ({ j with t1 := r.timed, gridOverrun := j.gridOverrun || r.overrun } : Job).t2.classes = [] := h2
  have hdone : timed (releasedJob j r) = false := by simp [timed, releasedJob, hl, h2]
  change execGridRelease id s = _
  simp only [execGridRelease, hj, if_neg hrun, releaseFirst_of_some hr, releaseSecond_of_none h2', ht, and_true, Nat.max_zero,
    ↓reduceIte]
  exact if_neg (Bool.eq_false_iff.mp hdone)

theorem countOverrun_jobs (s : State) (r : Released) : (countOverrun s r).jobs = s.jobs := by
  unfold countOverrun
  split
  · rfl
  · rfl

/-- The count of an overrun is that of its class. -/
theorem gridOvr_countOverrun {s : State} {r : Released} (h : r.overrun = true) :
    look (countOverrun s r).sched.gridOvr r.cls 0 = min (2 ^ 32 - 1) (look s.sched.gridOvr r.cls 0 + 1) := by
  rw [countOverrun, if_pos h]
  exact look_put_same _ _ _ _

theorem countOverrun_of_none {s : State} {r : Released} (h : r.overrun = false) : countOverrun s r = s := by
  rw [countOverrun, if_neg (by simp [h])]

theorem jobOf_release {s : State} {id : Nat} {j : Job} (h : jobOf s id = some j) (r : Released) :
    jobOf (setJob (countOverrun s r) (releasedJob j r)) id = some (releasedJob j r) := by
  have hj : jobOf (countOverrun s r) id = some j := by rw [jobOf, countOverrun_jobs]; exact h
  have hid : j.id = id := jobOf_id h
  exact jobOf_setJob_same _ hj hid

end Sys2Proof.Machine
end

section
/-! SUPPORT. Rules for commits: what a request to commit writes, what fetching and the switch to a configuration keep, and the staged
built-in grid (R182, R191 to R195). -/
namespace Sys2Proof.Machine

/-! ## Requests (R191, R192, R194) -/

theorem exec_cfgCommit_of_serves {s : State} (h : PortServes s) {v : W32} (hv : v.getLsbD 0 = true) (contexts : Tbl Bytes) :
    exec (.cfgCommit v contexts) s = .next (emit (requestCommit s contexts) .regOk) := by
  change execCfgCommit v contexts s = _
  rw [execCfgCommit, portAccess_of_serves h, regWrite_of_serves h, if_pos hv]

theorem requestCommit_refused {s : State} (h : serving s = false ∨ s.cfg.pendingCommit.isSome = true) (contexts : Tbl Bytes) :
    requestCommit s contexts = { s with cfg := { s.cfg with commitRefused := true } } :=
  if_pos (h.imp_left fun hs => by rw [hs]; rfl)

/-- A request that is not refused fails at the first fault or makes the staged configuration pending. -/
theorem requestCommit_checked {s : State} (hs : serving s = true) (hn : s.cfg.pendingCommit = none) (contexts : Tbl Bytes) :
    requestCommit s contexts = match commitFault s contexts with
      | some item => failCommit s item
      | none => snapshotCommit s contexts :=
  if_neg (by simp [hs, hn])

/-! ## What fetching keeps (R9, R139, R161) -/

theorem request_flow (s : State) (ts : List Txn) : OnlyFlow s (request s ts) := (request_traffic s ts).1.flow

theorem fetchNext_flow (s : State) (r : Nat) : OnlyFlow s (fetchNext s r) := by
  refine OnlyFlow.trans ?_ (request_flow _ _)
  split
  · rfl
  · rfl

theorem giveOwed_flow (s : State) (r : Nat) : OnlyFlow s (giveOwed s r) := by
  unfold giveOwed
  dsimp only
  split
  · rfl
  · split
    · rfl
    · rfl

theorem seekBuffer_flow (s : State) (r : Nat) : OnlyFlow s (seekBuffer s r) := by
  have hpool : ∀ (p : Pool) (t : State), OnlyFlow (setPool s p) t → OnlyFlow s t := fun p t h => OnlyFlow.trans (by rfl) h
  unfold seekBuffer
  dsimp only
  split
  · rfl
  · rename_i p _
    refine hpool p _ ?_
    split
    · rfl
    · split
      · exact request_flow _ _
      · split
        · rfl
        · split
          · exact OnlyFlow.trans (by rfl) (request_flow _ _)
          · split
            · rfl
            · exact OnlyFlow.trans (by rfl) (request_flow _ _)

theorem serveOwed_flow (n : Nat) (s : State) (r : Nat) : OnlyFlow s (serveOwed n s r) := by
  induction n generalizing s with
  | zero => rfl
  | succ n ih =>
    unfold serveOwed
    dsimp only
    split
    · have hseek := (giveOwed_flow s r).trans (seekBuffer_flow _ r)
      split
      · exact hseek
      · exact hseek.trans (ih _)
    · exact giveOwed_flow s r

theorem fetchTurn_flow (s : State) (r : Nat) : OnlyFlow s (fetchTurn s r) := by
  refine OnlyFlow.trans (serveOwed_flow (s.jobs.length + 1) s r) (OnlyFlow.trans (b := serveEntries _) (by rfl) ?_)
  unfold fetchTurn
  dsimp only
  split
  · rfl
  · split
    · split
      · exact (seekBuffer_flow _ r).trans (fetchNext_flow _ r)
      · exact seekBuffer_flow _ r
    · exact fetchNext_flow _ r

theorem fetchPump_flow (s : State) : OnlyFlow s (fetchPump s) := foldl_flow fetchTurn_flow _ s

/-! ## Taking effect (R194, R195) -/

/-- The configuration state after a switch. -/
theorem cfg_applyCommit (s : State) (c : CfgImage) (tab : Option (List VecEntry)) : (applyCommit s c tab).cfg = { s.cfg with
    cur := { c with gen := nextGen s.cfg.cur.gen }
    old := if s.jobs.any (fun j => accepted j && j.gen == s.cfg.cur.gen) then some s.cfg.cur else none
    pendingCommit := none, pendingRings := [] } := by
  unfold applyCommit
  dsimp only
  rw [(fetchPump_flow _).cfg, (notifyManager_traffic _ 5).1.flow.cfg, (foldl_flow (f := giveWatches) (fun _ _ => rfl) _ _).cfg,
    (foldl_flow (f := commitCadence) (fun _ _ => rfl) _ _).cfg]

/-- With slice 0 bound a pending commit reads the vector table before it takes effect. -/
theorem exec_commitTakesEffect_bound {s : State} {c : CfgImage} (hc : s.cfg.pendingCommit = some c) (hp : pastStart s = true)
    (ho : olderJobs s = false) (hb : s.glb.s0Bound = true) (e : ReadOutcome) : exec (.commitTakesEffect e) s =
      .next (match e with
        | .ok b => applyCommit (emit s (readNote s 0 c.vecBase 16384)) c (some (vectorTable b))
        | .bad _ | .event => failCommit (emit s (readNote s 0 c.vecBase 16384)) 0x28) := by
  change execCommitTakesEffect e s = _
  simp only [execCommitTakesEffect, hc, hp, ho, hb, Bool.not_true, Bool.false_eq_true, or_self, ↓reduceIte]
  cases e with
  | ok b => rfl
  | bad x => rfl
  | event => rfl

theorem exec_commitTakesEffect_waits {s : State} {c : CfgImage} (hc : s.cfg.pendingCommit = some c) (ho : olderJobs s = true)
    (e : ReadOutcome) : exec (.commitTakesEffect e) s = .next s := by
  change execCommitTakesEffect e s = _
  rw [execCommitTakesEffect, hc]
  exact if_pos (.inr ho)

/-! ## The built-in grid (R182, R189) -/

theorem exec_tbGridDefault_of_serves {s : State} (h : PortServes s) {v : W32} (hv : v.getLsbD 0 = true) : exec (.tbGridDefault v) s =
    .next (emit { s with cfg := { s.cfg with staged := { s.cfg.staged with grid := [] } } } .regOk) := by
  change execTbGridDefault v s = _
  rw [execTbGridDefault, portAccess_of_serves h, regWrite_of_serves h, if_pos hv]

end Sys2Proof.Machine
end

section
/-! CERTIFICATES. Segments, engines, the grid, cadences and commits (R76, R167, R172 to R195, R283). -/
namespace Sys2Proof.Machine

/-- Settles O22: each part or engine acts where the guard of its command stands. -/
theorem partsFinish : Obligations.PartsFinish := by
  refine ⟨fun s k n j hm ho hj hp hph hs hl => exec_segmentEnd_job hm ho hj hp hph hs hl, fun s n hm ho => exec_segmentEnd_seal hm ho,
    fun s id j hm hj hp => ⟨exec_engineFinish_untimed hm hj hp, fun hc he => ?_, fun hc he => ?_⟩⟩
  · have hid : j.id = id := jobOf_id hj
    exact ⟨_, _, exec_engineFinish_first hm hj hp hc he, jobOf_setJob_same _ hj hid, rfl, hp, rfl⟩
  · have hid : j.id = id := jobOf_id hj
    exact ⟨_, _, exec_engineFinish_second hm hj hp hc he, jobOf_setJob_same _ hj hid, rfl, hp, rfl⟩

/-- Settles O23: the grid point is where its three bounds are reached, and a release before it finds nothing due. -/
theorem gridPoints : Obligations.GridPoints := by
  refine ⟨fun start g blocks ended hg => ?_, fun s id c e j hm hj hp h2 h1 he hg => ⟨fun hearly => ?_, fun hcome => ?_⟩⟩
  · obtain ⟨hb, h1, he⟩ := (gridPoint_le_iff hg).mp (Nat.le_refl (gridPoint start g blocks ended))
    exact ⟨h1, hb, he, fun k hk hbk hek => (gridPoint_le_iff hg).mpr ⟨hbk, hk, hek⟩⟩
  · refine exec_gridRelease_early hj h2 ?_
    rw [releaseOf_single h1 he]
    exact if_neg (Nat.not_le.mpr hearly)
  · have hr : releaseOf (cfgOf s j.gen) (now s) j.t1 = some (releasedAt (cfgOf s j.gen) j.t1 c e) := by
      rw [releaseOf_single h1 he]
      exact if_pos hcome
    refine ⟨_, _, exec_gridRelease_come hm hj hp (by simp [h1]) h2 hr rfl (time_releasedAt_ne_zero hg), jobOf_release hj _, rfl, rfl,
      fun ho => ?_, fun ho => ?_⟩
    · exact gridOvr_countOverrun (r := releasedAt (cfgOf s j.gen) j.t1 c e) (decide_eq_true ho)
    · rw [countOverrun_of_none (decide_eq_false (Nat.not_lt.mpr ho))]
      rfl

/-- Settles O47: a START by the state of its ring. -/
theorem cadenceStartRefused : Obligations.CadenceStartRefused := by
  refine fun s r h => ⟨fun he hp hc => ?_, fun hr => ?_⟩
  · rw [exec_cadenceStart_of_serves h, startCadence_repeated he hp hc]
    rfl
  · have hi : (ringOf s r).st ≠ .enabled ∨ (ringOf s r).ctx.periodUs = 0 := by
      rcases hr with hd | hd | hz
      · exact .inl (by simp [hd])
      · exact .inl (by simp [hd])
      · exact .inr hz
    rw [exec_cadenceStart_of_serves h, startCadence_ignored hi]
    rfl

/-- Settles O48: START, STOP, the opening, end and loss of a period, and TREF's stop and return each by its rule. -/
theorem cadences : Obligations.Cadences := by
  refine ⟨fun s r h he hp hc => ?_, fun s r h hc => ?_, fun s r h hc => ?_, fun s r hr hw ho => exec_cadenceOrigin_come hr hw ho,
    fun s r hr hs hi he => ⟨fun hw => ?_, fun hw => ?_⟩, fun x b hn hp => ?_, fun s r hr hs hi hj hd => ?_, fun s hr => ?_,
    fun s hr => ?_⟩
  · have hcad : (ringOf (emit (startCadence s r) .regOk) r).cad = _ := cad_startCadence_stopped he hp hc
    refine ⟨_, exec_cadenceStart_of_serves h r, by rw [hcad]; rfl, by rw [hcad]; rfl, by rw [hcad]; rfl, by rw [hcad]; rfl, ?_⟩
    rw [startCadence_stopped he hp hc]
    exact ⟨rfl, rfl, fun q hq => ringOf_updCad_other _ _ hq, rfl, fun id j hj ho => jobOf_closeOldPeriods hj ho⟩
  · have ht := exec_cadenceStop_of_serves h r
    rw [if_neg hc] at ht
    have hcad : (ringOf (emit (stopCadence s r) .regOk) r).cad = _ := cad_stopCadence s r
    exact ⟨_, ht, by rw [hcad], by rw [hcad], rfl, by rw [hcad], fun q hq => ringOf_stopCadence_other s hq⟩
  · rw [exec_cadenceStop_of_serves h, if_pos hc]
    rfl
  · rw [exec_periodEnd_come hr hs hi he, hw]
    rfl
  · have hcad := cad_updCad_same s r (fun c => { c with st := .late, accepting := false })
    exact ⟨_, (exec_periodEnd_come hr hs hi he).trans (if_pos hw), by rw [hcad], by rw [hcad], rfl⟩
  · rw [openRing_of_none hn hp]
    exact ⟨rfl, rfl, rfl, rfl, rfl, rfl⟩
  · have hcad := cad_reportLost_same s r
    exact ⟨_, if_pos ⟨hr, hs, hi, by rw [hj]; rfl, hd⟩, by rw [hcad]; rfl, by rw [hcad]; rfl, mgrEvent_notifyManager _ (by decide),
      (reportLost_traffic s r).pooled.jobs⟩
  · cases hm : mainOn s with
    | false => exact ⟨_, exec_trefStop_held hr hm, rfl, rfl, fun h => by cases h⟩
    | true =>
      have hf := foldl_flow reportLost_flow (runningCadences s) (trefStopped s)
      exact ⟨_, exec_trefStop_running hr hm, by rw [hf.clock]; rfl, by rw [now, hf.clock]; rfl, fun _ => ⟨by rw [hf.glb]; rfl,
        fun r hc => cadenceLost_foldl_reportLost (.inl (mem_runningCadences hc))⟩⟩
  · cases hm : mainOn s with
    | false => exact ⟨_, exec_trefReturn_held hr hm, rfl, fun h => by cases h⟩
    | true =>
      obtain ⟨t, ht, hf⟩ := exec_trefReturn_flow hr hm
      exact ⟨t, ht, by rw [hf.clock]; rfl, fun _ => by rw [hf.glb]; rfl⟩

/-- Settles O49: a request by what refuses or fails it, and the switch through the frame of all that it sets going. -/
theorem configuration : Obligations.Configuration := by
  refine ⟨fun s v contexts h hv => ?_, fun s c b hc hp ho hb => ?_, fun s c e hc _ ho => exec_commitTakesEffect_waits hc ho e,
    ⟨rfl, fun g hg => if_neg hg⟩, fun s v h hv => ⟨_, exec_tbGridDefault_of_serves h hv, fun c => rfl, rfl, rfl, rfl, rfl⟩⟩
  · rw [exec_cfgCommit_of_serves h hv]
    refine ⟨fun hr => ?_, fun o hs hn hf => ?_, fun hs hn hf => ?_⟩
    · rw [requestCommit_refused hr]
      rfl
    · rw [requestCommit_checked hs hn, hf]
      exact ⟨_, rfl, rfl, rfl, rfl, rfl, rfl⟩
    · rw [requestCommit_checked hs hn, hf]
      exact ⟨_, rfl, rfl, rfl, rfl⟩
  · have hexec := exec_commitTakesEffect_bound hc hp ho hb
    refine ⟨hexec (.ok b), by rw [cfg_applyCommit]; rfl, by rw [cfg_applyCommit], fun e he => ?_⟩
    rcases he with rfl | ⟨x, rfl⟩
    · exact ⟨_, hexec .event, rfl, rfl, rfl, rfl, rfl⟩
    · exact ⟨_, hexec (.bad x), rfl, rfl, rfl, rfl, rfl⟩

end Sys2Proof.Machine
end

section
/-! SUPPORT. Rules for the cipher lanes: what a cipher's step computes, which of its writes holds the output, and that running it
writes its submission only (R206 to R219, R275). -/
namespace Sys2Proof.Machine

/-! ## The work of a cipher step -/

@[simp] theorem outputAt_checked (j : Job) (pad : Nat) (out : Bytes) : (outputAt j pad out).checked = false := by
  unfold outputAt
  dsimp only
  split <;> rfl

@[simp] theorem workFail_checked (st sub : Nat) : (workFail st sub).checked = false := rfl

@[simp] theorem kwWork_checked (j : Job) (d : Desc) (key m : Bytes) : (kwWork j d key m).checked = false := by
  unfold kwWork
  split
  · exact outputAt_checked ..
  · exact outputAt_checked ..
  · cases kwUnwrap key m <;> simp
  · cases kwpUnwrap key m <;> simp

theorem cipherWork_of_isKw {d : Desc} (h : isKw d.opcode = true) (j : Job) (key : Bytes) :
    cipherWork j d key = kwWork j d key (cipherSource j d).2 := by
  unfold cipherWork
  exact if_pos h

/-- A cipher's work is never held for the check before release, which R275 asks of public-key results. -/
theorem cipherWork_checked (j : Job) (d : Desc) (key : Bytes) : (cipherWork j d key).checked = false := by
  by_cases hk : isKw d.opcode = true
  · rw [cipherWork_of_isKw hk, kwWork_checked]
  · unfold cipherWork
    dsimp only
    rw [if_neg hk]
    repeat' split
    all_goals exact outputAt_checked ..

/-- The first write of a bulk cipher's step begins at its destination and holds all of its output; TAG and NEXT come after it, and a
tag that differs leaves it (R210, R220). -/
theorem output_mem_cipherWork_writes {j : Job} {d : Desc} {key out : Bytes} (hk : isKw d.opcode = false)
    (ho : cipherBody d key (fit 64 (rangeData j .param)) (cipherSource j d).2 = out) (hw : j.written = 0) (hne : out ≠ [])
    (hd : isHandle (dstAddr j) = false) : (dstAddr j, padMul 16 out) ∈ (cipherWork j d key).writes := by
  have hfirst : out.length > 0 ∧ !isHandle (dstAddr j) := ⟨List.length_pos_iff.mpr hne, by rw [hd]; rfl⟩
  unfold cipherWork
  dsimp only
  rw [hk, if_neg Bool.false_ne_true, ho, hw, if_pos hfirst]
  split
  · exact List.mem_append_left _ (List.mem_singleton_self _)
  · split
    · split <;> exact List.mem_singleton_self _
    · split
      · exact List.mem_singleton_self _
      · exact List.mem_append_left _ (List.mem_singleton_self _)

/-! ## The rows of the cipher opcodes -/

theorem exec_bulkRow (s : State) (id : Nat) : ∀ e ∈ bulkRows, exec (e.2.1 id) s = runOp e.1 id s := by
  simp only [bulkRows, List.forall_mem_cons]
  exact ⟨rfl, rfl, rfl, rfl, rfl, rfl, rfl, rfl, rfl, rfl, rfl, rfl, rfl, rfl, List.forall_mem_nil _⟩

theorem exec_wrapRow (s : State) (id : Nat) : ∀ e ∈ wrapRows, exec (e.2.1 id) s = runOp e.1 id s := by
  simp only [wrapRows, List.forall_mem_cons]
  exact ⟨rfl, rfl, rfl, rfl, List.forall_mem_nil _⟩

theorem family_bulkRow : ∀ e ∈ bulkRows, family e.1 = 1 ∧ isKw e.1 = false := by
  simp [bulkRows, family, isKw]

theorem family_wrapRow : ∀ e ∈ wrapRows, family e.1 = 1 ∧ isKw e.1 = true := by
  simp [wrapRows, family, isKw]

/-- The mode that an opcode's row names is the one its step runs (R206 to R217). -/
theorem cipherBody_bulkRow (d : Desc) (key block m : Bytes) :
    ∀ e ∈ bulkRows, d.opcode = e.1 → cipherBody d key block m = e.2.2 d key block m := by
  simp only [bulkRows, List.forall_mem_cons]
  refine ⟨?_, ?_, ?_, ?_, ?_, ?_, ?_, ?_, ?_, ?_, ?_, ?_, ?_, ?_, List.forall_mem_nil _⟩
  all_goals
    intro h
    simp only [cipherBody, h]

/-- A key wrapping step writes what its row computes, and ends with VERIFY_FALSE where that is none (R218, R219). -/
theorem kwWork_wrapRow (j : Job) (d : Desc) (key m : Bytes) :
    ∀ e ∈ wrapRows, d.opcode = e.1 → kwWork j d key m =
      match e.2.2 key m with
      | some out => outputAt j 16 out
      | none => workFail stVerifyFalse 0 := by
  simp only [wrapRows, List.forall_mem_cons]
  refine ⟨?_, ?_, ?_, ?_, List.forall_mem_nil _⟩
  all_goals
    intro h
    simp only [kwWork, h] <;> rfl

/-! ## Running it -/

theorem opWork_cipher {d : Desc} (hf : family d.opcode = 1) (s : State) (j : Job) (k : Key) (n : Nat) :
    opWork s j d (some k) n = cipherWork j d k.material := by
  unfold opWork
  simp only [hf]

/-- A cipher opcode that stands with its key loaded takes the cipher's work, and changes its submission only. -/
theorem runOp_cipher {s : State} {op id : Nat} {j : Job} {k : Key} (h : Stands s op id j) (hl : j.loaded = some k)
    (hf : family op = 1) : ∃ t, runOp op id s = .next t ∧ Took t id j (cipherWork j (stepEff j) k.material) ∧
      OutsideKept s t id ∧ t.keys = s.keys := by
  have hw (x : State) (n : Nat) : opWork x j (stepEff j) j.loaded n = cipherWork j (stepEff j) k.material := by
    rw [hl]
    exact opWork_cipher (h.effOpcode.symm ▸ hf) x j k n
  obtain ⟨t, n, x, ht, htook, hout, hkeys⟩ := lane_run h (.inl hf) fun x n => by rw [hw, cipherWork_checked]
  exact ⟨t, ht, hw x n ▸ htook, hout, hkeys⟩

/-- What a step has to write to memory stands in its submission. -/
theorem Took.mem_out {t : State} {id : Nat} {j : Job} {w : Work} {x : Nat × Bytes} (h : Took t id j w) (hx : x ∈ w.writes)
    (hm : isHandle x.1 = false) : ∃ u, jobOf t id = some u ∧ x ∈ u.out := by
  obtain ⟨u, hu, -, -, -, -, -, hout, -⟩ := h
  exact ⟨u, hu, hout ▸ List.mem_filter.mpr ⟨hx, by rw [hm]; rfl⟩⟩

end Sys2Proof.Machine
end

section
/-! CERTIFICATES. The cipher lanes: the bulk ciphers and key wrapping (R206 to R219). -/
namespace Sys2Proof.Machine

/-- Settles O8: the step takes the cipher's work, whose first write is the mode's output. -/
theorem bulkCiphers : Obligations.BulkCiphers := by
  intro e he s id j k h hl
  obtain ⟨hf, hk⟩ := family_bulkRow e he
  obtain ⟨t, ht, htook, hout, hkeys⟩ := runOp_cipher h hl hf
  refine ⟨t, (exec_bulkRow s id e he).trans ht, htook, hout, hkeys, fun hw hne hd => htook.mem_out ?_ hd⟩
  exact output_mem_cipherWork_writes (h.effOpcode.symm ▸ hk) (cipherBody_bulkRow _ _ _ _ e he h.effOpcode) hw hne hd

/-- Settles O9: the step takes the work of its row. -/
theorem keyWrapping : Obligations.KeyWrapping := by
  intro e he s id j k h hl
  obtain ⟨hf, hk⟩ := family_wrapRow e he
  obtain ⟨t, ht, htook, hout, hkeys⟩ := runOp_cipher h hl hf
  rw [cipherWork_of_isKw (h.effOpcode.symm ▸ hk), kwWork_wrapRow j _ _ _ e he h.effOpcode] at htook
  exact ⟨t, (exec_wrapRow s id e he).trans ht, hout, hkeys, htook⟩

end Sys2Proof.Machine
end

section
/-! SUPPORT. Rules for the hash lanes: what a hash or MAC step computes, by its row, and that running it writes its submission only
(R225 to R232). -/
namespace Sys2Proof.Machine

/-! ## The work of a hash step -/

theorem hashWork_of_computing {d : Desc} (h : hashVerify d.opcode = false) (j : Job) (key : Bytes) :
    hashWork j d key = outputAt j 1 (hashResult j d key ((rangeData j .src).take d.length)) := by
  simp [hashWork, h]

theorem hashWork_of_verifying {d : Desc} (h : hashVerify d.opcode = true) (j : Job) (key : Bytes) : hashWork j d key =
    if hashResult j d key ((rangeData j .src).take d.length) = paramBytes j 0 (hashOut d) then {} else workFail stVerifyFalse 0 := by
  simp [hashWork, h]

/-- A verifying form writes nothing, and ends by whether the MAC is the block's (R230, R232). -/
theorem hashWork_silent_of_verifying {d : Desc} (h : hashVerify d.opcode = true) (j : Job) (key : Bytes) :
    (hashWork j d key).writes = [] ∧ (hashWork j d key).result = 0 ∧ (hashWork j d key).len = 0 ∧
      (hashWork j d key).ending.status =
        if hashResult j d key ((rangeData j .src).take d.length) = paramBytes j 0 (hashOut d) then stDone else stVerifyFalse := by
  rw [hashWork_of_verifying h]
  split <;> exact ⟨rfl, rfl, rfl, rfl⟩

/-- A digest or a MAC is never held for the check before release, which R275 asks of public-key results. -/
theorem hashWork_checked (j : Job) (d : Desc) (key : Bytes) : (hashWork j d key).checked = false := by
  cases h : hashVerify d.opcode with
  | false => rw [hashWork_of_computing h, outputAt_checked]
  | true => rw [hashWork_of_verifying h]; split <;> rfl

/-! ## The rows of the hash opcodes -/

theorem exec_digestRow (s : State) (id : Nat) : ∀ e ∈ digestRows, exec (e.2.1 id) s = runOp e.1 id s := by
  simp only [digestRows, List.forall_mem_cons]
  exact ⟨rfl, rfl, rfl, rfl, rfl, rfl, rfl, rfl, rfl, rfl, rfl, rfl, rfl, List.forall_mem_nil _⟩

theorem exec_macRow (s : State) (id : Nat) : ∀ e ∈ macRows ++ macVerifyRows, exec (e.2.1 id) s = runOp e.1 id s := by
  simp only [macRows, macVerifyRows, List.cons_append, List.nil_append, List.forall_mem_cons]
  exact ⟨rfl, rfl, rfl, rfl, rfl, rfl, rfl, rfl, rfl, rfl, rfl, rfl, rfl, rfl, List.forall_mem_nil _⟩

theorem family_digestRow : ∀ e ∈ digestRows, family e.1 = 2 ∧ hashVerify e.1 = false := by
  simp [digestRows, family, hashVerify]

theorem family_macRow : ∀ e ∈ macRows, family e.1 = 2 ∧ hashVerify e.1 = false := by
  simp [macRows, family, hashVerify]

theorem family_macVerifyRow : ∀ e ∈ macVerifyRows, family e.1 = 2 ∧ hashVerify e.1 = true := by
  simp [macVerifyRows, family, hashVerify]

/-- The digest that an opcode's row names is the one its step computes, N and S being the context's two strings (R225, R231). -/
theorem hashResult_digestRow (j : Job) (d : Desc) (key m : Bytes) : ∀ e ∈ digestRows, d.opcode = e.1 →
    hashResult j d key m = e.2.2 ((rangeData j .context).take (nLen j))
      (((rangeData j .context).drop (nLen j)).take (sLen j)) m (outLen d) := by
  simp only [digestRows, List.forall_mem_cons]
  refine ⟨?_, ?_, ?_, ?_, ?_, ?_, ?_, ?_, ?_, ?_, ?_, ?_, ?_, List.forall_mem_nil _⟩
  all_goals
    intro h
    simp only [hashResult, hashOut, h] <;> rfl

/-- The MAC that an opcode's row names is the one its step computes, S being the context's second string (R227, R229). -/
theorem hashResult_macRow (j : Job) (d : Desc) (key m : Bytes) : ∀ e ∈ macRows ++ macVerifyRows, d.opcode = e.1 →
    hashResult j d key m = e.2.2 key (((rangeData j .context).drop (nLen j)).take (sLen j)) m (outLen d) := by
  simp only [macRows, macVerifyRows, List.cons_append, List.nil_append, List.forall_mem_cons]
  refine ⟨?_, ?_, ?_, ?_, ?_, ?_, ?_, ?_, ?_, ?_, ?_, ?_, ?_, ?_, List.forall_mem_nil _⟩
  all_goals
    intro h
    simp only [hashResult, hashOut, h] <;> rfl

/-! ## Running it -/

/-- The key material that a step computes under. -/
def stepMaterial (j : Job) : Bytes := (j.loaded.map (·.material)).getD []

theorem stepMaterial_of_loaded {j : Job} {k : Key} (h : j.loaded = some k) : stepMaterial j = k.material := by
  simp [stepMaterial, h]

theorem opWork_hash {d : Desc} (hf : family d.opcode = 2) (s : State) (j : Job) (n : Nat) :
    opWork s j d j.loaded n = hashWork j d (stepMaterial j) := by
  unfold opWork stepMaterial
  cases j.loaded <;> simp only [hf] <;> rfl

/-- A hash opcode that stands takes the hash's work, and changes its submission only. -/
theorem runOp_hash {s : State} {op id : Nat} {j : Job} (h : Stands s op id j) (hf : family op = 2) :
    ∃ t, runOp op id s = .next t ∧ OutsideKept s t id ∧ t.keys = s.keys ∧
      Took t id j (hashWork j (stepEff j) (stepMaterial j)) := by
  have hw (x : State) (n : Nat) : opWork x j (stepEff j) j.loaded n = hashWork j (stepEff j) (stepMaterial j) :=
    opWork_hash (h.effOpcode.symm ▸ hf) x j n
  obtain ⟨t, n, x, ht, htook, hout, hkeys⟩ := lane_run h (.inr hf) fun x n => by rw [hw, hashWork_checked]
  exact ⟨t, ht, hout, hkeys, hw x n ▸ htook⟩

theorem Took.out_nil {t : State} {id : Nat} {j : Job} {w : Work} (h : Took t id j w) (hw : w.writes = []) :
    ∃ u, jobOf t id = some u ∧ u.phase = .computed ∧ u.result = w.result ∧ u.resultLen = w.len ∧ u.out = [] ∧ u.ending = w.ending := by
  obtain ⟨u, hu, hphase, hend, hresult, hlen, -, hout, -⟩ := h
  exact ⟨u, hu, hphase, hresult, hlen, by rw [hout, hw]; rfl, hend⟩

end Sys2Proof.Machine
end

section
/-! CERTIFICATES. The hash lanes: digests, XOFs and MACs (R225 to R232). -/
namespace Sys2Proof.Machine

/-- Settles O10: the step writes what its row computes. -/
theorem digests : Obligations.Digests := by
  intro e he s id j h
  obtain ⟨hf, hv⟩ := family_digestRow e he
  obtain ⟨t, ht, hout, hkeys, htook⟩ := runOp_hash h hf
  rw [hashWork_of_computing (h.effOpcode.symm ▸ hv), hashResult_digestRow j _ _ _ e he h.effOpcode] at htook
  exact ⟨t, (exec_digestRow s id e he).trans ht, hout, hkeys, htook⟩

/-- Settles O11: a computing step writes its row's MAC; a verifying one compares it and writes nothing. -/
theorem macs : Obligations.Macs := by
  refine ⟨fun e he s id j k h hl => ?_, fun e he s id j k h hl => ?_⟩
  · have hrow : e ∈ macRows ++ macVerifyRows := List.mem_append_left _ he
    obtain ⟨hf, hv⟩ := family_macRow e he
    obtain ⟨t, ht, hout, hkeys, htook⟩ := runOp_hash h hf
    rw [hashWork_of_computing (h.effOpcode.symm ▸ hv), hashResult_macRow j _ _ _ e hrow h.effOpcode,
      stepMaterial_of_loaded hl] at htook
    exact ⟨t, (exec_macRow s id e hrow).trans ht, hout, hkeys, htook⟩
  · have hrow : e ∈ macRows ++ macVerifyRows := List.mem_append_right _ he
    obtain ⟨hf, hv⟩ := family_macVerifyRow e he
    obtain ⟨t, ht, hout, hkeys, htook⟩ := runOp_hash h hf
    obtain ⟨hwrites, hresult, hlen, hstatus⟩ := hashWork_silent_of_verifying (h.effOpcode.symm ▸ hv) j (stepMaterial j)
    rw [hashResult_macRow j _ _ _ e hrow h.effOpcode, stepMaterial_of_loaded hl] at hstatus
    obtain ⟨u, hu, hphase, hres, hrlen, hnone, hend⟩ := htook.out_nil hwrites
    rw [stepMaterial_of_loaded hl] at hresult hlen hres hrlen hend
    exact ⟨t, (exec_macRow s id e hrow).trans ht, hout, hkeys, u, hu, hphase, hres.trans hresult, hrlen.trans hlen, hnone,
      (congrArg Ending.status hend).trans hstatus⟩

end Sys2Proof.Machine
end

section
/-! SUPPORT. Rules for the measurement digest port: what an access through a path that serves runs, what each command leaves of the
port, and which slot a finished message extends (R242 to R251). -/
namespace Sys2Proof.Machine

/-! ## Accesses -/

theorem PortServes.mainOn {s : State} (h : PortServes s) : mainOn s = true := by
  have := h.answered
  simp only [regGuarded, Bool.or_eq_false_iff, Bool.not_eq_false'] at this
  exact this.1

theorem pathAccess_of_serves {p : Path} {s : State} (hp : p = .regPort → PortServes s) (c : Held) (r : Res) :
    pathAccess p c s r = r := by
  cases p with
  | regPort => exact portAccess_of_serves (hp rfl) c r
  | pair => rfl

theorem mdpAccess_of_path {p : Path} {s : State} (hp : p = .regPort → PortServes s) (hm : mainOn s = true) (f : State → State) :
    mdpAccess p s f = f s := by
  cases p with
  | regPort => exact mdpAccess_of_serves (hp rfl) f
  | pair => exact mdpAccess_pair hm f

@[simp] theorem mdpOk_regPort (s : State) : mdpOk .regPort s = emit s .regOk := rfl

@[simp] theorem mdpOk_mdp (p : Path) (s : State) : (mdpOk p s).mdp = s.mdp := by cases p <;> rfl

theorem mdpOpen_of_opened {s : State} (h : s.mdp.st = .opened) : mdpOpen s = true := by simp [mdpOpen, h]

theorem mdpOwned_iff (s : State) (p : Path) (code : Nat) :
    mdpOwned s p code = true ↔ s.mdp.owner = code ∧ s.mdp.path = p := by
  simp [mdpOwned]

theorem ownerOk_regPort {code : Nat} (h : code = 0x01 ∨ code = 0x02) : ownerOk .regPort code = true := by
  simpa [ownerOk] using h

section
variable {s : State} {p : Path} (hp : p = .regPort → PortServes s) (hm : mainOn s = true)
include hp hm

theorem exec_mdpStart_of_serves {c : W32} (h : cmdOp c = 1) : exec (.mdpStart p c) s = .next (mdpStart p c s) := by
  change execMdpStart p c s = _
  rw [execMdpStart, pathAccess_of_serves hp, if_pos h, mdpAccess_of_path hp hm]

theorem exec_mdpData_of_serves (w : W32) : exec (.mdpData p w) s = .next (mdpWrite p w s) := by
  change execMdpData p w s = _
  rw [execMdpData, pathAccess_of_serves hp, mdpAccess_of_path hp hm]

theorem exec_mdpFinal_of_serves {c : W32} (h : cmdOp c = 2) : exec (.mdpFinal p c) s = .next (mdpFinal p c s) := by
  change execMdpFinal p c s = _
  rw [execMdpFinal, pathAccess_of_serves hp, if_pos h, mdpAccess_of_path hp hm]

theorem exec_mdpAbort_of_serves {c : W32} (h : cmdOp c = 3) : exec (.mdpAbort p c) s = .next (mdpAbort p c s) := by
  change execMdpAbort p c s = _
  rw [execMdpAbort, pathAccess_of_serves hp, if_pos h, mdpAccess_of_path hp hm]

end

/-! ## START (R242, R251) -/

theorem mdpStart_of_unkeyed {s : State} {p : Path} {c : W32} (ho : ownerOk p (cmdOwner c) = true)
    (hfree : mdpOpen s = false ∨ mdpOwned s p (cmdOwner c) = true) (he : extendRefused s c = false) (h1 : 1 ≤ cmdAlg c)
    (h4 : cmdAlg c ≤ 4) : mdpStart p c s = mdpOk p (mdpClaim s p c none []) := by
  have hclaim : ¬ (mdpOpen s = true ∧ (!mdpOwned s p (cmdOwner c)) = true) := by
    rcases hfree with h | h <;> simp [h]
  have halg : ¬ (cmdAlg c = 0 ∨ 7 < cmdAlg c) := by omega
  have hkey : mdpKeyed (cmdAlg c) = false := by simp [mdpKeyed]; omega
  rw [mdpStart, if_neg (by simp [ho]), if_neg hclaim, if_neg (by simp [he]), if_neg halg, if_neg (by simp [hkey])]

/-! ## DATA, FINAL, ABORT (R244 to R247) -/

theorem mdpWrite_of_opened {s : State} {p : Path} (hpath : s.mdp.path = p) (hst : s.mdp.st = .opened)
    (hroom : s.mdp.count + 4 ≤ 2 ^ 32 - 1) (w : W32) : mdpWrite p w s = mdpOk p (mdpAppend s w) := by
  have hfit : ¬ (s.mdp.st ≠ .opened ∨ 2 ^ 32 - 1 < s.mdp.count + 4) := by simp only [hst, ne_eq, not_true, false_or]; omega
  rw [mdpWrite, if_neg (fun h => h.2 hpath), if_neg hfit]

theorem mdpWrite_of_busy {s : State} {p : Path} (hpath : s.mdp.path = p) (hst : s.mdp.st = .busy) (w : W32) :
    mdpWrite p w s = mdpMisuse p s := by
  rw [mdpWrite, if_neg (fun h => h.2 hpath), if_pos (.inl (by simp [hst]))]

/-- FINAL of the owner, with a number of bytes that is zero exactly where no word has been taken (R246, R247). -/
theorem mdpFinal_of_opened {s : State} {p : Path} {c : W32} (hst : s.mdp.st = .opened) (ho : mdpOwned s p (cmdOwner c) = true)
    (h4 : cmdValid c ≤ 4) (h0 : cmdValid c = 0 ↔ s.mdp.count = 0) :
    mdpFinal p c s = mdpOk p (setMdp s { s.mdp with st := .busy, why := .final (cmdValid c), lastWrite := now s }) := by
  have hv : ¬ (4 < cmdValid c ∨ (cmdValid c = 0 ∧ s.mdp.count ≠ 0) ∨ (cmdValid c ≠ 0 ∧ s.mdp.count = 0)) := by omega
  rw [mdpFinal, if_neg (by simp [mdpOpen_of_opened hst, ho]), if_neg hv, if_neg (by simp [hst])]

theorem mdpAbort_of_owned {s : State} {p : Path} {c : W32} (hopen : mdpOpen s = true) (ho : mdpOwned s p (cmdOwner c) = true) :
    mdpAbort p c s = mdpOk p (setMdp s (clearPort s.mdp)) := by
  have hidle : s.mdp.st ≠ .idle := fun h => by simp [mdpOpen, h] at hopen
  rw [mdpAbort, if_neg hidle, if_neg (by simp [ho])]

/-! ## The end of BUSY (R244, R247, R250) -/

theorem exec_mdpBusyEnd_of_block {s : State} (hm : mainOn s = true) (hst : s.mdp.st = .busy) (hw : s.mdp.why = .block) :
    exec .mdpBusyEnd s = .next (setMdp s { s.mdp with st := .opened }) := by
  change execMdpBusyEnd s = _
  simp [execMdpBusyEnd, hm, hst, hw]

theorem exec_mdpBusyEnd_of_final {s : State} {v : Nat} (hm : mainOn s = true) (hst : s.mdp.st = .busy) (hw : s.mdp.why = .final v) :
    exec .mdpBusyEnd s = .next (setMdp s (mdpDone s.mdp v)) := by
  change execMdpBusyEnd s = _
  simp [execMdpBusyEnd, hm, hst, hw]

/-- A slot that is neither locked nor closed takes the digest (R250, R251). -/
theorem mdpExtend_meas_same {m : Mdp} (d : Bytes)
    (h : (if m.slot < 4 then m.closed.getLsbD m.slot else m.lockBits.getLsbD (m.slot - 4)) = false) :
    look (mdpExtend m d).meas m.slot [] = sha384 (fit 48 (look m.meas m.slot []) ++ d) := by
  have hopen : ((decide (4 ≤ m.slot) && m.lockBits.getLsbD (m.slot - 4)) || (decide (m.slot < 4) && m.closed.getLsbD m.slot)) =
      false := by
    by_cases hlow : m.slot < 4
    · rw [if_pos hlow] at h
      simp [h, Nat.not_le.mpr hlow]
    · rw [if_neg hlow] at h
      simp [h, hlow]
  rw [mdpExtend, hopen, if_neg Bool.false_ne_true]
  exact look_put_same ..

theorem mdpExtend_meas_other (m : Mdp) (d : Bytes) {i : Nat} (h : i ≠ m.slot) :
    look (mdpExtend m d).meas i [] = look m.meas i [] := by
  unfold mdpExtend
  dsimp only
  split
  · rfl
  · exact look_put_other _ _ _ h

/-- The message bytes that FINAL takes of a port's words: all but the last word's bytes beyond the valid ones (R246). -/
def finalBytes (m : Mdp) (v : Nat) : Bytes := m.message.take (if m.count = 0 then 0 else m.count - 4 + v)

theorem mdpDone_meas_of_extend {m : Mdp} (h : m.extend = true) (v : Nat) :
    (mdpDone m v).meas = (mdpExtend m (mdpDigest m.alg m.hmacKey (finalBytes m v))).meas := by
  simp [mdpDone, finalBytes, h]

theorem mdpDone_meas_of_not_extend {m : Mdp} (h : m.extend = false) (v : Nat) : (mdpDone m v).meas = m.meas := by
  simp [mdpDone, h]

theorem mdpDone_meas_other (m : Mdp) (v : Nat) {i : Nat} (h : i ≠ m.slot) : look (mdpDone m v).meas i [] = look m.meas i [] := by
  cases he : m.extend with
  | true => rw [mdpDone_meas_of_extend he, mdpExtend_meas_other m _ h]
  | false => rw [mdpDone_meas_of_not_extend he]

/-! ## The idle limit, the extend lock, undefined commands and reads (R241, R248, R249, R251) -/

theorem exec_mdpIdleLimit_of_due {s : State} (hm : mainOn s = true) (hopen : mdpOpen s = true) (hl : s.mdp.idleLimit ≠ 0)
    (hdue : s.mdp.lastWrite + us s.mdp.idleLimit ≤ now s) :
    exec .mdpIdleLimit s = .next (setMdp s { clearPort s.mdp with idleAbort := true }) := by
  change execMdpIdleLimit s = _
  exact if_pos ⟨hm, hopen, hl, hdue⟩

theorem exec_mdpExtLockWrite_first {s : State} (h : PortServes s) (hl : s.mdp.extLocked = false) (v : W32) :
    exec (.mdpExtLockWrite ⟨.regPort, v⟩) s =
      .next (emit (setMdp s { s.mdp with lockBits := v.extractLsb' 4 4, extLocked := true }) .regOk) := by
  change execMdpExtLockWrite ⟨.regPort, v⟩ s = _
  rw [execMdpExtLockWrite, pathAccess_of_serves (fun _ => h), pathWrite, regWrite_of_serves h, if_neg (by simp [hl])]

theorem exec_cmdInvalid_of_undefined {s : State} {v : W32} (h : PortServes s) (hv : [1, 2, 3].contains (cmdOp v) = false) :
    exec (.cmdInvalid ⟨.regPort, v⟩) s = .next (emit (setMdp s { s.mdp with cmdInvalid := true }) .regOk) := by
  change execCmdInvalid ⟨.regPort, v⟩ s = _
  rw [execCmdInvalid, pathAccess_of_serves (fun _ => h), if_neg (by rw [hv]; exact Bool.false_ne_true), pathWrite,
    regWrite_of_serves h]

theorem exec_mdpResultRead_done {s : State} (h : PortServes s) (hst : s.mdp.st = .done) (i : Nat) :
    exec (.mdpResultRead .regPort i) s = .next (emit s (.regValue (resultAt s.mdp i))) := by
  change execMdpResultRead .regPort i s = _
  simp [execMdpResultRead, pathAccess, portAccess_of_serves h, mdpAccess_of_serves h, mdpOpen, hst]

theorem exec_mdpResultRead_early {s : State} (h : PortServes s) (hopen : mdpOpen s = true) (i : Nat) :
    exec (.mdpResultRead .regPort i) s = .next (emit (setMdp s { s.mdp with earlyRead := true }) (.regValue 0)) := by
  have hst : s.mdp.st ≠ .done := fun h => by simp [mdpOpen, h] at hopen
  change execMdpResultRead .regPort i s = _
  simp [execMdpResultRead, pathAccess, portAccess_of_serves h, mdpAccess_of_serves h, hopen, hst]

end Sys2Proof.Machine
end

section
/-! CERTIFICATES. The measurement digest port (R241 to R251). -/
namespace Sys2Proof.Machine

/-- Settles O51: each clause by what its command runs over a path that serves, and the slots by whether the message extends one. -/
theorem measurementPort : Obligations.MeasurementPort := by
  refine ⟨?start, ?data, ?misuse, ?final, fun s hm hst hw => exec_mdpBusyEnd_of_block hm hst hw, ?finished, ?abort,
    fun s hm hopen hl hdue => exec_mdpIdleLimit_of_due hm hopen hl hdue, fun s v h hl => exec_mdpExtLockWrite_first h hl v,
    ?undefined, ?read⟩
  case start =>
    intro s c h hop ho hfree he h1 h4
    refine ⟨_, exec_mdpStart_of_serves (fun _ => h) h.mainOn hop, ?_⟩
    rw [mdpStart_of_unkeyed (ownerOk_regPort ho) (hfree.imp_right (mdpOwned_iff ..).mpr) he h1 h4]
    exact ⟨rfl, rfl, rfl, rfl, rfl, rfl, rfl, rfl⟩
  case data =>
    intro s p w hp hm hpath hst hroom
    refine ⟨_, exec_mdpData_of_serves hp hm w, ?_⟩
    rw [mdpWrite_of_opened hpath hst hroom, mdpOk_mdp]
    exact ⟨rfl, rfl, rfl, rfl⟩
  case misuse =>
    intro s w h hpath hst
    refine ⟨_, exec_mdpData_of_serves (fun _ => h) h.mainOn w, ?_⟩
    rw [mdpWrite_of_busy hpath hst]
    exact ⟨rfl, rfl, rfl, rfl, rfl, rfl, rfl⟩
  case final =>
    intro s p c hp hm hop hst ho hpath h4 h0
    refine ⟨_, exec_mdpFinal_of_serves hp hm hop, ?_⟩
    rw [mdpFinal_of_opened hst ((mdpOwned_iff ..).mpr ⟨ho, hpath⟩) h4 h0, mdpOk_mdp, setMdp_mdp]
  case finished =>
    intro s v hm hst hw
    refine ⟨_, exec_mdpBusyEnd_of_final hm hst hw, rfl, rfl, rfl, rfl, rfl, fun he hslot => ?_,
      fun i hi => mdpDone_meas_other s.mdp v hi, fun he => mdpDone_meas_of_not_extend he v⟩
    rw [setMdp_mdp, mdpDone_meas_of_extend he]
    exact mdpExtend_meas_same _ hslot
  case abort =>
    intro s c h hop hopen ho hpath
    refine ⟨_, exec_mdpAbort_of_serves (fun _ => h) h.mainOn hop, ?_⟩
    rw [mdpAbort_of_owned hopen ((mdpOwned_iff ..).mpr ⟨ho, hpath⟩)]
    exact ⟨rfl, rfl, rfl⟩
  case undefined =>
    intro s v h h1 h2 h3
    exact exec_cmdInvalid_of_undefined h (by simp [h1, h2, h3])
  case read =>
    intro s i h
    exact ⟨fun hst => exec_mdpResultRead_done h hst i, fun hopen => ⟨_, exec_mdpResultRead_early h hopen i, rfl, rfl⟩⟩

end Sys2Proof.Machine
end

section
/-! SUPPORT. Rules for MULACC: little-endian integers, what one element computes, and that running it writes its submission only
(R259, R260). -/
namespace Sys2Proof.Machine

/-! ## Little-endian integers -/

@[simp] theorem leBytes_length (n v : Nat) : (leBytes n v).length = n := by
  induction n generalizing v with
  | zero => rfl
  | succ n ih => rw [leBytes, List.length_cons, ih]

/-- `n` bytes hold a number modulo 256^n. -/
theorem leNat_leBytes (n v : Nat) : leNat (leBytes n v) = v % 256 ^ n := by
  induction n generalizing v with
  | zero => exact (Nat.mod_one v).symm
  | succ n ih =>
    rw [leBytes, leNat, ih, BitVec.toNat_ofNat, Nat.pow_succ' (n := n), Nat.mod_mul (a := 256)]

theorem leNat_lt (bs : Bytes) : leNat bs < 256 ^ bs.length := by
  induction bs with
  | nil => exact Nat.one_pos
  | cons b r ih =>
    have hb : b.toNat < 256 := b.isLt
    rw [leNat, List.length_cons, Nat.pow_succ']
    omega

theorem leNat_lt_of_length_le {bs : Bytes} {n : Nat} (h : bs.length ≤ n) : leNat bs < 256 ^ n :=
  Nat.lt_of_lt_of_le (leNat_lt bs) (Nat.pow_le_pow_right (by decide) h)

@[simp] theorem padMul_one (bs : Bytes) : padMul 1 bs = bs := by
  rw [padMul, Nat.mod_one]
  exact List.append_nil bs

theorem pieces_of_length {n : Nat} {bs : Bytes} (hn : 0 < n) (h : bs.length = n) : pieces n bs = [bs] := by
  subst h
  rw [pieces, Nat.div_self hn]
  cases bs with
  | nil => exact absurd hn (Nat.lt_irrefl 0)
  | cons b r => rw [piecesFuel, List.take_length, List.drop_length, piecesFuel]

/-! ## MULACC of one element -/

/-- The number that MULACC computes of an element A, B, C with operands of `w` bytes (R259). -/
def mulaccSum (w : Nat) (e : Bytes) : Nat := leNat (e.take w) * leNat (subBytes e w w) + leNat (subBytes e (2 * w) (2 * w))

theorem mulaccOne_eq (w : Nat) (e : Bytes) :
    mulaccOne w e = (leBytes (2 * w) (mulaccSum w e), decide (mulaccSum w e ≥ 2 ^ (16 * w))) := rfl

theorem two_pow_sixteen_mul (w : Nat) : 2 ^ (16 * w) = 256 ^ (2 * w) := by
  rw [show 16 * w = 8 * (2 * w) by omega, Nat.pow_mul]

/-- A product of `w`-byte integers and a `2w`-byte integer carry at most once out of `2w` bytes. -/
theorem mulaccSum_lt (w : Nat) (e : Bytes) : mulaccSum w e < 2 * 2 ^ (16 * w) := by
  have ha : leNat (e.take w) < 256 ^ w := leNat_lt_of_length_le (List.length_take_le ..)
  have hb : leNat (subBytes e w w) < 256 ^ w := leNat_lt_of_length_le (List.length_take_le ..)
  have hc : leNat (subBytes e (2 * w) (2 * w)) < 256 ^ (2 * w) := leNat_lt_of_length_le (List.length_take_le ..)
  have hab : leNat (e.take w) * leNat (subBytes e w w) < 256 ^ (2 * w) := by
    rw [Nat.two_mul, Nat.pow_add]
    exact Nat.mul_lt_mul'' ha hb
  rw [mulaccSum, two_pow_sixteen_mul]
  omega

theorem carry_mulaccSum (w : Nat) (e : Bytes) :
    b2n (decide (mulaccSum w e ≥ 2 ^ (16 * w))) = mulaccSum w e / 2 ^ (16 * w) := by
  have hlt := mulaccSum_lt w e
  by_cases h : mulaccSum w e ≥ 2 ^ (16 * w)
  · rw [decide_eq_true h, Nat.div_eq_of_lt_le (k := 1) (by omega) (by omega)]
    rfl
  · rw [decide_eq_false h, Nat.div_eq_of_lt (by omega)]
    rfl

theorem mulaccW_eq_some_iff {d : Desc} (h : d.opcode = 0x0300) (w : Nat) :
    mulaccW d = some w ↔ d.length = 4 * w ∧ w % 32 = 0 ∧ 32 ≤ w ∧ w ≤ 1024 := by
  unfold mulaccW
  simp only [h, if_true, Nat.mul_one, Nat.one_ne_zero, false_or]
  split
  · simp only [reduceCtorEq, false_iff]
    omega
  · split
    · simp only [Option.some.injEq]
      omega
    · next hbad =>
      simp only [reduceCtorEq, false_iff]
      rintro ⟨hl, hw⟩
      exact hbad (by rwa [show d.length / 4 = w by omega])

/-! ## Its work and its run -/

theorem mulaccWork_checked (j : Job) (d : Desc) : (mulaccWork j d).checked = false := by
  unfold mulaccWork
  split
  · rfl
  · exact outputAt_checked ..

/-- The carries of a single element are its own, in bit 0 (R260). -/
theorem carries_singleton (r : Bytes × Bool) :
    ([r].zip (List.range [r].length)).foldl (fun a e => a + b2n e.1.2 * 2 ^ e.2) 0 = b2n r.2 := by
  change 0 + b2n r.2 * 2 ^ 0 = b2n r.2
  rw [Nat.pow_zero, Nat.mul_one, Nat.zero_add]

/-- One element's work: its `2w` bytes at the destination, and the carry in RESULT (R259, R260). -/
theorem mulaccWork_of_one {j : Job} {d : Desc} {w : Nat} (hw : mulaccW d = some w) (hpos : 0 < w)
    (hl : (rangeData j .src).length = 4 * w) :
    mulaccWork j d = { outputAt j 1 (leBytes (2 * w) (mulaccSum w (rangeData j .src))) with
      result := mulaccSum w (rangeData j .src) / 2 ^ (16 * w) } := by
  rw [← carry_mulaccSum]
  unfold mulaccWork
  simp only [hw, pieces_of_length (by omega : 0 < 4 * w) hl, List.map_singleton, mulaccOne_eq, List.flatMap_singleton,
    carries_singleton]

theorem outputAt_status (j : Job) (pad : Nat) (out : Bytes) : (outputAt j pad out).ending.status = stDone := by
  unfold outputAt
  dsimp only
  split <;> rfl

theorem outputAt_writes {j : Job} {out : Bytes} (h : isHandle (dstAddr j) = false) (hne : out ≠ []) (pad : Nat) :
    (outputAt j pad out).writes = [(dstAddr j, padMul pad out)] := by
  rw [outputAt, if_neg (by rw [h]; exact Bool.false_ne_true), if_neg hne]

theorem outputAt_handle {j : Job} (h : isHandle (dstAddr j) = true) (pad : Nat) (out : Bytes) :
    (outputAt j pad out).handle = some out := by
  rw [outputAt, if_pos h]

theorem drawnJob_of_not_random {s : State} {j : Job} (h : opRandom s (stepEff j) (j.part.map (·.1)) j.loaded = false) :
    drawnJob s j = j := by
  rw [drawnJob, if_neg (by rw [h]; exact Bool.false_ne_true)]

theorem opWork_pub {d : Desc} (hf : family d.opcode = 3 ∨ family d.opcode = 4) (s : State) (j : Job) (k : Option Key) (n : Nat) :
    opWork s j d k n = pubWork s j d k n := by
  unfold opWork
  rcases hf with h | h <;> simp only [h]

theorem pubWork_mulacc {d : Desc} (h : d.opcode = 0x0300) (s : State) (j : Job) (k : Option Key) (n : Nat) :
    pubWork s j d k n = mulaccWork j d := by
  unfold pubWork
  simp only [h]

theorem opRandom_mulacc {d : Desc} (h : d.opcode = 0x0300) (s : State) (e : Option Engine) (k : Option Key) :
    opRandom s d e k = false := by
  unfold opRandom
  rw [h]
  rfl

/-- MULACC that stands takes its work, and changes its submission only. -/
theorem runOp_mulacc {s : State} {id : Nat} {j : Job} (h : Stands s 0x0300 id j) :
    ∃ t, runOp 0x0300 id s = .next t ∧ Took t id j (mulaccWork j (stepEff j)) ∧ OutsideKept s t id := by
  have hop := h.effOpcode
  have hrandom := opRandom_mulacc hop s (j.part.map (·.1)) j.loaded
  have hready : RandomReady s j := fun hr => absurd (hrandom.symm.trans hr) Bool.false_ne_true
  obtain ⟨t, ht, hgood, -, hsame⟩ := main_run h (by decide) (by decide) (fun e => absurd e (by decide)) hready
  rw [drawnJob_of_not_random hrandom, opWork_pub (.inl (by rw [hop]; rfl)), pubWork_mulacc hop] at hgood
  rw [drawnJob_of_not_random hrandom] at hsame
  obtain ⟨htook, -, -, hkept⟩ := hgood (by rw [mulaccWork_checked]; rfl)
  exact ⟨t, ht, htook, (hkept (hsame (by decide))).1⟩

end Sys2Proof.Machine
end

section
/-! CERTIFICATES. The big-number primitives (R259, R260). -/
namespace Sys2Proof.Machine

/-- Settles O12: the one element's work is its sum's low bytes and carry, and taking it puts them where the destination names. -/
theorem mulacc : Obligations.Mulacc := by
  refine ⟨fun s id w j h hw hl => ?_, fun d w hop => mulaccW_eq_some_iff hop w⟩
  obtain ⟨-, -, hmin, -⟩ := (mulaccW_eq_some_iff h.effOpcode w).mp hw
  obtain ⟨t, ht, ⟨u, hu, hphase, hend, hresult, -, -, hout, -, -, hhandle⟩, hkept⟩ := runOp_mulacc h
  rw [mulaccWork_of_one hw (by omega) hl] at hend hresult hout hhandle
  refine ⟨t, u, leBytes (2 * w) (mulaccSum w (rangeData j .src)), ht, hkept, hu, hphase, leBytes_length .., ?_, hresult, ?_,
    fun hd => ?_, fun hd => hhandle _ (outputAt_handle hd ..)⟩
  · rw [leNat_leBytes, two_pow_sixteen_mul]
    rfl
  · rw [hend]
    exact outputAt_status ..
  · have hne : leBytes (2 * w) (mulaccSum w (rangeData j .src)) ≠ [] :=
      List.ne_nil_of_length_pos (by rw [leBytes_length]; omega)
    rw [hout, outputAt_writes hd hne, padMul_one]
    exact List.filter_cons_of_pos (by rw [hd]; rfl)

end Sys2Proof.Machine
end

section
/-! SUPPORT. Rules for store requests: a response taken, a request timed out, the message at the end of its window, and the start
of a due batch (R328, R454, R458, R459, R465). -/
namespace Sys2Proof.Machine

/-- A response that names no outstanding request only counts RID_DISCARDS. -/
theorem storeAnswer_of_unknown {s : State} {rid : Nat} (h : s.store.outstanding.find? (fun r => r.rid == rid) = none)
    (status : Byte) (data : Bytes) :
    storeAnswer s rid status data = { s with glb := { s.glb with ridDiscards := satInc 8 s.glb.ridDiscards } } := by
  simp only [storeAnswer, h]

/-- The store's state once request `rid` has timed out: the request stays outstanding, and the timeout is counted. -/
def requestTimedOut (s : State) (rid : Nat) : State :=
  { s with store := { s.store with
    outstanding := s.store.outstanding.map (fun x => if x.rid = rid then { x with timedOut := true } else x)
    timeouts := s.store.timeouts + 1 } }

theorem timedOut_of_mem_requestTimedOut {s : State} {rid : Nat} {x : StoreReq}
    (hx : x ∈ (requestTimedOut s rid).store.outstanding) (hr : x.rid = rid) : x.timedOut = true := by
  obtain ⟨y, -, rfl⟩ := List.mem_map.mp hx
  by_cases hy : y.rid = rid
  · rw [if_pos hy]
  · rw [if_neg hy] at hr
    exact absurd hr hy

theorem length_requestTimedOut (s : State) (rid : Nat) :
    (requestTimedOut s rid).store.outstanding.length = s.store.outstanding.length :=
  List.length_map _

/-- A request past TIMEOUT_MS times out, and a WRITE takes the batch that is being written with it. -/
theorem exec_storeTimeout_due {s : State} {rid : Nat} {a : Attach} {r : StoreReq} (ha : s.store.attach = some a)
    (hr : s.store.outstanding.find? (fun r => r.rid == rid) = some r) (hm : mainOn s = true) (ht : r.timedOut = false)
    (hd : r.issuedAt + ms a.timeoutMs ≤ now s) : exec (.storeTimeout rid) s =
      .next (if r.op = .write then abortBatch (requestTimedOut s rid) 0x0501 else requestTimedOut s rid) := by
  have hrun : ¬ ((!mainOn s) = true ∨ r.timedOut = true ∨ now s < r.issuedAt + ms a.timeoutMs) := by simp [hm, ht, hd]
  change execStoreTimeout rid s = _
  rw [execStoreTimeout, ha, hr]
  exact if_neg hrun

theorem exec_storeInterruptWindow_due {s : State} {t : Nat} (hl : s.store.lastMsg = some t) (hm : mainOn s = true)
    (hd : s.store.msgDeferred = true) (ht : t + us 10 ≤ now s) : exec .storeInterruptWindow s = .next (storeMessage s) := by
  change execStoreInterruptWindow s = _
  rw [execStoreInterruptWindow, hl]
  exact if_pos ⟨hm, hd, ht⟩

/-- A due batch is aborted without the store or a version to seal under, and else goes as the paths it changes can be loaded. -/
theorem exec_batchStart_due {s : State} {b : Batch} (hg : s.store.gathering = some b) (hm : mainOn s = true)
    (hd : batchDue s b = true) : exec .batchStart s =
      if !storeUp s then .next (abortGathering s 0x0502)
      else if versionsGone s then .next (abortGathering s 0x0506)
      else match loadPaths (b.changes.map (·.1)) s with
        | (.wait, t) => .next t
        | (.fail x, t) => .next (abortGathering t x)
        | (.have _, t) => .next (startBatch t b) := by
  have hrun : ¬ ((!mainOn s) = true ∨ (!batchDue s b) = true) := by simp [hm, hd]
  change execBatchStart s = _
  rw [execBatchStart, hg]
  exact if_neg hrun

end Sys2Proof.Machine
end

section
/-! CERTIFICATES. Responses, timeouts and interrupt messages of the store, and the start of its batches (R328, R458, R459, R465). -/
namespace Sys2Proof.Machine

/-- Settles O55: each command acts where its guard stands, and what a timeout marks is the request it names. -/
theorem storeRequests : Obligations.StoreRequests := by
  refine ⟨fun s rid status data hm ha => ⟨if_pos ⟨hm, ha⟩, fun hn => ?_⟩, fun s rid a r ha hr hm ht hd => ?_,
    fun s t hl hm hd ht => exec_storeInterruptWindow_due hl hm hd ht,
    fun s b hg hm hd => ⟨fun haway => ?_, fun hup hgone => ?_, fun x t hup hleft hload => ?_⟩⟩
  · exact storeAnswer_of_unknown (s := { s with store := { s.store with respCons := s.store.respCons + 1 } }) hn status data
  · exact ⟨requestTimedOut s rid, exec_storeTimeout_due ha hr hm ht hd, rfl, rfl,
      fun _ hx hid => timedOut_of_mem_requestTimedOut hx hid, length_requestTimedOut s rid⟩
  · rw [exec_batchStart_due hg hm hd, haway]
    rfl
  · rw [exec_batchStart_due hg hm hd, hup, hgone]
    rfl
  · rw [exec_batchStart_due hg hm hd, hup, hleft, hload]
    rfl

end Sys2Proof.Machine
end

section
/-! SUPPORT. Rules for the noise sources and the conditioner: what absorbing groups, finishing a block and the failures of a source write
to the entropy function, and which branch a conditioned block and a write of the mask take (R336 to R346, R361). -/
namespace Sys2Proof.Machine

/-! ## The table of sources -/

theorem sourceOf_setSource (s : State) (n m : Nat) (x : Source) :
    sourceOf (setSource s n x) m = if m = n then x else sourceOf s m := look_put _ _ _ _ _

theorem sourceOf_setSource_same (s : State) (n : Nat) (x : Source) : sourceOf (setSource s n x) n = x := look_put_same _ _ _ _

/-- A source of which noise has been used or discarded, and nothing else happened to it. -/
def NoiseUsed (x y : Source) : Prop := y = { x with taken := y.taken, passed := y.passed }

theorem NoiseUsed.refl (x : Source) : NoiseUsed x x := rfl

theorem NoiseUsed.trans {x y z : Source} (h : NoiseUsed x y) (k : NoiseUsed y z) : NoiseUsed x z := by
  unfold NoiseUsed at *
  rw [k, h]

theorem noiseUsed_testedSource (x : Source) : NoiseUsed x (testedSource x) := rfl

/-! ## The conditioner (R342) -/

/-- What absorbing groups changes: the noise used of the sources, the block in progress, and the turn. -/
structure Absorbed (s t : State) : Prop where
  frame : t = { s with ent := { s.ent with sources := t.ent.sources, progress := t.ent.progress, turn := t.ent.turn } }
  noise : ∀ n, NoiseUsed (sourceOf s n) (sourceOf t n)

theorem Absorbed.refl (s : State) : Absorbed s s := ⟨rfl, fun _ => .refl _⟩

theorem Absorbed.trans {a b c : State} (h : Absorbed a b) (k : Absorbed b c) : Absorbed a c :=
  ⟨by rw [k.frame, h.frame], fun n => (h.noise n).trans (k.noise n)⟩

theorem absorbGroup_absorbed (s : State) : Absorbed s (absorbGroup s) := by
  unfold absorbGroup
  split
  · exact .refl s
  · next m _ =>
    refine ⟨rfl, fun n => ?_⟩
    change NoiseUsed _ (sourceOf (setSource s m _) n)
    rw [sourceOf_setSource]
    split
    · next h => subst h; rfl
    · exact .refl _

theorem absorbGroups_absorbed (k : Nat) (s : State) : Absorbed s (absorbGroups k s) := by
  induction k generalizing s with
  | zero => exact .refl s
  | succ k ih => exact (absorbGroup_absorbed s).trans (ih _)

theorem conditioning_eq_true {s : State} (hst : s.ent.st ≠ .failed) (hn : s.ent.minSources ≤ healthySources s)
    (hb : s.ent.buffer.length < 4) : conditioning s = true := by
  simp [conditioning, hst, hn, hb]

theorem conditioning_of_few {s : State} (h : healthySources s < s.ent.minSources) : conditioning s = false := by
  simp [conditioning, Nat.not_le.mpr h]

theorem conditioning_of_full {s : State} (h : 4 ≤ s.ent.buffer.length) : conditioning s = false := by
  simp [conditioning, Nat.not_lt.mpr h]

theorem finishBlock_frame (s : State) : finishBlock s = { s with ent := (finishBlock s).ent } := by
  unfold finishBlock
  rw [(absorbGroups_absorbed (32 - s.ent.progress.length) s).frame]

/-- With room in the buffer a finished block joins it as the last. -/
theorem buffer_finishBlock {s : State} (h : s.ent.buffer.length < 4) : (finishBlock s).ent.buffer = s.ent.buffer ++
    [sha384 ((absorbGroups (32 - s.ent.progress.length) s).ent.progress.flatMap (·.2))] := by
  have hb : (absorbGroups (32 - s.ent.progress.length) s).ent.buffer = s.ent.buffer := by
    rw [(absorbGroups_absorbed _ s).frame]
  change List.take 4 (_ ++ _) = _
  rw [hb]
  exact List.take_of_length_le (by rw [List.length_append, List.length_singleton]; omega)

theorem blocks_finishBlock (s : State) : (finishBlock s).ent.blocks = (s.ent.blocks + 1) % 2 ^ 64 := by
  have hn : (absorbGroups (32 - s.ent.progress.length) s).ent.blocks = s.ent.blocks := by
    rw [(absorbGroups_absorbed _ s).frame]
  rw [← hn]
  rfl

/-! ## CONDITIONED_BLOCK (R342, R344) -/

theorem exec_conditionedBlock_idle {s : State} (h : conditioning s = false) (a b : Bool) :
    exec (.conditionedBlock a b) s = .next s := by
  change execConditionedBlock a b s = _
  simp [execConditionedBlock, h]

theorem exec_conditionedBlock_tested {s : State} (hm : mainOn s = true) (hc : conditioning s = true) (hk : s.ent.katDue = false)
    (a b : Bool) : exec (.conditionedBlock a b) s = .next (settleEntropy (finishBlock s)) := by
  change execConditionedBlock a b s = _
  simp [execConditionedBlock, hm, hc, hk]

theorem exec_conditionedBlock_failing {s : State} (hm : mainOn s = true) (hc : conditioning s = true) (hk : s.ent.katDue = true)
    {a b : Bool} (hf : (a && b) = false) :
    exec (.conditionedBlock a b) s = .next (entropyFailed (recovered (runKats s a b) .entropy)) := by
  change execConditionedBlock a b s = _
  simp [execConditionedBlock, hm, hc, hk, hf]

/-! ## Failures of a source (R340, R341) -/

theorem OnlyLogged.ent {s t : State} (h : OnlyLogged s t) : t.ent = s.ent := by unfold OnlyLogged at h; rw [h]

theorem ent_sourceFatal (s : State) (n : Nat) (x : Source) : (sourceFatal s n x).ent =
    { s.ent with sources := put s.ent.sources n { x with st := .fatal }, fatalSource := true } :=
  (notifyManager_writeLog_logged _ _ _ _ _).ent

theorem sourceFatal_logged (s : State) (n : Nat) (x : Source) :
    OnlyLogged { s with ent := (sourceFatal s n x).ent } (sourceFatal s n x) := by
  rw [ent_sourceFatal]
  exact notifyManager_writeLog_logged _ _ _ _ _

theorem mgrEvent_sourceFatal (s : State) (n : Nat) (x : Source) : (sourceFatal s n x).irq.mgrEvent.getLsbD 7 = true :=
  mgrEvent_notifyManager _ (by decide)

theorem sourceOf_sourceFatal (s : State) (n : Nat) (x : Source) : sourceOf (sourceFatal s n x) n = { x with st := .fatal } := by
  rw [sourceOf, ent_sourceFatal]
  exact look_put_same _ _ _ _

/-- Before its bits are discarded the block in progress may have absorbed some more of them (log entry 147). -/
theorem conditionedSoFar_cases (s : State) :
    conditionedSoFar s = s ∨ ∃ k, conditionedSoFar s = absorbGroups k { s with drawn := s.drawn + 1 } := by
  unfold conditionedSoFar
  split
  · exact .inr ⟨_, rfl⟩
  · exact .inl rfl

theorem now_conditionedSoFar (s : State) : now (conditionedSoFar s) = now s := by
  rcases conditionedSoFar_cases s with h | ⟨k, h⟩
  · rw [h]
  · rw [h, (absorbGroups_absorbed k _).frame]; rfl

theorem noiseUsed_conditionedSoFar (s : State) (n : Nat) : NoiseUsed (sourceOf s n) (sourceOf (conditionedSoFar s) n) := by
  rcases conditionedSoFar_cases s with h | ⟨k, h⟩
  · rw [h]; exact .refl _
  · rw [h]; exact (absorbGroups_absorbed k { s with drawn := s.drawn + 1 }).noise n

/-- A failing source's bits are discarded with the block in progress, if it holds any of them, or without it. -/
theorem discardSource_cases (s : State) (n : Nat) :
    let t := setSource (conditionedSoFar s) n (testedSource (sourceOf (conditionedSoFar s) n))
    discardSource s n = { t with ent := { t.ent with progress := [] } } ∨
      discardSource s n = t ∧ t.ent.progress.any (fun g => g.1 == n) = false := by
  unfold discardSource
  dsimp only
  split
  · exact .inl rfl
  · next h => exact .inr ⟨rfl, Bool.eq_false_iff.mpr h⟩

theorem now_discardSource (s : State) (n : Nat) : now (discardSource s n) = now s := by
  rw [← now_conditionedSoFar s]
  rcases discardSource_cases s n with h | ⟨h, -⟩ <;> rw [h] <;> rfl

theorem noiseUsed_discardSource (s : State) (n : Nat) : NoiseUsed (sourceOf s n) (sourceOf (discardSource s n) n) := by
  have ht : sourceOf (discardSource s n) n = testedSource (sourceOf (conditionedSoFar s) n) := by
    rcases discardSource_cases s n with h | ⟨h, -⟩ <;> rw [h] <;> exact look_put_same _ _ _ _
  rw [ht]
  exact (noiseUsed_conditionedSoFar s n).trans (noiseUsed_testedSource _)

/-- No group of the failing source stays in the block in progress (R340). -/
theorem progress_discardSource (s : State) (n : Nat) : ∀ g ∈ (discardSource s n).ent.progress, g.1 ≠ n := by
  rcases discardSource_cases s n with h | ⟨h, hnone⟩
  · rw [h]
    exact List.forall_mem_nil _
  · rw [h]
    exact fun g hg he => List.any_eq_false.mp hnone g hg (beq_iff_eq.mpr he)

/-- The TREF times of a source's continuous-test failures within the last second. -/
def recentFailures (s : State) (n : Nat) : List Nat := (sourceOf s n).failTimes.filter (fun t => decide (now s < t + ms 1000))

theorem recentFailures_discardSource (s : State) (n : Nat) : recentFailures (discardSource s n) n = recentFailures s n := by
  rw [recentFailures, now_discardSource, noiseUsed_discardSource s n, ← recentFailures]

/-- A source after a failure of a continuous test, with its failure times brought up to date. -/
def failedSource (s : State) (n : Nat) : Source :=
  { sourceOf s n with failTimes := recentFailures s n ++ [now s], startFails := 0 }

/-- The state that a failure of a continuous test leaves for the entropy state to settle on: below the fourth failure within a
second the source is tested again, at the fourth it is FATAL (R341). -/
def afterFailure (s : State) (n : Nat) : State :=
  if 4 ≤ (failedSource s n).failTimes.length then sourceFatal s n (failedSource s n)
  else setSource s n { failedSource s n with st := .testing, restarts := satInc 8 (failedSource s n).restarts }

theorem continuousFailure_eq (s : State) (n : Nat) : continuousFailure s n = settleEntropy (afterFailure (discardSource s n) n) := rfl

theorem length_failTimes_failedSource (s : State) (n : Nat) :
    (failedSource s n).failTimes.length = (recentFailures s n).length + 1 := List.length_append

theorem afterFailure_of_few {s : State} {n : Nat} (h : (recentFailures s n).length < 3) : afterFailure s n =
    setSource s n { failedSource s n with st := .testing, restarts := satInc 8 (sourceOf s n).restarts } := by
  rw [afterFailure, length_failTimes_failedSource]
  exact if_neg (by omega)

theorem afterFailure_of_fourth {s : State} {n : Nat} (h : 3 ≤ (recentFailures s n).length) :
    afterFailure s n = sourceFatal s n (failedSource s n) := by
  rw [afterFailure, length_failTimes_failedSource]
  exact if_pos (by omega)

theorem progress_afterFailure (s : State) (n : Nat) : (afterFailure s n).ent.progress = s.ent.progress := by
  unfold afterFailure
  split
  · rw [ent_sourceFatal]
  · rfl

/-! ## The tests of a source (R338, R339) -/

theorem exec_startupTestEnd_of_testing {s : State} {n : Nat} (hm : mainOn s = true) (hn : n < 8)
    (ht : (sourceOf s n).st = .testing) (pass : Bool) :
    let x := testedSource (sourceOf s n)
    exec (.entropyStartupTestEnd n pass) s = .next (settleEntropy
      (if pass then setSource s n { x with st := .healthy, startFails := 0 }
      else if 3 ≤ x.startFails + 1 then sourceFatal s n { x with startFails := x.startFails + 1 }
      else setSource s n { x with startFails := x.startFails + 1, restarts := satInc 8 x.restarts })) := by
  have hrun : ¬ ((!mainOn s) = true ∨ 8 ≤ n ∨ (sourceOf s n).st ≠ .testing) := by simp [hm, ht, hn]
  exact if_neg hrun

theorem exec_continuousTest_of_healthy {s : State} {n : Nat} (hm : mainOn s = true) (hn : n < 8)
    (hh : (sourceOf s n).st = .healthy) :
    exec (.repetitionCountFailure n) s =
      .next (continuousFailure (setSource s n { sourceOf s n with rctFails := satInc 8 (sourceOf s n).rctFails }) n) ∧
    exec (.adaptiveProportionFailure n) s =
      .next (continuousFailure (setSource s n { sourceOf s n with aptFails := satInc 8 (sourceOf s n).aptFails }) n) := by
  have hrun : ¬ ((!mainOn s) = true ∨ 8 ≤ n ∨ (sourceOf s n).st ≠ .healthy) := by simp [hm, hh, hn]
  exact ⟨if_neg hrun, if_neg hrun⟩

/-! ## ENT_SRC_MASK (R361) -/

/-- One source as the mask leaves it. -/
def maskSource (s : State) (n : Nat) : State :=
  if s.ent.srcMask.getLsbD n then s else setSource s n { testedSource (sourceOf s n) with st := .off }

theorem maskSources_eq (s : State) : maskSources s = (List.range 8).foldl maskSource s := rfl

theorem maskSource_frame (s : State) (n : Nat) :
    maskSource s n = { s with ent := { s.ent with sources := (maskSource s n).ent.sources } } := by
  unfold maskSource
  split <;> rfl

theorem st_maskSource (s : State) (n m : Nat) : (sourceOf (maskSource s n) m).st =
    if m = n ∧ s.ent.srcMask.getLsbD n = false then .off else (sourceOf s m).st := by
  unfold maskSource
  cases hb : s.ent.srcMask.getLsbD n with
  | true => simp
  | false =>
    rw [if_neg Bool.false_ne_true, sourceOf_setSource]
    by_cases h : m = n <;> simp [h]

theorem foldl_maskSource_frame (l : List Nat) (s : State) :
    l.foldl maskSource s = { s with ent := { s.ent with sources := (l.foldl maskSource s).ent.sources } } := by
  induction l generalizing s with
  | nil => rfl
  | cons n r ih => rw [List.foldl_cons, ih, maskSource_frame]

theorem st_foldl_maskSource (l : List Nat) (s : State) (m : Nat) : (sourceOf (l.foldl maskSource s) m).st =
    if m ∈ l ∧ s.ent.srcMask.getLsbD m = false then .off else (sourceOf s m).st := by
  induction l generalizing s with
  | nil => simp
  | cons n r ih =>
    have hmask : (maskSource s n).ent.srcMask = s.ent.srcMask := by rw [maskSource_frame]
    rw [List.foldl_cons, ih, hmask, st_maskSource]
    by_cases hn : m = n
    · subst hn
      cases s.ent.srcMask.getLsbD m <;> simp
    · simp [hn]

theorem exec_entSrcMaskWrite_of_serves {s : State} (h : PortServes s) (v : W32) : exec (.entSrcMaskWrite v) s = .next (emit
    (if s.ent.maskLocked then { s with glb := { s.glb with lockedWrite := true } }
    else settleEntropy (maskSources { s with ent := { s.ent with srcMask := v.extractLsb' 0 8, maskLocked := true } })) .regOk) := by
  change execEntSrcMaskWrite v s = _
  simp only [execEntSrcMaskWrite, portAccess_of_serves h, regWrite_of_serves h]

end Sys2Proof.Machine
end

section
/-! CERTIFICATES. The noise sources and the smallest number of them (R338 to R341, R345, R361). -/
namespace Sys2Proof.Machine

/-- Settles O29: the conditioner stands idle below the minimum and finishes a block from it on, and the register takes 2 to 8 once. -/
theorem minimumSources : Obligations.MinimumSources := by
  refine ⟨fun s a b h => exec_conditionedBlock_idle (conditioning_of_few h) a b, rfl,
    fun s v h hl => ⟨fun hv => ?_, fun h2 h8 => ?_⟩, fun s a b hm hst hk hb hn => ?_, fun s v h hl => ?_⟩
  · rw [exec_registerWrite_at 0x3104 v h (by decide), writeReg_minSources, hl, if_neg (by decide), if_pos hv]
  · have hv : ¬ (part v 0 4 < 2 ∨ 8 < part v 0 4) := by omega
    rw [exec_registerWrite_at 0x3104 v h (by decide), writeReg_minSources, hl, if_neg (by decide), if_neg hv]
  · refine ⟨finishBlock s, exec_conditionedBlock_tested hm (conditioning_eq_true hst hn hb) hk a b, finishBlock_frame s, ?_⟩
    rw [buffer_finishBlock hb, List.length_append, List.length_singleton]
  · rw [exec_registerWrite_at 0x3104 v h (by decide), writeReg_minSources, if_pos hl]
    rfl

/-- Settles O42: each end of a test takes the branch of its outcome, a continuous failure discards before the source is tested again
or becomes FATAL, and the mask's first write goes over the eight sources one by one. -/
theorem noiseSources : Obligations.NoiseSources := by
  refine ⟨fun s n hm hn ht => ⟨?_, fun hf => ?_, fun hf => ?_⟩, fun s n hm hn hh => exec_continuousTest_of_healthy hm hn hh,
    fun s n => ⟨_, continuousFailure_eq s n, ?_, fun hr => ?_, fun hr => ?_⟩, fun s v h => ⟨fun hl => ?_, fun hl => ?_⟩⟩
  · rw [exec_startupTestEnd_of_testing hm hn ht, if_pos rfl]
  · rw [exec_startupTestEnd_of_testing hm hn ht, if_neg Bool.false_ne_true, if_neg (Nat.not_le.mpr hf)]
  · rw [exec_startupTestEnd_of_testing hm hn ht, if_neg Bool.false_ne_true, if_pos hf]
    exact ⟨_, rfl, by rw [sourceOf_sourceFatal], by rw [ent_sourceFatal], mgrEvent_sourceFatal _ _ _, sourceFatal_logged _ _ _⟩
  · rw [progress_afterFailure]
    exact progress_discardSource s n
  · rw [afterFailure_of_few (recentFailures_discardSource s n ▸ hr), sourceOf_setSource_same, noiseUsed_discardSource s n]
    exact ⟨rfl, rfl⟩
  · rw [afterFailure_of_fourth (recentFailures_discardSource s n ▸ hr)]
    exact ⟨by rw [sourceOf_sourceFatal], by rw [ent_sourceFatal], mgrEvent_sourceFatal _ _ _⟩
  · rw [exec_entSrcMaskWrite_of_serves h, if_pos hl]
    rfl
  · rw [exec_entSrcMaskWrite_of_serves h, hl, if_neg Bool.false_ne_true, maskSources_eq]
    have hframe := foldl_maskSource_frame (List.range 8) { s with ent := { s.ent with srcMask := v.extractLsb' 0 8, maskLocked := true } }
    refine ⟨_, rfl, by rw [hframe], by rw [hframe], by rw [hframe], fun n hn => ?_⟩
    have hbit : (v.extractLsb' 0 8).getLsbD n = v.getLsbD n := by simp [hn]
    rw [st_foldl_maskSource, hbit]
    cases v.getLsbD n
    · exact if_pos ⟨List.mem_range.mpr hn, rfl⟩
    · exact if_neg (fun hno => Bool.noConfusion hno.2)

end Sys2Proof.Machine
end

section
/-! SUPPORT. Rules for the DRBGs: what seeding one takes and leaves, when a slice's is ready, and what running a random opcode
and a reseed of the internal one write (R343, R346, R348, R351 to R357). -/
namespace Sys2Proof.Machine

/-! ## Seeding (R343, R352, R354) -/

theorem drbgOf_setDrbg_same (s : State) (n : Nat) (d : Drbg) : drbgOf (setDrbg s n d) n = d := look_put_same _ _ _ _

theorem drbgOf_setDrbg_other (s : State) {n m : Nat} (d : Drbg) (h : m ≠ n) : drbgOf (setDrbg s n d) m = drbgOf s m :=
  look_put_other _ _ _ h

theorem drbgOf_congr {s t : State} (h : t.ent.drbgs = s.ent.drbgs) (n : Nat) : drbgOf t n = drbgOf s n := by
  rw [drbgOf, h, ← drbgOf]

theorem canSeed_iff (s : State) : canSeed s = true ↔ s.ent.buffer ≠ [] ∧ s.ent.serialNext < s.ent.serialEnd := by
  simp [canSeed]

/-- Seeding takes the oldest block and the next serial, and beside them writes the DRBGs only. -/
theorem seedFrom_frame (s : State) (n : Nat) (extra : Bytes) : seedFrom s n extra =
    { s with ent := { s.ent with
      buffer := s.ent.buffer.drop 1, serialNext := s.ent.serialNext + 1, drbgs := (seedFrom s n extra).ent.drbgs } } := rfl

theorem drbgOf_seedFrom_new {s : State} {n : Nat} (h : (drbgOf s n).st = .uninstantiated) (extra : Bytes) :
    drbgOf (seedFrom s n extra) n =
      { drbgInstantiate (s.ent.buffer.headD []) (personalString s n s.ent.serialNext) with seededAt := now s } := by
  rw [seedFrom, if_pos h]
  exact drbgOf_setDrbg_same _ _ _

theorem drbgOf_seedFrom_again {s : State} {n : Nat} (h : (drbgOf s n).st ≠ .uninstantiated) (extra : Bytes) :
    drbgOf (seedFrom s n extra) n =
      { drbgReseed (drbgOf s n) (s.ent.buffer.headD []) (reseedString extra s.ent.serialNext) with seededAt := now s } := by
  rw [seedFrom, if_neg h]
  exact drbgOf_setDrbg_same _ _ _

/-- A new seed starts the count of generate requests again (R355). -/
theorem reqs_drbgInstantiate (entropy personal : Bytes) : (drbgInstantiate entropy personal).reqs = 0 := rfl

/-! ## Seeding for a slice -/

theorem reseedIfDue_of_not_due {s : State} (h : internalDue s = false) : reseedIfDue s = s := by
  simp [reseedIfDue, h]

theorem reseedIfDue_ent (s : State) : ∃ e, reseedIfDue s = { s with ent := e } := by
  unfold reseedIfDue
  split
  · exact ⟨_, rfl⟩
  · exact ⟨s.ent, rfl⟩

theorem seedInstance_of_canSeed {s : State} (ha : s.ent.st = .available) (hd : internalDue s = false) (hc : canSeed s = true)
    (n : Nat) (extra : Bytes) : seedInstance s n extra = (some (seedFrom s n extra), s) := by
  obtain ⟨hb, hs⟩ := (canSeed_iff s).mp hc
  simp [seedInstance, reseedIfDue_of_not_due hd, ha, hd, hb, Nat.not_le.mpr hs]

/-- Where seeding succeeds it writes the entropy function only. -/
theorem seedInstance_ent {s t u : State} {n : Nat} {extra : Bytes} (h : seedInstance s n extra = (some t, u)) :
    ∃ e, t = { s with ent := e } := by
  obtain ⟨e, he⟩ := reseedIfDue_ent s
  unfold seedInstance at h
  dsimp only at h
  split at h
  · cases h
  · split at h
    · cases h
    · cases h
      rw [he]
      exact ⟨_, rfl⟩

/-- A DRBG waits for its reseed. -/
def markReseeding (s : State) (n : Nat) : State := setDrbg s n { drbgOf s n with st := .reseeding }

/-- An instantiated DRBG that waits makes no seeding of the internal one due. -/
theorem internalDue_markReseeding {s : State} {n : Nat} (hn : (drbgOf s n).st ≠ .uninstantiated) :
    internalDue (markReseeding s n) = internalDue s := by
  unfold internalDue markReseeding
  by_cases h : 256 = n
  · subst h
    rw [drbgOf_setDrbg_same]
    dsimp only
    rw [beq_eq_false_iff_ne.mpr hn]
    rfl
  · rw [drbgOf_setDrbg_other s _ h]
    rfl

/-- A reseed does not depend on whether the DRBG waited for it. -/
theorem drbgOf_seedFrom_markReseeding {s : State} {n : Nat} (hn : (drbgOf s n).st ≠ .uninstantiated) (extra : Bytes) :
    drbgOf (seedFrom (markReseeding s n) n extra) n = drbgOf (seedFrom s n extra) n := by
  have hmark : drbgOf (markReseeding s n) n = { drbgOf s n with st := .reseeding } := drbgOf_setDrbg_same _ _ _
  rw [drbgOf_seedFrom_again (by rw [hmark]; nofun), hmark, drbgOf_seedFrom_again hn]
  rfl

/-! ## Making a slice's DRBG ready (R354 to R357) -/

theorem readyInstance_as_it_is {s : State} {j : Job} (hi : (drbgOf s j.slice).st ≠ .uninstantiated)
    (hw : wantsReseed s j (stepEff j) = false) : readyInstance s j (stepEff j) = (some (s, additionalInput j), s) := by
  rw [readyInstance, if_neg hi, hw]
  rfl

/-- A reseed takes the additional input, and leaves none to the request. -/
theorem readyInstance_reseeded {s : State} {j : Job} (hi : (drbgOf s j.slice).st ≠ .uninstantiated) (ha : s.ent.st = .available)
    (hd : internalDue s = false) (hc : canSeed s = true) (hw : wantsReseed s j (stepEff j) = true) :
    readyInstance s j (stepEff j) =
      (some (seedFrom (markReseeding s j.slice) j.slice (additionalInput j), []), markReseeding s j.slice) := by
  have hseed := seedInstance_of_canSeed (s := markReseeding s j.slice) ha ((internalDue_markReseeding hi).trans hd) hc j.slice
    (additionalInput j)
  unfold additionalInput markReseeding at hseed
  rw [readyInstance, if_neg hi, hw, if_pos rfl, hseed]
  rfl

/-- An instantiation leaves the additional input to the request. -/
theorem readyInstance_instantiated {s : State} {j : Job} (hi : (drbgOf s j.slice).st = .uninstantiated) (ha : s.ent.st = .available)
    (hd : internalDue s = false) (hc : canSeed s = true) (ho : (stepEff j).opcode = 0x0700) :
    readyInstance s j (stepEff j) = (some (seedFrom s j.slice [], additionalInput j), s) := by
  have hfresh : wantsReseed (seedFrom s j.slice []) j (stepEff j) = false := by
    rw [wantsReseed, drbgOf_seedFrom_new hi, ho, reqs_drbgInstantiate]
    simp
  rw [readyInstance, if_pos hi, seedInstance_of_canSeed ha hd hc]
  dsimp only
  rw [hfresh]
  rfl

/-- Making it ready writes the entropy function only. -/
theorem readyInstance_ent {s t u : State} {j : Job} {d : Desc} {extra : Bytes} (h : readyInstance s j d = (some (t, extra), u)) :
    ∃ e, t = { s with ent := e } := by
  unfold readyInstance at h
  dsimp only at h
  split at h
  · split at h
    · cases h
    · next hs =>
      split at h
      · cases h
      · cases h
        exact seedInstance_ent hs
  · split at h
    · split at h
      · cases h
      · next hs =>
        cases h
        obtain ⟨e, he⟩ := seedInstance_ent hs
        exact ⟨e, he⟩
    · cases h
      exact ⟨s.ent, rfl⟩

/-! ## RANDOM, RANDOM_PR and RESEED (R357) -/

/-- A random opcode that stands takes its work; of what making the DRBG ready and the request left, nothing changes after. -/
theorem runOp_random {s t u : State} {op id : Nat} {j : Job} {w : Work} (h : Stands s op id j) (hf : family op = 7)
    (hup : entropyDown s = false) (hw : randomWork s j (stepEff j) = (some (w, t), u)) (ht : ∃ e, t = { s with ent := e }) :
    ∃ v, runOp op id s = .next v ∧ Took v id j w ∧ v.ent = t.ent := by
  have hnow : computeNow s j = takeWork t j (stepEff j) j.loaded w := by
    rw [computeNow, if_pos (h.effOpcode.symm ▸ hf), hup, if_neg Bool.false_ne_true, hw]
  obtain ⟨e, rfl⟩ := ht
  obtain ⟨htook, x, q, -, hq⟩ := takeWork_spec (s := { s with ent := e }) (d := stepEff j) (k := j.loaded) (w := w) h.found
    (jobOf_id h.found) rfl
  exact ⟨_, by rw [runOp_stands h, compute_stands h, hnow], htook, by rw [hq]; rfl⟩

theorem randomWork_output {s t u : State} {j : Job} {d : Desc} {extra : Bytes} (hr : readyInstance s j d = (some (t, extra), u))
    (ho : d.opcode ≠ 0x0702) : ∃ v, randomWork s j d =
      (some (outputAt j 1 (drbgOutput (drbgOf t j.slice) extra d.length),
        setDrbg t j.slice (drbgAfter (drbgOf t j.slice) extra d.length)), v) := by
  rw [randomWork, hr]
  dsimp only
  rw [if_neg ho]
  exact ⟨_, rfl⟩

theorem randomWork_reseed {s t u : State} {j : Job} {d : Desc} {extra : Bytes} (hr : readyInstance s j d = (some (t, extra), u))
    (ho : d.opcode = 0x0702) : randomWork s j d = (some ({}, t), t) := by
  rw [randomWork, hr]
  dsimp only
  rw [if_pos ho]

/-- RANDOM and RANDOM_PR write the output of the DRBG made ready, which moves on by the request. -/
theorem runOp_generate {s t u : State} {op id : Nat} {j : Job} {extra : Bytes} (h : Stands s op id j) (hf : family op = 7)
    (ho : op ≠ 0x0702) (hup : entropyDown s = false) (hr : readyInstance s j (stepEff j) = (some (t, extra), u)) :
    ∃ v, runOp op id s = .next v ∧
      Took v id j (outputAt j 1 (drbgOutput (drbgOf t j.slice) extra (stepEff j).length)) ∧
      drbgOf v j.slice = drbgAfter (drbgOf t j.slice) extra (stepEff j).length := by
  obtain ⟨e, he⟩ := readyInstance_ent hr
  obtain ⟨x, hx⟩ := randomWork_output hr (h.effOpcode.symm ▸ ho)
  obtain ⟨v, hv, htook, hent⟩ := runOp_random h hf hup hx ⟨_, by rw [he]; rfl⟩
  exact ⟨v, hv, htook, (drbgOf_congr (congrArg Entropy.drbgs hent) _).trans (drbgOf_setDrbg_same _ _ _)⟩

theorem runOp_reseed {s t u : State} {id : Nat} {j : Job} {extra : Bytes} (h : Stands s 0x0702 id j) (hup : entropyDown s = false)
    (hr : readyInstance s j (stepEff j) = (some (t, extra), u)) :
    ∃ v, runOp 0x0702 id s = .next v ∧ Took v id j {} ∧ drbgOf v j.slice = drbgOf t j.slice := by
  obtain ⟨v, hv, htook, hent⟩ := runOp_random h rfl hup (randomWork_reseed hr h.effOpcode) (readyInstance_ent hr)
  exact ⟨v, hv, htook, drbgOf_congr (congrArg Entropy.drbgs hent) _⟩

/-! ## INTERNAL_RESEED (R346, R350, R355) -/

theorem internalOpen_of_available {s : State} (hk : s.ent.katDue = false) (ha : s.ent.st = .available) : internalOpen s = true := by
  simp [internalOpen, hk, ha]

/-- In AVAILABLE a reseed that has its block and serial is made, and none stays asked for. -/
theorem reseedInternal_of_canSeed {s : State} (ha : s.ent.st = .available) (hi : (drbgOf s 256).st ≠ .uninstantiated)
    (hc : canSeed s = true) :
    reseedInternal s = { seedFrom s 256 [] with ent := { (seedFrom s 256 []).ent with mustReseed := false } } := by
  have hst : (seedFrom s 256 []).ent.st = .available := by rw [seedFrom_frame]; exact ha
  have hleave : leaveStarting (seedFrom s 256 []) = seedFrom s 256 [] := by rw [leaveStarting, hst]; rfl
  rw [reseedInternal, if_pos hc, hleave]
  dsimp only
  rw [if_neg hi, hst]
  rfl

theorem exec_internalReseed_open {s : State} (hm : mainOn s = true) (hd : internalDue s = true) (ho : internalOpen s = true)
    (hw : (reseedInternal s).pwr.main ≠ .rootWait) : exec .internalReseed s = .next (reseedInternal s) := by
  change execInternalReseed s = _
  simp [execInternalReseed, hm, hd, ho, hw]

end Sys2Proof.Machine
end

section
/-! CERTIFICATES. Conditioned blocks, the reseed of the internal DRBG, and random output (R342 to R357). -/
namespace Sys2Proof.Machine

/-- Settles O43: the conditioner finishes a block, stands idle, or fails its known-answer test; the internal DRBG is seeded from the
oldest block. -/
theorem conditionedBlocks : Obligations.ConditionedBlocks := by
  refine ⟨fun s a b hm hst hn => ⟨fun hb hk => ?_, fun hb => exec_conditionedBlock_idle (conditioning_of_full hb) a b,
    fun hb hk hf => exec_conditionedBlock_failing hm (conditioning_eq_true hst hn hb) hk hf⟩,
    fun s hm hd hk ha hw hi hc => ?_⟩
  · exact ⟨exec_conditionedBlock_tested hm (conditioning_eq_true hst hn hb) hk a b, finishBlock_frame s, rfl, buffer_finishBlock hb,
      blocks_finishBlock s⟩
  · have hreseed := reseedInternal_of_canSeed ha hi hc
    refine ⟨_, exec_internalReseed_open hm hd (internalOpen_of_available hk ha) (by rw [hreseed]; exact hw), ?_⟩
    rw [hreseed]
    exact ⟨rfl, rfl, rfl, rfl, drbgOf_seedFrom_again hi []⟩

/-- Settles O15: what the step writes is what the DRBG made ready generates, and it is made ready as it stands, by a reseed, or by
its instantiation. -/
theorem randomOutput : Obligations.RandomOutput := by
  refine ⟨fun s id j s1 s2 extra hup hr => ⟨fun h => ?_, fun h => ?_, fun h => ?_⟩,
    fun s j hi hw => readyInstance_as_it_is hi hw, fun s j hi ha hd hc hw => ?_, fun s j hi ha hd hc ho => ?_⟩
  · exact runOp_generate h rfl (by decide) hup hr
  · exact runOp_generate h rfl (by decide) hup hr
  · exact runOp_reseed h hup hr
  · refine ⟨_, _, readyInstance_reseeded hi ha hd hc hw, rfl, rfl, rfl, ?_⟩
    rw [drbgOf_seedFrom_markReseeding hi, drbgOf_seedFrom_again hi]
  · exact ⟨_, _, readyInstance_instantiated hi ha hd hc ho, rfl, rfl, rfl, drbgOf_seedFrom_new hi []⟩

end Sys2Proof.Machine
end

section
/-! SUPPORT. Rules for the register window: which slots hold a register, and what a spare register reads and takes (R573). -/
namespace Sys2Proof.Machine

/-- An aligned slot of a span holds a register. -/
theorem holdsReg_of_mem_span {off : Nat} (h : ∃ r ∈ regSpans, r.1 ≤ off ∧ off < r.2) (ha : off % 4 = 0) : holdsReg off = true := by
  obtain ⟨r, hr, h0, h1⟩ := h
  have hs : inSpan off = true := List.any_eq_true.mpr ⟨r, hr, by simp [h0, h1]⟩
  simp [holdsReg, ha, hs]

theorem readReg_isSome {off : Nat} (h : holdsReg off = true) (s : State) (p : Path) : ∃ v, readReg s p off = some v := by
  simp [readReg, h]

/-- What holds of a spare slot holds of the slots of each of the nine gaps (R573). -/
theorem spareSlots_forall {P : Nat → Prop} (h0 : ∀ o ∈ slotsFrom 0x3C 0x60, P o) (h1 : ∀ o ∈ slotsFrom 0x70 0x80, P o)
    (h2 : ∀ o ∈ slotsFrom 0xB8 0xC0, P o) (h3 : ∀ o ∈ slotsFrom 0xC8 0x100, P o) (h4 : ∀ o ∈ slotsFrom 0x118 0x140, P o)
    (h5 : ∀ o ∈ slotsFrom 0x240 0x280, P o) (h6 : ∀ o ∈ slotsFrom 0x3348 0x33A0, P o) (h7 : ∀ o ∈ slotsFrom 0x3434 0x3480, P o)
    (h8 : ∀ o ∈ slotsFrom 0x3518 0x3560, P o) : ∀ o ∈ spareSlots, P o := by
  simp only [spareSlots, List.forall_mem_append]
  exact ⟨⟨⟨⟨⟨⟨⟨⟨h0, h1⟩, h2⟩, h3⟩, h4⟩, h5⟩, h6⟩, h7⟩, h8⟩

theorem forall_of_map_replicate {α : Type} {f : Nat → α} {l : List Nat} {x : α} (h : l.map f = List.replicate l.length x) :
    ∀ o ∈ l, f o = x :=
  List.map_eq_replicate_iff.mp h

/-- A spare register reads zero. -/
theorem readReg_of_spare {off : Nat} (h : off ∈ spareSlots) (s : State) (p : Path) : readReg s p off = some 0 :=
  spareSlots_forall (P := fun o => readReg s p o = some 0) (forall_of_map_replicate rfl) (forall_of_map_replicate rfl)
    (forall_of_map_replicate rfl) (forall_of_map_replicate rfl) (forall_of_map_replicate rfl) (forall_of_map_replicate rfl)
    (forall_of_map_replicate rfl) (forall_of_map_replicate rfl) (forall_of_map_replicate rfl) off h

/-- A spare register ignores writes. -/
theorem writeReg_of_spare {off : Nat} (h : off ∈ spareSlots) (s : State) (v : W32) : writeReg s off v = s :=
  spareSlots_forall (P := fun o => writeReg s o v = s) (forall_of_map_replicate rfl) (forall_of_map_replicate rfl)
    (forall_of_map_replicate rfl) (forall_of_map_replicate rfl) (forall_of_map_replicate rfl) (forall_of_map_replicate rfl)
    (forall_of_map_replicate rfl) (forall_of_map_replicate rfl) (forall_of_map_replicate rfl) off h

/-- No row of the table but REGISTER_WRITE states a write to a spare register. -/
theorem plain_of_spare : ∀ off ∈ spareSlots, (off != 0x88 && holdsReg off && !ownRow off 0) = true := by decide

/-- A vector to the manager leaves the power state. -/
theorem notifyManager_pwr (s : State) (n : Nat) : (notifyManager s n).pwr = s.pwr := by rw [(notifyManager_traffic s n).1]

theorem exec_registerWrite_spare_pair {s : State} {off : Nat} (hm : mainOn s = true) (h : off ∈ spareSlots) (v : W32) :
    exec (.registerWrite ⟨.pair, off⟩ v) s = .next s := by
  have hp := plain_of_spare off h
  simp only [Bool.and_eq_true, bne_iff_ne, Bool.not_eq_true'] at hp
  obtain ⟨⟨hne, hr⟩, ho⟩ := hp
  rw [exec_registerWrite_pair hm hr ((ownRow_eq_zero hne v).trans ho), writeReg_of_spare h]

/-- A ring is refused while a half of the context table's address is unlocked. -/
theorem ringRefused_of_unlocked {s : State} (h : s.glb.rctxLoLocked = false ∨ s.glb.rctxHiLocked = false) (r : Nat) :
    ringRefused s r = true := by
  rcases h with h | h
  · simp [ringRefused, h]
  · simp [ringRefused, h]

theorem exec_ringEnable_refused {s : State} {io : MbxIo} {i : Nat} {q : Req} (h : Starts s 0x0201 i q)
    (hr : ringRefused s q.target = true) : exec (.ringEnable io) s = .next (finishReq s i { code := rWrongState }) := by
  change execRingEnable io s = _
  rw [execRingEnable, runMailbox_of_starts h, if_pos hr]
  rfl

end Sys2Proof.Machine
end

section
/-! CERTIFICATES. The step's command (log entry 9), the reset state and the register window (R573, R574, R580), and the battery
(R527). -/
namespace Sys2Proof.Machine

/-- Settles O1: the step looks at the queue's front alone. -/
theorem stepRunsTheCommand : Obligations.StepRunsTheCommand := fun _ _ _ h => step_of_waiting h

/-- Settles O3: every table is empty at reset, and each listed register is read from the reset values of its fields. -/
theorem resetState : Obligations.ResetState := by
  refine ⟨rfl, rfl, rfl, rfl, rfl, rfl, rfl, fun p => ?_⟩
  cases p with
  | regPort => decide
  | pair => decide

/-- Settles O26: a slot of a span holds a register, and a spare one is read and written as such. -/
theorem registerWindow : Obligations.RegisterWindow := by
  refine ⟨fun s p off h ha => readReg_isSome (holdsReg_of_mem_span h ha) s p,
    fun s p off v h => ⟨readReg_of_spare h s p, fun hs => ?_, fun hm => exec_registerWrite_spare_pair hm h v⟩⟩
  rw [exec_registerWrite_at off v hs (plain_of_spare off h), writeReg_of_spare h]

/-- Settles O46: the unlocked low half ignores an unaligned value, and both ring commands meet the refusal of an unlocked table. -/
theorem ringContextTable : Obligations.RingContextTable := by
  refine ⟨fun s v hs hl hv => ?_, fun s io walk i q hu => ⟨fun h => ?_, fun h => ?_⟩⟩
  · have hp : part v 0 12 ≠ 0 := fun h => hv (BitVec.eq_of_toNat_eq h)
    rw [exec_registerWrite_at 0x30 v hs (by decide), writeReg_rctxLo, hl, if_neg (by decide), if_pos hp]
  · exact exec_ringEnable_refused h (ringRefused_of_unlocked hu _)
  · exact exec_ringResume_refused h (.inl (ringRefused_of_unlocked hu _))

/-- Settles O30: on battery nothing happens, and off it the bit is set before the vector. -/
theorem batteryLow : Obligations.BatteryLow := by
  refine ⟨fun s hb => ?_, fun s hb => if_pos hb⟩
  have he : exec .vbatLow s = .next (if mainOn s then notifyManager { s with pwr := { s.pwr with vbatLow := true } } 13
      else { s with pwr := { s.pwr with vbatLow := true } }) := if_neg (ne_true_of_eq_false hb)
  refine ⟨_, he, ?_⟩
  cases hm : mainOn s with
  | false => exact ⟨rfl, fun h => (nomatch h), .refl _⟩
  | true =>
    have hp := notifyManager_pwr { s with pwr := { s.pwr with vbatLow := true } } 13
    rw [if_pos rfl, hp]
    exact ⟨rfl, fun _ => mgrEvent_notifyManager _ (by decide), (notifyManager_traffic _ 13).1⟩

end Sys2Proof.Machine
end

section
/-! SUPPORT. Rules for supplies and self-tests: what a level's change keeps, what entering level Secure leaves, when a test is due again
(R68, R503, R515 to R519, R526). -/
namespace Sys2Proof.Machine

theorem OnlyLogged.pwr {s t : State} (h : OnlyLogged s t) : t.pwr = s.pwr := by unfold OnlyLogged at h; rw [h]
theorem OnlyTraffic.pwr {s t : State} (h : OnlyTraffic s t) : t.pwr = s.pwr := h.logged.pwr
theorem OnlyTraffic.per {s t : State} (h : OnlyTraffic s t) : t.per = s.per := by unfold OnlyTraffic at h; rw [h]

/-! ## Parts under test (R501, R503) -/

theorem partOf_setPart_same (s : State) (k : Engine) (n : Nat) (x : Part) : partOf (setPart s k n x) k n = x :=
  look_put_same _ _ _ _

/-- A part under its test takes no job, whatever it holds. -/
theorem partFree_underTest (x : Part) : partFree { x with test := .underTest } = false := by simp [partFree, partOut]

/-- The part that a passed test leaves: in service again where it may return, with its fence else (R503). -/
def testPassed (x : Part) : Part :=
  { x with test := .passed, mayReturn := false, fence := if x.mayReturn then .inService else x.fence }

/-- The part that a failed test leaves (R545). -/
def testFailed (x : Part) : Part := { x with test := .failed, mayReturn := false, fence := .failed }

/-- The state in which a failed part is reported. -/
def partTestFailed (s : State) (k : Engine) (n : Nat) : State :=
  { setPart s k n (testFailed (partOf s k n)) with
    pwr := { s.pwr with bstState := 0, bstPartFailed := true, bstFenced := satInc 32 s.pwr.bstFenced } }

theorem exec_partTestStart {s : State} {k : Engine} {n : Nat} (hs : serving s = true) (he : s.pwr.bstEnable = true)
    (hr : rotates k = true) (hn : n < engCount k) (ho : partOut (partOf s k n) = false) :
    exec (.partTestStart k n) s =
      if s.pwr.level ≠ .full ∨ !testRange s then
        .next { s with pwr := { s.pwr with bstState := 3, bstDeferred := true, bstDefer := satInc 32 s.pwr.bstDefer } }
      else .next { setPart s k n { partOf s k n with test := .underTest } with pwr := { s.pwr with bstState := 2 } } := by
  have hc : ¬ (!serving s ∨ !s.pwr.bstEnable ∨ !rotates k ∨ engCount k ≤ n ∨ partOut (partOf s k n)) := by
    simp [hs, he, hr, ho, hn]
  exact if_neg hc

theorem exec_partTestEnd {s : State} {k : Engine} {n : Nat} (hm : mainOn s = true) (ht : (partOf s k n).test = .underTest)
    (hb : (partOf s k n).busy = none) (ho : (partOf s k n).own = false) (pass : Bool) :
    exec (.partTestEnd k n pass) s =
      if pass then .next { setPart s k n (testPassed (partOf s k n)) with pwr := { s.pwr with bstState := 0 } }
      else .next (storeGone (sweepKind (notifyManager (writeLog (partTestFailed s k n) 0x0009 0xFFFF
        (leBytes 1 (engCode k) ++ leBytes 1 n)) 8) k)) := by
  have hc : ¬ (!mainOn s ∨ (partOf s k n).test ≠ .underTest ∨ (partOf s k n).busy.isSome ∨ (partOf s k n).own) := by
    simp [hm, ht, hb, ho]
  exact if_neg hc

/-! ## Self-tests of monitors and light sensors (R519, R526) -/

/-- A test just made is due again only after 10 s. -/
theorem testDue_put_now (s t : State) (h : now t = now s) (a : Tbl Nat) (n : Nat) : testDue t (put a n (now s)) n = false := by
  simp [testDue, look?_put, h, ms]

/-- Bits of a monitor register after one of them is set or cleared. -/
theorem monTest_getLsbD (bits : BitVec 4) (n i : Nat) (hi : i < 4) (pass : Bool) :
    (if pass then bits ||| BitVec.ofNat 4 (2 ^ n) else bits &&& ~~~BitVec.ofNat 4 (2 ^ n)).getLsbD i =
      if i = n then pass else bits.getLsbD i := by
  have hb : (BitVec.ofNat 4 (2 ^ n)).getLsbD i = decide (n = i) := by
    rw [BitVec.getLsbD_ofNat, Nat.testBit_two_pow, decide_eq_true hi, Bool.true_and]
  have ho : (if pass then bits ||| BitVec.ofNat 4 (2 ^ n) else bits &&& ~~~BitVec.ofNat 4 (2 ^ n)).getLsbD i =
      if pass then bits.getLsbD i || decide (n = i) else bits.getLsbD i && !decide (n = i) := by
    cases pass
    · rw [if_neg Bool.false_ne_true, if_neg Bool.false_ne_true, BitVec.getLsbD_and, BitVec.getLsbD_not, hb, decide_eq_true hi,
        Bool.true_and]
    · rw [if_pos rfl, if_pos rfl, BitVec.getLsbD_or, hb]
  rw [ho]
  by_cases h : i = n
  · subst h; cases pass <;> simp
  · simp [h, Ne.symm h]

theorem railBit_lt (rail : Rail) : railBit rail < 4 := by cases rail <;> decide

/-- The power state after a monitor's self-test (R519). -/
def monitorTested (s : State) (n : Nat) (pass : Bool) : Power :=
  { s.pwr with
    monTestAt := put s.pwr.monTestAt n (now s)
    monTest := if pass then s.pwr.monTest ||| BitVec.ofNat 4 (2 ^ n) else s.pwr.monTest &&& ~~~BitVec.ofNat 4 (2 ^ n)
    monFail := s.pwr.monFail || !pass }

theorem exec_monitorSelfTest {s : State} {rail : Rail} (hs : serving s = true) (hd : testDue s s.pwr.monTestAt (railBit rail) = true)
    (pass : Bool) : exec (.monitorSelfTest rail pass) s =
      .next (if pass then { s with pwr := monitorTested s (railBit rail) pass }
        else notifyManager (writeLog { s with pwr := monitorTested s (railBit rail) pass } 0x0009 0xFFFF (leBytes 1 (railBit rail))) 12) := by
  have hc : ¬ (!serving s ∨ !testDue s s.pwr.monTestAt (railBit rail)) := by simp [hs, hd]
  exact if_neg hc

/-- The power state after a failed test of a light sensor that leaves it with `k` failures in a row (R526). -/
def lightTestFailed (s : State) (n k : Nat) : Power :=
  { s.pwr with
    lightTestAt := put s.pwr.lightTestAt n (now s), lightTries := put s.pwr.lightTries n k
    lightPass := s.pwr.lightPass.filter (· != n), sensorFail := true }

theorem exec_lightSensorSelfTest {s : State} {n : Nat} (hn : n < 96) (hb : s.pwr.onBattery = false) (hm : mainOn s = true)
    (hd : testDue s s.pwr.lightTestAt n = true) (pass : Bool) : exec (.lightSensorSelfTest n pass) s =
      if pass then .next { s with pwr := { s.pwr with
        lightTestAt := put s.pwr.lightTestAt n (now s), lightTries := put s.pwr.lightTries n 0
        lightPass := s.pwr.lightPass.filter (· != n) ++ [n] } }
      else if look s.pwr.lightTries n 0 + 1 = 3 then
        .next (classA (latch { s with pwr := { lightTestFailed s n (look s.pwr.lightTries n 0 + 1) with
          lightFail := s.pwr.lightFail.filter (· != n) ++ [n] } } 3 n) 3)
      else .next { s with pwr := lightTestFailed s n (look s.pwr.lightTries n 0 + 1) } := by
  have hc : ¬ (96 ≤ n ∨ s.pwr.onBattery ∨ !mainOn s ∨ !testDue s s.pwr.lightTestAt n) := by simp [hb, hm, hd, hn]
  exact if_neg hc

/-! ## Levels (R68, R514 to R518) -/

theorem setLevel_spec (s : State) (l : Level) : (setLevel s l).pwr.level = l ∧ (setLevel s l).pwr.levelChanged = true ∧
    (setLevel s l).irq.mgrEvent.getLsbD 12 = true ∧ (setLevel s l).pwr.vdd = s.pwr.vdd ∧ (setLevel s l).pwr.vddm = s.pwr.vddm ∧
    (l = .trim → (setLevel s l).pwr.trimCount = satInc 32 s.pwr.trimCount) ∧
    OnlyTraffic { s with pwr := (setLevel s l).pwr } (setLevel s l) := by
  obtain ⟨p, hp, hl, hc, hv, hw, ht⟩ : ∃ p : Power, setLevel s l = notifyManager { s with pwr := p } 12 ∧ p.level = l ∧
      p.levelChanged = true ∧ p.vdd = s.pwr.vdd ∧ p.vddm = s.pwr.vddm ∧ (l = .trim → p.trimCount = satInc 32 s.pwr.trimCount) := by
    refine ⟨_, rfl, rfl, rfl, ?_⟩
    cases l <;> (dsimp only; split <;> split <;> simp)
  have hk : (setLevel s l).pwr = p := by rw [hp, notifyManager_pwr]
  rw [hk, hp]
  exact ⟨hl, hc, mgrEvent_notifyManager _ (by decide), hv, hw, ht, (notifyManager_traffic _ 12).1⟩

theorem finalCommit_committed (s : State) : OnlyCommitted s (finalCommit s) := by
  unfold finalCommit
  split
  · exact commitHead_committed s
  · dsimp only
    split
    · exact (draw_committed s).trans (commitHead_committed _)
    · exact draw_committed s

/-- With no record in progress there is nothing to complete. -/
theorem finalCommit_per_of_idle {s : State} (h : s.per.queue = []) : (finalCommit s).per = s.per := by
  have hh : ∀ t : State, t.per = s.per → (commitHead t).per = s.per := fun t ht => by rw [commitHead, ht, h]; exact ht
  unfold finalCommit
  split
  · exact hh s rfl
  · dsimp only
    split
    · exact hh _ rfl
    · rfl

/-- Level Secure: the main domain is held and zeroised, and what was committed stays as it was (R68, R520, R539). -/
theorem enterSecure_spec (s : State) : (enterSecure s).pwr = { s.pwr with main := .secureHold, level := .secure, coldNext := true } ∧
    (enterSecure s).keys.slots = [] ∧ (enterSecure s).keys.rk = none ∧ (enterSecure s).links = [] ∧
    (s.per.queue = [] → (enterSecure s).per.ledger = s.per.ledger ∧ (enterSecure s).per.counters = s.per.counters) := by
  have hp := (finalCommit_committed s).pwr
  have hq : s.per.queue = [] → (finalCommit s).per = s.per := finalCommit_per_of_idle
  unfold enterSecure
  generalize finalCommit s = u at hp hq
  dsimp only
  rw [holdBoundary_pwr, holdBoundary_per, holdBoundary_keys, latch_eq]
  refine ⟨by rw [← hp]; rfl, rfl, rfl, holdBoundary_links _, fun h => ?_⟩
  rw [← hq h]
  exact ⟨rfl, rfl⟩

theorem beyondMaximum_of_le {vdd vddm : Nat} (h : vdd ≤ 1000) (k : vddm ≤ 2000) : beyondMaximum vdd vddm 0 0 = false := by
  simp [beyondMaximum, h, k]

theorem exec_sheddingLevelDown {s : State} {vdd vddm : Nat} (hm : mainOn s = true) (h : vdd ≤ 1000) (k : vddm ≤ 2000)
    (hl : levelCode s.pwr.level < levelCode (levelBelow vdd vddm)) : exec (.sheddingLevelDown vdd vddm) s =
      if levelBelow vdd vddm = .secure then .next (enterSecure (setRails s vdd vddm))
      else .next (setLevel (setRails s vdd vddm) (levelBelow vdd vddm)) := by
  have hc : ¬ (!mainOn (setRails s vdd vddm) ∨ levelCode (levelBelow vdd vddm) ≤ levelCode (setRails s vdd vddm).pwr.level) := by
    have hn : mainOn (setRails s vdd vddm) = true := hm
    have hv : (setRails s vdd vddm).pwr.level = s.pwr.level := rfl
    simp [hn, hv, hl]
  change execSheddingLevelDown vdd vddm s = _
  rw [execSheddingLevelDown, beyondMaximum_of_le h k, if_neg Bool.false_ne_true, if_neg hc]

theorem exec_sheddingLevelUp {s : State} {vdd vddm : Nat} (hm : mainOn s = true) (h : vdd ≤ 1000) (k : vddm ≤ 2000)
    (hl : levelCode (levelAbove vdd) < levelCode s.pwr.level) :
    exec (.sheddingLevelUp vdd vddm) s = .next (setLevel (setRails s vdd vddm) (levelAbove vdd)) := by
  have hc : ¬ (!mainOn (setRails s vdd vddm) ∨ levelCode (setRails s vdd vddm).pwr.level ≤ levelCode (levelAbove vdd)) := by
    have hn : mainOn (setRails s vdd vddm) = true := hm
    have hv : (setRails s vdd vddm).pwr.level = s.pwr.level := rfl
    simp [hn, hv, hl]
  change execSheddingLevelUp vdd vddm s = _
  rw [execSheddingLevelUp, beyondMaximum_of_le h k, if_neg Bool.false_ne_true, if_neg hc]

/-! ## Latches (R530) -/

/-- An entry of kind 5 written anywhere in the latches is found again. -/
theorem secureLatched_of_put {s : State} {used : Tbl Latch} {i : Nat} {v : Latch} (h : s.per.latches = put used i v) (hv : v.kind = 5) :
    secureLatched s = true := by
  have hl : look (put used i v) i {} = v := look_put_same _ _ _ _
  have hd : look (put used i v) i {} ≠ {} := by
    rw [hl]
    intro he
    rw [he] at hv
    exact absurd hv (by decide)
  have hm := look_mem hd
  rw [hl] at hm
  exact List.any_eq_true.mpr ⟨(i, v), h ▸ hm, by simp [hv]⟩

/-- With an entry free the fall to level Secure has an entry of its own. -/
theorem secureLatched_latch {s : State} (h : ∃ i, i < 16 ∧ (look s.per.latches i {}).kind = 0) : secureLatched (latch s 5 0) = true := by
  obtain ⟨i, hi, hz⟩ := h
  rw [latch]
  dsimp only
  split
  case h_1 e he =>
    have hk := List.find?_some he
    simp only [Bool.and_eq_true, beq_iff_eq] at hk
    exact secureLatched_of_put rfl hk.1
  case h_2 =>
    split
    case h_1 => exact secureLatched_of_put rfl rfl
    case h_2 hn =>
      have := List.find?_eq_none.mp hn i (List.mem_range.mpr hi)
      exact absurd hz (by simpa using this)

/-- Each level has its range of VDD and VDDM (R515, R516). -/
theorem levelBelow_cases (vdd vddm : Nat) :
    ((vdd < 640 ∨ vddm < 1620) ∧ levelBelow vdd vddm = .secure) ∨
    ((640 ≤ vdd ∧ 1620 ≤ vddm ∧ vdd < 670) ∧ levelBelow vdd vddm = .finish) ∨
    ((670 ≤ vdd ∧ 1620 ≤ vddm ∧ vdd < 700) ∧ levelBelow vdd vddm = .essential) ∨
    ((700 ≤ vdd ∧ 1620 ≤ vddm ∧ vdd < 720) ∧ levelBelow vdd vddm = .trim) ∨
    ((720 ≤ vdd ∧ 1620 ≤ vddm) ∧ levelBelow vdd vddm = .full) := by
  unfold levelBelow
  by_cases h0 : vdd < 640 ∨ vddm < 1620
  · exact .inl ⟨h0, if_pos h0⟩
  rw [if_neg h0]
  by_cases h1 : vdd < 670
  · exact .inr (.inl ⟨by omega, if_pos h1⟩)
  rw [if_neg h1]
  by_cases h2 : vdd < 700
  · exact .inr (.inr (.inl ⟨by omega, if_pos h2⟩))
  rw [if_neg h2]
  by_cases h3 : vdd < 720
  · exact .inr (.inr (.inr (.inl ⟨by omega, if_pos h3⟩)))
  · exact .inr (.inr (.inr (.inr ⟨by omega, if_neg h3⟩)))

end Sys2Proof.Machine
end

section
/-! CERTIFICATES. Power and self-tests: the shedding levels (R68, R515, R516, R539), monitors and light sensors (R519, R526), and the
parts of the rotation (R503, R545). -/
namespace Sys2Proof.Machine

/-- Settles O38: the start of a part's test is deferred or fences the part, and its end writes what the test says. -/
theorem partTests : Obligations.PartTests := by
  refine ⟨fun s k n hs he hr hn ho => ⟨fun h => ?_, fun hl ht => ?_⟩, fun s k n hm ht hb ho => ⟨?_, ?_⟩⟩
  · have hc : s.pwr.level ≠ .full ∨ (!testRange s) = true := h.imp_right (by simp)
    exact ⟨_, (exec_partTestStart hs he hr hn ho).trans (if_pos hc), rfl, rfl, rfl⟩
  · have hc : ¬ (s.pwr.level ≠ .full ∨ (!testRange s) = true) := by simp [hl, ht]
    refine ⟨_, (exec_partTestStart hs he hr hn ho).trans (if_neg hc), ?_⟩
    have hp : partOf { setPart s k n { partOf s k n with test := .underTest } with pwr := { s.pwr with bstState := 2 } } k n =
        { partOf s k n with test := .underTest } := partOf_setPart_same s k n _
    rw [hp]
    exact ⟨rfl, partFree_underTest _, rfl, rfl⟩
  · refine ⟨_, exec_partTestEnd hm ht hb ho true, ?_⟩
    have hp : partOf { setPart s k n (testPassed (partOf s k n)) with pwr := { s.pwr with bstState := 0 } } k n =
        testPassed (partOf s k n) := partOf_setPart_same s k n _
    rw [hp]
    exact ⟨rfl, rfl, rfl⟩
  · refine ⟨_, exec_partTestEnd hm ht hb ho false, ?_⟩
    have hl := notifyManager_writeLog_logged (partTestFailed s k n) 0x0009 0xFFFF (leBytes 1 (engCode k) ++ leBytes 1 n) 8
    have hp : partOf (partTestFailed s k n) k n = testFailed (partOf s k n) := partOf_setPart_same s k n _
    rw [partOf_congr hl.sched, hp, hl.pwr, hl.sched]
    exact ⟨rfl, rfl, rfl, mgrEvent_notifyManager _ (by decide), hl⟩

/-- Settles O33: a monitor's bit takes its result; a light sensor's count of failures decides about the alarm. -/
theorem monitorTests : Obligations.MonitorTests := by
  refine ⟨fun s rail pass hs hd => ⟨_, exec_monitorSelfTest hs hd pass, ?_⟩, fun s n hn hb hm hd => ⟨?_, fun h => ?_, fun h => ?_⟩⟩
  · have hbit := fun i hi => monTest_getLsbD s.pwr.monTest (railBit rail) i hi pass
    have hset : (monitorTested s (railBit rail) pass).monTest.getLsbD (railBit rail) = pass :=
      (hbit _ (railBit_lt rail)).trans (if_pos rfl)
    have hkept : ∀ i, i < 4 → i ≠ railBit rail →
        (monitorTested s (railBit rail) pass).monTest.getLsbD i = s.pwr.monTest.getLsbD i :=
      fun i hi hne => (hbit i hi).trans (if_neg hne)
    cases pass with
    | true =>
      exact ⟨hset, hkept, rfl, testDue_put_now s _ rfl _ _, fun h => (nomatch h), fun _ => rfl, .refl _⟩
    | false =>
      have hl := notifyManager_writeLog_logged { s with pwr := monitorTested s (railBit rail) false } 0x0009 0xFFFF
        (leBytes 1 (railBit rail)) 12
      have hnow := (congrArg State.clock (show _ = _ from hl))
      rw [if_neg Bool.false_ne_true, hl.pwr]
      exact ⟨hset, hkept, rfl, testDue_put_now s _ (congrArg Clock.now hnow) _ _, fun _ => mgrEvent_notifyManager _ (by decide),
        fun h => (nomatch h), hl⟩
  · exact ⟨_, exec_lightSensorSelfTest hn hb hm hd true, rfl, by simp, look_put_same _ _ _ _⟩
  · have hne : ¬ look s.pwr.lightTries n 0 + 1 = 3 := by omega
    exact ⟨_, (exec_lightSensorSelfTest hn hb hm hd false).trans (if_neg hne), rfl, rfl, look_put_same _ _ _ _⟩
  · have he : look s.pwr.lightTries n 0 + 1 = 3 := by omega
    exact ⟨_, (exec_lightSensorSelfTest hn hb hm hd false).trans (if_pos he), rfl, by simp, rfl⟩

/-- Settles O32: the thresholds by cases, a level's change by `setLevel_spec`, level Secure by `enterSecure_spec`. -/
theorem sheddingLevels : Obligations.SheddingLevels := by
  refine ⟨fun vdd vddm => ?_, fun vdd vddm hm hv => ?_, fun s vdd vddm hm hv hw hn hl => ?_, fun s vdd vddm hm hv hw hb hl => ?_,
    fun s vdd vddm hm hv hw hl => ?_, fun s hg hm => ?_, fun s hg hm => ?_⟩
  · rcases levelBelow_cases vdd vddm with ⟨h, he⟩ | ⟨h, he⟩ | ⟨h, he⟩ | ⟨h, he⟩ | ⟨h, he⟩
    all_goals
      simp only [he, reduceCtorEq, true_iff, false_iff]
      omega
  · rcases levelBelow_cases vdd vddm with ⟨h, he⟩ | ⟨h, he⟩ | ⟨h, he⟩ | ⟨h, he⟩ | ⟨h, he⟩
    all_goals
      simp only [he, reduceCtorEq, true_iff, false_iff]
      omega
  · obtain ⟨h0, h1, h2, h3, h4, h5, h6⟩ := setLevel_spec (setRails s vdd vddm) (levelBelow vdd vddm)
    exact ⟨_, (exec_sheddingLevelDown hm hv hw hl).trans (if_neg hn), h0, h1, h2, h3, h4, h5, h6⟩
  · obtain ⟨hp, hs, hr, hk, hq⟩ := enterSecure_spec (setRails s vdd vddm)
    refine ⟨_, (exec_sheddingLevelDown hm hv hw (by rw [hb]; exact hl)).trans (if_pos hb), ?_⟩
    rw [hp]
    exact ⟨rfl, rfl, rfl, hs, hr, hk, hq⟩
  · obtain ⟨h0, h1, h2, -, -, -, h6⟩ := setLevel_spec (setRails s vdd vddm) (levelAbove vdd)
    exact ⟨_, exec_sheddingLevelUp hm hv hw hl, h0, h1, h2, h6⟩
  · obtain ⟨hp, hs, hr, hk, hq⟩ := enterSecure_spec { s with pwr := { s.pwr with pwrGood := false } }
    have he : exec .pwrGoodFall s = .next (enterSecure { s with pwr := { s.pwr with pwrGood := false } }) := by
      change execPwrGoodFall s = _
      have hn : mainOn { s with pwr := { s.pwr with pwrGood := false } } = true := hm
      rw [execPwrGoodFall, hg]
      exact if_pos hn
    refine ⟨_, he, ?_⟩
    rw [hp]
    exact ⟨rfl, rfl, rfl, hs, hr, hq⟩
  · have he : exec .pwrGoodFall s = .next { latch { s with pwr := { s.pwr with pwrGood := false } } 5 0 with
        pwr := { s.pwr with pwrGood := false, coldNext := true } } := by
      change execPwrGoodFall s = _
      have hn : ¬ mainOn { s with pwr := { s.pwr with pwrGood := false } } = true := ne_true_of_eq_false hm
      rw [execPwrGoodFall, hg]
      exact if_neg hn
    refine ⟨_, he, rfl, rfl, fun hf => ?_, ?_⟩
    · exact secureLatched_latch (s := { s with pwr := { s.pwr with pwrGood := false } }) hf
    · rw [latch_eq]

end Sys2Proof.Machine
end

section
/-! SUPPORT. Rules for core-wide faults and the pair's restarts: what ends a service in SAFE, what a restart writes, and where a trap's
frame goes (R406, R474 to R480, R547, R548). -/
namespace Sys2Proof.Machine

/-- Traffic leaves the pair, the messages over the boundary, power, persistent state and keys. -/
theorem OnlyTraffic.fields {s t : State} (h : OnlyTraffic s t) :
    t.mgmt = s.mgmt ∧ t.outbox = s.outbox ∧ t.pwr = s.pwr ∧ t.per = s.per ∧ t.keys = s.keys := by
  unfold OnlyTraffic at h
  rw [h]
  exact ⟨rfl, rfl, rfl, rfl, rfl⟩

/-! ## Past the start (R406, R506) -/

theorem inStart_of_pastStart {s : State} (h : pastStart s = true) : inStart s = false := by
  unfold pastStart at h
  unfold inStart
  cases hm : s.pwr.main <;> simp_all

theorem mainOn_of_pastStart {s : State} (h : pastStart s = true) : mainOn s = true := by
  unfold pastStart at h
  unfold mainOn
  cases hm : s.pwr.main <;> simp_all

theorem inStart_congr {s t : State} (h : t.pwr = s.pwr) : inStart t = inStart s := by unfold inStart; rw [h]

/-- Past the start SAFE is the lifecycle's and the domain's, and nothing else. -/
theorem enterSafe_of_running {s : State} (h : inStart s = false) (hl : s.keys.lifecycle ≠ .retired) :
    enterSafe s = { s with pwr := { s.pwr with main := .safe }, keys := { s.keys with lifecycle := .safe } } := by
  unfold enterSafe
  rw [h, if_neg Bool.false_ne_true]
  exact if_neg hl

theorem enterSafe_of_retired {s : State} (h : inStart s = false) (hl : s.keys.lifecycle = .retired) : enterSafe s = s := by
  unfold enterSafe
  rw [h, if_neg Bool.false_ne_true]
  exact if_pos hl

/-- Whatever the state, SAFE leaves the pair, the messages over the boundary and the parts that recover. -/
theorem enterSafe_pair (s : State) : (enterSafe s).mgmt = s.mgmt ∧ (enterSafe s).outbox = s.outbox ∧
    (enterSafe s).pwr.recovering = s.pwr.recovering := by
  unfold enterSafe
  dsimp only
  split <;> split <;> exact ⟨rfl, rfl, rfl⟩

/-- Past the start SAFE leaves interrupts, persistent state and key slots. -/
theorem enterSafe_running_kept {s : State} (h : inStart s = false) : (enterSafe s).irq = s.irq ∧ (enterSafe s).per = s.per ∧
    (enterSafe s).keys.slots = s.keys.slots := by
  by_cases hl : s.keys.lifecycle = .retired
  · rw [enterSafe_of_retired h hl]; exact ⟨rfl, rfl, rfl⟩
  · rw [enterSafe_of_running h hl]; exact ⟨rfl, rfl, rfl⟩

/-! ## Faults of core-wide parts (R547, R548) -/

/-- The state in which a first fault is recovered. -/
def recoveringFrom (s : State) (p : CorePart) : State := { s with pwr := { s.pwr with recovering := [p] } }

theorem coreFault_first {s : State} (h : s.pwr.recovering = []) (p : CorePart) (f : State → State) :
    coreFault s p f = f (recoveringFrom s p) := if_pos h

theorem coreFault_second {s : State} (h : s.pwr.recovering ≠ []) (p : CorePart) (f : State → State) :
    coreFault s p f = enterSafe s := if_neg h

theorem exec_coreWidePartFault_second {s : State} {p : CorePart} (hp : pastStart s = true) (h : s.pwr.recovering ≠ [])
    (hl : s.keys.lifecycle ≠ .retired) : exec (.coreWidePartFault p) s =
      .next { s with pwr := { s.pwr with main := .safe }, keys := { s.keys with lifecycle := .safe } } := by
  change execCoreWidePartFault p s = _
  rw [execCoreWidePartFault, hp, coreFault_second h, enterSafe_of_running (inStart_of_pastStart hp) hl]
  rfl

/-- What a core-wide part does about its first fault. -/
def corePartFault (p : CorePart) (s : State) : State :=
  match p with
  | .keyStore => keyStoreFault s
  | .ledger => ledgerFault s
  | .entropy => entropyFault s
  | .management => managementFault s
  | .boundary k => boundaryFault s k

theorem exec_coreWidePartFault_first {s : State} {p : CorePart} (hp : pastStart s = true) (h : s.pwr.recovering = []) :
    exec (.coreWidePartFault p) s = .next (corePartFault p (recoveringFrom s p)) := by
  change execCoreWidePartFault p s = _
  rw [execCoreWidePartFault, hp, coreFault_first h]
  cases p <;> rfl

theorem ledgerFault_recoveringFrom (s : State) : ledgerFault (recoveringFrom s .ledger) =
    { s with pwr := { s.pwr with recovering := if s.per.queue = [] then [] else [.ledger] } } := by
  unfold ledgerFault
  by_cases h : s.per.queue = []
  · rw [if_pos (show (recoveringFrom s .ledger).per.queue = [] from h), if_pos h]
    rfl
  · rw [if_neg (show ¬ (recoveringFrom s .ledger).per.queue = [] from h), if_neg h]
    rfl

theorem boundaryFault_port (s : State) {k : Nat} (h : k < 16) : boundaryFault s (some k) =
    recovered (rerunReads (fencePort s k (fun q => { q with datapathFault := true })) k) (.boundary (some k)) := by
  unfold boundaryFault
  dsimp only
  rw [if_pos h]

/-! ## Restarts of the pair (R477 to R480) -/

/-- The starts of restarts that count for R479: those of the last 60 s, and this one. -/
def restartTimesNow (s : State) : List Nat := s.mgmt.restartTimes.filter (fun t => decide (now s < t + 60 * ms 1000)) ++ [now s]

/-- The pair as a restart leaves it: its trap's record, its count, and no memory. -/
def restartedMgmt (s : State) (kind : Nat) (cause : Byte) (pc sp : W64) : Mgmt :=
  { s.mgmt with
    st := .restarting, trapKind := kind, trapInterrupt := cause.getLsbD 7, trapCause := cause.extractLsb' 0 7, trapPc := pc
    trapSp := sp, restartCount := satInc 32 s.mgmt.restartCount, restartTimes := restartTimesNow s, restartBegan := now s
    keypath := false, requests := s.mgmt.requests.map markRepeated, mem := [], pmp := [] }

/-- The end of a write lock that the pair held (R478). -/
def endWriteLock (s : State) : State := if s.per.writeLock then { revoke s .writeLock with per := { s.per with writeLock := false } } else s

/-- The end of a measurement that the pair held (R478). -/
def endPairMeasurement (s : State) : State := if s.mdp.st ≠ .idle ∧ s.mdp.owner = 0x10 then { s with mdp := clearPort s.mdp } else s

theorem endWriteLock_eq (s : State) :
    endWriteLock s = { s with sched := (endWriteLock s).sched, per := { s.per with writeLock := false } } := by
  unfold endWriteLock
  cases hl : s.per.writeLock with
  | true => rfl
  | false =>
    have hp : { s.per with writeLock := false } = s.per := by rw [← hl]
    rw [hp]
    rfl

theorem endPairMeasurement_eq (s : State) : endPairMeasurement s = { s with mdp := (endPairMeasurement s).mdp } := by
  unfold endPairMeasurement
  split <;> rfl

/-- What a restart writes before its vector: the pair, the write lock it ends, and a measurement port that the pair held. -/
def restartWrites (s : State) (kind : Nat) (cause : Byte) (pc sp : W64) : State :=
  endPairMeasurement (endWriteLock { s with mgmt := restartedMgmt s kind cause pc sp })

theorem restartWrites_spec (s : State) (kind : Nat) (cause : Byte) (pc sp : W64) :
    (restartWrites s kind cause pc sp).mgmt = restartedMgmt s kind cause pc sp ∧
    (restartWrites s kind cause pc sp).outbox = s.outbox ∧ (restartWrites s kind cause pc sp).pwr = s.pwr ∧
    (restartWrites s kind cause pc sp).per = { s.per with writeLock := false } ∧
    (restartWrites s kind cause pc sp).keys = s.keys := by
  unfold restartWrites
  rw [endPairMeasurement_eq, endWriteLock_eq]
  exact ⟨rfl, rfl, rfl, rfl, rfl⟩

/-- A restart is its writes and its vector; the fourth within 60 s ends in SAFE besides. -/
theorem restartPair_eq (s : State) (kind : Nat) (cause : Byte) (pc sp : W64) : restartPair s kind cause pc sp =
    if 4 ≤ (restartTimesNow s).length then
      { enterSafe (notifyManager (restartWrites s kind cause pc sp) 3) with
        pwr := { (enterSafe (notifyManager (restartWrites s kind cause pc sp) 3)).pwr with startFail := 0x0C } }
    else notifyManager (restartWrites s kind cause pc sp) 3 := by
  unfold restartPair restartWrites endPairMeasurement endWriteLock wipePair restartedMgmt restartTimesNow
  rfl

/-- What every restart does, whatever follows it. -/
theorem restartPair_spec (s : State) (kind : Nat) (cause : Byte) (pc sp : W64) :
    (restartPair s kind cause pc sp).mgmt = restartedMgmt s kind cause pc sp ∧
    (restartPair s kind cause pc sp).outbox = s.outbox ∧ (restartPair s kind cause pc sp).pwr.recovering = s.pwr.recovering := by
  obtain ⟨wm, wo, wp, -, -⟩ := restartWrites_spec s kind cause pc sp
  obtain ⟨tm, tb, tp, -, -⟩ := (notifyManager_traffic (restartWrites s kind cause pc sp) 3).1.fields
  rw [wm] at tm
  rw [wo] at tb
  rw [wp] at tp
  rw [restartPair_eq]
  generalize notifyManager (restartWrites s kind cause pc sp) 3 = t at tm tb tp ⊢
  obtain ⟨em, eo, er⟩ := enterSafe_pair t
  split
  · exact ⟨em.trans tm, eo.trans tb, er.trans (congrArg Power.recovering tp)⟩
  · exact ⟨tm, tb, congrArg Power.recovering tp⟩

/-- Past the start a restart raises vector 3, ends a write lock and leaves the key slots, also where it ends in SAFE. -/
theorem restartPair_pastStart {s : State} (h : pastStart s = true) (kind : Nat) (cause : Byte) (pc sp : W64) :
    (restartPair s kind cause pc sp).irq.mgrEvent.getLsbD 3 = true ∧ (restartPair s kind cause pc sp).per.writeLock = false ∧
    (restartPair s kind cause pc sp).keys.slots = s.keys.slots := by
  obtain ⟨-, -, wp, wr, wk⟩ := restartWrites_spec s kind cause pc sp
  obtain ⟨-, -, tp, tr, tk⟩ := (notifyManager_traffic (restartWrites s kind cause pc sp) 3).1.fields
  have he : (notifyManager (restartWrites s kind cause pc sp) 3).irq.mgrEvent.getLsbD 3 = true :=
    mgrEvent_notifyManager _ (by decide)
  rw [wp] at tp
  rw [wr] at tr
  rw [wk] at tk
  rw [restartPair_eq]
  generalize notifyManager (restartWrites s kind cause pc sp) 3 = t at tp tr tk he ⊢
  have hi : inStart t = false := (inStart_congr tp).trans (inStart_of_pastStart h)
  obtain ⟨ei, ep, ek⟩ := enterSafe_running_kept hi
  split
  · exact ⟨(congrArg (fun q => q.mgrEvent.getLsbD 3) ei).trans he, congrArg Persist.writeLock (ep.trans tr),
      ek.trans (congrArg Keys.slots tk)⟩
  · exact ⟨he, congrArg Persist.writeLock tr, congrArg Keys.slots tk⟩

/-- Where a restart that nobody saw coming stood: free values. -/
def unseenPc (s : State) : W64 := BitVec.ofNat 64 (leNat (freeBytes (draw s).1 8))
def unseenSp (s : State) : W64 := BitVec.ofNat 64 (leNat ((freeBytes (draw s).1 16).drop 8))

theorem restartUnseen_eq (s : State) (kind : Nat) :
    restartUnseen s kind = restartPair (draw s).2 kind 0 (unseenPc s) (unseenSp s) := rfl

theorem restartUnseen_spec (s : State) (kind : Nat) :
    (restartUnseen s kind).mgmt = restartedMgmt s kind 0 (unseenPc s) (unseenSp s) ∧
    (restartUnseen s kind).outbox = s.outbox ∧ (restartUnseen s kind).pwr.recovering = s.pwr.recovering :=
  restartPair_spec (draw s).2 kind 0 (unseenPc s) (unseenSp s)

theorem restartUnseen_pastStart {s : State} (h : pastStart s = true) (kind : Nat) :
    (restartUnseen s kind).irq.mgrEvent.getLsbD 3 = true ∧ (restartUnseen s kind).per.writeLock = false ∧
    (restartUnseen s kind).keys.slots = s.keys.slots :=
  restartPair_pastStart (s := (draw s).2) h kind 0 (unseenPc s) (unseenSp s)

theorem managementFault_of_running {s : State} (h : s.mgmt.st = .running) :
    managementFault s = restartUnseen (draw s).2 (Config.freeNat (draw s).1 % 16) := if_neg (not_not_intro h)

/-- The first fault of a running pair is met by a restart that starts in the state with the fault noted. -/
theorem pairFault_first {s : State} (h : s.pwr.recovering = []) (f : State → State) :
    pairFault s f = f (recoveringFrom s .management) := coreFault_first h _ f

theorem exec_doubleFault {s : State} (hm : mainOn s = true) (hr : s.mgmt.st = .running) (pc sp : W64) (cause : Byte) :
    exec (.doubleFault pc sp cause) s =
      let u := pairStore (draw s).2 (pairEnd - 160) (trapFrame (draw s).1 pc cause)
      .next { u with mgmt := { u.mgmt with
        mdfActive := true, trapKind := 1, trapInterrupt := cause.getLsbD 7, trapCause := cause.extractLsb' 0 7, trapPc := pc
        trapSp := sp, dfaultCount := satInc 32 u.mgmt.dfaultCount } } := by
  change execDoubleFault pc sp cause s = _
  rw [execDoubleFault, if_pos ⟨hm, hr⟩]

/-- The state with a lockstep mismatch counted (R471). -/
def lockstepCounted (s : State) : State :=
  { s with mgmt := { s.mgmt with lockstepCount := satInc 32 s.mgmt.lockstepCount } }

theorem exec_lockstepMismatch {s : State} (hm : mainOn s = true) (hr : s.mgmt.st = .running) (pc sp : W64) :
    exec (.lockstepMismatch pc sp) s =
      .next (pairFault (if keyPath s then classB (lockstepCounted s) 0x11 else lockstepCounted s)
        (fun x => restartPair x 4 0 pc sp)) := by
  change execLockstepMismatch pc sp s = _
  rw [execLockstepMismatch, if_pos ⟨hm, hr⟩]
  rfl

theorem freeBytes_length (k n : Nat) : (freeBytes k n).length = n := by simp [freeBytes]

theorem trapFrame_length (n : Nat) (pc : W64) (cause : Byte) : (trapFrame n pc cause).length = 160 := by
  simp [trapFrame, freeBytes_length]

/-- A store of the pair writes its memory alone. -/
theorem pairStore_eq (s : State) (a : Nat) (b : Bytes) :
    pairStore s a b = { s with mgmt := { s.mgmt with mem := (pairStore s a b).mgmt.mem } } := by
  unfold pairStore
  split
  · rfl
  · rfl

theorem pairStore_allowed {s : State} {a : Nat} {b : Bytes} (he : a + b.length ≤ pairEnd)
    (h : ∀ x, a ≤ x → x < a + b.length → pairWrites s true x = true) :
    (pairStore s a b).mgmt.mem = memWriteBytes s.mgmt.mem a b := by
  have hc : ((List.range b.length).all fun i => decide (a + i < pairEnd) && pairWrites s true (a + i)) = true := by
    refine List.all_eq_true.mpr fun i hi => ?_
    have hi := List.mem_range.mp hi
    rw [h (a + i) (by omega) (by omega), decide_eq_true (show a + i < pairEnd by omega)]
    rfl
  unfold pairStore
  rw [if_pos hc]

/-- The frame of a double fault ends where the memory does (R474, R475). -/
theorem pairStore_trapFrame {s : State} (h : ∀ a, pairEnd - 160 ≤ a → a < pairEnd → pairWrites s true a = true) (n : Nat)
    (pc : W64) (cause : Byte) : (pairStore s (pairEnd - 160) (trapFrame n pc cause)).mgmt.mem =
      memWriteBytes s.mgmt.mem (pairEnd - 160) (trapFrame n pc cause) := by
  have he : pairEnd - 160 + (trapFrame n pc cause).length = pairEnd := by rw [trapFrame_length]; rfl
  exact pairStore_allowed (Nat.le_of_eq he) (fun x h0 h1 => h x h0 (he ▸ h1))

end Sys2Proof.Machine
end

section
/-! CERTIFICATES. Faults of core-wide parts (R547, R548) and the restarts of the management pair (R471 to R480). -/
namespace Sys2Proof.Machine

/-- Settles O40: a second fault meets `enterSafe`, a first one the recovery of its part. -/
theorem coreWideFaults : Obligations.CoreWideFaults := by
  intro s p hp
  refine ⟨fun h hl => ⟨_, exec_coreWidePartFault_second hp h hl, rfl, rfl, rfl⟩, fun h => ?_⟩
  have hx := exec_coreWidePartFault_first (p := p) hp h
  refine ⟨fun e => ?_, fun e => ?_, fun e hr => ?_, fun e => ?_, fun k hk e => ?_, fun e => ?_⟩
  all_goals subst e
  · exact ⟨_, hx, rfl, rfl, rfl⟩
  · exact ⟨_, hx.trans (congrArg Host.Outcome.next (ledgerFault_recoveringFrom s)), rfl, rfl⟩
  · obtain ⟨hm, -, hq⟩ := restartUnseen_spec (draw (recoveringFrom s .management)).2
      (Config.freeNat (draw (recoveringFrom s .management)).1 % 16)
    have hy := hx.trans (congrArg Host.Outcome.next (managementFault_of_running (s := recoveringFrom s .management) hr))
    refine ⟨_, hy, ?_⟩
    rw [hm, hq]
    exact ⟨rfl, rfl, rfl⟩
  · refine ⟨_, hx, rfl, ?_, rfl, rfl⟩
    exact Bool.or_true _
  · refine ⟨fencePort (recoveringFrom s (.boundary (some k))) k (fun q => { q with datapathFault := true }), hx.trans ?_, ?_⟩
    · exact congrArg Host.Outcome.next (boundaryFault_port _ hk)
    · rw [portOf_fencePort]
      exact ⟨rfl, rfl⟩
  · exact hx

/-- Settles O41: every restart is `restartPair_spec`; a double fault is a store and a record; an image that fails ends in SAFE. -/
theorem pairRestarts : Obligations.PairRestarts := by
  refine ⟨fun s v hs hv hr => ?_, fun s hp hr hk hq => ?_, fun s pc sp cause hp hr hq => ?_, fun s pc sp cause hm hr => ?_,
    fun s pc sp hp hr => ⟨fun hk => ?_, fun hk hq => ?_⟩, fun s hm hr => ?_, fun s hm hr hl hp => ?_⟩
  · have he : exec (.mbxMgmtRestart v) s = .next (emit (restartUnseen s 5) .regOk) := by
      change execMbxMgmtRestart v s = _
      rw [execMbxMgmtRestart, portAccess_of_serves hs, regWrite_of_serves hs, if_pos ⟨hv, hr⟩]
    obtain ⟨hg, ho, -⟩ := restartUnseen_spec s 5
    refine ⟨(draw s).1, _, he, congrArg _ ho, ?_⟩
    rw [emit_mgmt, hg]
    exact ⟨rfl, rfl, rfl, rfl, rfl, rfl, fun h => (restartUnseen_pastStart h 5).2.1⟩
  · have he : exec .watchdogExpiry s = .next (restartUnseen (recoveringFrom s .management) 3) :=
      (if_pos ⟨mainOn_of_pastStart hp, hr, hk⟩).trans (congrArg Host.Outcome.next (pairFault_first hq _))
    refine ⟨_, he, ?_⟩
    obtain ⟨hg, -, hv⟩ := restartUnseen_spec (recoveringFrom s .management) 3
    rw [hg, hv]
    exact ⟨rfl, rfl, rfl, rfl, (restartUnseen_pastStart (s := recoveringFrom s .management) hp 3).1⟩
  · have he : exec (.pairHalt pc sp cause) s = .next (restartPair (recoveringFrom s .management) 2 cause pc sp) :=
      (if_pos ⟨mainOn_of_pastStart hp, hr⟩).trans (congrArg Host.Outcome.next (pairFault_first hq _))
    obtain ⟨hg, -, -⟩ := restartPair_spec (recoveringFrom s .management) 2 cause pc sp
    obtain ⟨hi, -, -⟩ := restartPair_pastStart (s := recoveringFrom s .management) hp 2 cause pc sp
    refine ⟨_, he, ?_⟩
    rw [hg]
    exact ⟨rfl, rfl, rfl, rfl, rfl, rfl, hi⟩
  · have hw : (∀ a, pairEnd - 160 ≤ a → a < pairEnd → pairWrites s true a = true) →
        (pairStore (draw s).2 (pairEnd - 160) (trapFrame (draw s).1 pc cause)).mgmt.mem =
          memWriteBytes s.mgmt.mem (pairEnd - 160) (trapFrame (draw s).1 pc cause) :=
      fun h => pairStore_trapFrame (s := (draw s).2) h (draw s).1 pc cause
    refine ⟨_, (draw s).1, exec_doubleFault hm hr pc sp cause, ?_⟩
    rw [pairStore_eq]
    exact ⟨rfl, hr, rfl, rfl, rfl, rfl, rfl, rfl, rfl, hw⟩
  · exact (exec_lockstepMismatch (mainOn_of_pastStart hp) hr pc sp).trans
      (congrArg (fun u => Host.Outcome.next (pairFault u (fun x => restartPair x 4 0 pc sp))) (if_pos hk))
  · have he : exec (.lockstepMismatch pc sp) s = .next (restartPair (recoveringFrom (lockstepCounted s) .management) 4 0 pc sp) := by
      rw [exec_lockstepMismatch (mainOn_of_pastStart hp) hr, hk, if_neg Bool.false_ne_true,
        pairFault_first (s := lockstepCounted s) hq]
    obtain ⟨hg, -, -⟩ := restartPair_spec (recoveringFrom (lockstepCounted s) .management) 4 0 pc sp
    obtain ⟨-, -, hk⟩ := restartPair_pastStart (s := recoveringFrom (lockstepCounted s) .management) hp 4 0 pc sp
    refine ⟨_, he, ?_⟩
    rw [hg]
    exact ⟨rfl, rfl, rfl, rfl, hk⟩
  · exact if_neg (by simp [hm, hr])
  · have he : exec (.restartComplete false) s = .next { enterSafe { s with mgmt := { s.mgmt with st := .halted } } with
        pwr := { (enterSafe { s with mgmt := { s.mgmt with st := .halted } }).pwr with startFail := 0x0C } } :=
      if_neg (by simp [hm, hr])
    refine ⟨_, he, ?_⟩
    rw [enterSafe_of_running (s := { s with mgmt := { s.mgmt with st := .halted } }) (inStart_of_pastStart hp) hl]
    exact ⟨rfl, rfl, rfl⟩

end Sys2Proof.Machine
end

section
/-! SUPPORT. Rules for alarms and starts: what the ends of submissions leave, what SAFE keeps of a zeroised state, and what a failed
start and a drawn root leave (R406, R407, R497 to R505, R533). -/
namespace Sys2Proof.Machine

/-! ## Submissions that end, lanes that stop and a group that is left -/

/-- Nothing but submissions, parts, pools, lanes' work, the group and traffic has changed: no key and no persistent state. -/
def OnlyWork (s t : State) : Prop := t = { s with
  fabric := t.fabric, irq := t.irq, drawn := t.drawn, pools := t.pools, jobs := t.jobs, sched := t.sched, res := t.res, mir := t.mir
  store := { s.store with sealing := t.store.sealing } }

theorem OnlyWork.refl (s : State) : OnlyWork s s := rfl
theorem OnlyWork.trans {a b c : State} (h : OnlyWork a b) (k : OnlyWork b c) : OnlyWork a c := by
  unfold OnlyWork at *; rw [k, h]
theorem OnlyPooled.work {a b : State} (h : OnlyPooled a b) : OnlyWork a b := by unfold OnlyPooled OnlyWork at *; rw [h]
theorem OnlyTraffic.work {a b : State} (h : OnlyTraffic a b) : OnlyWork a b := h.pooled.work

theorem foldl_work {α : Type} {f : State → α → State} (hf : ∀ s a, OnlyWork s (f s a)) (l : List α) (s : State) :
    OnlyWork s (l.foldl f s) := by
  induction l generalizing s with
  | nil => exact .refl s
  | cons a r ih => exact (hf s a).trans (ih _)

theorem freePart_work (id : Nat) (s : State) (p : Engine × Nat) : OnlyWork s (freePart id s p) := by
  unfold freePart
  split <;> rfl

theorem sequencer_work (s : State) (r : Nat) : OnlyWork s (sequencer s r) := by
  unfold sequencer
  split
  · rfl
  · dsimp only
    split
    · exact OnlyWork.trans (by rfl) (request_traffic _ _).1.work
    · rfl

theorem endJob_work (s : State) (j : Job) : OnlyWork s (endJob s j) :=
  (foldl_work (freePart_work j.id) _ s).trans (OnlyWork.trans (by rfl) (sequencer_work _ _))

theorem endWith_work (s : State) (j : Job) (e : Ending) : OnlyWork s (endWith s j e) := endJob_work s _

theorem dropWaiting_work (s : State) (j : Job) : OnlyWork s (dropWaiting s j) :=
  OnlyWork.trans (b := dropJob s j.id) (by rfl) (returnBuffer_pooled _ _ _).work

/-- An alarm ends a submission, drops it or marks it, whatever its phase. -/
theorem alarmJob_work (s : State) (id : Nat) : OnlyWork s (alarmJob s id) := by
  unfold alarmJob
  dsimp only
  split
  · rfl
  · split
    · split
      · exact endWith_work _ _ _
      · exact dropWaiting_work _ _
    all_goals first | exact endWith_work _ _ _ | rfl

theorem haltSeals_work (s : State) : OnlyWork s (haltSeals s) := by
  unfold haltSeals
  refine foldl_work (fun s n => ?_) _ s
  rfl

theorem haltBuilds_work (s : State) : OnlyWork s (haltBuilds s) := by
  unfold haltBuilds
  refine foldl_work (fun s n => ?_) _ s
  rfl

theorem mirrorVector_work (s : State) : OnlyWork s (mirrorVector s) := by
  have hv : OnlyWork s (notifyManager { s with mir := { s.mir with lastVector := some (now s) } } 14) :=
    OnlyWork.trans (by rfl) (notifyManager_traffic _ 14).1.work
  unfold mirrorVector
  dsimp only
  split
  · split
    · rfl
    · exact hv
  · exact hv

theorem mirSend_work (s : State) (dest type : Nat) (body : Bytes) : OnlyWork s (mirSend s dest type body) := by
  unfold mirSend
  dsimp only
  split
  · rfl
  · exact OnlyWork.trans (by rfl) (mirrorVector_work _)

theorem leaveGroup_work (s : State) (reason : Nat) : OnlyWork s (leaveGroup s reason) := by
  unfold leaveGroup
  split
  · rfl
  · exact (foldl_work (fun s i => mirSend_work s i 0x50 _) _ s).trans (OnlyWork.trans (by rfl) (notifyManager_traffic _ 14).1.work)

/-! ## Class A (R533) -/

/-- Keys, registers, random instances, the measurement port's key and the store's objects are gone. -/
def Zeroised (s : State) : Prop :=
  s.keys.slots = [] ∧ s.keys.curves = [] ∧ s.keys.hmac = [] ∧ s.keys.rk = none ∧ s.keys.slotKey = none ∧ s.keys.storeSeal = none ∧
    s.keys.mak = none ∧ s.keys.smk = none ∧ s.ent.drbgs = [] ∧ s.mdp.st = .idle ∧ s.mdp.hmacKey = [] ∧ s.mdp.alarmClear = true ∧
    s.store.objects = []

theorem Zeroised.work {s t : State} (h : Zeroised s) (w : OnlyWork s t) : Zeroised t := by
  unfold OnlyWork at w
  rw [w]
  exact h

/-- SAFE brings no key back, and leaves root, alarm and persistent state as they are. -/
theorem Zeroised.enterSafe {s : State} (h : Zeroised s) :
    Zeroised (enterSafe s) ∧ (Sys2Proof.Machine.enterSafe s).per = s.per ∧
      (Sys2Proof.Machine.enterSafe s).pwr.alarmClass = s.pwr.alarmClass ∧
      (Sys2Proof.Machine.enterSafe s).pwr.alarmCause = s.pwr.alarmCause := by
  obtain ⟨-, -, -, h3, h4, h5, h6, -, h8⟩ := id h
  unfold Sys2Proof.Machine.enterSafe
  dsimp only
  split
  · split
    · exact ⟨⟨rfl, rfl, rfl, h3, h4, h5, h6, rfl, h8⟩, rfl, rfl, rfl⟩
    · exact ⟨⟨rfl, rfl, rfl, h3, h4, h5, h6, rfl, h8⟩, rfl, rfl, rfl⟩
  · split
    · exact ⟨h, rfl, rfl, rfl⟩
    · exact ⟨h, rfl, rfl, rfl⟩

/-- A core that is not RETIRED is in SAFE, also where a start was going on. -/
theorem enterSafe_safe {s : State} (h : s.keys.lifecycle ≠ .retired) :
    (enterSafe s).keys.lifecycle = .safe ∧ (enterSafe s).pwr.main = .safe := by
  have hc : (if inStart s then loseVolatile s else s).keys.lifecycle = s.keys.lifecycle := by split <;> rfl
  unfold enterSafe
  dsimp only
  rw [if_neg (by rw [hc]; exact h)]
  exact ⟨rfl, rfl⟩

/-- Keys, registers, instances and the measurement port's key go. -/
def secretsWiped (s : State) : State :=
  let s := wipeAllDrbgs (wipeAllKeys (wipeRegisters s))
  { s with mdp := { clearPort s.mdp with alarmClear := true }, jobs := s.jobs.map wipeHandles }

/-- The store's objects and a journal in progress go. -/
def storeWiped (s : State) : State :=
  { s with
    store := { s.store with objects := [], nodes := [], gathering := none, committing := none, sealing := [] }
    keys := { s.keys with journal := none } }

/-- The state in which a Class A alarm reaches SAFE. -/
def alarmWiped (s : State) : State := storeWiped (haltBuilds (haltSeals (secretsWiped (leaveGroup s 2))))

theorem classAMain_eq (s : State) : classAMain s =
    ((enterSafe (alarmWiped s)).jobs.map (·.id)).foldl alarmJob (enterSafe (alarmWiped s)) := rfl

theorem secretsWiped_kept (s : State) : (secretsWiped s).per = s.per ∧ (secretsWiped s).pwr = s.pwr ∧
    (secretsWiped s).keys.lifecycle = s.keys.lifecycle := ⟨rfl, rfl, rfl⟩

theorem storeWiped_kept (s : State) : (storeWiped s).per = s.per ∧ (storeWiped s).pwr = s.pwr ∧
    (storeWiped s).keys.lifecycle = s.keys.lifecycle := ⟨rfl, rfl, rfl⟩

theorem zeroised_storeWiped {s t : State} (h : OnlyWork (secretsWiped s) t) : Zeroised (storeWiped t) := by
  unfold OnlyWork at h
  rw [h]
  exact ⟨rfl, rfl, rfl, rfl, rfl, rfl, rfl, rfl, rfl, rfl, rfl, rfl, rfl⟩

/-- Work leaves persistent state, power and keys. -/
theorem OnlyWork.fields {s t : State} (h : OnlyWork s t) : t.per = s.per ∧ t.pwr = s.pwr ∧ t.keys = s.keys := by
  unfold OnlyWork at h
  rw [h]
  exact ⟨rfl, rfl, rfl⟩

theorem alarmWiped_spec (s : State) : Zeroised (alarmWiped s) ∧ (alarmWiped s).per = s.per ∧ (alarmWiped s).pwr = s.pwr ∧
    (alarmWiped s).keys.lifecycle = s.keys.lifecycle := by
  obtain ⟨gp, gw, gk⟩ := (leaveGroup_work s 2).fields
  have hh := (haltSeals_work (secretsWiped (leaveGroup s 2))).trans (haltBuilds_work _)
  obtain ⟨hp, hw, hk⟩ := hh.fields
  obtain ⟨sp, sw, sk⟩ := secretsWiped_kept (leaveGroup s 2)
  obtain ⟨tp, tw, tk⟩ := storeWiped_kept (haltBuilds (haltSeals (secretsWiped (leaveGroup s 2))))
  exact ⟨zeroised_storeWiped hh, tp.trans (hp.trans (sp.trans gp)), tw.trans (hw.trans (sw.trans gw)),
    tk.trans ((congrArg Keys.lifecycle hk).trans (sk.trans (congrArg Keys.lifecycle gk)))⟩

theorem classAMain_spec (s : State) : Zeroised (classAMain s) ∧ (classAMain s).per = s.per ∧
    (classAMain s).pwr.alarmClass = s.pwr.alarmClass ∧ (classAMain s).pwr.alarmCause = s.pwr.alarmCause ∧
    (s.keys.lifecycle ≠ .retired → (classAMain s).keys.lifecycle = .safe ∧ (classAMain s).pwr.main = .safe) := by
  obtain ⟨hz, hp, hw, hl⟩ := alarmWiped_spec s
  obtain ⟨ez, ep, ec, ea⟩ := hz.enterSafe
  have es : s.keys.lifecycle ≠ .retired → _ := fun h => enterSafe_safe (s := alarmWiped s) (by rw [hl]; exact h)
  rw [classAMain_eq]
  have hj := foldl_work alarmJob_work ((enterSafe (alarmWiped s)).jobs.map (·.id)) (enterSafe (alarmWiped s))
  generalize List.foldl alarmJob _ _ = t at hj
  refine ⟨ez.work hj, ?_⟩
  unfold OnlyWork at hj
  rw [hj]
  rw [hp] at ep
  rw [hw] at ec ea
  exact ⟨ep, ec, ea, es⟩

/-- The state in which a Class A alarm turns to the main domain: the root is gone and the alarm recorded. -/
def alarmRecorded (s : State) (cause : Nat) : State :=
  { recordAlarm (zeroRoot s) 1 cause 0 with pwr := { (recordAlarm (zeroRoot s) 1 cause 0).pwr with coldNext := true } }

theorem classA_on {s : State} (h : mainOn s = true) (cause : Nat) : classA s cause = classAMain (alarmRecorded s cause) := if_pos h

/-! ## Failed starts (R497, R501, R505, R506) -/

theorem startFailed_spec {s : State} (h : s.keys.lifecycle ≠ .retired) (code : Nat) :
    (startFailed s code).pwr.main = .safe ∧ (startFailed s code).pwr.startFail = code ∧ (startFailed s code).keys.slots = [] ∧
      (startFailed s code).keys.rk = none := by
  obtain ⟨-, hm⟩ := enterSafe_safe (s := wipeAllDrbgs (wipeAllKeys (wipeRegisters s))) h
  have hk : (enterSafe (wipeAllDrbgs (wipeAllKeys (wipeRegisters s)))).keys.slots = [] ∧
      (enterSafe (wipeAllDrbgs (wipeAllKeys (wipeRegisters s)))).keys.rk = none := by
    unfold enterSafe
    dsimp only
    split <;> split <;> exact ⟨rfl, rfl⟩
  exact ⟨hm, rfl, hk.1, hk.2⟩

/-- A self-test without a parity error, before its outcome: the save area has been used and freed again (R502). -/
def savedNone (s : State) : State := { s with pwr := { s.pwr with saved := none } }

theorem sramUses_foldl (l : List SramUse) (s : State) :
    l.foldl (fun s u => restoreRegion (saveRegion s u)) (savedNone s) = savedNone s := by
  induction l with
  | nil => rfl
  | cons u r ih => exact ih

theorem saveRegions_eq (s : State) : sramUses.foldl (fun s u => restoreRegion (saveRegion s u)) s = savedNone s :=
  sramUses_foldl sramUses.tail s

/-- The state after a self-test that passed n of its parts. -/
def selfTested (s : State) (n : Nat) : State :=
  { s with pwr := { s.pwr with saved := none, bstState := 0, bstStartPass := BitVec.ofNat 6 (2 ^ n - 1) } }

theorem selfTest_eq {s : State} {io : StartIo} (h : io.parityError = false) : selfTest s io =
    match io.testFail with
    | some 0x02 => holdBoundary { savedNone s with pwr := { (selfTested s 0).pwr with
        main := .resetHold, startFail := 0x02, coldNext := true } }
    | some c => if 0x03 ≤ c ∧ c ≤ 0x07 then startFailed (selfTested s (c - 2)) c else selfTested s 6
    | none => selfTested s 6 := by
  unfold selfTest
  rw [saveRegions_eq, h]
  rfl

theorem exec_selfTestPreconditionMet {s : State} (h : s.pwr.main = .precondition) (io : StartIo) :
    exec (.selfTestPreconditionMet io) s =
      .next (if (selfTest s io).pwr.main = .precondition then runStart (selfTest s io) io else selfTest s io) :=
  if_neg (not_not_intro h)

theorem runStart_noBank {s : State} {io : StartIo} (h : chooseBank (extendSlot s 0 bootRomDigest) io = none) :
    runStart s io = startFailed (atStep (extendSlot s 0 bootRomDigest) 6) 0x08 := by
  unfold runStart
  dsimp only
  rw [h]

/-! ## The root (R24, R407) -/

/-- Both copies of the root and its check word are as they were. -/
def RootKept (s t : State) : Prop := t.per.rootA = s.per.rootA ∧ t.per.rootB = s.per.rootB ∧ t.per.rootCheck = s.per.rootCheck

theorem RootKept.trans {a b c : State} (h : RootKept a b) (k : RootKept b c) : RootKept a c :=
  ⟨k.1.trans h.1, k.2.1.trans h.2.1, k.2.2.trans h.2.2⟩

theorem RootKept.of_per {s t : State} (h : t.per = s.per) : RootKept s t := by
  unfold RootKept; rw [h]; exact ⟨rfl, rfl, rfl⟩

theorem OnlyCommitted.root {s t : State} (h : OnlyCommitted s t) : RootKept s t := by
  obtain ⟨ha, hb, hc, -⟩ := h.battery
  exact ⟨ha, hb, hc⟩

theorem RootKept.rootOf {s t : State} (h : RootKept s t) : rootOf t = rootOf s := by
  obtain ⟨ha, hb, hc⟩ := h
  unfold Sys2Proof.Machine.rootOf
  rw [ha, hb, hc]

theorem rootOf_writeRoot (s : State) (r : Bytes) : rootOf (writeRoot s r) = some r := by
  unfold rootOf writeRoot
  dsimp only
  rw [if_pos (beq_self_eq_true _)]

theorem commitNow_committed (s : State) (p : LPayload) : OnlyCommitted s (commitNow s p) := by
  unfold commitNow
  exact OnlyCommitted.trans (by rfl) ((applyRecord_committed _ _ _).trans (clearZone_committed _ _))

theorem takeSerials_root (s : State) : RootKept s (takeSerials s) := (commitNow_committed s _).root

theorem setEntropy_per (s : State) (x : EntSt) : (setEntropy s x).per = s.per := by
  unfold setEntropy
  split
  · rfl
  · exact (notifyManager_traffic _ 7).1.per

theorem readySeed_root (s : State) : RootKept s (readySeed s) := by
  have hb : (if s.ent.buffer = [] then finishBlock s else s).per = s.per := by
    split
    · rw [finishBlock_frame]
    · rfl
  unfold readySeed
  generalize (if s.ent.buffer = [] then finishBlock s else s) = u at hb
  dsimp only
  split
  · exact .of_per hb
  · exact (RootKept.of_per hb).trans (takeSerials_root u)

theorem instantiateInternal_root (s : State) : RootKept s (instantiateInternal s) := by
  have hl : (leaveStarting (seedFrom (readySeed s) 256 [])).per = (readySeed s).per := by
    unfold leaveStarting
    split
    · rw [setEntropy_per, seedFrom_frame]
    · rw [seedFrom_frame]
  exact (readySeed_root s).trans (.of_per hl)

theorem internalReady_of_starting {s : State} (h : s.ent.st = .starting) : internalReady s = false := by simp [internalReady, h]

theorem takeRoot_per (s : State) (r : Bytes) : (takeRoot s r).per = (writeRoot s r).per := rfl

/-- A root is written in both copies, its registers are derived, and the internal DRBG is seeded anew. -/
def rootTaken (s : State) (r : Bytes) : State := instantiateInternal (takeRoot (writeRoot (wipeDrbg s 256) r) r)

theorem rootTaken_root (s : State) (r : Bytes) : RootKept (writeRoot (writeRoot (wipeDrbg s 256) r) r) (rootTaken s r) :=
  (RootKept.of_per (takeRoot_per _ r)).trans (instantiateInternal_root _)

/-- The state with a drawn root. -/
def rootDrawn (s : State) : State := rootTaken (drawRandom s).2 (randomBytes (drawRandom s).1 32)

theorem rootDrawn_spec (s : State) : (rootDrawn s).per.rootA = randomBytes (drawRandom s).1 32 ∧
    rootOf (rootDrawn s) = some (randomBytes (drawRandom s).1 32) := by
  have hk := rootTaken_root (drawRandom s).2 (randomBytes (drawRandom s).1 32)
  exact ⟨hk.1, hk.rootOf.trans (rootOf_writeRoot _ _)⟩

theorem exec_rootDraw_ready {s : State} (h : s.pwr.main = .rootWait) (hr : rootOf s = none) (hi : internalReady s = true) :
    exec .rootDraw s = .next (finishStart (rootDrawn s) true) := by
  have hc : ¬ (s.pwr.main ≠ .rootWait ∨ (rootOf s).isSome) := by simp [h, hr]
  change execRootDraw s = _
  rw [execRootDraw, if_neg hc, if_pos hi]
  rfl

theorem exec_rootDraw_late {s : State} (h : s.pwr.main = .rootWait) (hr : rootOf s = none) (hi : internalReady s = false)
    (ht : s.pwr.waitSince + ms 100 ≤ now s) : exec .rootDraw s = .next (startFailed s 0x0A) := by
  have hc : ¬ (s.pwr.main ≠ .rootWait ∨ (rootOf s).isSome) := by simp [h, hr]
  change execRootDraw s = _
  rw [execRootDraw, if_neg hc, if_neg (ne_true_of_eq_false hi), if_pos ht]

end Sys2Proof.Machine
end

section
/-! CERTIFICATES. The Class A alarm (R533) and the start sequence (R407, R497, R501). -/
namespace Sys2Proof.Machine

/-- Settles O35: the root goes first; in a running main domain the zeroised state goes through SAFE and the ends of the submissions. -/
theorem classAAlarmZeroises : Obligations.ClassAAlarmZeroises := by
  intro s cause
  cases h : mainOn s with
  | false =>
    rw [classA_off h]
    exact ⟨rfl, rfl, rfl, rfl, rfl, fun h => (nomatch h)⟩
  | true =>
    rw [classA_on h]
    obtain ⟨⟨h0, h1, h2, h3, h4, h5, h6, h7, h8, h9, h10, h11, h12⟩, hp, hc, ha, hs⟩ := classAMain_spec (alarmRecorded s cause)
    dsimp only
    rw [hp, hc, ha]
    exact ⟨rfl, rfl, rfl, rfl, rfl, fun _ => ⟨h0, h1, h2, h3, h4, h5, h6, h7, h8, h9, h10, h11, h12, hs⟩⟩

/-- Settles O37: the outcomes of the self-test by cases, and a drawn root that the instantiation leaves in place. -/
theorem startSequence : Obligations.StartSequence := by
  refine ⟨fun s hm hl ht => ?_, fun s io hm hp => ⟨fun h => ?_, fun c h3 h7 h hl => ?_, fun h => ?_⟩, fun s hm hr hi => ?_,
    fun s hm hr hi hl ht => ?_⟩
  · exact ⟨_, if_pos ⟨hm, ht⟩, startFailed_spec hl 0x01⟩
  · have hx := exec_selfTestPreconditionMet hm io
    have he : (selfTest s io).pwr = { (selfTested s 0).pwr with main := .resetHold, startFail := 0x02, coldNext := true } := by
      rw [selfTest_eq hp, h]
      exact holdBoundary_pwr _
    refine ⟨_, hx.trans (congrArg Host.Outcome.next (if_neg ?_)), ?_⟩
    · rw [he]; exact fun e => by cases e
    · rw [he]; exact ⟨rfl, rfl⟩
  · have hx := exec_selfTestPreconditionMet hm io
    have he : selfTest s io = startFailed (selfTested s (c - 2)) c := by
      rw [selfTest_eq hp, h]
      split
      case h_1 e => cases e; omega
      case h_2 d e => cases e; exact if_pos ⟨h3, h7⟩
      case h_3 e => cases e
    obtain ⟨hs, hc, -, -⟩ := startFailed_spec (s := selfTested s (c - 2)) hl c
    rw [he, hs] at hx
    exact ⟨_, hx, hs, hc⟩
  · have hx := exec_selfTestPreconditionMet hm io
    have he : selfTest s io = selfTested s 6 := by rw [selfTest_eq hp, h]
    rw [he] at hx
    refine ⟨selfTested s 6, rfl, hx.trans (congrArg Host.Outcome.next (if_pos hm)), fun hb hl => ?_⟩
    rw [runStart_noBank hb]
    obtain ⟨hs, hc, -, -⟩ := startFailed_spec (s := atStep (extendSlot (selfTested s 6) 0 bootRomDigest) 6) hl 0x08
    exact ⟨hs, hc⟩
  · exact ⟨rootDrawn s, exec_rootDraw_ready hm hr hi, rootDrawn_spec s⟩
  · obtain ⟨hs, hc, -, -⟩ := startFailed_spec hl 0x0A
    exact ⟨_, exec_rootDraw_late hm hr (internalReady_of_starting hi) ht, hs, hc⟩

end Sys2Proof.Machine
end

section
/-! SUPPORT. Rules for the mailbox and the store's commands: what moves between requests and replies, how a report is written, and what an
abort without an attachment leaves (R103, R463, R468, R481 to R484). -/
namespace Sys2Proof.Machine

/-! ## Replies (R482, R483) -/

/-- No request holds a reply back. -/
def NoneHeld (rs : List Req) : Prop := rs.any (fun q => q.st == .replyHeld) = false

theorem NoneHeld.find? {rs : List Req} (h : NoneHeld rs) : rs.find? (fun q => q.st == .replyHeld) = none :=
  List.find?_eq_none.mpr fun q hq => by simpa using List.any_eq_false.mp h q hq

theorem NoneHeld.append {a b : List Req} (ha : NoneHeld a) (hb : NoneHeld b) : NoneHeld (a ++ b) := by
  unfold NoneHeld at *
  rw [List.any_append, ha, hb]
  rfl

theorem NoneHeld.sublist {a b : List Req} (h : NoneHeld b) (hs : a.Sublist b) : NoneHeld a :=
  List.any_eq_false.mpr fun q hq => List.any_eq_false.mp h q (hs.subset hq)

theorem flushFuel_of_noneHeld {s : State} (h : NoneHeld s.mgmt.requests) : ∀ n, flushFuel n s = s
  | 0 => rfl
  | n + 1 => by rw [flushFuel, h.find?]

theorem flushReplies_of_noneHeld {s : State} (h : NoneHeld s.mgmt.requests) : flushReplies s = s := by
  unfold flushReplies
  split
  · exact flushFuel_of_noneHeld h 32
  · rfl

/-- The one reply held behind requests that hold none goes into an empty queue, with its vector. -/
theorem flushReplies_single {s : State} {a b : List Req} {q : Req} {x : Reply} (hr : s.mgmt.st = .running)
    (hq : s.mgmt.requests = a ++ q :: b) (ha : NoneHeld a) (hb : NoneHeld b) (hh : q.st = .replyHeld) (hx : q.reply = some x)
    (he : s.mgmt.replies = []) :
    flushReplies s = notifyManager { s with mgmt := { s.mgmt with requests := a ++ b, replies := [x] } } 2 := by
  have hf : s.mgmt.requests.find? (fun q => q.st == .replyHeld) = some q := by
    rw [hq, List.find?_append, ha.find?, List.find?_cons_of_pos (by simp [hh])]
    rfl
  have hd : s.mgmt.requests.eraseP (fun q => q.st == .replyHeld) = a ++ b := by
    rw [hq, List.eraseP_append_right _ fun c hc => by simpa using List.any_eq_false.mp ha c hc,
      List.eraseP_cons_of_pos (by simp [hh])]
  have hk : (notifyManager { s with mgmt := { s.mgmt with requests := a ++ b, replies := [x] } } 2).mgmt =
      { s.mgmt with requests := a ++ b, replies := [x] } := (notifyManager_traffic _ 2).1.fields.1
  have hn : NoneHeld (notifyManager { s with mgmt := { s.mgmt with requests := a ++ b, replies := [x] } } 2).mgmt.requests := by
    rw [hk]; exact ha.append hb
  rw [flushReplies, if_pos hr, flushFuel, hf, hd, he]
  dsimp only
  rw [hx]
  exact flushFuel_of_noneHeld hn 31

/-- The reply to a request that stands alone. -/
def replyTo (q : Req) (a : Ans) : Reply := { tag := q.tag, cmd := q.cmd, code := a.code, repeated := q.repeated, data := a.data }

theorem finishReq_single {s : State} {i : Nat} {q : Req} (a : Ans) (hi : s.mgmt.requests[i]? = some q) (hm : q.merged = [])
    (hr : s.mgmt.st = .running) (he : s.mgmt.replies = []) (hn : NoneHeld s.mgmt.requests) : finishReq s i a =
      notifyManager { s with mgmt := { s.mgmt with requests := s.mgmt.requests.eraseIdx i, replies := [replyTo q a] } } 2 := by
  rw [finishReq, hi]
  dsimp only
  rw [hm, List.map_singleton, List.append_assoc, List.eraseIdx_eq_take_drop_succ]
  exact flushReplies_single (q := heldReply q a q.tag) hr rfl (hn.sublist (List.take_sublist _ _))
    (hn.sublist (List.drop_sublist _ _)) rfl rfl he

theorem popReply_of_cons {s : State} {x : Reply} {r : List Reply} (h : s.mgmt.replies = x :: r) (hn : NoneHeld s.mgmt.requests) :
    popReply s = if r = [] then { s with mgmt := { s.mgmt with replies := r } }
      else notifyManager { s with mgmt := { s.mgmt with replies := r } } 2 := by
  rw [popReply, h]
  dsimp only
  rw [flushReplies_of_noneHeld (s := { s with mgmt := { s.mgmt with replies := r } }) hn]
  by_cases hr : r = []
  · rw [if_pos (.inl hr), if_pos hr]
  · rw [if_neg (by simp [hr]), if_neg hr]

/-! ## Submissions to the mailbox (R103, R481, R482) -/

theorem exec_mbxReqSubmit {s : State} {v : W32} (h : PortServes s) (hv : v.getLsbD 0 = true) :
    exec (.mbxReqSubmit v) s = .next (emit (submitReq s) .regOk) := by
  change execMbxReqSubmit v s = _
  rw [execMbxReqSubmit, portAccess_of_serves h, regWrite_of_serves h, if_pos hv]

theorem exec_mbxRplPop {s : State} {v : W32} (h : PortServes s) (hv : v.getLsbD 0 = true) :
    exec (.mbxRplPop v) s = .next (emit (popReply s) .regOk) := by
  change execMbxRplPop v s = _
  rw [execMbxRplPop, portAccess_of_serves h, regWrite_of_serves h, if_pos hv]

theorem submitReq_full {s : State} (h : 16 ≤ queuedCount s) : submitReq s =
    { s with mgmt := { s.mgmt with queueFull := true, errFull := satInc 16 s.mgmt.errFull } } := if_pos h

theorem submitReq_joins {s : State} (h : queuedCount s < 16) (hm : s.mgmt.requests.any (mergesInto (stagedReq s)) = false) :
    submitReq s = { s with mgmt := { s.mgmt with requests := s.mgmt.requests ++ [stagedReq s] } } := by
  unfold submitReq
  dsimp only
  rw [if_neg (by omega), hm]
  exact if_neg Bool.false_ne_true

/-! ## Commands that only report (R104, R484, R595) -/

theorem exec_ping {s : State} {i : Nat} {q : Req} (h : mbxNext s = some (i, q)) (hc : q.cmd = 0x0001) :
    exec .ping s = .next (finishReq s i
      (if argsFrom q 0 then { code := rBadParam } else { code := rOk, data := [s.mgmt.heartbeat] })) := by
  have hq : ¬ (q.cmd ≠ 0x0001 ∨ (!anyReq q) = true) := by simp [hc, anyReq]
  change execPing s = _
  simp only [execPing, runMailbox, h]
  rw [if_neg hq, if_neg (by simp)]

theorem exec_unknownCommand {s : State} {i : Nat} {q : Req} (h : mbxNext s = some (i, q)) (hc : cmdCodes.contains q.cmd = false) :
    exec .unknownCommand s = .next (finishReq { s with mgmt := { s.mgmt with errUnknown := satInc 16 s.mgmt.errUnknown } } i
      { code := if reportsOnly s then rWrongState else rUnknown }) := by
  change execUnknownCommand s = _
  rw [execUnknownCommand, h]
  exact if_neg (ne_true_of_eq_false hc)

theorem reportBlock_written {q : Req} {io : MbxIo} {n : Nat} {f : State → Bytes} {s : State} (ha : argsFrom q 0 = false)
    (hf : outputFault s q.param n = none) (hw : io.write = .ok) :
    reportBlock q io n f s = (.reply { code := rOk }, emit s (writeNote s 0 q.param (fit n (f s)))) := by
  rw [reportBlock, ha, if_neg Bool.false_ne_true, hf, hw]
  rfl

/-! ## A store without an attachment (R463, R465, R468) -/

/-- The store is not attached. -/
def Detached (s : State) : Prop := s.store.attach = none

theorem Detached.foldl {α : Type} {f : State → α → State} (hf : ∀ s a, Detached s → Detached (f s a)) (l : List α) {s : State}
    (h : Detached s) : Detached (l.foldl f s) := by
  induction l generalizing s with
  | nil => exact h
  | cons a r ih => exact ih (hf s a h)

theorem Detached.work {s t : State} (h : Detached s) (w : OnlyWork s t) : Detached t := by
  unfold OnlyWork at w
  rw [w]
  exact h

theorem Detached.storeUp {s : State} (h : Detached s) : storeUp s = false := by
  unfold Detached at h
  simp [Sys2Proof.Machine.storeUp, h]

/-- Without an attachment no entry of the ordinal cache is looked up, and nothing is written back. -/
theorem Detached.evictOrd {s : State} (h : Detached s) (e : OrdEntry) : (evictOrd s e).2 = s := by
  unfold Sys2Proof.Machine.evictOrd findPair
  rw [h.storeUp]
  split <;> rfl

theorem Detached.evictAgain {s : State} (h : Detached s) (p : Nat × Nat) : Detached (evictAgain s p) := by
  unfold Sys2Proof.Machine.evictAgain
  split
  · next e _ =>
    have hd : Detached (setOrd s { e with evicting := false }) := h
    rw [hd.evictOrd]
    exact hd
  · exact h

theorem Detached.carryBatch {s : State} (h : Detached s) (b : Batch) : Detached (carryBatch s b) := by
  have he := Detached.foldl (fun _ p k => k.evictAgain p) b.evicted h
  unfold Sys2Proof.Machine.carryBatch
  dsimp only
  split
  · exact he
  · exact he

theorem Detached.restoreBlock {s : State} (h : Detached s) (j : Job) : Detached (restoreBlock s j) := by
  unfold Sys2Proof.Machine.restoreBlock
  split
  · split <;> exact h
  · exact h

theorem Detached.ledgerAbort {s : State} (h : Detached s) (j : Job) : Detached (ledgerAbort s j) := by
  unfold Sys2Proof.Machine.ledgerAbort
  dsimp only
  split <;> exact h

theorem Detached.loseJob {s : State} (h : Detached s) (sub id : Nat) : Detached (loseJob sub s id) := by
  unfold Sys2Proof.Machine.loseJob
  split
  · next j _ =>
    have hk : Detached (if s.keys.kumJob = some id then { s with keys := { s.keys with kumJob := none } } else s) := by
      split <;> exact h
    dsimp only
    split
    · exact h
    · split
      · exact ((hk.restoreBlock j).ledgerAbort j).work (endJob_work _ _)
      · exact (hk.ledgerAbort j).work (endJob_work _ _)
  · exact h

theorem Detached.journalLost {s : State} (h : Detached s) : Detached (journalLost s) := by
  unfold Sys2Proof.Machine.journalLost
  split <;> exact h

theorem Detached.loseBatch {s : State} (h : Detached s) (b : Batch) (sub : Nat) : Detached (loseBatch s b sub) := by
  have hr : Detached (b.reservations.foldl (loseReservation sub) { s with store := { s.store with aborted := s.store.aborted + 1 } }) :=
    Detached.foldl (f := loseReservation sub) (fun _ _ k => k) b.reservations h
  have hj : Detached (if b.journal then Sys2Proof.Machine.journalLost (b.reservations.foldl (loseReservation sub)
      { s with store := { s.store with aborted := s.store.aborted + 1 } }) else b.reservations.foldl (loseReservation sub)
      { s with store := { s.store with aborted := s.store.aborted + 1 } }) := by
    split
    · exact hr.journalLost
    · exact hr
  exact (Detached.foldl (fun _ id k => k.loseJob sub id) _ hj).carryBatch b

theorem Detached.abortBatch {s : State} (h : Detached s) (sub : Nat) : Detached (abortBatch s sub) := by
  unfold Sys2Proof.Machine.abortBatch
  split
  · exact h
  · dsimp only
    refine Detached.loseBatch ?_ _ sub
    exact h

theorem Detached.abortOpen {s : State} (h : Detached s) (sub : Nat) : Detached (abortOpen s sub) := by
  have hg : Detached (abortGathering s sub) := by
    unfold abortGathering
    split
    · exact h
    · have hd : Detached { s with store := { s.store with gathering := none } } := h
      exact hd.loseBatch _ sub
  unfold Sys2Proof.Machine.abortOpen
  dsimp only
  split
  · exact hg
  · exact hg.abortBatch sub

theorem detached_detachStore (s : State) : Detached (detachStore s) := by
  unfold detachStore
  refine Detached.abortOpen ?_ 0x0502
  rfl

/-! ## STORE_ATTACH and STORE_SNAPSHOT (R457, R468) -/

theorem exec_storeAttach {s : State} {io : MbxIo} {i : Nat} {q : Req} (h : Starts s 0x0400 i q) :
    exec (.storeAttach io) s = ranNext i q (
      if s.store.attach.isSome then (.reply { code := rWrongState }, s)
      else if argsFrom q 0 then (.reply { code := rBadParam }, s)
      else match readInput s q.param 64 io.read with
        | (.fail a, s) => (.reply a, s)
        | (.data b, s) =>
          if attachOk s b (attachFrom b) then (.reply { code := rOk }, attachStore s (attachFrom b))
          else (.reply { code := rBadParam }, s)) := by
  change execStoreAttach io s = _
  rw [execStoreAttach, runMailbox_of_starts h] <;> rfl

/-- With its input read, an unattached STORE_ATTACH is judged by its block. -/
theorem exec_storeAttach_read {s t : State} {io : MbxIo} {i : Nat} {q : Req} {b : Bytes} (h : Starts s 0x0400 i q)
    (hn : s.store.attach = none) (ha : argsFrom q 0 = false) (hr : readInput s q.param 64 io.read = (.data b, t)) :
    exec (.storeAttach io) s = if attachOk t b (attachFrom b) then .next (finishReq (attachStore t (attachFrom b)) i { code := rOk })
      else .next (finishReq t i { code := rBadParam }) := by
  rw [exec_storeAttach h, hn, Option.isSome_none, if_neg Bool.false_ne_true, ha, if_neg Bool.false_ne_true, hr]
  dsimp only
  split <;> rfl

/-- With its input read and its buffer good, STORE_SNAPSHOT turns on whether the slot is held and the store up. -/
theorem exec_storeSnapshot_read {s t : State} {io : MbxIo} {content : Bytes} {i : Nat} {q : Req} {b : Bytes}
    (h : Starts s 0x0404 i q) (ha : argsFrom q 0 = false) (hr : readInput s q.param 16 io.read = (.data b, t))
    (hs : field b 0 4 < 3276) (ho : outputFault s (field b 8 8) (1280 * 1024) = none) :
    exec (.storeSnapshot io content) s =
      if !s.store.snapshots.contains (field b 0 4) ∨ !storeUp s then .next (finishReq t i { code := rWrongState })
      else ranNext i q (writeOutput t (field b 8 8) (fit (1280 * 1024) content) io.write { code := rOk }) := by
  have ht := readInput_data hr
  have hf : outputFault t (field b 8 8) (1280 * 1024) = none := by rw [ht]; exact ho
  have hu : t.store = s.store ∧ storeUp t = storeUp s := by rw [ht]; exact ⟨rfl, rfl⟩
  change execStoreSnapshot io content s = _
  rw [execStoreSnapshot, runMailbox_of_starts h, ha, if_neg Bool.false_ne_true, hr]
  dsimp only
  rw [if_neg (by omega), hf, hu.1, hu.2]
  dsimp only
  split <;> rfl

end Sys2Proof.Machine
end

section
/-! CERTIFICATES. The mailbox (R477, R481 to R484) and the store's commands (R457, R468, R469). -/
namespace Sys2Proof.Machine

/-- Settles O56: the queues by their moves, and the commands that need nothing else by their replies. -/
theorem mailboxQueues : Obligations.MailboxQueues := by
  refine ⟨fun s v hs hv => ⟨fun hq hm => ?_, fun hq => ?_⟩, fun s v x r hs hv hx hn => ?_, fun s i q a hi hm hr he hn => ?_,
    fun s i q hi hc => ⟨_, rfl, rfl, exec_unknownCommand hi hc⟩, fun s i q hi hc => exec_ping hi hc,
    fun s hm hr ht => ⟨_, if_pos ⟨hm, hr, ht⟩, rfl⟩⟩
  · rw [exec_mbxReqSubmit hs hv, submitReq_joins hq hm]
    rfl
  · rw [exec_mbxReqSubmit hs hv, submitReq_full hq]
    rfl
  · refine ⟨_, exec_mbxRplPop hs hv, ?_⟩
    rw [popReply_of_cons hx hn]
    split
    · next h => exact ⟨rfl, rfl, fun h' => absurd h h', rfl⟩
    · obtain ⟨hm, ho, -⟩ := (notifyManager_traffic { s with mgmt := { s.mgmt with replies := r } } 2).1.fields
      rw [emit_mgmt, hm]
      exact ⟨rfl, rfl, fun _ => mgrEvent_notifyManager _ (by decide), congrArg _ ho⟩
  · dsimp only
    rw [finishReq_single a hi hm hr he hn]
    obtain ⟨hm, -⟩ := (notifyManager_traffic
      { s with mgmt := { s.mgmt with requests := s.mgmt.requests.eraseIdx i, replies := [replyTo q a] } } 2).1.fields
    rw [hm]
    exact ⟨rfl, rfl, mgrEvent_notifyManager _ (by decide)⟩

/-- Settles O54: each command by its refusals and its effect; an abort without an attachment attaches nothing. -/
theorem storeCommands : Obligations.StoreCommands := by
  refine ⟨fun s t io i q b h => ⟨fun ha => ?_, fun hn ha hr => ?_⟩, fun s i q h hs ha => ⟨?_, detached_detachStore s⟩,
    fun s io i q h ha hf hw => ?_, fun s i q h hp => ⟨fun hl => ?_, fun hl hs ha hf => ?_⟩,
    fun s t io content i q b h ha hr hs ho => ?_⟩
  · rw [exec_storeAttach h, if_pos ha]
    rfl
  · rw [exec_storeAttach_read h hn ha hr]
    exact ⟨fun hk => if_neg (ne_true_of_eq_false hk), fun hk => if_pos hk⟩
  · have hn : s.store.attach.isNone = false := by rw [← Option.not_isSome, hs]; rfl
    change execStoreDetach s = _
    rw [execStoreDetach, runMailbox_of_starts h, hn, if_neg Bool.false_ne_true, ha, if_neg Bool.false_ne_true]
    rfl
  · change execStoreStatus io s = _
    rw [execStoreStatus, runMailbox_of_starts h, reportBlock_written ha hf hw]
    rfl
  · have hc : (s.keys.lifecycle != .blank && s.keys.lifecycle != .enrolled) = true ∨ s.store.attach.isNone = true := .inl (by simp [hl])
    change execStoreFormat s = _
    rw [execStoreFormat, hp, if_neg Bool.false_ne_true, runMailbox_of_starts h, if_pos hc]
    rfl
  · have hn : s.store.attach.isNone = false := by rw [← Option.not_isSome, hs]; rfl
    have hc : ¬ ((s.keys.lifecycle != .blank && s.keys.lifecycle != .enrolled) = true ∨ s.store.attach.isNone = true) := by
      rcases hl with hl | hl <;> simp [hl, hn]
    change execStoreFormat s = _
    rw [execStoreFormat, hp, if_neg Bool.false_ne_true, runMailbox_of_starts h, if_neg hc, ha, if_neg Bool.false_ne_true, hf]
    rfl
  · rw [exec_storeSnapshot_read h ha hr hs ho]
    refine ⟨fun hk => if_pos (.inl (by rw [hk]; rfl)), fun hk hu hw => ?_⟩
    rw [if_neg (by rw [hk, hu]; simp), hw, readInput_data hr]
    rfl

end Sys2Proof.Machine
end

section
/-! SUPPORT. Rules for image banks and updates: what a bank holds after a write, and what each update command answers (R484 to R491), and
what a sample keeps (R492, R588). -/
namespace Sys2Proof.Machine

/-! ## Memories -/

/-- A string written from an address upwards is read back byte by byte. -/
theorem memRead_memWriteBytes_inside (bs : Bytes) : ∀ (m : Mem) (a k : Nat), k < bs.length →
    memRead (memWriteBytes m a bs) (a + k) = bs.getD k 0 := by
  induction bs with
  | nil => exact fun _ _ _ h => absurd h (Nat.not_lt_zero _)
  | cons b r ih =>
    intro m a k hk
    rw [memWriteBytes]
    cases k with
    | zero =>
      rw [memRead_memWriteBytes_other r (a + 1) (a + 0) (.inl (Nat.lt_succ_self a)), memRead_memWrite, Nat.add_zero, if_pos rfl]
      rfl
    | succ k =>
      have ha : a + (k + 1) = a + 1 + k := by omega
      rw [ha, ih (memWrite m a b) (a + 1) k (by simpa using hk)]
      rfl

theorem memRead_zeros {m : Mem} {n a : Nat} (h : a < n) : memRead (memWriteBytes m 0 (zeros n)) a = 0 := by
  have hk := memRead_memWriteBytes_inside (zeros n) m 0 a (by simpa [zeros] using h)
  rw [Nat.zero_add] at hk
  rw [hk]
  simp [zeros, h]

theorem fit_length (n : Nat) (bs : Bytes) : (fit n bs).length = n := by
  simp only [fit, List.length_take, List.length_append, zeros, List.length_replicate]
  omega

theorem readInput_length {s t : State} {a n : Nat} {r : ReadOutcome} {b : Bytes} (h : readInput s a n r = (.data b, t)) :
    b.length = n := by
  unfold readInput at h
  split at h
  · cases h
  · split at h
    · cases h
    · cases r <;> cases h
      exact fit_length n _

/-! ## Banks (R485, R489) -/

theorem bankMem_setBank_same {b : Nat} (s : State) (m : Mem) : bankMem (setBank s b m) b = m := by
  unfold bankMem setBank
  by_cases h : b = 0
  · rw [if_pos h, if_pos h]
  · rw [if_neg h, if_neg h]

theorem bankMem_setBank_other {o b : Nat} (s : State) (m : Mem) (ho : o = 0 ∨ o = 1) (hb : b ≤ 1) (h : o ≠ b) :
    bankMem (setBank s b m) o = bankMem s o := by
  unfold bankMem setBank
  rcases ho with rfl | rfl
  · rw [if_neg (show ¬ b = 0 by omega)]
    rfl
  · rw [if_pos (show b = 0 by omega)]
    rfl

theorem setBank_mgmt (s : State) (b : Nat) (m : Mem) : (setBank s b m).mgmt = s.mgmt := by
  unfold setBank
  split <;> rfl

theorem bankMem_writeBank_same (s : State) (b a : Nat) (x : Bytes) : bankMem (writeBank s b a x) b = memWriteBytes (bankMem s b) a x :=
  bankMem_setBank_same s _

theorem bankMem_writeBank_other {o b : Nat} (s : State) (a : Nat) (x : Bytes) (ho : o = 0 ∨ o = 1) (hb : b ≤ 1) (h : o ≠ b) :
    bankMem (writeBank s b a x) o = bankMem s o := bankMem_setBank_other s _ ho hb h

theorem bankMem_congr {s t : State} (h : t.per = s.per) (b : Nat) : bankMem t b = bankMem s b := by unfold bankMem; rw [h]

/-- A bank that is written to begins without a header, and keeps the header's place empty while the writing goes on (R489). -/
def writableBank (s : State) (b : Nat) : State := if s.mgmt.updSt = .writing then s else writeBank s b 0 (zeros 64)

theorem writePart_eq (s : State) (b off : Nat) (x : Bytes) :
    writePart s b off x = setUpd (writeBank (writableBank s b) b off x) .writing b := rfl

theorem bankMem_writableBank_far {b : Nat} (s : State) {a : Nat} (h : 64 ≤ a) :
    memRead (bankMem (writableBank s b) b) a = memRead (bankMem s b) a := by
  unfold writableBank
  split
  · rfl
  · rw [bankMem_writeBank_same]
    exact memRead_memWriteBytes_other _ _ _ (.inr (by simpa [zeros] using h))

theorem bankMem_writableBank_header {b : Nat} {s : State} (hw : s.mgmt.updSt ≠ .writing) {a : Nat} (h : a < 64) :
    memRead (bankMem (writableBank s b) b) a = 0 := by
  rw [writableBank, if_neg hw, bankMem_writeBank_same]
  exact memRead_zeros h

theorem bankMem_writableBank_other {o b : Nat} (s : State) (ho : o = 0 ∨ o = 1) (hb : b ≤ 1) (h : o ≠ b) :
    bankMem (writableBank s b) o = bankMem s o := by
  unfold writableBank
  split
  · rfl
  · exact bankMem_writeBank_other s 0 _ ho hb h

theorem bankMem_writePart (s : State) (b off : Nat) (x : Bytes) (o : Nat) :
    bankMem (writePart s b off x) o = bankMem (writeBank (writableBank s b) b off x) o := rfl

/-- What a part of a package leaves in the two banks (R489). -/
theorem writePart_spec {s : State} {b off : Nat} {x : Bytes} (hb : b ≤ 1) (ho : 0x1000 ≤ off) :
    (∀ k, k < x.length → memRead (bankMem (writePart s b off x) b) (off + k) = x.getD k 0) ∧
    (∀ a, 64 ≤ a → (a < off ∨ off + x.length ≤ a) → memRead (bankMem (writePart s b off x) b) a = memRead (bankMem s b) a) ∧
    (∀ o, (o = 0 ∨ o = 1) → o ≠ b → bankMem (writePart s b off x) o = bankMem s o) ∧
    (s.mgmt.updSt ≠ .writing → ∀ a, a < 64 → memRead (bankMem (writePart s b off x) b) a = 0) := by
  refine ⟨fun k hk => ?_, fun a ha h => ?_, fun o h hne => ?_, fun hw a ha => ?_⟩
  · rw [bankMem_writePart, bankMem_writeBank_same]
    exact memRead_memWriteBytes_inside x _ off k hk
  · rw [bankMem_writePart, bankMem_writeBank_same, memRead_memWriteBytes_other x off a h, bankMem_writableBank_far s ha]
  · rw [bankMem_writePart, bankMem_writeBank_other _ _ _ h hb hne, bankMem_writableBank_other s h hb hne]
  · rw [bankMem_writePart, bankMem_writeBank_same, memRead_memWriteBytes_other x off a (.inl (by omega)),
      bankMem_writableBank_header hw ha]

/-! ## Update commands (R484, R489 to R491) -/

/-- The state in which an update command replies: REASON keeps the code of an IMAGE_INVALID reply only (R481). -/
def updNoted (s : State) (a : Ans) : State :=
  { s with mgmt := { s.mgmt with updReason := if a.code = rImageInvalid then (a.data.headD 0).toNat else 0 } }

theorem updReply_eq (s : State) (a : Ans) : updReply s a = (.reply a, updNoted s a) := rfl

theorem ranNext_updReply (s : State) (i : Nat) (q : Req) (a : Ans) :
    ranNext i q (updReply s a) = .next (finishReq (updNoted s a) i a) := rfl

theorem ranNext_park (s : State) (i : Nat) (q : Req) : ranNext i q (.park, s) = .next (parkReq s i q) := rfl

theorem updNoted_per (s : State) (a : Ans) : (updNoted s a).per = s.per := rfl

theorem bankMem_updNoted (s : State) (a : Ans) (b : Nat) : bankMem (updNoted s a) b = bankMem s b := rfl

/-- The arguments of an UPDATE_WRITE are in range (R489). -/
theorem exec_updateWrite {s : State} {io : MbxIo} {i : Nat} {q : Req} (h : Starts s 0x0500 i q) (ha : s.mgmt.updSt ≠ .activated)
    (hb : argOf q 0 ≤ 1) (ho : argOf q 1 % 64 = 0) (ho' : 0x1000 ≤ argOf q 1) (hl : argOf q 2 % 64 = 0) (hl' : 64 ≤ argOf q 2)
    (hm : argOf q 2 ≤ 65536) (he : argOf q 1 + argOf q 2 ≤ 0x400000) :
    exec (.updateWrite io) s = ranNext i q (
      if argOf q 0 = s.mgmt.runningBank then updCode s rBankRunning
      else if updElsewhere s (argOf q 0) then updCode s rWrongState
      else match readInput s q.param (argOf q 2) io.read with
        | (.fail a, s) => updReply s a
        | (.data b, s) => updCode (writePart s (argOf q 0) (argOf q 1) b) rOk) := by
  have hg : ¬ (1 < argOf q 0 ∨ argOf q 1 % 64 ≠ 0 ∨ argOf q 1 < 0x1000 ∨ argOf q 2 % 64 ≠ 0 ∨ argOf q 2 < 64 ∨ 65536 < argOf q 2 ∨
      0x400000 < argOf q 1 + argOf q 2) := by omega
  change execUpdateWrite io s = _
  rw [execUpdateWrite, runMailbox_of_starts h]
  dsimp only
  rw [if_neg ha, if_neg hg] <;> rfl

/-- The state and the reply that UPDATE_CHECK of a staged package gives (R490). -/
def checkedUpdate (s : State) (bank : Nat) : State × Ans :=
  match packageFault s bank s.keys.did with
  | some e => (setUpd s .writing bank, { code := rImageInvalid, data := [BitVec.ofNat 32 e] })
  | none =>
    if versionOk s (manSecVersion (manifestBody s bank)) then
      (setUpd s .checked bank, { code := rOk, data := [BitVec.ofNat 32 (manSecVersion (manifestBody s bank)),
        BitVec.ofNat 32 (manImageLen (manifestBody s bank))] })
    else (setUpd s .writing bank, { code := rVersionLow })

theorem checkedUpdate_per (s : State) (bank : Nat) : (checkedUpdate s bank).1.per = s.per := by
  unfold checkedUpdate
  split
  · rfl
  · split <;> rfl

theorem checkedUpdate_fault {s : State} {bank e : Nat} (h : packageFault s bank s.keys.did = some e) :
    checkedUpdate s bank = (setUpd s .writing bank, { code := rImageInvalid, data := [BitVec.ofNat 32 e] }) := by
  unfold checkedUpdate
  simp only [h]

theorem checkedUpdate_version {s : State} {bank : Nat} (h : packageFault s bank s.keys.did = none) :
    (versionOk s (manSecVersion (manifestBody s bank)) = true →
      (checkedUpdate s bank).2.code = rOk ∧ (checkedUpdate s bank).1 = setUpd s .checked bank) ∧
    (versionOk s (manSecVersion (manifestBody s bank)) = false →
      (checkedUpdate s bank).2.code = rVersionLow ∧ (checkedUpdate s bank).1 = setUpd s .writing bank) := by
  unfold checkedUpdate
  simp only [h]
  refine ⟨fun hv => ?_, fun hv => ?_⟩
  · simp only [hv, if_true, and_self]
  · simp only [hv, Bool.false_eq_true, if_false, and_self]

theorem exec_updateCheck_staged {s : State} {i : Nat} {q : Req} (h : Starts s 0x0501 i q) (hr : argOf q 0 ≠ s.mgmt.runningBank)
    (hb : s.mgmt.updBank = argOf q 0) (hs : s.mgmt.updSt = .writing ∨ s.mgmt.updSt = .checked) :
    exec .updateCheck s = .next (finishReq (updNoted (checkedUpdate s (argOf q 0)).1 (checkedUpdate s (argOf q 0)).2) i
      (checkedUpdate s (argOf q 0)).2) := by
  have ha : s.mgmt.updSt ≠ .activated := by rcases hs with hs | hs <;> rw [hs] <;> decide
  have hst : (s.mgmt.updBank == argOf q 0 && (s.mgmt.updSt == .writing || s.mgmt.updSt == .checked)) = true := by
    rcases hs with hs | hs <;> simp [hb, hs]
  change execUpdateCheck s = _
  rw [execUpdateCheck, runMailbox_of_starts h]
  dsimp only
  rw [if_neg ha, if_neg hr, hst, Bool.not_true, if_neg Bool.false_ne_true]
  unfold checkedUpdate
  cases packageFault s (argOf q 0) s.keys.did with
  | some e => exact ranNext_updReply _ _ _ _
  | none =>
    cases versionOk s (manSecVersion (manifestBody s (argOf q 0))) with
    | true => exact ranNext_updReply _ _ _ _
    | false => exact ranNext_updReply _ _ _ _

/-- The state in which the activation of a bank waits for its intent (R491). -/
def activationQueued (s : State) (bank v : Nat) : State :=
  enqueue { s with mgmt := { s.mgmt with keypath := true } } (.intent 5 0 0 0 0 0 bank v 0) (.activate bank v)

theorem activationQueued_spec (s : State) (bank v : Nat) : (activationQueued s bank v).mgmt.keypath = true ∧
    (activationQueued s bank v).per.queue =
      s.per.queue ++ [({ payload := .intent 5 0 0 0 0 0 bank v 0 }, .activate bank v)] := ⟨rfl, rfl⟩

theorem exec_updateActivate_checked {s : State} {i : Nat} {q : Req} (h : Starts s 0x0502 i q) (hr : argOf q 0 ≠ s.mgmt.runningBank)
    (hs : s.mgmt.updSt = .checked) (hb : s.mgmt.updBank = argOf q 0) (hp : rosterPending s = false) :
    exec .updateActivate s = ranNext i q (
      if (packageFault s (argOf q 0) s.keys.did).isSome then updCode s rSequence
      else (.park, activationQueued s (argOf q 0) (manSecVersion (manifestBody s (argOf q 0))))) := by
  have ha : s.mgmt.updSt ≠ .activated := by rw [hs]; decide
  have hc : ¬ (s.mgmt.updSt ≠ .checked ∨ s.mgmt.updBank ≠ argOf q 0) := by simp [hs, hb]
  change execUpdateActivate s = _
  rw [execUpdateActivate, runMailbox_of_starts h]
  dsimp only
  rw [if_neg ha, if_neg hr, if_neg hc, hp, if_neg Bool.false_ne_true]
  rfl

/-- The state that UPDATE_ABANDON leaves: the header is cleared, and no update goes on (R484). -/
def abandonedUpdate (s : State) (bank : Nat) : State := setUpd (writeBank s bank 0 (zeros 64)) .idle 0

theorem exec_updateAbandon {s : State} {i : Nat} {q : Req} (h : Starts s 0x0503 i q) (hb : argOf q 0 ≤ 1)
    (hr : argOf q 0 ≠ s.mgmt.runningBank) (ha : s.mgmt.updSt ≠ .activated) (he : updElsewhere s (argOf q 0) = false) :
    exec .updateAbandon s = .next (finishReq (updNoted (abandonedUpdate s (argOf q 0)) { code := rOk }) i { code := rOk }) := by
  have hc : ¬ (1 < argOf q 0 ∨ updElsewhere s (argOf q 0) = true) := by simp [he, hb]
  change execUpdateAbandon s = _
  rw [execUpdateAbandon, runMailbox_of_starts h]
  dsimp only
  rw [if_neg ha, if_neg hr, if_neg hc]
  rfl

theorem bankMem_abandonedUpdate (s : State) (bank : Nat) :
    bankMem (abandonedUpdate s bank) bank = memWriteBytes (bankMem s bank) 0 (zeros 64) := bankMem_writeBank_same s bank 0 _

/-! ## Samples (R492, R588) -/

/-- The state that a sample within the ratings leaves. -/
def sampled (s : State) (x : Sample) : State :=
  { s with
    mgmt := { s.mgmt with sample := some x, sampleAt := now s }
    pwr := { (setVdd s x.vdd).pwr with vddm := x.vddm, vaon := x.vaon, vbat := x.vbat } }

theorem exec_sensorSample {s : State} {x : Sample} (ho : overRatings (.sensorSample x) = false) (hm : mainOn s = true)
    (hr : s.mgmt.st = .running) (ht : s.mgmt.sample = none ∨ s.mgmt.sampleAt + ms 1 ≤ now s) (hv : 850 ≤ x.vaon ∨ 2000 ≤ x.vbat) :
    exec (.sensorSample x) s = .next (sampled s x) := by
  have hc : ¬ (!mainOn s ∨ s.mgmt.st ≠ .running ∨ (s.mgmt.sample.isSome ∧ now s < s.mgmt.sampleAt + ms 1)) := by
    rcases ht with ht | ht
    · simp [hm, hr, ht]
    · simp only [hm, hr, Bool.not_true, Bool.false_eq_true, ne_eq, not_true_eq_false, false_or]
      omega
  have hs : aonDown (sampled s x) = sampled s x := aonDown_of_supplied (aonAbsent_of_supplied hv)
  change execSensorSample x s = _
  have hb : ¬ beyondMaximum x.vdd x.vddm x.vaon x.vbat = true := ne_true_of_eq_false ho
  rw [execSensorSample, if_neg hb, if_neg hc]
  exact congrArg Host.Outcome.next hs

end Sys2Proof.Machine
end

section
/-! CERTIFICATES. Firmware updates (R484, R489 to R491) and the sensor hub (R492, R493, R588). -/
namespace Sys2Proof.Machine

/-- Settles O57: the write by `writePart_spec`, the other update commands by their refusals in turn, the sample by its record. -/
theorem updatesAndSensors : Obligations.UpdatesAndSensors := by
  refine ⟨fun s t io i q b h ha => ?_, fun s i q h hr hb hs => ?_, fun s i q h hr hs hb hp => ?_, fun s i q h hb hr ha he => ?_,
    fun s io i q h ha hf hw => ?_, fun s x ho hm hr ht hv => ?_⟩
  · intro bank off len hb ho ho' hl hl' hm he
    have hx := exec_updateWrite (io := io) h ha hb ho ho' hl hl' hm he
    refine ⟨fun hr => ?_, fun hr hn hi => ?_⟩
    · rw [if_pos hr] at hx
      exact ⟨_, hx, rfl⟩
    · have ht := readInput_data hi
      have hlen : b.length = len := readInput_length hi
      rw [if_neg hr, if_neg (ne_true_of_eq_false hn), hi] at hx
      have hmem : ∀ o, bankMem t o = bankMem s o := fun o => bankMem_congr (by rw [ht]; rfl) o
      have hupd : t.mgmt.updSt = s.mgmt.updSt := by rw [ht]; rfl
      obtain ⟨h0, h1, h2, h3⟩ := writePart_spec (s := t) (x := b) hb ho'
      rw [hlen] at h0 h1
      refine ⟨_, hx, rfl, rfl, fun k hk _ => h0 k hk, fun a h64 hout => (h1 a h64 hout).trans (by rw [hmem]), fun o hz hne =>
        (h2 o hz hne).trans (hmem o), fun hw => h3 (by rw [hupd]; exact hw)⟩
  · refine ⟨_, _, exec_updateCheck_staged h hr hb hs, fun e hf => ?_, fun hf => ?_, ?_⟩
    · rw [checkedUpdate_fault hf]
      exact ⟨rfl, rfl⟩
    · obtain ⟨hok, hlow⟩ := checkedUpdate_version hf
      refine ⟨fun hv => ?_, fun hv => ?_⟩
      · obtain ⟨hc, hu⟩ := hok hv
        rw [hu]
        exact ⟨hc, rfl, rfl⟩
      · obtain ⟨hc, hu⟩ := hlow hv
        rw [hu]
        exact ⟨hc, rfl⟩
    · exact (updNoted_per _ _).trans (checkedUpdate_per s (argOf q 0))
  · have hx := exec_updateActivate_checked h hr hs hb hp
    cases hf : packageFault s (argOf q 0) s.keys.did with
    | some e =>
      rw [hf, Option.isSome_some, if_pos rfl] at hx
      exact ⟨_, hx, fun h => nomatch h⟩
    | none =>
      rw [hf, Option.isSome_none, if_neg Bool.false_ne_true, ranNext_park] at hx
      exact ⟨_, hx, fun _ => ⟨_, rfl, activationQueued_spec s _ _⟩⟩
  · refine ⟨_, exec_updateAbandon h hb hr ha he, rfl, fun a h64 => ?_⟩
    rw [bankMem_updNoted, bankMem_abandonedUpdate]
    exact memRead_zeros h64
  · change execSensorRead io s = _
    rw [execSensorRead, runMailbox_of_starts h, reportBlock_written ha hf hw]
    rfl
  · exact ⟨_, exec_sensorSample ho hm hr ht hv, rfl, rfl, rfl, rfl, rfl, rfl, rfl, rfl⟩

end Sys2Proof.Machine
end

section
/-! SUPPORT. Rules for the ledger and the audit log: what a committed record moves and keeps (R417, R421 to R425), where a log record goes
(R435, R436, R443), and what LOG_EXPORT writes (R438, R439). -/
namespace Sys2Proof.Machine

/-! ## Counters (R424, R425) -/

theorem counterOf_moveCounter (s : State) (m : Nat × Nat) (c : Nat) :
    counterOf (moveCounter s m) c = if c = m.1 then max (counterOf s m.1) m.2 else counterOf s c := look_put _ _ _ _ _

theorem counterOf_moveCounter_ge (s : State) (m : Nat × Nat) (c : Nat) : counterOf s c ≤ counterOf (moveCounter s m) c := by
  rw [counterOf_moveCounter]
  split
  · next h => rw [h]; exact Nat.le_max_left _ _
  · exact Nat.le_refl _

/-- No move lowers a counter. -/
theorem counterOf_moveCounters_ge (l : List (Nat × Nat)) (s : State) (c : Nat) : counterOf s c ≤ counterOf (l.foldl moveCounter s) c := by
  induction l generalizing s with
  | nil => exact Nat.le_refl _
  | cons m r ih => exact Nat.le_trans (counterOf_moveCounter_ge s m c) (ih _)

/-- Each counter moved is at least what its move names. -/
theorem le_counterOf_moveCounters {l : List (Nat × Nat)} {m : Nat × Nat} (h : m ∈ l) (s : State) :
    m.2 ≤ counterOf (l.foldl moveCounter s) m.1 := by
  induction l generalizing s with
  | nil => exact absurd h List.not_mem_nil
  | cons a r ih =>
    rcases List.mem_cons.mp h with rfl | h
    · refine Nat.le_trans ?_ (counterOf_moveCounters_ge r _ _)
      rw [counterOf_moveCounter, if_pos rfl]
      exact Nat.le_max_right _ _
    · exact ih h _

/-! ## Commits (R417, R421, R422) -/

/-- The rows, the next sequence number, the credit and the counters of two states agree. -/
def SameRows (s t : State) : Prop :=
  t.per.ledger = s.per.ledger ∧ t.per.nextSeq = s.per.nextSeq ∧ t.per.credit = s.per.credit ∧ t.per.counters = s.per.counters

theorem SameRows.trans {a b c : State} (h : SameRows a b) (k : SameRows b c) : SameRows a c := by
  obtain ⟨h0, h1, h2, h3⟩ := h
  obtain ⟨k0, k1, k2, k3⟩ := k
  exact ⟨k0.trans h0, k1.trans h1, k2.trans h2, k3.trans h3⟩

theorem OnlyTraffic.rows {s t : State} (h : OnlyTraffic s t) : SameRows s t := by
  unfold SameRows
  rw [h.per]
  exact ⟨rfl, rfl, rfl, rfl⟩

theorem clearZone_rows (s : State) (seq : Nat) : SameRows s (clearZone s seq) := by
  unfold clearZone
  dsimp only
  split
  · exact ⟨rfl, rfl, rfl, rfl⟩
  · split
    · exact ⟨rfl, rfl, rfl, rfl⟩
    · split <;> exact ⟨rfl, rfl, rfl, rfl⟩

theorem throttle_rows (s : State) : SameRows s (throttle s) := by
  unfold throttle
  split
  · exact SameRows.trans (b := { s with per := { s.per with throttled := true } }) ⟨rfl, rfl, rfl, rfl⟩
      (notifyManager_traffic _ 9).1.rows
  · exact ⟨rfl, rfl, rfl, rfl⟩

/-- Moving counters leaves rows, sequence number and credit. -/
theorem moveCounters_per (l : List (Nat × Nat)) (s : State) : (l.foldl moveCounter s).per.ledger = s.per.ledger ∧
    (l.foldl moveCounter s).per.nextSeq = s.per.nextSeq ∧ (l.foldl moveCounter s).per.credit = s.per.credit := by
  induction l generalizing s with
  | nil => exact ⟨rfl, rfl, rfl⟩
  | cons m r ih => exact ih (moveCounter s m)

/-- Beside its counter moves a record's effects leave rows, sequence number, credit and counters. -/
theorem applyRecord_rows (s : State) (seq : Nat) (r : LRec) :
    SameRows ((movesOf r.payload).foldl moveCounter s) (applyRecord s seq r) := by
  unfold applyRecord
  generalize (movesOf r.payload).foldl moveCounter s = u
  dsimp only
  rcases auxOf r.payload with _ | a
  all_goals
    split
    · split <;> exact ⟨rfl, rfl, rfl, rfl⟩
    all_goals exact ⟨rfl, rfl, rfl, rfl⟩

/-- The state with a record in its row, before its effects. -/
def rowWritten (s : State) (r : LRec) : State :=
  { s with per := { s.per with
    ledger := put s.per.ledger (s.per.nextSeq % 16384) { record := { r with seq := s.per.nextSeq }, bank2 := true, bank3 := true }
    nextSeq := s.per.nextSeq + 1 } }

theorem commitRecord_eq (s : State) (r : LRec) : commitRecord s r true true =
    clearZone (spendCredit (applyRecord (rowWritten s r) s.per.nextSeq r) r.carried) s.per.nextSeq := rfl

theorem commitRecord_committed (s : State) (r : LRec) : OnlyCommitted s (commitRecord s r true true) := by
  rw [commitRecord_eq]
  exact OnlyCommitted.trans (b := rowWritten s r) rfl
    (((applyRecord_committed _ _ _).trans (spendCredit_committed _ _)).trans (clearZone_committed _ _))

/-- What a commit verified in both banks does to rows, sequence number, credit and counters. -/
theorem commitRecord_spec (s : State) (r : LRec) :
    (commitRecord s r true true).per.ledger = (rowWritten s r).per.ledger ∧
    (commitRecord s r true true).per.nextSeq = s.per.nextSeq + 1 ∧
    (r.carried = false → (commitRecord s r true true).per.credit = s.per.credit - 1) ∧
    (commitRecord s r true true).per.counters = ((movesOf r.payload).foldl moveCounter (rowWritten s r)).per.counters := by
  obtain ⟨ml, ms, mc⟩ := moveCounters_per (movesOf r.payload) (rowWritten s r)
  obtain ⟨al, as, ac, ak⟩ := applyRecord_rows (rowWritten s r) s.per.nextSeq r
  obtain ⟨zl, zs, zc, zk⟩ := clearZone_rows (spendCredit (applyRecord (rowWritten s r) s.per.nextSeq r) r.carried) s.per.nextSeq
  rw [commitRecord_eq]
  rw [ml] at al
  rw [ms] at as
  rw [mc] at ac
  cases hr : r.carried with
  | true =>
    rw [hr] at zl zs zc zk
    exact ⟨zl.trans al, zs.trans as, fun h => (nomatch h), zk.trans ak⟩
  | false =>
    rw [hr] at zl zs zc zk
    generalize applyRecord (rowWritten s r) s.per.nextSeq r = u at *
    obtain ⟨tl, ts, tc, tk⟩ := throttle_rows { u with per := { u.per with credit := u.per.credit - 1 } }
    exact ⟨zl.trans (tl.trans al), zs.trans (ts.trans as), fun _ => zc.trans (tc.trans (congrArg (· - 1) ac)), zk.trans (tk.trans ak)⟩

theorem counterOf_congr {s t : State} (h : t.per.counters = s.per.counters) (c : Nat) : counterOf t c = counterOf s c := by
  unfold counterOf; rw [h]

theorem exec_ledgerCommitDone {s : State} {r : LRec} {e : Effect} {q : List (LRec × Effect)} (hm : mainOn s = true)
    (hq : s.per.queue = (r, e) :: q) (hs : s.per.nextSeq < 2 ^ 48 - 1) :
    exec (.ledgerCommitDone true true) s = .next (settle (recovered (archiveAgain (takeSnapshot
      (runEffect (commitRecord (dequeue s) r true true) s.per.nextSeq e) s.per.nextSeq)) .ledger)) ∧
    exec (.ledgerCommitDone false false) s = .next (settle (bankFault (bankFault s 2) 3)) := by
  refine ⟨?_, ?_⟩
  · change execLedgerCommitDone true true s = _
    rw [execLedgerCommitDone, if_pos hm, ledgerDone, hq]
    dsimp only
    rw [if_neg (by omega)]
    rfl
  · change execLedgerCommitDone false false s = _
    rw [execLedgerCommitDone, if_pos hm, ledgerDone, hq]
    dsimp only
    rw [if_neg (by omega)]
    rfl

/-- A record with no firmware effect leaves the write lock. -/
theorem enqueue_nothing (s : State) (p : LPayload) :
    enqueue s p .nothing = { s with per := { s.per with queue := s.per.queue ++ [({ payload := p }, .nothing)] } } := by
  simp [enqueue, firmwareRecord]

/-! ## Log records (R435, R436, R443) -/

theorem countOver_kept (s : State) : (countOver s).per.nextLseq = s.per.nextLseq ∧ (countOver s).per.audit = s.per.audit ∧
    (countOver s).per.suppressed = s.per.suppressed := by
  unfold countOver
  split <;> exact ⟨rfl, rfl, rfl⟩

/-- The state with a record in its row, before LOGMARK and LOG_FULL. -/
def auditPlaced (s : State) (r : AuditRec) : State :=
  { s with per := { s.per with nextLseq := r.lseq + 1, audit := put s.per.audit (r.lseq % 12288) r } }

theorem placeAudit_spec (s : State) (r : AuditRec) : (placeAudit s r).per.nextLseq = r.lseq + 1 ∧
    (placeAudit s r).per.audit = put s.per.audit (r.lseq % 12288) r := by
  have ho : ∀ b : Bool, (if b then countOver (auditPlaced s r) else auditPlaced s r).per.nextLseq = r.lseq + 1 ∧
      (if b then countOver (auditPlaced s r) else auditPlaced s r).per.audit = put s.per.audit (r.lseq % 12288) r := by
    intro b
    cases b
    · exact ⟨rfl, rfl⟩
    · obtain ⟨hn, ha, -⟩ := countOver_kept (auditPlaced s r)
      exact ⟨hn, ha⟩
  have hl : ∀ u : State, (u.per.nextLseq = r.lseq + 1 ∧ u.per.audit = put s.per.audit (r.lseq % 12288) r) →
      ((if (r.lseq + 1) % 256 = 0 then enqueue u (.logmark r.lseq ((sha384 (auditBytes r)).take 32)) .nothing else u).per.nextLseq =
        r.lseq + 1 ∧ (if (r.lseq + 1) % 256 = 0 then enqueue u (.logmark r.lseq ((sha384 (auditBytes r)).take 32)) .nothing
          else u).per.audit = put s.per.audit (r.lseq % 12288) r) := by
    intro u hu
    split <;> exact hu
  have hf : ∀ u : State, (u.per.nextLseq = r.lseq + 1 ∧ u.per.audit = put s.per.audit (r.lseq % 12288) r) →
      ((if unarchived u ≥ 12224 ∧ !u.per.logFull then notifyManager { u with per := { u.per with logFull := true } } 9
        else u).per.nextLseq = r.lseq + 1 ∧ (if unarchived u ≥ 12224 ∧ !u.per.logFull then
          notifyManager { u with per := { u.per with logFull := true } } 9 else u).per.audit =
          put s.per.audit (r.lseq % 12288) r) := by
    intro u hu
    split
    · rw [(notifyManager_traffic { u with per := { u.per with logFull := true } } 9).1.per]
      exact hu
    · exact hu
  exact hf _ (hl _ (ho _))

/-- The state in which a record that is not suppressed is written: its code is counted (R443). -/
def rateCounted (s : State) (code : Nat) : State := { s with per := { s.per with rate := bump s.per.rate code (2 ^ 64 - 1) } }

/-- With room, within the rate and in a row that does not fail, a record goes into its row. -/
theorem writeLog_placed {s : State} {code : Nat} (hu : unarchived s < 12224) (hr : isEvidence code = true ∨ look s.per.rate code 0 < 512)
    (hf : s.per.logRowsFail.contains (s.per.nextLseq % 12288) = false) (sl : Nat) (data : Bytes) :
    writeLog s code sl data = placeAudit (rateCounted s code) (nextAudit s code sl data) := by
  have h0 : ¬ ((!isEvidence code) = true ∧ look s.per.rate code 0 ≥ 512) := by
    rintro ⟨he, hl⟩
    rcases hr with hr | hr
    · rw [hr] at he; exact absurd he (by decide)
    · omega
  have h1 : ¬ (¬ counterOf s 10 % 2 = 1 ∧ (unarchived s ≥ 12288 ∨ (unarchived s ≥ 12224 ∧ (!isEvidence code) = true))) := by
    rintro ⟨-, h | ⟨h, -⟩⟩ <;> omega
  unfold writeLog
  dsimp only
  rw [if_neg h0, if_neg h1]
  exact if_neg (ne_true_of_eq_false hf)

/-- Past the rate a code that is no evidence is only counted. -/
theorem writeLog_suppressed {s : State} {code : Nat} (he : isEvidence code = false) (hr : 512 ≤ look s.per.rate code 0) (sl : Nat)
    (data : Bytes) : writeLog s code sl data = { s with per := { s.per with
      suppressedRate := bump s.per.suppressedRate code (2 ^ 64 - 1), suppressed := s.per.suppressed + 1 } } := by
  unfold writeLog
  dsimp only
  exact if_pos ⟨by rw [he]; rfl, hr⟩

theorem nextAudit_prev {s : State} {p : AuditRec} (hn : s.per.nextLseq ≠ 0) (hp : heldRecord s (s.per.nextLseq - 1) = some p)
    (code sl : Nat) (data : Bytes) : (nextAudit s code sl data).prev = (sha384 (auditBytes p)).take 16 := by
  unfold nextAudit
  dsimp only
  rw [hp]
  exact if_neg hn

/-! ## LOG_EXPORT (R438, R439) -/

/-- A value of the internal DRBG is at hand: no seeding is waited for, and the entropy source serves. -/
theorem entropy_of_ready {s : State} (h : internalReady s = true) : seedPending s = false ∧ entropyDown s = false := by
  have hd : entropyDown s = false := by
    unfold internalReady at h
    simp only [Bool.and_eq_true, beq_iff_eq] at h
    rw [entropyDown, h.1.1]
    rfl
  exact ⟨by rw [seedPending, h, Bool.not_true, Bool.and_false], hd⟩

theorem exec_logExport {s t : State} {io : MbxIo} {i : Nat} {q : Req} {b : Bytes} (hp : seedPending s = false) (h : Starts s 0x0301 i q)
    (ha : argsFrom q 0 = false) (hr : readInput s q.param 24 io.read = (.data b, t)) (hz : allZero (subBytes b 0x0A 6) = true) :
    exec (.logExport io) s = ranNext i q (exportLog t io (field b 0 8) (field b 8 2) (field b 0x10 8)) := by
  change execLogExport io s = _
  rw [execLogExport, hp, if_neg Bool.false_ne_true, runMailbox_of_starts h, ha, if_neg Bool.false_ne_true, hr]
  dsimp only
  rw [hz]
  rfl

/-- The bytes that LOG_EXPORT of one record writes. -/
def exportOne (s : State) (first n : Nat) (r : AuditRec) : Bytes :=
  auditBytes r ++ batchStatement s first first ++ makSign s auditLabel (batchStatement s first first) n

theorem exportLog_one {s : State} {io : MbxIo} {first buf : Nat} {r : AuditRec} (hb : buf % 64 = 0)
    (ho : outputFault s buf 4915 = none) (hr : heldRecord s first = some r) (hm : s.keys.mak.isSome = true)
    (he : entropyDown s = false) (hw : io.write = .ok) : exportLog s io first 1 buf = (.reply { code := rOk },
      emit (drawRandom s).2 (writeNote (drawRandom s).2 0 buf (exportOne (drawRandom s).2 first (drawRandom s).1 r))) := by
  have hl : (List.range 1).map (fun i => heldRecord s (first + i)) = [some r] := by
    rw [List.range_one, List.map_singleton, Nat.add_zero, hr]
  have hc : ¬ (buf % 64 ≠ 0 ∨ 1 = 0 ∨ 256 < 1) := by omega
  have hg : ¬ ([some r].any (·.isNone) = true ∨ s.keys.mak.isNone = true ∨ entropyDown s = true) := by
    rw [← Option.not_isSome, hm, he]
    simp
  unfold exportLog
  dsimp only
  rw [if_neg hc, ho, hl]
  dsimp only
  rw [if_neg hg, hw, List.flatMap_singleton]
  rfl

/-- A value drawn changes nothing of what LOG_EXPORT says. -/
theorem exportOne_congr {s t : State} (hk : t.keys = s.keys) (hp : t.per = s.per) (first n : Nat) (r : AuditRec) :
    exportOne t first n r = exportOne s first n r := by
  have hb : batchStatement t first first = batchStatement s first first := by
    unfold batchStatement heldRecord auditOf ledgerEpoch counterOf
    rw [hk, hp]
  unfold exportOne makSign
  rw [hb, hk]

end Sys2Proof.Machine
end

section
/-! CERTIFICATES. The ledger's commits and timers (R417, R422, R424, R425, R432, R439, R441) and the audit log (R435 to R443). -/
namespace Sys2Proof.Machine

/-- Settles O52: the commit by `commitRecord_spec` and the moves of its counters, the timers by their conditions. -/
theorem ledgerCommits : Obligations.LedgerCommits := by
  refine ⟨fun s r e q hm hq hs => ?_, fun s hm hd hq => ?_, fun s hm hd hq => ?_, fun s hm hg => ?_, fun s hm ha ht => ?_,
    fun s io i q h ha hf hw => ?_⟩
  · obtain ⟨hx, hy⟩ := exec_ledgerCommitDone hm hq hs
    obtain ⟨hl, hn, hc, hk⟩ := commitRecord_spec (dequeue s) r
    have hcnt := counterOf_congr (s := (movesOf r.payload).foldl moveCounter (rowWritten (dequeue s) r)) hk
    have ho := commitRecord_committed (dequeue s) r
    refine ⟨⟨hx, ?_, hn, hc, fun m h => ?_, fun c => ?_, ho.keys, ?_⟩, hy⟩
    · rw [hl]
      exact look?_put _ _ _ _ ▸ if_pos rfl
    · rw [hcnt]
      exact le_counterOf_moveCounters h _
    · rw [hcnt]
      exact counterOf_moveCounters_ge _ (rowWritten (dequeue s) r) c
    · unfold OnlyCommitted at ho
      rw [ho]
      rfl
  · exact if_pos ⟨hm, hd, by rw [hq]; rfl⟩
  · refine ⟨_, if_pos ⟨hm, hd, by rw [hq]; rfl⟩, ?_⟩
    rw [enqueue_nothing]
    exact ⟨rfl, rfl, rfl⟩
  · have hc : ¬ ((!mainOn s) = true ∨ (now s - s.per.creditAt) * 32768 / ms 1000 = 0) := by
      rw [hm]
      exact fun h => h.elim (fun h => (nomatch h)) (Nat.ne_of_gt hg)
    exact ⟨_, if_neg hc, rfl, rfl, rfl⟩
  · exact if_pos ⟨hm, ha, ht⟩
  · change execPersistStatus io s = _
    rw [execPersistStatus, runMailbox_of_starts h, reportBlock_written ha hf hw]
    rfl

/-- Settles O53: a record is placed or suppressed, and LOG_EXPORT draws, signs and writes. -/
theorem auditLog : Obligations.AuditLog := by
  refine ⟨fun s code sl data hu hr hf => ?_, fun s code sl data he hr => ?_, fun s hm ht => if_pos ⟨hm, ht⟩,
    fun s t io i q b hp h ha hr hz => ⟨?_, fun r hc hb ho hh hm hi hw => ?_⟩⟩
  · obtain ⟨hn, ha⟩ := placeAudit_spec (rateCounted s code) (nextAudit s code sl data)
    dsimp only
    rw [writeLog_placed hu hr hf]
    refine ⟨hn, nextAudit s code sl data, ?_, rfl, rfl, rfl, rfl, rfl, fun h0 p hp => nextAudit_prev h0 hp code sl data⟩
    have hk : look? (placeAudit (rateCounted s code) (nextAudit s code sl data)).per.audit (s.per.nextLseq % 12288) =
        some (nextAudit s code sl data) := by
      rw [ha]
      exact look?_put _ _ _ _ ▸ if_pos rfl
    rw [auditOf, hk]
    exact if_pos rfl
  · dsimp only
    rw [writeLog_suppressed he hr]
    exact ⟨rfl, rfl, rfl⟩
  · rw [exec_logExport hp h ha hr hz]
    rcases exportLog t io (field b 0 8) (field b 8 2) (field b 0x10 8) with ⟨a | _, u⟩
    · rfl
    · rfl
  · have ht := readInput_data hr
    have hx := exec_logExport hp h ha hr hz
    have hd : entropyDown t = false := by
      rw [ht]
      exact (entropy_of_ready hi).2
    rw [hc, exportLog_one (s := t) hb (by rw [ht]; exact ho) hh (by rw [ht]; exact hm) hd hw] at hx
    obtain ⟨e, he⟩ := drawRandom_ent t
    refine ⟨_, (drawRandom t).1, hx, ?_, ?_⟩
    · have hk : (drawRandom t).2.keys = s.keys ∧ (drawRandom t).2.per = s.per := by rw [he, ht]; exact ⟨rfl, rfl⟩
      rw [exportOne_congr hk.1 hk.2, he, ht]
      rfl
    · rw [he, ht]
      rfl

end Sys2Proof.Machine
end

section
/-! SUPPORT. Rules for mirror groups: what messages out leave of the group's state (R558), who hears a message (R559, R561, R569), and what
leases and their timers do (R560 to R562, R565, R568). -/
namespace Sys2Proof.Machine

/-! ## Messages out (R558, R561) -/

/-- Nothing but the peers' records, the outbound queue, vector 14 and traffic has changed. -/
def OnlyMessaged (s t : State) : Prop := t = { s with
  fabric := t.fabric, irq := t.irq, drawn := t.drawn
  mir := { s.mir with peers := t.mir.peers, outbound := t.mir.outbound, lastVector := t.mir.lastVector } }

theorem OnlyMessaged.refl (s : State) : OnlyMessaged s s := rfl
theorem OnlyMessaged.trans {a b c : State} (h : OnlyMessaged a b) (k : OnlyMessaged b c) : OnlyMessaged a c := by
  unfold OnlyMessaged at *; rw [k, h]
theorem OnlyTraffic.messaged {a b : State} (h : OnlyTraffic a b) : OnlyMessaged a b := by
  unfold OnlyTraffic OnlyMessaged at *; rw [h]

theorem foldl_messaged {α : Type} {f : State → α → State} (hf : ∀ s a, OnlyMessaged s (f s a)) (l : List α) (s : State) :
    OnlyMessaged s (l.foldl f s) := by
  induction l generalizing s with
  | nil => exact .refl s
  | cons a r ih => exact (hf s a).trans (ih _)

theorem setPeer_messaged (s : State) (i : Nat) (p : Peer) : OnlyMessaged s (setPeer s i p) := rfl

theorem mirrorVector_messaged (s : State) : OnlyMessaged s (mirrorVector s) := by
  have hv : OnlyMessaged s (notifyManager { s with mir := { s.mir with lastVector := some (now s) } } 14) :=
    OnlyMessaged.trans (by rfl) (notifyManager_traffic _ 14).1.messaged
  unfold mirrorVector
  dsimp only
  split
  · split
    · rfl
    · exact hv
  · exact hv

theorem mirSend_messaged (s : State) (dest type : Nat) (body : Bytes) : OnlyMessaged s (mirSend s dest type body) := by
  unfold mirSend
  dsimp only
  split
  · rfl
  · exact OnlyMessaged.trans (by rfl) (mirrorVector_messaged _)

theorem mirAsk_messaged (s : State) (dest type : Nat) (body : Bytes) : OnlyMessaged s (mirAsk s dest type body) := by
  unfold mirAsk
  split
  · rfl
  · exact (mirSend_messaged s dest type body).trans (setPeer_messaged _ _ _)

theorem dropAllAsks_messaged (s : State) (types : List Nat) : OnlyMessaged s (dropAllAsks s types) :=
  foldl_messaged (fun s i => setPeer_messaged s i _) _ s

/-! ## Leases (R562, R563) -/

/-- The state in which a round of lease requests begins: this core's own vote stands. -/
def roundBegun (s : State) : State := { s with mir := { s.mir with requestedAt := now s, votes := [s.mir.own] } }

theorem requestLeases_messaged (s : State) : OnlyMessaged (roundBegun s) (requestLeases s) :=
  foldl_messaged (fun s i => (setPeer_messaged s i _).trans (mirAsk_messaged _ _ _ _)) _ (roundBegun s)

/-- What a round of lease requests leaves of a claim. -/
theorem requestLeases_spec (s : State) : (requestLeases s).mir.candidate = s.mir.candidate ∧
    (requestLeases s).mir.term = s.mir.term ∧ (requestLeases s).mir.grantedTerm = s.mir.grantedTerm ∧
    (requestLeases s).mir.votes = [s.mir.own] ∧ (requestLeases s).mir.leader = s.mir.leader ∧
    (requestLeases s).mir.st = s.mir.st := by
  have h := requestLeases_messaged s
  unfold OnlyMessaged at h
  rw [h]
  exact ⟨rfl, rfl, rfl, rfl, rfl, rfl⟩

/-- The state of a leader whose lease has ended, before it says so. -/
def leaseGone (s : State) : State :=
  { s with mir := { s.mir with leader := .none, votes := [], granters := [], granting := [], lastHeartbeat := now s } }

theorem stepDown_of_leader {s : State} (h : s.mir.st = .leader) : stepDown s =
    dropAllAsks (notifyManager { leaseGone s with mir := { (leaseGone s).mir with st := .member } } 14) [0x10, 0x21, 0x24] := by
  have hs : (leaseGone s).mir.st ≠ .member := by
    change s.mir.st ≠ .member
    rw [h]
    decide
  have hm : setMirror (leaseGone s) .member =
      notifyManager { leaseGone s with mir := { (leaseGone s).mir with st := .member } } 14 := if_neg hs
  rw [← hm]
  exact if_neg (not_not_intro h)

theorem stepDown_messaged {s : State} (h : s.mir.st = .leader) :
    OnlyMessaged { leaseGone s with mir := { (leaseGone s).mir with st := .member } } (stepDown s) := by
  rw [stepDown_of_leader h]
  exact (notifyManager_traffic _ 14).1.messaged.trans (dropAllAsks_messaged _ _)

theorem stepDown_spec {s : State} (h : s.mir.st = .leader) :
    (stepDown s).mir.st = .member ∧ (stepDown s).mir.leader = none ∧ (stepDown s).mir.granting = [] := by
  have hm := stepDown_messaged h
  unfold OnlyMessaged at hm
  rw [hm]
  exact ⟨rfl, rfl, rfl⟩

/-- The grant held out, and the time, are as they were. -/
def GrantKept (s t : State) : Prop := t.mir.grant = s.mir.grant ∧ now t = now s

theorem GrantKept.trans {a b c : State} (h : GrantKept a b) (k : GrantKept b c) : GrantKept a c := ⟨k.1.trans h.1, k.2.trans h.2⟩

theorem OnlyMessaged.grant {s t : State} (h : OnlyMessaged s t) : GrantKept s t := by
  unfold OnlyMessaged at h
  rw [h]
  exact ⟨rfl, rfl⟩

theorem GrantKept.held {s t : State} (h : GrantKept s t) : grantHeld t = grantHeld s := by
  unfold grantHeld
  rw [h.1, h.2]

theorem stepDown_grant (s : State) : GrantKept s (stepDown s) := by
  by_cases h : s.mir.st = .leader
  · exact (stepDown_messaged h).grant
  · rw [stepDown, if_pos h]
    exact ⟨rfl, rfl⟩

theorem hearCounter_grant (s : State) (i c : Nat) : GrantKept s (hearCounter s i c) := by
  unfold hearCounter
  dsimp only
  split
  · exact (setPeer_messaged s i _).grant.trans (stepDown_grant _)
  · exact (setPeer_messaged s i _).grant

theorem withdrawClaim_grant (s : State) : GrantKept s (withdrawClaim s) :=
  GrantKept.trans (b := { s with mir := { s.mir with candidate := false, votes := [] } }) ⟨rfl, rfl⟩ (dropAllAsks_messaged _ _).grant

theorem answerLease_refused_grant (s : State) (m : Msg) : GrantKept s (answerLease s m false) := (mirSend_messaged s _ _ _).grant

/-- A grant held for another core forbids one to this sender. -/
theorem mayGrant_of_held {s : State} {m : Msg} {g : Nat × Nat × Nat} (h : grantHeld s = some g) (hg : g.2.1 ≠ m.sender) :
    mayGrant s m = false := by
  have hb : (g.2.1 == m.sender) = false := beq_eq_false_iff_ne.mpr hg
  simp [mayGrant, h, hb]

/-- Whatever the answer, the grant held for another core stays where it is (R562). -/
theorem hearLeaseRequest_grant {s : State} {m : Msg} {g : Nat × Nat × Nat} (h : grantHeld s = some g) (hg : g.2.1 ≠ m.sender) :
    (hearLeaseRequest s m).2.mir.grant = s.mir.grant := by
  have hc := hearCounter_grant s m.sender (field m.body 0 8)
  unfold hearLeaseRequest
  dsimp only
  generalize hearCounter s m.sender (field m.body 0 8) = u at hc
  have hu : mayGrant u m = false := mayGrant_of_held (hc.held.trans h) hg
  split
  · exact (hc.trans (answerLease_refused_grant u m)).1
  · split
    · split
      · have hw := hc.trans ((withdrawClaim_grant u).trans (c := { withdrawClaim u with mir := { (withdrawClaim u).mir with
          grantedTerm := min (withdrawClaim u).mir.grantedTerm (m.term - 1)
          noClaimUntil := now (withdrawClaim u) + 2 * leaseTicks (withdrawClaim u) } }) ⟨rfl, rfl⟩)
        rw [mayGrant_of_held (hw.held.trans h) hg]
        exact (hw.trans (answerLease_refused_grant _ m)).1
      · exact (hc.trans (answerLease_refused_grant u m)).1
    · rw [hu]
      exact (hc.trans (answerLease_refused_grant u m)).1

/-! ## Timers of the group (R558, R560 to R562, R565, R568) -/

/-- The state in which a claim goes out. -/
def claimBegun (s : State) : State :=
  { s with mir := { s.mir with term := s.mir.term + 1, grantedTerm := s.mir.term + 1, candidate := true, leader := .none } }

theorem exec_heartbeatTimeout {s : State} (hs : serving s = true) (hm : s.mir.st = .member) (hc : claimAt s ≤ now s)
    (hj : settledIn s = true) (hn : s.mir.noClaimUntil ≤ now s) (hg : grantHeld s = none) :
    exec .heartbeatTimeout s = .next (requestLeases (claimBegun s)) := by
  have h : ¬ (!serving s ∨ s.mir.st ≠ .member ∨ now s < claimAt s ∨ !settledIn s ∨ now s < s.mir.noClaimUntil ∨ (grantHeld s).isSome) := by
    simp [hs, hm, hc, hj, hn, hg]
  exact if_neg h

theorem mirrorVector_again {s : State} {t : Nat} (h : s.mir.lastVector = some t) (ht : t + us 10 ≤ now s) :
    mirrorVector s = notifyManager { s with mir := { s.mir with lastVector := some (now s) } } 14 := by
  unfold mirrorVector
  rw [h]
  exact if_neg (Nat.not_lt.mpr ht)

/-! ## Messages in (R558, R559, R561) -/

/-- The reply to a message that is discarded whatever it says. -/
def discardReply : Ans := { code := rBadParam, data := [0] }

/-- A message whose row is asked for is heard, or discarded where no member of a group can hear it. -/
theorem giveRow_read {s t : State} {io : MbxIo} {i : Nat} {q : Req} {b : Bytes} {type : Nat} {f : State → Msg → Heard × State}
    (h : Starts s 0x0703 i q) (ha : argsFrom q 1 = false) (hr : readInput s q.param (argOf q 0) io.read = (.data b, t))
    (ht : field b 8 1 = type) : giveRow type f io s =
      match if inGroup s then parseMsg s b else none with
      | none => .next (finishReq (countDropped t) i discardReply)
      | some m => if (f t m).1 = .stay then .next s else .next (heardReply i (f t m)) := by
  have hc : ¬ q.cmd ≠ 0x0703 := not_not_intro h.command
  have hm : ¬ (msgTypes.contains (field b 8 1) = true ∧ field b 8 1 ≠ type) := fun k => k.2 ht
  simp only [giveRow, h.next]
  rw [if_neg hc, h.allowed, if_neg Bool.false_ne_true, ha, if_neg Bool.false_ne_true, hr]
  dsimp only
  rw [if_neg hm]
  generalize (if inGroup s then parseMsg s b else none) = p
  cases p with
  | none => rfl
  | some m =>
    dsimp only
    rcases f t m with ⟨_ | n | n | _, u⟩
    · rfl
    · rfl
    · rfl
    · rfl

/-- What one row answers to a message of its type. -/
def RowHears (type : Nat) (x : MbxIo → Instr) (f : State → Msg → Heard × State) : Prop :=
  ∀ (s t : State) (io : MbxIo) (i : Nat) (q : Req) (b : Bytes), Starts s 0x0703 i q → argsFrom q 1 = false →
    readInput s q.param (argOf q 0) io.read = (.data b, t) →
    (∀ m, field b 8 1 = type → inGroup s = true → parseMsg s b = some m →
      ((f t m).1 ≠ .stay → exec (x io) s = .next (heardReply i (f t m))) ∧ ((f t m).1 = .stay → exec (x io) s = .next s)) ∧
    (inGroup s = false → field b 8 1 = type → ∃ u, u.mir.discarded = s.mir.discarded + 1 ∧
      u = { s with mir := u.mir, outbox := t.outbox } ∧ exec (x io) s = .next (finishReq u i discardReply))

/-- Every command that runs `giveRow` for its type is such a row. -/
theorem rowHears_of_giveRow {type : Nat} {x : MbxIo → Instr} {f : State → Msg → Heard × State}
    (hx : ∀ io s, exec (x io) s = giveRow type f io s) : RowHears type x f := by
  intro s t io i q b h ha hr
  refine ⟨fun m ht hg hm => ?_, fun hg ht => ?_⟩
  · have he := (hx io s).trans (giveRow_read h ha hr ht)
    rw [if_pos hg, hm] at he
    exact ⟨fun hs => he.trans (if_neg hs), fun hs => he.trans (if_pos hs)⟩
  · have he := (hx io s).trans (giveRow_read h ha hr ht)
    rw [if_neg (ne_true_of_eq_false hg)] at he
    refine ⟨countDropped t, ?_, ?_, he⟩
    · rw [readInput_data hr]
      rfl
    · rw [readInput_data hr]
      rfl

/-- A message accepted moves the counter of its direction and the term. -/
theorem noteMsg_spec (s : State) (m : Msg) : (peerOf (noteMsg s m) m.sender).ctrIn = m.ctr ∧
    (noteMsg s m).mir.term = max s.mir.term m.term ∧ (noteMsg s m).mir.accepted = s.mir.accepted + 1 := by
  refine ⟨?_, rfl, rfl⟩
  have hp : peerOf (noteMsg s m) m.sender = { peerOf s m.sender with ctrIn := m.ctr } := look_put_same _ _ _ _
  rw [hp]

/-- A message whose counter has been reached is not accepted (R558). -/
theorem tagAccepts_of_old {s : State} {m : Msg} (h : m.ctr ≤ (peerOf s m.sender).ctrIn) : tagAccepts s m = false := by
  simp [tagAccepts, Nat.not_lt.mpr h]

end Sys2Proof.Machine
end

section
/-! CERTIFICATES. Messages of a mirror group (R558 to R561, R569) and its leases and timers (R558 to R562, R565, R568). -/
namespace Sys2Proof.Machine

/-- Settles O59: the sixteen rows are one function of type and hearer, and a counter once reached refuses the message. -/
theorem mirrorMessages : Obligations.MirrorMessages := by
  refine ⟨?_, fun f s m h => ?_, fun s m h => ?_⟩
  · have hall : ∀ e ∈ ([(0x01, .joinOffer, hearOffer), (0x02, .joinAccept, hearAccept), (0x03, .joinRefused, hearRefused),
        (0x10, .leaseRequest, hearTagged hearLeaseRequest), (0x11, .leaseGrant, hearTagged hearLeaseGrant),
        (0x12, .heartbeat, hearTagged hearHeartbeat), (0x20, .blockRequest, hearTagged hearBlockRequest),
        (0x21, .blockRecord, hearTagged hearBlockRecord), (0x22, .blockAck, hearTagged hearBlockAck),
        (0x23, .blockGrant, hearTagged hearBlockGrant), (0x24, .endLookup, hearTagged hearEndLookup),
        (0x25, .endReply, hearTagged hearEndReply), (0x30, .journalRequest, hearTagged hearJournalRequest),
        (0x31, .journalEntry, hearTagged hearJournalEntry), (0x40, .time, hearTagged hearTime), (0x50, .leave, hearTagged hearLeave)] :
        List (Nat × (MbxIo → Instr) × (State → Msg → Heard × State))), RowHears e.1 e.2.1 e.2.2 := by
      simp only [List.forall_mem_cons]
      exact ⟨rowHears_of_giveRow fun _ _ => rfl, rowHears_of_giveRow fun _ _ => rfl, rowHears_of_giveRow fun _ _ => rfl,
        rowHears_of_giveRow fun _ _ => rfl, rowHears_of_giveRow fun _ _ => rfl, rowHears_of_giveRow fun _ _ => rfl,
        rowHears_of_giveRow fun _ _ => rfl, rowHears_of_giveRow fun _ _ => rfl, rowHears_of_giveRow fun _ _ => rfl,
        rowHears_of_giveRow fun _ _ => rfl, rowHears_of_giveRow fun _ _ => rfl, rowHears_of_giveRow fun _ _ => rfl,
        rowHears_of_giveRow fun _ _ => rfl, rowHears_of_giveRow fun _ _ => rfl, rowHears_of_giveRow fun _ _ => rfl,
        rowHears_of_giveRow fun _ _ => rfl, List.forall_mem_nil _⟩
    exact hall
  · rw [hearTagged, h]
    rfl
  · obtain ⟨hc, ht, hn⟩ := noteMsg_spec s m
    exact ⟨hc, ht, hn, tagAccepts_of_old (Nat.le_of_eq hc.symm)⟩

/-- Settles O60: a grant held is kept through every answer, and each timer acts once its time has passed. -/
theorem mirrorLeases : Obligations.MirrorLeases := by
  refine ⟨fun s m g h hg => hearLeaseRequest_grant h hg, fun s hs hm hc hj hn hg => ?_, fun s hs hl ht => ?_, fun s hl ht => ?_,
    fun s g hg ht => ?_, fun s p hs hg => ?_, fun s l hl hs hm ht => ?_, fun s t hl hm ho ht => ?_, fun s id t j hj hs ht => ⟨fun hb hp => ?_,
    fun hb hp => ?_⟩⟩
  · obtain ⟨h0, h1, h2, h3, h4, h5⟩ := requestLeases_spec (claimBegun s)
    exact ⟨_, exec_heartbeatTimeout hs hm hc hj hn hg, h0, h1, h2, h3, h4, h5.trans hm⟩
  · exact if_neg (by simp [hs, hl, ht])
  · exact ⟨_, if_pos ⟨hl, ht⟩, stepDown_spec hl⟩
  · have hn : grantHeld s = none := by
      rw [grantHeld, hg]
      exact if_neg (Nat.not_lt.mpr ht)
    exact if_pos ⟨by rw [hg]; rfl, by rw [hn]; rfl⟩
  · exact if_neg (by simp [hs, hg])
  · change execTimeRequestTimer s = _
    rw [execTimeRequestTimer, hl]
    exact if_neg (by simp [hs, hm, ht])
  · have hx : exec .mirrorVectorWindow s = .next (mirrorVector s) := by
      change execMirrorVectorWindow s = _
      rw [execMirrorVectorWindow, hl]
      exact if_pos ⟨hm, ho, ht⟩
    refine ⟨_, hx, ?_⟩
    rw [mirrorVector_again hl ht]
    have hk := (notifyManager_traffic { s with mir := { s.mir with lastVector := some (now s) } } 14).1
    refine ⟨?_, mgrEvent_notifyManager _ (by decide)⟩
    unfold OnlyTraffic at hk
    rw [hk]
  · change execBlockGrantTimeout id s = _
    rw [execBlockGrantTimeout, hj]
    exact if_pos ⟨hs, by rw [hb]; exact decide_eq_true ht, hp⟩
  · change execBehindHoldTimeout id s = _
    rw [execBehindHoldTimeout, hj]
    exact if_pos ⟨hs, by rw [hb]; exact decide_eq_true ht, hp⟩

end Sys2Proof.Machine
end

section
/-! SUPPORT. Rules for the mirror commands of the mailbox: what joining is checked for, what leaving takes, and what a buffer holds (R556,
R561, R567, R571). -/
namespace Sys2Proof.Machine

theorem inGroup_iff {s : State} : inGroup s = true ↔ s.mir.st ≠ .none := by simp [inGroup]

/-! ## MIRROR_JOIN (R555, R556) -/

/-- With a charter that names this core and the roster in force, MIRROR_JOIN turns on the charter's signatures. -/
theorem exec_mirrorJoin {s u : State} {io : MbxIo} {i : Nat} {q : Req} {b : Bytes} {c : Charter} {own : Nat} (h : Starts s 0x0700 i q)
    (ha : argsFrom q 1 = false) (hr : readInput s q.param (argOf q 0) io.read = (.data b, u)) (hc : parseCharter b = some c)
    (ho : c.dids.findIdx? (· == fit 48 s.keys.did) = some own) (hl : s.keys.lifecycle = .service) (hg : inGroup s = false)
    (hn : counterOf s 1 = c.rosterGen) (hi : internalReady s = true) : exec (.mirrorJoin io) s =
      .next (if charterSigned u c then finishReq (joinGroup u c own) i { code := rOk } else finishReq u i { code := rBadParam }) := by
  obtain ⟨hp, hd⟩ := entropy_of_ready hi
  have hu : u.keys = s.keys ∧ inGroup u = false ∧ counterOf u 1 = c.rosterGen ∧ entropyDown u = false := by
    rw [readInput_data hr]
    exact ⟨rfl, hg, hn, hd⟩
  obtain ⟨hk, hgu, hnu, hdu⟩ := hu
  change execMirrorJoin io s = _
  rw [execMirrorJoin, hp, if_neg Bool.false_ne_true, runMailbox_of_starts h, mirrorJoin, ha, if_neg Bool.false_ne_true, hr]
  dsimp only
  rw [hc]
  dsimp only
  rw [hk, ho]
  dsimp only
  rw [hl, hgu, hnu, hdu]
  cases charterSigned u c with
  | true =>
    rw [if_neg (by simp), if_neg Bool.false_ne_true, if_pos rfl]
    rfl
  | false =>
    rw [if_pos (by simp), if_neg Bool.false_ne_true]
    rfl

/-! ## MIRROR_LEAVE (R571) -/

/-- What a group left behind leaves of the mirror state: the outbound queue and the counts. -/
def leftMirror (m : Mirror) : Mirror :=
  { outbound := m.outbound, accepted := m.accepted, discarded := m.discarded, blocksGranted := m.blocksGranted, lastVector := m.lastVector }

theorem leaveGroup_mir {s : State} (h : inGroup s = true) (reason : Nat) : ∃ m, (leaveGroup s reason).mir = leftMirror m := by
  unfold leaveGroup
  rw [if_neg (inGroup_iff.mp h)]
  dsimp only
  generalize skipBlocks _ = u
  refine ⟨u.mir, ?_⟩
  have ht := (notifyManager_traffic { u with
    jobs := u.jobs.map (fun (j : Job) => { j with heldSince := none, blockSince := none }), mir := leftMirror u.mir } 14).1
  unfold OnlyTraffic at ht
  exact congrArg State.mir ht

theorem leaveGroup_out {s : State} (h : inGroup s = true) (reason : Nat) : (leaveGroup s reason).mir.st = .none ∧
    (leaveGroup s reason).mir.peers = [] ∧ (leaveGroup s reason).mir.grant = none := by
  obtain ⟨m, hm⟩ := leaveGroup_mir h reason
  rw [hm]
  exact ⟨rfl, rfl, rfl⟩

theorem exec_mirrorLeave {s : State} {i : Nat} {q : Req} (h : Starts s 0x0701 i q) (ha : argsFrom q 0 = false) :
    exec .mirrorLeave s = .next (if inGroup s then finishReq (leaveGroup s 0) i { code := rOk }
      else finishReq s i { code := rWrongState }) := by
  change execMirrorLeave s = _
  rw [execMirrorLeave, runMailbox_of_starts h, ha, if_neg Bool.false_ne_true]
  cases inGroup s <;> rfl

/-! ## MIRROR_TAKE (R561) -/

/-- The messages that fit a buffer are the oldest ones, whole, and take no more bytes than it has. -/
theorem fitting_spec (l : List Bytes) : ∀ n, fitting n l ++ l.drop (fitting n l).length = l ∧ (fitting n l).flatten.length ≤ n := by
  induction l with
  | nil => exact fun n => ⟨rfl, Nat.zero_le n⟩
  | cons m r ih =>
    intro n
    rw [fitting]
    split
    · next h =>
      obtain ⟨h0, h1⟩ := ih (n - m.length)
      refine ⟨?_, ?_⟩
      · rw [List.length_cons, List.drop_succ_cons, List.cons_append, h0]
      · rw [List.flatten_cons, List.length_append]
        omega
    · exact ⟨rfl, Nat.zero_le n⟩

/-- The state after a MIRROR_TAKE: what was written is taken out of the queue. -/
def mirrorTaken (s : State) (a : Nat) (ms : List Bytes) : State :=
  { emit s (writeNote s 0 a ms.flatten) with mir := { s.mir with outbound := s.mir.outbound.drop ms.length } }

theorem exec_mirrorTake {s : State} {io : MbxIo} {i : Nat} {q : Req} (h : Starts s 0x0702 i q) (ha : argsFrom q 1 = false)
    (ho : outputFault s q.param (argOf q 0) = none) (hw : io.write = .ok) : exec (.mirrorTake io) s =
      .next (finishReq (mirrorTaken s q.param (fitting (argOf q 0) s.mir.outbound)) i { code := rOk, data :=
        [BitVec.ofNat 32 (fitting (argOf q 0) s.mir.outbound).length,
         BitVec.ofNat 32 (fitting (argOf q 0) s.mir.outbound).flatten.length] }) := by
  change execMirrorTake io s = _
  rw [execMirrorTake, runMailbox_of_starts h, mirrorTake, ha, if_neg Bool.false_ne_true, ho, hw]
  rfl

/-! ## MIRROR_JOURNAL (R567) -/

theorem exec_mirrorJournal {s : State} {io : MbxIo} {i : Nat} {q : Req} (h : Starts s 0x0704 i q) :
    exec (.mirrorJournal io) s = match mirrorJournal io q s with
      | (some a, t) => .next (finishReq t i a)
      | (none, t) => .next t := by
  have hc : ¬ q.cmd ≠ 0x0704 := not_not_intro h.command
  change execMirrorJournal io s = _
  simp only [execMirrorJournal, h.next]
  rw [if_neg hc, h.allowed, if_neg Bool.false_ne_true] <;> rfl

theorem mirrorJournal_refused {s : State} {io : MbxIo} {q : Req} (ha : argsFrom q 2 = false) (hl : argOf q 0 ≤ 262144)
    (hs : s.mir.st ≠ .leader) : mirrorJournal io q s = (some { code := rWrongState }, s) := by
  have hc : ¬ (argsFrom q 2 = true ∨ 262144 < argOf q 0) := by
    rw [ha]
    exact fun h => h.elim (fun h => (nomatch h)) (Nat.not_lt.mpr hl)
  rw [mirrorJournal, if_neg hc, if_pos hs]

/-- A leader sends the KUM with the carried state to a joined member. -/
theorem mirrorJournal_sent {s u t : State} {io : MbxIo} {q : Req} {b st : Bytes} {k : Kum} (ha : argsFrom q 2 = false)
    (hl : argOf q 0 ≤ 262144) (hs : s.mir.st = .leader) (hr : readInput s q.param (argOf q 0) io.read = (.data b, u))
    (hk : parseKum b = some k) (hj : (joinedPeers s).contains (argOf q 1) = true) (hc : k.counter ≤ keyAdmin s)
    (hd : carriedState u k = (some st, t)) :
    mirrorJournal io q s = (some { code := rOk }, sendJournal t (argOf q 1) b st) := by
  have hg : ¬ (argsFrom q 2 = true ∨ 262144 < argOf q 0) := by
    rw [ha]
    exact fun h => h.elim (fun h => (nomatch h)) (Nat.not_lt.mpr hl)
  have hu : joinedPeers u = joinedPeers s ∧ keyAdmin u = keyAdmin s := by rw [readInput_data hr]; exact ⟨rfl, rfl⟩
  have hn : ¬ ((!(joinedPeers u).contains (argOf q 1)) = true ∨ keyAdmin u < k.counter) := by
    rw [hu.1, hu.2, hj]
    exact fun h => h.elim (fun h => (nomatch h)) (Nat.not_lt.mpr hc)
  rw [mirrorJournal, if_neg hg, if_neg (not_not_intro hs), hr]
  dsimp only
  rw [hk]
  dsimp only
  rw [if_neg hn, hd]

end Sys2Proof.Machine
end

section
/-! CERTIFICATES. The mirror commands of the mailbox (R555, R556, R561, R567, R571). -/
namespace Sys2Proof.Machine

/-- Settles O58: each command by its checks in turn; what fits a buffer is a prefix of the queue. -/
theorem mirrorCommands : Obligations.MirrorCommands := by
  refine ⟨fun s u io i q b c own h ha hr hc ho hl hg hn hi => ?_, fun s i q h ha => ⟨fun hg => ?_, fun hg => ⟨?_, leaveGroup_out hg 0⟩⟩,
    fun s io i q h ha ho hw => ?_, fun s io i q h ha hl => ⟨fun hs => ?_, fun b k u st t hs hr hk hj hc hd => ?_⟩,
    fun s io i q h ha hf hw => ?_⟩
  · exact ⟨_, exec_mirrorJoin h ha hr hc ho hl hg hn hi, fun hs => if_pos hs, fun hs => if_neg (ne_true_of_eq_false hs)⟩
  · exact (exec_mirrorLeave h ha).trans (congrArg Host.Outcome.next (if_neg (ne_true_of_eq_false hg)))
  · exact (exec_mirrorLeave h ha).trans (congrArg Host.Outcome.next (if_pos hg))
  · obtain ⟨h0, h1⟩ := fitting_spec s.mir.outbound (argOf q 0)
    exact ⟨_, exec_mirrorTake h ha ho hw, rfl, rfl, h0.symm, h1⟩
  · rw [exec_mirrorJournal h, mirrorJournal_refused ha hl hs]
  · rw [exec_mirrorJournal h, mirrorJournal_sent ha hl hs hr hk hj hc hd]
  · change execMirrorStatus io s = _
    rw [execMirrorStatus, runMailbox_of_starts h, reportBlock_written ha hf hw]
    rfl

end Sys2Proof.Machine
end

section
/-! SUPPORT. Rules for key update messages: what a log record and a DONE record leave, what each OP's effect writes, and what the run of a
checked KUM takes (R400 to R410). -/
namespace Sys2Proof.Machine

/-! ## Log and DONE records (R402, R435) -/

/-- What queueing and logging keep: the keys, the root, the fuse of enrolment, the acknowledged entries and every queued record. -/
structure Recorded (s t : State) : Prop where
  keys : t.keys = s.keys
  root : RootKept s t
  acked : t.per.emgAcked = s.per.emgAcked
  enrolled : t.per.otpEnrolled = s.per.otpEnrolled
  queued : ∀ x ∈ s.per.queue, x ∈ t.per.queue

theorem Recorded.refl (s : State) : Recorded s s := ⟨rfl, .of_per rfl, rfl, rfl, fun _ h => h⟩

theorem Recorded.trans {a b c : State} (h : Recorded a b) (k : Recorded b c) : Recorded a c :=
  ⟨k.keys.trans h.keys, h.root.trans k.root, k.acked.trans h.acked, k.enrolled.trans h.enrolled, fun x hx => k.queued x (h.queued x hx)⟩

theorem OnlyTraffic.recorded {s t : State} (h : OnlyTraffic s t) : Recorded s t := by
  obtain ⟨hp, -, hk⟩ := h.work.fields
  exact ⟨hk, .of_per hp, by rw [hp], by rw [hp], fun x hx => by rw [hp]; exact hx⟩

theorem enqueue_recorded (s : State) (p : LPayload) (e : Effect) : Recorded s (enqueue s p e) :=
  ⟨rfl, ⟨rfl, rfl, rfl⟩, rfl, rfl, fun _ h => List.mem_append_left _ h⟩

theorem mem_queue_enqueue (s : State) (p : LPayload) (e : Effect) : ({ payload := p }, e) ∈ (enqueue s p e).per.queue :=
  List.mem_append_right _ (List.mem_singleton.mpr rfl)

theorem Recorded.ite {s t u : State} {p : Prop} [Decidable p] (ht : Recorded s t) (hu : Recorded s u) :
    Recorded s (if p then t else u) := by
  split
  · exact ht
  · exact hu

theorem countOver_recorded (s : State) : Recorded s (countOver s) :=
  .ite (Recorded.trans (b := { s with per := { s.per with overwritten := 0 } }) ⟨rfl, ⟨rfl, rfl, rfl⟩, rfl, rfl, fun _ h => h⟩
      (enqueue_recorded _ _ _))
    ⟨rfl, ⟨rfl, rfl, rfl⟩, rfl, rfl, fun _ h => h⟩

/-- Raising vector 9 for a full log keeps the same. -/
theorem raiseLogFull_recorded (s : State) : Recorded s (notifyManager { s with per := { s.per with logFull := true } } 9) :=
  Recorded.trans (b := { s with per := { s.per with logFull := true } }) ⟨rfl, ⟨rfl, rfl, rfl⟩, rfl, rfl, fun _ h => h⟩
    (notifyManager_traffic _ 9).1.recorded

theorem placeAudit_recorded (s : State) (r : AuditRec) : Recorded s (placeAudit s r) :=
  Recorded.trans (b := auditPlaced s r) ⟨rfl, ⟨rfl, rfl, rfl⟩, rfl, rfl, fun _ h => h⟩ <|
    Recorded.trans (.ite (countOver_recorded _) (.refl _)) <|
      Recorded.trans (.ite (enqueue_recorded _ _ _) (.refl _)) (.ite (raiseLogFull_recorded _) (.refl _))

theorem emergencyWrite_recorded (s : State) (r : AuditRec) : Recorded s (emergencyWrite s r) :=
  Recorded.trans (b := { s with per := { s.per with
      emgEntries := s.per.emgEntries + 1, emergency := (r :: s.per.emergency).take 15, otpDegraded := true } })
    ⟨rfl, ⟨rfl, rfl, rfl⟩, rfl, rfl, fun _ h => h⟩ (notifyManager_traffic _ 9).1.recorded

theorem appendLog_recorded (s : State) (code sl : Nat) (data : Bytes) : Recorded s (appendLog s code sl data) := by
  have hn : Recorded s { s with per := { s.per with nextLseq := (nextAudit s code sl data).lseq + 1 } } :=
    ⟨rfl, ⟨rfl, rfl, rfl⟩, rfl, rfl, fun _ h => h⟩
  have he := hn.trans (emergencyWrite_recorded _ (nextAudit s code sl data))
  exact .ite (.ite he (he.trans (placeAudit_recorded _ _))) (placeAudit_recorded _ _)

theorem writeLog_recorded (s : State) (code sl : Nat) (data : Bytes) : Recorded s (writeLog s code sl data) :=
  .ite ⟨rfl, ⟨rfl, rfl, rfl⟩, rfl, rfl, fun _ h => h⟩ <|
    .ite ⟨rfl, ⟨rfl, rfl, rfl⟩, rfl, rfl, fun _ h => h⟩ <|
      Recorded.trans (b := rateCounted s code) ⟨rfl, ⟨rfl, rfl, rfl⟩, rfl, rfl, fun _ h => h⟩ (appendLog_recorded _ _ _ _)

/-- The record that says a KUM is done. -/
def kumDoneRec (j : Job) (k : Kum) : LPayload := .doneRec (j.opid.getD 0) 0 (some (0, k.counter)) (kumMove k)

theorem kumDone_recorded (s : State) (j : Job) (k : Kum) (top : Nat) : Recorded s (kumDone s j k top) :=
  have hs : ∀ (u : State) (x : Job), Recorded u (setJob u x) := fun _ _ => ⟨rfl, .of_per rfl, rfl, rfl, fun _ h => h⟩
  (writeLog_recorded s 0x0002 0xFFFF _).trans ((hs _ _).trans (enqueue_recorded _ _ _))

theorem mem_queue_kumDone (s : State) (j : Job) (k : Kum) (top : Nat) :
    ({ payload := kumDoneRec j k }, .endJob j.id) ∈ (kumDone s j k top).per.queue := mem_queue_enqueue _ _ _

/-! ## What an OP writes (R394, R400, R404, R408 to R410) -/

/-- A roster area holds an image as pending. -/
def HoldsPending (s : State) (img : Bytes) : Prop :=
  ∃ r, (r = s.keys.rosterA ∨ r = s.keys.rosterB) ∧ r.st = .pendingSt ∧ r.image = img

theorem HoldsPending.of_keys {s t : State} {img : Bytes} (h : HoldsPending s img) (ha : t.keys.rosterA = s.keys.rosterA)
    (hb : t.keys.rosterB = s.keys.rosterB) : HoldsPending t img := by
  obtain ⟨r, hr, hs⟩ := h
  exact ⟨r, by rw [ha, hb]; exact hr, hs⟩

theorem Recorded.holdsPending {s t : State} {img : Bytes} (h : Recorded s t) (hp : HoldsPending s img) : HoldsPending t img :=
  hp.of_keys (by rw [h.keys]) (by rw [h.keys])

theorem putPending_holds (s : State) {r : Roster} (h : r.st = .pendingSt) : HoldsPending (putPending s r) r.image := by
  unfold putPending
  split
  · exact ⟨r, .inr rfl, h, rfl⟩
  · exact ⟨r, .inl rfl, h, rfl⟩

/-- The area that a new image makes (R394, R395). -/
def pendingRoster (s : State) (img : Bytes) : Roster :=
  { st := .pendingSt, image := img, floors := carriedFloors s img, ownerDid := s.keys.did }

theorem installRoster_holds (s : State) (k : Kum) : HoldsPending (installRoster s k) k.roster := by
  have hp := putPending_holds (raiseActive s k) (r := tagged (pendingRoster (raiseActive s k) k.roster)) rfl
  unfold installRoster
  dsimp only
  split
  · exact hp.of_keys rfl rfl
  · exact hp.of_keys rfl rfl

theorem applyEnrol_spec (s : State) (j : Job) (k : Kum) :
    (applyEnrol s j k).per.otpEnrolled = true ∧ HoldsPending (applyEnrol s j k) k.roster := by
  have hp := putPending_holds s (r := raiseFloors k (pendingRoster s k.roster)) rfl
  exact ⟨(kumDone_recorded _ _ _ _).enrolled.trans rfl, (kumDone_recorded _ _ _ _).holdsPending (hp.of_keys rfl rfl)⟩

theorem keyRecordOf_handle (s : State) (j : Job) (k : Kum) (a : Nat) : (keyRecordOf s j k a).1.handle = k.record := rfl

/-- A record outside the store, of a key without trees, is put in MRAM. -/
theorem applyKey_record (s : State) (j : Job) (k : Kum) (a : Nat) (hs : isStoreHandle k.record = false)
    (ht : hasTrees (keyRecordOf (raiseActive s k) j k a).1.alg (keyRecordOf (raiseActive s k) j k a).1.use = false) :
    look? (applyKey s j k a).keys.records k.record = some (keyRecordOf (raiseActive s k) j k a).1 := by
  have hn : ¬ (isStoreHandle k.record = true ∨
      hasTrees (keyRecordOf (raiseActive s k) j k a).1.alg (keyRecordOf (raiseActive s k) j k a).1.use = true) := by
    rw [hs, ht]
    exact fun h => h.elim Bool.false_ne_true Bool.false_ne_true
  unfold applyKey
  dsimp only
  rw [if_neg hn, (kumDone_recorded _ _ _ _).keys]
  refine (look?_put _ _ _ _).trans (if_pos ?_)
  exact (keyRecordOf_handle _ _ _ _).symm

theorem look?_del {α : Type} (t : Tbl α) (k : Nat) : look? (del t k) k = none := by
  induction t with
  | nil => rfl
  | cons e r ih =>
    unfold del at ih ⊢
    rw [List.filter_cons]
    split
    · next h => exact (if_neg (fun h' => absurd h (by simp [h']))).trans ih
    · exact ih

theorem forgetIndex_work (s : State) (h : Nat) : OnlyWork s (forgetIndex s h) :=
  (foldl_work (f := freeBuildLane) (fun _ _ => rfl) _ s).trans rfl

theorem eraseMram_record (s : State) (h : Nat) : look? (eraseMram s h).2.keys.records h = none := by
  have hf : ∀ (u : State) (b : Bool), look? u.keys.records h = none →
      look? (if b then writeLog (forgetIndex u h) 0x0012 0xFFFF (leBytes 4 h) else forgetIndex u h).keys.records h = none := by
    intro u b hu
    obtain ⟨-, -, hk⟩ := (forgetIndex_work u h).fields
    cases b with
    | false => exact hk ▸ hu
    | true =>
      rw [if_pos rfl, (writeLog_recorded _ _ _ _).keys, hk]
      exact hu
  exact hf _ _ (look?_del _ _)

/-- A DESTROY of an MRAM record without a tree image removes it. -/
theorem applyDestroy_record (s : State) (j : Job) (k : Kum) (hm : isMramHandle k.record = true)
    (hi : hasImage (wipeCopy (raiseActive s k) k.record j.id) k.record = false) :
    look? (applyDestroy s j k).keys.records k.record = none := by
  unfold applyDestroy
  dsimp only
  rw [if_pos hm, hi, if_neg Bool.false_ne_true]
  unfold eraseRecord
  dsimp only
  rw [(kumDone_recorded _ _ _ _).keys]
  exact eraseMram_record _ _

/-- A RECOVER writes the root that its payload rebuilds. -/
theorem applyRecover_root {s : State} {k : Kum} {root : Bytes}
    (h : (kumPayload (raiseActive s k) k).bind (recoveredRoot (raiseActive s k)) = some root) (j : Job) :
    rootOf (applyRecover s j k) = some root := by
  unfold applyRecover
  dsimp only
  rw [h]
  refine (kumDone_recorded _ _ _ _).root.rootOf.trans ?_
  exact rootOf_writeRoot (raiseActive s k) root

/-! ## A finished KUM (R401, R406) -/

theorem rosterChanged_keys (s : State) (op : Nat) : (rosterChanged s op).keys = s.keys := by
  unfold rosterChanged
  split
  · exact (leaveGroup_work s 1).fields.2.2
  · rfl

/-- The keys with no KUM in progress. -/
theorem kumFinished_keys (s : State) (j : Job) : (kumFinished s j).keys =
    if kumOp (kumBytes j) = 0x02 ∧ s.keys.lifecycle = .enrolled then { s.keys with kumJob := none, lifecycle := .service }
    else { s.keys with kumJob := none } := by
  unfold kumFinished
  dsimp only
  rw [rosterChanged_keys]
  split
  · rfl
  · exact rosterChanged_keys _ _

/-! ## The run of a KUM (R255, R401) -/

theorem jobOf_updJob_same {s : State} {id : Nat} {j : Job} {f : Job → Job} (h : jobOf s id = some j) (hf : (f j).id = id) :
    jobOf (updJob s id f) id = some (f j) := by
  unfold jobOf updJob at *
  generalize s.jobs = l at h
  induction l with
  | nil => cases h
  | cons a r ih =>
    by_cases ha : a.id = id
    · have hj : a = j := by simpa [ha] using h
      subst hj
      simp [ha, hf]
    · simp only [List.map_cons, List.find?_cons, ha, if_false, beq_eq_false_iff_ne.mpr ha] at h ⊢
      exact ih h

/-- Taking a KUM's work writes its submission and leaves the keys. -/
theorem takeKum_spec {s : State} {j j0 : Job} (h : jobOf s j.id = some j0) (w : Work) (cls : List Nat) :
    (takeKum s j w cls).keys = s.keys ∧ ∃ v, jobOf (takeKum s j w cls) j.id = some v ∧ v.phase = .computed ∧ v.ending = w.ending ∧
      v.after = (if isDone w.ending.status then w.after else .nothing) ∧ v.t1.classes = cls := by
  unfold takeKum takeWork
  dsimp only
  obtain ⟨x, hx⟩ := chargeRest_sched s j (stepEff j) (opClasses s j (stepEff j) none)
  rw [hx]
  refine ⟨rfl, _, jobOf_updJob_same (jobOf_setJob_same (s := { s with sched := x }) (j := j0) _ h ?_) ?_, ?_⟩
  · rfl
  · rfl
  · exact ⟨rfl, rfl, rfl, rfl⟩

theorem drawMany_ent (s : State) (k : Nat) : ∃ e, (drawMany s k).2 = { s with ent := e } := by
  obtain ⟨e, he⟩ := reseedIfDue_ent s
  unfold drawMany
  dsimp only
  rw [he]
  exact ⟨_, rfl⟩

/-- The state in which a KUM that passed its checks waits for its application. -/
def kumTaken (s : State) (j : Job) (cls : List Nat) : State :=
  { takeKum s j { after := .kum } cls with
    keys := { (takeKum s j { after := .kum } cls).keys with kumJob := some j.id, before := viewNow s } }

/-- A KUM that passes is taken, ENROL and GENERATE with the values that they draw. -/
theorem startKum_pass {s u : State} {j : Job} {cls : List Nat} (hc : kumCheck s j = (.pass, cls, u))
    (hr : kumOp (kumBytes j) = 0x01 ∨ kumOp (kumBytes j) = 0x11 → internalReady u = true) :
    ∃ e n, startKum s j = kumTaken { u with ent := e } { j with draw := n } cls := by
  unfold startKum
  rw [hc]
  dsimp only
  by_cases ho : kumOp (kumBytes j) = 0x01 ∨ kumOp (kumBytes j) = 0x11
  · obtain ⟨-, hd⟩ := entropy_of_ready (hr ho)
    obtain ⟨e, he⟩ := drawMany_ent u (if kumOp (kumBytes j) = 0x01 then 33 else 1)
    rw [if_pos ho, hd, if_neg Bool.false_ne_true, if_pos (hr ho), he]
    exact ⟨e, _, rfl⟩
  · rw [if_neg ho]
    exact ⟨u.ent, j.draw, rfl⟩

theorem giveUpRepeat_none {j : Job} (h : j.repeats = none) (s : State) : giveUpRepeat s j = s := by
  rw [giveUpRepeat, h]

/-- A KUM of whose checks one fails is taken with that failure. -/
theorem startKum_fail {s u : State} {j : Job} {cls : List Nat} {x : Ending} (hc : kumCheck s j = (.fail x, cls, u))
    (hw : x.status ≠ stWindow) (hr : j.repeats = none) : startKum s j = takeKum u { j with opid := none } { ending := x } cls := by
  rw [startKum, hc]
  dsimp only
  rw [if_neg hw, giveUpRepeat_none hr]

/-- Every KUM command runs its OP. -/
theorem kumRows_run : ∀ e ∈ kumRows, ∀ (s : State) (id : Nat), exec (e.2 id) s = runKum e.1 id s := by
  simp only [kumRows, List.forall_mem_cons]
  exact ⟨fun _ _ => rfl, fun _ _ => rfl, fun _ _ => rfl, fun _ _ => rfl, fun _ _ => rfl, fun _ _ => rfl, fun _ _ => rfl,
    fun _ _ => rfl, fun _ _ => rfl, fun _ _ => rfl, List.forall_mem_nil _⟩

/-- A KUM that stands at its step for the first time starts. -/
theorem runKum_stands {s : State} {op id : Nat} {j : Job} (hj : jobOf s id = some j) (hc : canRun s 0x0808 j = true)
    (ho : kumOp (kumBytes j) = op) (hf : kumFirst s j = true) (hk : kindGone s .saffron = false) :
    runKum op id s = .next (startKum s j) := by
  have hm : kumMine op j = true := by rw [kumMine, ho, beq_self_eq_true, Bool.true_or]
  rw [runKum, hj]
  dsimp only
  rw [if_pos ⟨hc, hm, hf⟩, hk, if_neg Bool.false_ne_true]

end Sys2Proof.Machine
end

section
/-! CERTIFICATES. O16: key update messages. -/
namespace Sys2Proof.Machine

/-- Settles O16: a KUM that passes its checks is taken for its application, one that fails with its failure, and each OP has its effect. -/
theorem kums : Obligations.Kums := by
  refine ⟨fun e he s u id j cls hj hc ho hf hk hu => ?_, fun s j k a hp => ?_⟩
  · have hx : exec (e.2 id) s = .next (startKum s j) := (kumRows_run e he s id).trans (runKum_stands hj hc ho hf hk)
    obtain rfl := jobOf_id hj
    refine ⟨fun hpass hr => ?_, fun x hfail hw hrep hd => ?_⟩
    · rw [← ho] at hr
      obtain ⟨ent, n, hs⟩ := startKum_pass hpass hr
      obtain ⟨-, v, hv, hph, hen, haf, hcl⟩ :=
        takeKum_spec (s := { u with ent := ent }) (j := { j with draw := n }) hu { after := .kum } cls
      refine ⟨_, v, hx.trans (congrArg _ hs), hv, hph, haf, ?_, hcl, rfl, rfl⟩
      rw [hen]
      rfl
    · obtain ⟨hky, v, hv, hph, hen, haf, hcl⟩ := takeKum_spec (j := { j with opid := none }) hu { ending := x } cls
      refine ⟨_, v, hx.trans (congrArg _ (startKum_fail hfail hw hrep)), hv, hph, hen, haf.trans ?_, hcl, hky⟩
      exact ite_self _
  · rw [applyKum, hp]
    dsimp only
    refine ⟨fun h => ?_, fun h => ?_, fun h => ?_, fun h => ?_, fun h hs ht => ?_, fun h hm hi => ?_, fun h => ?_, fun h root hr => ?_,
      fun h hl => ?_, fun h => ?_, ?_⟩
    · rw [h]
      exact (kumDone_recorded _ _ _ _).acked
    · rw [h]
      exact ⟨_, _, (kumDone_recorded _ _ _ _).queued _ (mem_queue_enqueue _ _ _), rfl⟩
    · rw [h]
      exact applyEnrol_spec s j k
    · rw [h]
      exact (kumDone_recorded _ _ _ _).holdsPending (installRoster_holds s k)
    · have hk := applyKey_record s j k a hs ht
      rcases h with h | h | h
      all_goals
        rw [h]
        exact hk
    · rw [h]
      exact applyDestroy_record s j k hm hi
    · have hq := mem_queue_kumDone (raiseActive s k) j k 0
      rw [kumDoneRec, kumMove, h] at hq
      rw [h]
      exact ⟨_, _, hq, rfl⟩
    · rw [h]
      exact applyRecover_root hr j
    · rw [kumFinished_keys, if_pos ⟨h, hl⟩]
    · rw [kumFinished_keys, if_neg (fun k => h k.1)]
    · rw [kumFinished_keys]
      split <;> rfl

end Sys2Proof.Machine
end
